-- ==== Sys2Proof/Word.lean ====
section
/-! DEFINITION. The word types of the LUS-8840 and the table type that sparse state is held in. -/
namespace Sys2Proof

/-- A byte, the smallest addressable unit (R1). -/
abbrev Byte := BitVec 8

/-- A 32-bit word: a conduct word, a token payload (R83, R102). -/
abbrev Word := BitVec 32

/-- A 64-bit word: a general register, a clock, a wid (R134, R66). -/
abbrev DWord := BitVec 64

/-- A number of a general register g0 to g31 (R83). -/
abbrev Reg := Fin 32

/-- The sticky flags of R31: [5] SAT, [4] NV, [3] DZ, [2] OF, [1] UF, [0] NX. -/
abbrev Flags := BitVec 6

/-- Sparse data by number: a list of key and value pairs in strictly rising key order.
What an unlisted key stands for is said where a table is used. -/
abbrev Tbl (α : Type) := List (Nat × α)

end Sys2Proof
end

