-- ==== Sys2Proof/Config.lean ====
section
/-! DEFINITION. What an implementation fixes, and the free values: constants with no body, of which nothing can be proved. -/
namespace Sys2Proof.Config

/-- The lease length of R288. -/
def lease : Nat := 32

/-- Which of the enabled agents moves next when the agenda holds no choice: the orders that the manual leaves
open (R121, R125, R170, R300). A free value of a counter in State (assumption 2). -/
opaque pick : Nat → Nat

/-- The 10-bit check code of a physical-address pair (R215): a function of PA[51:6], WR, CW, the ASID and a key
drawn at start-up that no program can read. A free value (assumption 5). -/
opaque chk (pa : BitVec 46) (wr cw : Bool) (asid : BitVec 16) (start : Nat) : BitVec 10

/-- The device's signature over a message under its identity key (R455, R456). A free value (assumption 6). -/
opaque signature (message : List Byte) : List Byte

/-- The key that the device's signature checks use: modulus and public exponent (R449, R455). A free value (assumption 6). -/
opaque imageKey : Nat × Nat

/-- What a signed image holds of what was signed, and its signature: the manual gives no format of it (R449, R455). Free values
(assumption 6). -/
opaque signedPart (image : List Byte) : List Byte
opaque signaturePart (image : List Byte) : List Byte

/-- The bytes of the certificate chain of slot 0 (R456). A free value (assumption 6). -/
opaque certificateChain : List Byte

/-- The answer bodies of the SPDM requests whose contents the manual leaves to SPDM 1.2 (R456; assumption 6). -/
opaque spdmBody (request : Nat) (arg : List Byte) : List Byte

/-- The firmware and training contents that a start reads (R449; assumption 6). -/
opaque firmwareImage (which : Nat) (start : Nat) : List Byte

/-- The ranges that root firmware protects: its own memory, the ASID context table, the gauge record table and the channel table,
as base and length (R317). The manual gives no addresses (assumption 6). -/
opaque protectedRanges : List (Nat × Nat)

/-- Whether a stage of a start fails (R451; assumption 6). -/
opaque stageFails (stage start : Nat) : Bool

/-- The routing tables that root firmware writes at a start: the other packages of the domain, each with the conduit port of its route
(R394). The manual gives no tables (assumption 6). -/
opaque routes (start : Nat) : List (Nat × Nat)

/-- The package at the other end of a conduit port's link, if there is one (R393, R399; assumption 6). -/
opaque neighbour (port : Nat) : Option Nat

/-- The bytes of a save record beyond its header, which have no layout a program may rely on (R430; assumption 7). -/
opaque saveByte (counter offset : Nat) : Byte

/-- The 160 bits of an event of a trace kind, as a function of what the event tells: the manual says what stands there and gives no layout
(R458, R478, R481; assumption 16). -/
opaque eventData (kind : Nat) (tells : List Nat) : BitVec 160

/-- A byte of a state that a debugger reads, as a function of what stands in that state: it has the device's own layout (R430, R459;
assumption 7). -/
opaque stateByte (holds : List Nat) (offset : Nat) : Byte

/-- Telemetry words that management firmware writes (R447; assumption 7). -/
opaque telemetry (off cycle : Nat) : Byte

/-- A byte of memory that a cold power-on finds before stage 7 clears it (R449; assumption 3). -/
opaque freeByte (counter : Nat) : Byte

/-- Whether a fused multiply-add of an infinity, a zero and a quiet NaN raises NV: IEEE 754, which R3 and R4 follow,
leaves it to the implementation (assumption 8). -/
opaque fmaZeroInfNaN : Bool

/-- A 64-bit value that the manual leaves open: a different one for each draw of the counter in State (assumption 11). -/
opaque freeWord (counter : Nat) : BitVec 64

end Sys2Proof.Config
end

