-- ==== Sys2Proof/Machine/Flags.lean ====
section
/-! DEFINITION. The flags of R31 and how operations raise them. -/
namespace Sys2Proof.Machine

def flagNX : Flags := 0b000001
def flagUF : Flags := 0b000010
def flagOF : Flags := 0b000100
def flagDZ : Flags := 0b001000
def flagNV : Flags := 0b010000
def flagSAT : Flags := 0b100000

/-- A flag, raised or not. -/
def flagIf (b : Bool) (f : Flags) : Flags := if b then f else 0

end Sys2Proof.Machine
end

