-- ==== Sys2Proof/Syntax.lean ====
section
/-! DEFINITION. The abstract syntax: one constructor of Instr for every row of spec/opcode_table.json. Conduct
instructions and stream commands carry the fields of their encodings. The steps that have no encoding (messages that
arrive, timers that expire, cells that fire, requests of the host) carry the number of the unit that acts: `p` a region's
place number (R13), `d` a die, `c` a cell as 32 * row + column, `n` an edge port (R91), `m` the position of a message in
flight, `u` a launch, `r` a replay. -/
namespace Sys2Proof

/-- Rounding codes 0 to 4 (R39). -/
inductive Rnd | rne | rtz | rup | rdn | rna
  deriving DecidableEq, Repr

/-- Saturation codes 0 to 2 (R40). -/
inductive Sat | ieee | clamp | wrap
  deriving DecidableEq, Repr

/-- The number formats of R24. `bfp` takes its width from the burst code (R96). -/
inductive Fmt | f32 | bf16 | f16 | i8 | n8 | i16 | n16 | i32 | n32 | i64 | n64 | bfp
  deriving DecidableEq, Repr

/-- Scope codes (R68); `lvl k` is lvl(k+1). -/
inductive Scope | node | lvl (k : Fin 6) | domain
  deriving DecidableEq, Repr

/-- Pool operators (R72). -/
inductive PoolOp | fadd | faddc | fmax | fmin | iadd | iadds | imax | imin | nmax | nmin | or | and | xor
  deriving DecidableEq, Repr

/-- Pool types (R72). -/
inductive PoolType | f32 | i32 | n32 | i64
  deriving DecidableEq, Repr

/-- The control words of R137; `wf k` is wf(k+1), `chmap k` is chmap(k+4). -/
inductive Ctl | cc | ic | icend | wid | shape | slot | place | asid | wf (k : Fin 6) | fpflags | hen | pend | susp
  | resume | timer | tide | lclk | ffcnt | fault (k : Fin 4) | fpop | hstat (h : Fin 16) | chmap (k : Fin 28)
  deriving DecidableEq, Repr

/-- The engine classes of `cop`, `msg` and `card` (R175). -/
inductive EngClass | copy | weir | cascade | sluice
  deriving DecidableEq, Repr

/-- An edge port: 0 to 15 are w0 to w15, 16 to 31 are e0 to e15 (R91). -/
abbrev EdgePort := Fin 32

/-- The directions of links and outputs (R95, R98). -/
inductive Dir | n | e | s | w
  deriving DecidableEq, Repr

/-- The index source of bindg (R266). -/
inductive IdxSrc | mem | fab | pa
  deriving DecidableEq, Repr

/-- The handle gate of a binding (R259). -/
inductive Gate | none | whole | hold | slot
  deriving DecidableEq, Repr

/-- The fields that the bindings of R259 share. -/
structure BindArgs where
  h     : Fin 16
  port  : EdgePort
  slots : BitVec 14
  fv    : Bool
  foot  : BitVec 8
  gate  : Gate
  ends  : Bool
  desc  : BitVec 16
  base  : BitVec 64
  deriving DecidableEq, Repr

/-- The drains of a matrix operation (R237). -/
inductive Drain | none | fabric | stash | pool
  deriving DecidableEq, Repr

/-- The fields of mrow and mcol (R242). `port` is PORT - 32. -/
structure MatArgs where
  h     : Fin 16
  port  : Fin 16
  slots : BitVec 14
  asrc  : Bool
  zero  : Bool
  dr    : Drain
  waw   : Fin 7
  la    : Fin 3
  zh    : Fin 16
  npm   : Fin 32
  zbase : BitVec 8
  pool  : Fin 64
  lane  : Fin 16
  deriving DecidableEq, Repr

/-! ### The words that configure the fabric, the weir and the cascade (R93 to R102) -/

/-- A token (R102). `cause` is the cause that a fault token carries (R181, R214); zero for every other kind. -/
structure Token where
  kind    : BitVec 4
  payload : Word
  cause   : BitVec 8
  deriving DecidableEq, Repr

/-- The operations of R97. -/
inductive CellOp
  | add | sub | mul | fma | min | max | abs | neg | and | or | xor | shl | shr | sra | cmp | sel | mov | scale | popc | clz
  | cvt | qnt | dqn | acc | runacc | cnt | xfn | rcpe | join | mld | mst | mamo | xlat | msgout | poolc | stat | nfin
  | rmwFadd | rmwIadd | rmwFmax | clipb | gauge | pack | unpack
  deriving DecidableEq, Repr

/-- Where a word may be placed (R97). -/
inductive Placement | cell | port | weir
  deriving DecidableEq, Repr

/-- Widths (R93). -/
inductive Width | w32 | w16 | w8
  deriving DecidableEq, Repr

/-- An input select (R95), and a weir node's (R296): `stream` is select 1 there, `node k` selects 8 to 15. -/
inductive InSel | none | link (d : Dir) | self | const | stream | node (k : Fin 8)
  deriving DecidableEq, Repr

/-- A cell word (R93) as its checks admit it. `fmt` is FMT, `sub` the sub-code; `bfp`, `bw`, `bl` are the burst code. -/
structure CellWord where
  op    : CellOp
  width : Width
  fmt   : Fmt
  sub   : Fin 16
  rnd   : Rnd
  sat   : Sat
  comm  : Bool
  ina   : InSel
  inb   : InSel
  inc   : InSel
  pred  : InSel
  bfp   : Bool
  bw    : Fin 8
  bl    : Fin 8
  index : BitVec 16
  const : BitVec 32
  count : BitVec 32
  deriving DecidableEq, Repr

/-- A source of a router output: a link or the cell's result (R98). -/
inductive RSrc | link (d : Dir) | result
  deriving DecidableEq, Repr

/-- Router operators (R98, R189), with their second and control sources. -/
inductive ROp
  | pass | steer (c : RSrc) | merge (alt c : RSrc) | carry (alt c : RSrc) | repeat (c : RSrc) | drop (c : RSrc)
  deriving DecidableEq, Repr

/-- An output that is on (R98). -/
structure RouterOut where
  src   : RSrc
  op    : ROp
  hop   : Fin 4
  sense : Bool
  deriving DecidableEq, Repr

/-- A router word: one field for each output, none for an output that is off. -/
structure RouterWord where
  outN : Option RouterOut
  outE : Option RouterOut
  outS : Option RouterOut
  outW : Option RouterOut
  deriving DecidableEq, Repr

/-- A window record (R324). -/
structure WindowRec where
  port  : EdgePort
  ent   : Fin 8
  spill : Bool
  rd    : Bool
  wr    : Bool
  base  : Nat
  len   : Nat
  deriving DecidableEq, Repr

/-- A rill node record (R343). -/
structure RillRec where
  node : Fin 8
  decl : Nat
  wait : Nat
  deriving DecidableEq, Repr

/-- A configuration record (R58). A cell without a word is a router-only cell. -/
inductive ConfRec
  | cell (row : Fin 16) (col : Fin 32) (word : Option CellWord) (router : RouterWord)
  | port (n : EdgePort) (word : CellWord) (router : RouterWord)
  | window (w : WindowRec)
  | rill (r : RillRec)
  deriving DecidableEq, Repr

/-- The operations of a chunk node word (R100). -/
inductive ChunkOp
  | send (peer : Nat) | recv (peer : Nat) | red (rop : Nat) | redc | copy | a2a | signal
  deriving DecidableEq, Repr

/-- A chunk node word (R100). Successor indices are none for 0xFFF. -/
structure ChunkNode where
  op    : ChunkOp
  cls   : Fin 4
  dep   : Nat
  succA : Option Nat
  succB : Option Nat
  src   : Fin 64
  dst   : Fin 64
  deriving DecidableEq, Repr

/-- Where an uncorrectable soft error lies (R423). -/
inductive ErrSite
  | home (line : Nat)
  | stash (p line : Nat)
  | link (p c : Nat) (o : Dir)
  | result (p c : Nat)
  | output (p c : Nat) (o : Dir)
  | cellWord (p c : Nat)
  | maLink (p k : Nat)
  | mzLatch (p k : Nat)
  | sequencer (p : Nat)
  | accRow (p row : Nat)
  | lane (i : Nat)
  | homeBasin (i : Nat)
  | record (id : Nat)
  | save (p off : Nat)
  deriving DecidableEq, Repr

namespace Machine

/-- What identifies a pool instance (R355). `reach` codes the binding, a group with its number; `home` is the place of the home region
(R356), for a group and the domain with 1,024 times its package. -/
structure PoolKey where
  job    : Nat
  asid   : Nat
  pool   : Nat
  scope  : Nat
  pfx    : Nat
  reach  : Nat
  home   : Nat
  deriving DecidableEq, Repr

/-- A declaration (R72, R356, R372). -/
structure PoolDecl where
  ty     : PoolType
  op     : PoolOp
  scope  : Scope
  settle : Bool
  cntv   : Bool
  count  : Nat
  init   : Option (BitVec 64)
  deriving DecidableEq, Repr

/-- A lane as it is taken for a gather of another package: its place in the order, its slot, and what it holds (R360, R363). -/
structure LaneTaken where
  order : Nat
  slot  : Nat
  n     : Nat
  cause : Nat
  p     : Bool
  v     : Bool
  value : BitVec 64
  deriving DecidableEq, Repr

/-- The atomics of R150 and R151. -/
inductive AtomOp | add | and | or | xor | min | max | minn | maxn | swap | fadd | cas (expect : DWord)
  deriving DecidableEq, Repr

/-- What an access does at its home in another package (R283): it reads or writes n bytes, performs an atomic, tests a word or a barrier and
waits there, arrives at a barrier, raises the fields of a synchronisation word, or is an element of a class W page, read or written
through its array. `strict`: an engine's write, which fails at a marked copy (R310). -/
inductive AwayOp
  | read (n : Nat)
  | write (n v : Nat) (strict : Bool)
  | atomic (op : AtomOp) (wide : Bool) (v : DWord)
  | waitv (gen : Nat)
  | arrive
  | await (phase : Nat)
  | sync (cnt tgt : Nat)
  | element (v : Option Word)
  deriving DecidableEq, Repr

end Machine

/-- What travels between packages, and to a remote host of a queue pair (R170, R283, R356, R378, R393, R396, R399, R409, R413, R416). A
node of another package is named by its TO entry, and an `a2a` by its index; `tag` names what waits at the sender for the answer. -/
inductive FlitBody
  | channelAsk (tag place asid die ch : Nat)
  | channelRoom (tag : Nat)
  | channelRefused (tag : Nat)
  | channelFree (die ch : Nat)
  | channel (asid die ch : Nat) (value clk : DWord)
  | ask (tag pa : Nat) (op : Machine.AwayOp) (clk : DWord)
  | answer (tag value : Nat) (clk : DWord) (flags : Flags) (bad : Option Nat)
  | line (tag line : Nat) (clk : DWord)
  | lineData (tag : Nat) (data : Vector Byte 64) (wts rts : DWord) (poison : Bool)
  | lineHome (tag : Nat)
  | contribution (key : Machine.PoolKey) (flags : Flags) (clk : DWord)
  | poolDecl (tag place : Nat) (key : Machine.PoolKey) (decl : Machine.PoolDecl) (passed : Option (BitVec 64))
  | poolDeclared (tag : Nat) (ok : Bool)
  | gather (tag : Nat) (key : Machine.PoolKey) (counted settle : Bool)
  | gathered (tag : Nat) (value : BitVec 64) (flags : Flags) (clk : DWord) (bad : Option (Nat × Nat))
  | laneAsk (key : Machine.PoolKey) (pos : Nat) (settle : Bool)
  | lanes (key : Machine.PoolKey) (found : List Machine.LaneTaken)
  | poolRelease (tag place : Nat) (key : Machine.PoolKey)
  | poolReleased (tag : Nat) (bad : Bool)
  | poolFreed (key : Machine.PoolKey) (value : Option (BitVec 64))
  | gatherOff (tag : Nat)
  | credit (gid replay to_ len cls : Nat)
  | bytes (gid replay to_ off : Nat) (data : List Byte) (last : Bool) (clk : DWord)
  | ack (gid replay to_ : Nat)
  | mismatch (gid replay to_ : Nat)
  | a2aCount (gid replay node bytes : Nat) (overflow : Bool)
  | a2aVerdict (gid replay node : Nat) (overflow : Bool)
  | a2aMessage (gid replay node idx : Nat) (data : List Byte)
  | time (tide : Nat)
  | rdmaWrite (qp off : Nat) (data : List Byte)
  | rdmaRead (qp off len : Nat)
  deriving DecidableEq, Repr

/-- A conduit flit at a port: its class, source and destination package, sequence number and whether its CRC holds after
correction (R393). -/
structure Flit where
  cls   : Fin 4
  src   : Nat
  dst   : Nat
  seq   : Nat
  crcOk : Bool
  body  : FlitBody
  deriving DecidableEq, Repr

/-- Every row of spec/opcode_table.json. -/
inductive Instr
  /-- ADD (R145): Writes ga plus gb, modulo 2^64, to rd. -/
  | add (rd ra rb : Reg)
  /-- SUB (R145): Writes ga minus gb, modulo 2^64, to rd. -/
  | sub (rd ra rb : Reg)
  /-- AND (R145): Writes the bitwise AND of ga and gb to rd. -/
  | and (rd ra rb : Reg)
  /-- OR (R145): Writes the bitwise OR of ga and gb to rd. -/
  | or (rd ra rb : Reg)
  /-- XOR (R145): Writes the bitwise XOR of ga and gb to rd. -/
  | xor (rd ra rb : Reg)
  /-- SHL (R145): Shifts ga left by gb[5:0] into rd. -/
  | shl (rd ra rb : Reg)
  /-- SHR (R145): Shifts ga logically right by gb[5:0] into rd. -/
  | shr (rd ra rb : Reg)
  /-- SRA (R145): Shifts ga arithmetically right by gb[5:0] into rd. -/
  | sra (rd ra rb : Reg)
  /-- MUL (R145): Writes the low 64 bits of ga times gb to rd. -/
  | mul (rd ra rb : Reg)
  /-- MULH (R145): Writes the high 64 bits of the signed 128-bit product to rd. -/
  | mulh (rd ra rb : Reg)
  /-- MULHN (R145): Writes the high 64 bits of the unsigned 128-bit product to rd. -/
  | mulhn (rd ra rb : Reg)
  /-- DIV (R145): Writes the signed quotient, truncated toward zero, to rd, with fixed results for b = 0 and overflow. -/
  | div (rd ra rb : Reg)
  /-- DIVN (R145): Writes the unsigned quotient to rd; b = 0 gives all ones. -/
  | divn (rd ra rb : Reg)
  /-- REM (R145): Writes the signed remainder, with the sign of a, to rd. -/
  | rem (rd ra rb : Reg)
  /-- REMN (R145): Writes the unsigned remainder to rd; b = 0 gives a. -/
  | remn (rd ra rb : Reg)
  /-- MIN (R145): Writes the signed minimum of ga and gb to rd. -/
  | min (rd ra rb : Reg)
  /-- MAX (R145): Writes the signed maximum of ga and gb to rd. -/
  | max (rd ra rb : Reg)
  /-- MINN (R145): Writes the unsigned minimum of ga and gb to rd. -/
  | minn (rd ra rb : Reg)
  /-- MAXN (R145): Writes the unsigned maximum of ga and gb to rd. -/
  | maxn (rd ra rb : Reg)
  /-- SLT (R145): Writes 1 to rd if ga is below gb as signed values, otherwise 0. -/
  | slt (rd ra rb : Reg)
  /-- SLTN (R145): Writes 1 to rd if ga is below gb as unsigned values, otherwise 0. -/
  | sltn (rd ra rb : Reg)
  /-- SEQ (R145): Writes 1 to rd if ga equals gb, otherwise 0. -/
  | seq (rd ra rb : Reg)
  /-- FADD (R157): Writes RN(a + b) of the low 32 bits of the sources to rd and sets flags. -/
  | fadd (rd ra rb : Reg)
  /-- FSUB (R157): Writes RN(a - b) to rd and sets flags. -/
  | fsub (rd ra rb : Reg)
  /-- FMUL (R157): Writes RN(a × b) to rd and sets flags. -/
  | fmul (rd ra rb : Reg)
  /-- FMA (R157): Writes RN(a × b + rd), rounded once, to rd. -/
  | fma (rd ra rb : Reg)
  /-- FMIN (R157): Writes the f32 minimum of a and b under R28 to rd. -/
  | fmin (rd ra rb : Reg)
  /-- FMAX (R157): Writes the f32 maximum of a and b under R28 to rd. -/
  | fmax (rd ra rb : Reg)
  /-- FCMP_EQ (R158): Writes 1 to rd if a equals b as f32 values, otherwise 0. -/
  | fcmpEq (rd ra rb : Reg)
  /-- FCMP_LT (R158): Writes 1 to rd if a is below b as f32 values; any NaN raises NV. -/
  | fcmpLt (rd ra rb : Reg)
  /-- FCMP_LE (R158): Writes 1 to rd if a is at most b as f32 values; any NaN raises NV. -/
  | fcmpLe (rd ra rb : Reg)
  /-- FCMP_UN (R158): Writes 1 to rd if a or b is a NaN. -/
  | fcmpUn (rd ra rb : Reg)
  /-- FCVT_F32_I32 (R159): Converts an i32 source to f32 under rounding code m. -/
  | fcvtF32I32 (rd ra : Reg) (m : Rnd)
  /-- FCVT_F32_N32 (R159): Converts an n32 source to f32 under rounding code m. -/
  | fcvtF32N32 (rd ra : Reg) (m : Rnd)
  /-- FCVT_F32_I64 (R159): Converts an i64 source to f32 under rounding code m. -/
  | fcvtF32I64 (rd ra : Reg) (m : Rnd)
  /-- FCVT_F32_N64 (R159): Converts an n64 source to f32 under rounding code m. -/
  | fcvtF32N64 (rd ra : Reg) (m : Rnd)
  /-- FCVT_I32_F32 (R159): Converts f32 to i32 with rounding m and saturation s, sign-extended into rd. -/
  | fcvtI32F32 (rd ra : Reg) (m : Rnd) (s : Sat)
  /-- FCVT_N32_F32 (R159): Converts f32 to n32 with rounding m and saturation s, zero-extended into rd. -/
  | fcvtN32F32 (rd ra : Reg) (m : Rnd) (s : Sat)
  /-- FCVT_I64_F32 (R159): Converts f32 to i64 with rounding m and saturation s. -/
  | fcvtI64F32 (rd ra : Reg) (m : Rnd) (s : Sat)
  /-- FCVT_N64_F32 (R159): Converts f32 to n64 with rounding m and saturation s. -/
  | fcvtN64F32 (rd ra : Reg) (m : Rnd) (s : Sat)
  /-- FCVT_F32_BF16 (R159): Widens a bf16 source exactly to f32. -/
  | fcvtF32Bf16 (rd ra : Reg)
  /-- FCVT_F32_F16 (R159): Widens an f16 source exactly to f32. -/
  | fcvtF32F16 (rd ra : Reg)
  /-- FCVT_BF16_F32 (R159): Narrows f32 to bf16 with rounding m and saturation s. -/
  | fcvtBf16F32 (rd ra : Reg) (m : Rnd) (s : Sat)
  /-- FCVT_F16_F32 (R159): Narrows f32 to f16 with rounding m and saturation s. -/
  | fcvtF16F32 (rd ra : Reg) (m : Rnd) (s : Sat)
  /-- AMO_ADD (R150): Sends an atomic add of gb to the word at ga at width w; the old value returns to rd. -/
  | amoAdd (rd ra rb : Reg) (w : Bool)
  /-- AMO_AND (R150): Sends an atomic AND to the word at ga; the old value returns to rd. -/
  | amoAnd (rd ra rb : Reg) (w : Bool)
  /-- AMO_OR (R150): Sends an atomic OR to the word at ga; the old value returns to rd. -/
  | amoOr (rd ra rb : Reg) (w : Bool)
  /-- AMO_XOR (R150): Sends an atomic XOR to the word at ga; the old value returns to rd. -/
  | amoXor (rd ra rb : Reg) (w : Bool)
  /-- AMO_MIN (R150): Sends an atomic signed minimum to the word at ga. -/
  | amoMin (rd ra rb : Reg) (w : Bool)
  /-- AMO_MAX (R150): Sends an atomic signed maximum to the word at ga. -/
  | amoMax (rd ra rb : Reg) (w : Bool)
  /-- AMO_MINN (R150): Sends an atomic unsigned minimum to the word at ga. -/
  | amoMinn (rd ra rb : Reg) (w : Bool)
  /-- AMO_MAXN (R150): Sends an atomic unsigned maximum to the word at ga. -/
  | amoMaxn (rd ra rb : Reg) (w : Bool)
  /-- AMO_SWAP (R150): Sends an atomic swap of gb into the word at ga. -/
  | amoSwap (rd ra rb : Reg) (w : Bool)
  /-- AMO_FADD (R150): Sends an atomic f32 add RN(old + v) to the 4-byte word at ga. -/
  | amoFadd (rd ra rb : Reg)
  /-- CAS (R151): Sends a compare-and-swap to the word at ga; the old value returns to rd. -/
  | cas (rd ra rb : Reg) (w : Bool)
  /-- WAITV (R153): Tests and arms a monitor at the home bank, waiting for the word's generation to reach gb. -/
  | waitv (rd ra rb : Reg)
  /-- HWAIT (R160): Checks handle hN, then waits until at least n slots are filled. -/
  | hwait (h : Fin 16) (rb : Reg)
  /-- HROOM (R160): Checks handle hN, then waits until at least n slots are free. -/
  | hroom (h : Fin 16) (rb : Reg)
  /-- HPOP (R160): Advances the consumer index of hN by n, or raises a handle fault. -/
  | hpop (h : Fin 16) (rb : Reg)
  /-- HPUSH (R160): Advances the producer index of hN by n; on LOC = 1 it first writes back and releases. -/
  | hpush (h : Fin 16) (rb : Reg)
  /-- HGET (R161): Writes a consistent snapshot of handle hN's state to rd. -/
  | hget (rd : Reg) (h : Fin 16)
  /-- IDRAIN (R163): Stalls until every earlier binding of this sequencer naming hN has completed. -/
  | idrain (h : Fin 16)
  /-- NEXT (R164): Ends the step's script and splices the successor, the same step again, or acts as done, under R65. -/
  | next
  /-- CLAIM (R165): Makes one claim on the elastic cursor and writes the count claimed to rd. -/
  | claim (rd : Reg)
  /-- DONE (R167): Ends the course in this region, stops every handler and starts retirement. -/
  | done
  /-- SEND (R168): Writes back dirty lines, waits for room, and appends (gb, lclk) to the named channel. -/
  | send (ra rb : Reg)
  /-- RECV (R169): Waits for and takes the oldest word of a channel on the region's own die, and acquires its clock. -/
  | recv (rd ra : Reg)
  /-- ARRIVE (R171): Writes back dirty lines, then arrives at the barrier word and returns the phase token. -/
  | arrive (rd ra : Reg)
  /-- AWAIT (R171): Waits until the barrier has left the phase in gb, then acquires CLK. -/
  | await (ra rb : Reg)
  /-- FENCE (R172): Stalls until the sequencer's earlier accesses are performed at the scope's reach, writing back when the scope is wider than the region. -/
  | fence (c : Scope)
  /-- NOP (R173): Does nothing. -/
  | nop
  /-- HALT (R173): Stops every handler and reports the halt; the instance ends unless a debugger is attached. -/
  | halt
  /-- WFE (R173): Clears the event latch EV if it is set, otherwise waits for EV and then clears it. -/
  | wfe
  /-- TRAP (R173): Raises a trap fault with code c and suspends the handler. -/
  | trap (c : BitVec 7)
  /-- ERET (R173): Ends handler k ≥ 1 and returns it to idle. -/
  | eret
  /-- TIME (R173): Writes the tide clock to rd. -/
  | time (rd : Reg)
  /-- WAITT (R173): Waits until the tide reaches ga. -/
  | waitt (ra : Reg)
  /-- RET (R155): Continues at the address in g31. -/
  | ret
  /-- ADDI (R146): Writes ga plus the sign-extended immediate to rd. -/
  | addi (rd ra : Reg) (imm : BitVec 16)
  /-- ANDI (R146): Writes ga AND the zero-extended immediate to rd. -/
  | andi (rd ra : Reg) (imm : BitVec 16)
  /-- ORI (R146): Writes ga OR the zero-extended immediate to rd. -/
  | ori (rd ra : Reg) (imm : BitVec 16)
  /-- XORI (R146): Writes ga XOR the zero-extended immediate to rd. -/
  | xori (rd ra : Reg) (imm : BitVec 16)
  /-- SHLI (R146): Shifts ga left by imm[5:0] into rd. -/
  | shli (rd ra : Reg) (sh : BitVec 6)
  /-- SHRI (R146): Shifts ga logically right by imm[5:0] into rd. -/
  | shri (rd ra : Reg) (sh : BitVec 6)
  /-- SRAI (R146): Shifts ga arithmetically right by imm[5:0] into rd. -/
  | srai (rd ra : Reg) (sh : BitVec 6)
  /-- SLTI (R146): Writes 1 to rd if ga is below the sign-extended immediate, otherwise 0. -/
  | slti (rd ra : Reg) (imm : BitVec 16)
  /-- LHI (R147): Replaces 16-bit chunk k of rd with the immediate, keeping the other bits. -/
  | lhi (rd : Reg) (k : BitVec 2) (imm : BitVec 16)
  /-- MFC (R136): Reads a control word by number into rd. -/
  | mfc (rd : Reg) (c : Ctl)
  /-- MTC_FPFLAGS (R138): Replaces the region's fpflags word; flags raised in the same cycle survive. -/
  | mtcFpflags (ra : Reg)
  /-- MTC_HEN (R137): Writes the handler enable mask. -/
  | mtcHen (ra : Reg)
  /-- MTC_RESUME (R143): Ends the suspension of a handler, retrying or skipping the faulting word. -/
  | mtcResume (ra : Reg)
  /-- MTC_TIMER (R174): Arms event 3 at a tide value, or disarms it with 0. -/
  | mtcTimer (ra : Reg)
  /-- MTC_FPOP (R137): Removes the oldest fault file entry. -/
  | mtcFpop (ra : Reg)
  /-- MTC_CHMAP (R142): Subscribes a channel of the die to event k, or releases it. -/
  | mtcChmap (ra : Reg) (k : Fin 28)
  /-- GOTO (R166): Sets cc to step s, discards handler 0's position, and splices step s. -/
  | goto (t : BitVec 4)
  /-- PDCL (R372): Declares a pool from a running course, installing or checking it at the home. -/
  | pdcl (settle : Bool) (ra : Reg) (scope : Scope) (op : PoolOp) (ty : PoolType) (pl : Fin 64)
  /-- PCON (R373): Writes back dirty lines and posts ga as a contribution through lane 0. -/
  | pcon (ra : Reg) (pl : Fin 64)
  /-- PRD (R374): Posts an uncounted gather of the pool and waits for its completion word. -/
  | prd (rd : Reg) (pl : Fin 64)
  /-- PRD_C (R374): Posts a counted gather, which waits for the count and acquires the pool's clock. -/
  | prdC (rd : Reg) (pl : Fin 64)
  /-- PSET (R375): Makes an uncounted settling gather that empties the lanes into the home basin. -/
  | pset (rd : Reg) (pl : Fin 64)
  /-- LD_B (R148): Loads a byte, sign-extended. -/
  | ldB (rd ra : Reg) (off : BitVec 16)
  /-- LD_H (R148): Loads 2 bytes, sign-extended. -/
  | ldH (rd ra : Reg) (off : BitVec 16)
  /-- LD_W (R148): Loads 4 bytes, sign-extended. -/
  | ldW (rd ra : Reg) (off : BitVec 16)
  /-- LD_D (R148): Loads 8 bytes. -/
  | ldD (rd ra : Reg) (off : BitVec 16)
  /-- LD_B_N (R148): Loads a byte, zero-extended. -/
  | ldBN (rd ra : Reg) (off : BitVec 16)
  /-- LD_H_N (R148): Loads 2 bytes, zero-extended. -/
  | ldHN (rd ra : Reg) (off : BitVec 16)
  /-- LD_W_N (R148): Loads 4 bytes, zero-extended. -/
  | ldWN (rd ra : Reg) (off : BitVec 16)
  /-- ST_B (R148): Stores the low byte of a register. -/
  | stB (rv ra : Reg) (off : BitVec 16)
  /-- ST_H (R148): Stores the low 2 bytes of a register. -/
  | stH (rv ra : Reg) (off : BitVec 16)
  /-- ST_W (R148): Stores the low 4 bytes of a register. -/
  | stW (rv ra : Reg) (off : BitVec 16)
  /-- ST_D (R148): Stores 8 bytes of a register. -/
  | stD (rv ra : Reg) (off : BitVec 16)
  /-- B_EQ (R154): Branches when ga equals gb. -/
  | bEq (ra rb : Reg) (off : BitVec 16)
  /-- B_NE (R154): Branches when ga differs from gb. -/
  | bNe (ra rb : Reg) (off : BitVec 16)
  /-- B_LT (R154): Branches when ga is below gb, signed. -/
  | bLt (ra rb : Reg) (off : BitVec 16)
  /-- B_GE (R154): Branches when ga is at least gb, signed. -/
  | bGe (ra rb : Reg) (off : BitVec 16)
  /-- B_LTN (R154): Branches when ga is below gb, unsigned. -/
  | bLtn (ra rb : Reg) (off : BitVec 16)
  /-- B_GEN (R154): Branches when ga is at least gb, unsigned. -/
  | bGen (ra rb : Reg) (off : BitVec 16)
  /-- JMP (R155): Continues at the word-offset target. -/
  | jmp (off : BitVec 26)
  /-- CALL (R155): Writes the return address to g31 and continues at the target. -/
  | call (off : BitVec 26)
  /-- ISSUE (R162): Forms and checks a stream command from a template patched by ga and gb, and queues it. -/
  | issue (ga gb : Reg) (t : BitVec 16)
  /-- COP (R175): Posts an active message to an engine inbox with no reply. -/
  | cop (ra rb : Reg) (cls : EngClass) (op : BitVec 4)
  /-- COP_R (R175): Posts an active message and waits for its reply status in rd. -/
  | copR (rd ra rb : Reg) (cls : EngClass) (op : BitVec 4)
  /-- BINDR (R261): Runs a read binding at the head of its port queue, reading the pattern into the fabric. -/
  | bindr (b : BindArgs)
  /-- BINDW (R261): Runs a write binding, writing fabric tokens along the pattern. -/
  | bindw (b : BindArgs)
  /-- BINDG (R266): Runs a gather binding that reads elements by index. -/
  | bindg (b : BindArgs) (isrc : IdxSrc) (shift : BitVec 2)
  /-- BINDS (R267): Runs a scatter binding that writes elements by index. -/
  | binds (b : BindArgs) (shift : BitVec 2)
  /-- BINDF (R269): Moves whole slots of a cistern FIFO in or out. -/
  | bindf (h : Fin 16) (port : EdgePort) (slots : BitVec 14) (ends out : Bool)
  /-- BINDC (R268): Compresses dense data into value or coordinate streams, or expands them. -/
  | bindc (b : BindArgs) (sel out : Bool)
  /-- WEIR (R271): Loads a weir graph into the named arrays and attaches it to the port's next binding. -/
  | weir (h : Fin 16) (port : EdgePort) (mask nrec : BitVec 16) (image : BitVec 64)
  /-- BARRIER_FENCE (R275): Holds the command queue until every earlier binding of the region has completed. -/
  | barrierFence
  /-- BARRIER_ARRIVE (R275): Waits for earlier bindings, then arrives at a barrier with write-back. -/
  | barrierArrive (bar : BitVec 57)
  /-- BARRIER_ARRIVE_WAIT (R275): Arrives as barrier arrive, then waits out the recorded phase and acquires. -/
  | barrierArriveWait (bar : BitVec 57)
  /-- BARRIER_WAIT (R275): Holds later commands until the barrier leaves phase PHASE, then acquires. -/
  | barrierWait (bar : BitVec 57) (phase : BitVec 32)
  /-- METER (R274): Limits the port to RATE tokens in any 256 cycles. -/
  | meter (port : EdgePort) (rate : BitVec 9)
  /-- SNAP (R280): Starts a consistent cut of the region that is saved to a save area. -/
  | snap (save : BitVec 64) (rv : Bool) (rch : BitVec 8)
  /-- RELATCH (R282): Sends a relatch token through every port of the die under the named ASID. -/
  | relatch (asid : BitVec 16) (base : BitVec 57) (log : BitVec 6) (rv : Bool) (rch : BitVec 8)
  /-- SEAL (R279): Drains the course's rill paths toward a record's home and requests the seal action. -/
  | seal (rec : BitVec 20) (rv : Bool) (rch : BitVec 8)
  /-- GBIND (R272): Attaches a gauge record to a write port from its next binding. -/
  | gbind (port : EdgePort) (rec : BitVec 20)
  /-- GBIND_DETACH (R272): Detaches the gauge record of a write port. -/
  | gbindDetach (port : EdgePort)
  /-- MSG (R277): Reads an active message from memory and posts it to an inbox. -/
  | msg (cls : EngClass) (addr : BitVec 64)
  /-- MSG_BIND (R277): Binds a msgout port to an inbox class. -/
  | msgBind (mport : BitVec 6) (cls : EngClass)
  /-- CARD (R278): Posts a one-operand message with an optional job card built from the command. -/
  | card (cls : EngClass) (op : BitVec 4) (nf : BitVec 2) (foot0 foot1 : BitVec 8) (opnd : BitVec 64)
  /-- ATIME (R281): Arms the region's next splice at a tide value. -/
  | atime (t : BitVec 64)
  /-- CTL (R273): Places a ctl token into a read port's output between bindings. -/
  | ctl (port : EdgePort) (payload : Word)
  /-- SYNCW (R276): Raises a synchronisation word's target and arms acknowledgements of later write bindings. -/
  | syncw (word : BitVec 64) (n : BitVec 32)
  /-- MLOAD (R240): Loads a stationary tile image into the matrix unit's shadow bank. -/
  | mload (h : Fin 16) (slots : BitVec 14) (bm pack : Bool) (wbw : BitVec 3) (tcols trows : BitVec 7)
  /-- MSWAP (R241): Exchanges the active and shadow banks once earlier operations and loads are done. -/
  | mswap
  /-- MROW (R242): Runs a row-drive matrix operation over SLOTS vectors. -/
  | mrow (m : MatArgs)
  /-- MCOL (R242): Runs a column-drive matrix operation over SLOTS vectors. -/
  | mcol (m : MatArgs)
  /-- MORIGIN_FIXED (R245): Sets a fixed stationary origin for later mloads. -/
  | moriginFixed (y x : BitVec 6)
  /-- MORIGIN_WALK (R245): Sets walk mode and its position for later mloads. -/
  | moriginWalk (y x : BitVec 6)
  /-- MMASK (R243): Binds an A bitmap for the next matrix operation. -/
  | mmask (h : Fin 16) (port : BitVec 4) (slots : BitVec 14)
  /-- CHUNK_SEND (R409): Waits for the peer's credit, then streams an entry to the matching recv. -/
  | chunkSend (r n : Nat)
  /-- CHUNK_RECV (R409): Sends a credit to its peer and completes when the last byte is written. -/
  | chunkRecv (r n : Nat)
  /-- RED (R410): Folds FROM into TO element by element under its ROP. -/
  | red (r n : Nat)
  /-- REDC (R411): Folds FROM into a pair entry TO with PairAdd. -/
  | redc (r n : Nat)
  /-- CHUNK_COPY (R412): Copies, pairs, rounds, or contributes FROM to TO. -/
  | chunkCopy (r n : Nat)
  /-- A2A (R413): Exchanges variable messages among the group in a count phase and a payload phase. -/
  | a2a (r n : Nat)
  /-- SIGNAL (R414): Acknowledges bytes to a synchronisation word with the job clock. -/
  | signal (r n : Nat)
  /-- CHUNK_CREDIT_ARRIVE (R409): A recv's credit reaches the waiting send. -/
  | chunkCreditArrive (m : Nat)
  /-- CHUNK_NODE_COMPLETE (R406): A node completes; its successors' counters are decremented and ready nodes start; the last completion replies. -/
  | chunkNodeComplete (r n : Nat)
  /-- REPLAY_PEER_TIMEOUT (R407): A replay that waits 100 ms without progress ends with cause 0x08. -/
  | replayPeerTimeout (r : Nat)
  /-- GLOAD (R401): Checks and installs a chunk graph and reserves its chunk buffer. -/
  | gload (j : Nat)
  /-- REPLAY (R406): Replays a loaded graph with a fresh base table. -/
  | replay (j : Nat)
  /-- GFREE (R401): Waits for the graph's queued replays, then frees it. -/
  | gfree (j : Nat)
  /-- GSTAT (R402): Writes the graph's status record and clears its flags. -/
  | gstat (j : Nat)
  /-- RWRITE (R417): Writes local bytes to a remote region over a RoCE queue pair. -/
  | rwrite (j : Nat)
  /-- RREAD (R417): Reads remote bytes into local memory over a RoCE queue pair. -/
  | rread (j : Nat)
  /-- COPY (R313): Copy engine job that copies by descriptor. -/
  | copy (d e : Nat)
  /-- COPYI (R313): Copy engine job that copies with inline operands. -/
  | copyi (d e : Nat)
  /-- FILL (R313): Copy engine job that fills a range with a word. -/
  | fill (d e : Nat)
  /-- WSET (R314): Weir job that writes a word across a class W range. -/
  | wset (d j : Nat)
  /-- GREAD (R353): Writes a gauge record's entry and live half to a buffer. -/
  | gread (d j : Nat)
  /-- GPOL (R353): Replaces a record's policy and clipping limit. -/
  | gpol (d j : Nat)
  /-- GCLR (R353): Clears a record's live half and RSC. -/
  | gclr (d j : Nat)
  /-- SLUICE_INBOX_LAUNCH (R111): The sluice reads a launch record named by an active message and takes it in or refuses it. -/
  | sluiceInboxLaunch (d : Nat)
  /-- ENGINE_MESSAGE_ARRIVE (R123): An active message enters an engine inbox and is checked. -/
  | engineMessageArrive (m : Nat)
  /-- ENGINE_REPLY_ARRIVE (R175): An engine reply reaches a handler's reply latch, completing a waiting cop.r. -/
  | engineReplyArrive (m : Nat)
  /-- TAIL_DOORBELL (R109): A TAIL write posts records to a launch queue, or sets ERR on overrun. -/
  | tailDoorbell (d q : Nat) (v : BitVec 32)
  /-- QUEUE_ENABLE (R108): Setting EN resets HEAD and TAIL and starts serving the queue, or sets ERR on bad fields. -/
  | queueEnable (d q : Nat) (v : BitVec 64)
  /-- QUEUE_DISABLE (R108): Clearing EN cancels unplaced pending records with status 0x0A. -/
  | queueDisable (d q : Nat) (v : BitVec 64)
  /-- QUEUE_REGISTER_WRITE (R108): Writes a queue's base or configuration, with fields ignored while enabled. -/
  | queueRegisterWrite (d q off : Nat) (v : BitVec 64)
  /-- SLUICE_TAKE_RECORD (R109): The sluice reads record HEAD into the pending table, advances HEAD, and checks the record. -/
  | sluiceTakeRecord (d q : Nat)
  /-- REGISTER_WRITE (R110): Writes a sluice register that has no behaviour of its own. -/
  | registerWrite (d off : Nat) (v : BitVec 64)
  /-- EFFECTIVE_CLASS_AGING (R113): A pending launch's effective class rises after each 50 µs of waiting. -/
  | effectiveClassAging (d u : Nat)
  /-- PLACE_INSTANCE (R115): The sluice places the next instance in order on a free rectangle. -/
  | placeInstance (d : Nat)
  /-- LAUNCH_ANCHOR (R114): A launch passed over longer than STALLMAX becomes anchored. -/
  | launchAnchor (d u : Nat)
  /-- CLAIM_AT_CURSOR (R120): A claim is performed as one action at the cursor's home bank. -/
  | claimAtCursor (m : Nat)
  /-- CONFIG_IMAGE_LOADED (R128): A successor's configuration image finishes loading into the configuration store. -/
  | configImageLoaded (p : Nat)
  /-- HOLDER_ARRIVE (R125): A holder reaches admission, which adds edges from conflicting live footprints. -/
  | holderArrive (m : Nat)
  /-- HOLDER_ADMIT (R385): A holder whose edges have cleared is admitted and given the largest source clock. -/
  | holderAdmit (d h : Nat)
  /-- ADMISSION_TIMEOUT (R127): A holder held longer than ADMWD is dropped with an admission-timeout fault. -/
  | admissionTimeout (d h : Nat)
  /-- HOME_READ_REQUEST (R289): A class C load miss is served at the home bank, which grants or extends a lease. -/
  | homeReadRequest (m : Nat)
  /-- LOAD_REPLY (R289): The home's reply fills a leased stash line and completes the load. -/
  | loadReply (m : Nat)
  /-- HOME_WRITE_REQUEST (R290): A store to an unowned line takes ownership at the home bank. -/
  | homeWriteRequest (m : Nat)
  /-- OWNERSHIP_REPLY (R290): Ownership arrives and the stalled store is performed. -/
  | ownershipReply (m : Nat)
  /-- RECALL (R290): A recalled region writes back its line, and the home updates its timestamps. -/
  | recall (m : Nat)
  /-- WRITE_BACK_ACK (R287): A write-back is acknowledged, releasing a send, arrive, hpush, pcon or fence waiting on it. -/
  | writeBackAck (m : Nat)
  /-- HOME_ATOMIC (R152): An atomic is performed at the home bank in arrival order. -/
  | homeAtomic (m : Nat)
  /-- ATOMIC_REPLY (R152): The old value of an atomic returns and the handler resumes. -/
  | atomicReply (m : Nat)
  /-- WAITV_WAKE (R153): A later write to a monitored line passes the test, completing the waitv. -/
  | waitvWake (m : Nat)
  /-- BARRIER_ARRIVE_AT_HOME (R171): An arrival updates ARRIVED, CLK and PHASE at the barrier's home bank. -/
  | barrierArriveAtHome (m : Nat)
  /-- HANDLE_HEADER_ACTION (R251): A wait or advance on a LOC = 1 handle is performed at the header's home bank. -/
  | handleHeaderAction (m : Nat)
  /-- CHANNEL_WORD_ENTER (R170): A word enters a channel when room frees, making events pending and waking a recv. -/
  | channelWordEnter (m : Nat)
  /-- POOL_DECLARE_AT_HOME (R356): A declaration reaches the home basin and installs or checks the instance. -/
  | poolDeclareAtHome (m : Nat)
  /-- POOL_FOLD (R362): A contribution folds into its lane, raising N, flags and CLK. -/
  | poolFold (m : Nat)
  /-- POOL_GATHER (R363): The home combines the instance's lanes in ascending slot order once a counted gather's count is met. -/
  | poolGather (m : Nat)
  /-- POOL_COMPLETION_WORD (R374): A gather's completion word returns and the prd or pset finishes or faults. -/
  | poolCompletionWord (m : Nat)
  /-- RESCALE_EVENT_ARRIVE (R351): A rescale event becomes pending at handler 2 or enters the fault file. -/
  | rescaleEventArrive (m : Nat)
  /-- TIMER_EXPIRY (R174): The tide reaches timer; event 3 latches and timer returns to 0. -/
  | timerExpiry (p : Nat)
  /-- WAITT_EXPIRY (R173): The tide reaches a waitt's value and the word completes. -/
  | waittExpiry (p k : Nat)
  /-- ATIME_RELEASE (R281): The tide reaches an armed value, letting nodes install and handler 0 start. -/
  | atimeRelease (p : Nat)
  /-- PORT_EMIT_TOKEN (R263): A read port emits the next element, header or eos of its binding when its latch is free. -/
  | portEmitToken (p n : Nat)
  /-- PORT_TAKE_TOKEN (R264): A write port takes a token and writes its element, header byte, or eos. -/
  | portTakeToken (p n : Nat)
  /-- BINDING_COMPLETE (R126): A binding's last element reaches its home; the next port-queue entry starts. -/
  | bindingComplete (p n : Nat)
  /-- MAMO_ACCESS (R212): A mamo port performs one atomic per token and may emit the old value. -/
  | mamoAccess (p n : Nat)
  /-- XLAT_TRANSLATE (R214): An xlat cell translates a VA pair into a checked PA pair or a fault token. -/
  | xlatTranslate (p n : Nat)
  /-- MSGOUT_POST (R216): A msgout port posts an assembled message once its inbox has room. -/
  | msgoutPost (p n : Nat)
  /-- SPILLWAY_RETRY (R333): A diverting port retries its spillway head, replaying it when it translates. -/
  | spillwayRetry (p n : Nat)
  /-- STALLED_PORT_RETRY (R333): A stalled port retries its element every 1,024 cycles. -/
  | stalledPortRetry (p n : Nat)
  /-- RELATCH_TOKEN_AT_PORT (R328): A relatch token at a port inactivates matching windows and latches and waits for earlier accesses. -/
  | relatchTokenAtPort (p n : Nat)
  /-- CELL_EOS_FIRING (R182): A cell emits pending results and eos on its outputs; this is its final firing. -/
  | cellEosFiring (p c : Nat)
  /-- CELL_MARKER_FIRING (R184): A cell takes markers from every input and places one on each result output. -/
  | cellMarkerFiring (p c : Nat)
  /-- CELL_ADD (R193): Data firing of add. -/
  | cellAdd (p c : Nat)
  /-- CELL_SUB (R193): Data firing of sub. -/
  | cellSub (p c : Nat)
  /-- CELL_MUL (R193): Data firing of mul. -/
  | cellMul (p c : Nat)
  /-- CELL_FMA (R193): Data firing of fma, rounded once. -/
  | cellFma (p c : Nat)
  /-- CELL_MIN (R193): Data firing of min. -/
  | cellMin (p c : Nat)
  /-- CELL_MAX (R193): Data firing of max. -/
  | cellMax (p c : Nat)
  /-- CELL_ABS (R193): Data firing of abs. -/
  | cellAbs (p c : Nat)
  /-- CELL_NEG (R193): Data firing of neg. -/
  | cellNeg (p c : Nat)
  /-- CELL_AND (R193): Data firing of bitwise and. -/
  | cellAnd (p c : Nat)
  /-- CELL_OR (R193): Data firing of bitwise or. -/
  | cellOr (p c : Nat)
  /-- CELL_XOR (R193): Data firing of bitwise xor. -/
  | cellXor (p c : Nat)
  /-- CELL_SHL (R193): Data firing of shl. -/
  | cellShl (p c : Nat)
  /-- CELL_SHR (R193): Data firing of shr. -/
  | cellShr (p c : Nat)
  /-- CELL_SRA (R193): Data firing of sra. -/
  | cellSra (p c : Nat)
  /-- CELL_CMP (R194): Data firing of cmp under its SUB relation. -/
  | cellCmp (p c : Nat)
  /-- CELL_SEL (R195): Data firing of sel, lane-wise or block-wise for bfp. -/
  | cellSel (p c : Nat)
  /-- CELL_MOV (R195): Data firing of mov. -/
  | cellMov (p c : Nat)
  /-- CELL_SCALE (R193): Data firing of scale by 2^k. -/
  | cellScale (p c : Nat)
  /-- CELL_POPC (R193): Data firing of popc. -/
  | cellPopc (p c : Nat)
  /-- CELL_CLZ (R193): Data firing of clz. -/
  | cellClz (p c : Nat)
  /-- CELL_CVT (R197): Data firing of cvt, packing or unpacking lanes across a width change. -/
  | cellCvt (p c : Nat)
  /-- CELL_QNT (R198): qnt collects a block, quantises it by block or record, and emits header and data. -/
  | cellQnt (p c : Nat)
  /-- CELL_DQN (R199): dqn expands a bfp block into floating-point elements. -/
  | cellDqn (p c : Nat)
  /-- CELL_ACC (R201): acc folds a token into its lanes and emits at COUNT. -/
  | cellAcc (p c : Nat)
  /-- CELL_RUNACC (R202): runacc folds runs of equal keys and emits key and value pairs. -/
  | cellRunacc (p c : Nat)
  /-- CELL_CNT (R203): cnt emits the next counter token. -/
  | cellCnt (p c : Nat)
  /-- XFN_GRANT (R204): The column function unit grants one xfn request per cycle in round-robin; this is the cell's firing. -/
  | xfnGrant (p col : Nat)
  /-- XFN_REPLY (R205): A granted result enters the requester's reply queue 12 cycles later. -/
  | xfnReply (p c : Nat)
  /-- CELL_RCPE (R207): Data firing of the approximate reciprocal rcpe. -/
  | cellRcpe (p c : Nat)
  /-- CELL_JOIN (R208): join compares its two coordinate heads and intersects or unions them. -/
  | cellJoin (p c : Nat)
  /-- CELL_POOLC (R217): poolc contributes a token to a pool lane and passes it on. -/
  | cellPoolc (p c : Nat)
  /-- CELL_STAT (R219): stat counts a token into its tile and passes it on. -/
  | cellStat (p c : Nat)
  /-- CELL_NFIN (R220): nfin sets its sticky flag on a non-finite element. -/
  | cellNfin (p c : Nat)
  /-- ROUTER_PASS (R189): A pass output moves a token from SEL to its output, over any express hops. -/
  | routerPass (p c : Nat) (o : Dir)
  /-- ROUTER_STEER (R189): A steer output takes data and control and emits the data if the control matches. -/
  | routerSteer (p c : Nat) (o : Dir)
  /-- ROUTER_MERGE (R189): A merge output takes a control and then a token from SEL or ALT. -/
  | routerMerge (p c : Nat) (o : Dir)
  /-- ROUTER_CARRY (R189): A carry output emits ALT in INIT and SEL tokens in LOOP while controls match. -/
  | routerCarry (p c : Nat) (o : Dir)
  /-- ROUTER_REPEAT (R189): A repeat output emits copies of its held token for each matching control. -/
  | routerRepeat (p c : Nat) (o : Dir)
  /-- ROUTER_DROP (R189): A drop output discards or passes each burst under one control token. -/
  | routerDrop (p c : Nat) (o : Dir)
  /-- MATRIX_VECTOR_START (R242): The matrix unit starts a vector once its source holds the complete vector. -/
  | matrixVectorStart (p : Nat)
  /-- MATRIX_VECTOR_DONE (R229): A vector's results stand in the accumulator and its drain starts. -/
  | matrixVectorDone (p : Nat)
  /-- MLOAD_COMPLETE (R240): An mload reads its image, latches the bank state and advances the consumer index. -/
  | mloadComplete (p : Nat)
  /-- MATRIX_STEP_PASS (R248): The matrix unit passes to the new step, sending and taking eos and resetting. -/
  | matrixStepPass (p : Nat)
  /-- MATRIX_MARKER_FIRING (R249): The matrix unit takes markers at a vector boundary and forwards them on its drain. -/
  | matrixMarkerFiring (p : Nat)
  /-- WEIR_GRAPH_ELEMENT (R296): An element arriving at an array passes through its context's graph. -/
  | weirGraphElement (m : Nat)
  /-- RMW_FADD (R301): The update pipeline performs new = RN(old + v) at the element's address. -/
  | rmwFadd (m : Nat)
  /-- RMW_IADD (R301): The update pipeline performs a 32-bit wrapping integer add. -/
  | rmwIadd (m : Nat)
  /-- RMW_FMAX (R301): The update pipeline performs an f32 maximum. -/
  | rmwFmax (m : Nat)
  /-- SYNCW_ACK (R307): An acknowledgement reaches a synchronisation word, possibly advancing its generation. -/
  | syncwAck (m : Nat)
  /-- RILL_NODE_TAKE_TRAIN (R344): A rill node takes a train and merges it into the one it holds. -/
  | rillNodeTakeTrain (m : Nat)
  /-- RILL_WINDOW_EXPIRY (R344): A node's WAIT window ends and it forwards its train to the die's root. -/
  | rillWindowExpiry (p n : Nat)
  /-- RILL_ROOT_WINDOW_EXPIRY (R344): The root's 32-cycle window ends and it forwards the merged train to the home array. -/
  | rillRootWindowExpiry (d j : Nat)
  /-- TRAIN_APPLY (R345): The home array applies a train to the record's live half and tests the threshold. -/
  | trainApply (m : Nat)
  /-- SEAL_ACTION (R346): Once the seal's markers reach home, the record seals, bumps its generation and sends generation words. -/
  | sealAction (m : Nat)
  /-- GENERATION_WORD_ARRIVE (R347): A region replaces its copy of a record's GEN and SCALE. -/
  | generationWordArrive (m : Nat)
  /-- PREEMPT_REQUEST (R425): A PREQ write starts pre-emption of one placed instance. -/
  | preemptRequest (d : Nat) (v : BitVec 64)
  /-- AUTO_PREEMPT (R425): Under AUTOP the sluice pre-empts instances in the way of an anchored class 3 launch. -/
  | autoPreempt (d : Nat)
  /-- SPLICE_POINT_SAVE (R427): After a splice-point teardown, the region saves its state. -/
  | splicePointSave (p : Nat)
  /-- PREEMPT_MARKER_INJECT (R426): At SPLTO the sluice injects snapshot markers into regions not yet saved. -/
  | preemptMarkerInject (d : Nat)
  /-- CUT_CLOSE (R428): A closed cut is saved, for pre-emption or snap. -/
  | cutClose (p : Nat)
  /-- FREEZE (R429): When the snapshot timeout expires, the region stops in one cycle and saves as it stands. -/
  | freeze (p : Nat)
  /-- PREEMPT_RESUME (R433): A pre-empted instance is placed again and restored in the form saved. -/
  | preemptResume (d : Nat)
  /-- RETIRE_CLEAR (R435): When the drain ends, the region clears, writes back, releases and notifies. -/
  | retireClear (p : Nat)
  /-- FORCED_CLEAR (R436): On RETTO expiry a draining region is cleared by force. -/
  | forcedClear (p : Nat)
  /-- SUCCESSOR_START (R439): A chained successor's handler 0 starts once its inherited instances are released. -/
  | successorStart (p : Nat)
  /-- CLUSTER_GATE (R441): A cluster free for GATEDLY starts gating. -/
  | clusterGate (d c : Nat)
  /-- CLUSTER_GATE_ENTRY_COMPLETE (R441): Gating entry finishes after 8 µs. -/
  | clusterGateEntryComplete (d c : Nat)
  /-- CLUSTER_EXIT_COMPLETE (R442): Gating exit finishes and a waiting placement proceeds. -/
  | clusterExitComplete (d c : Nat)
  /-- DOMAIN_ENTRY_WRITE (R443): Writes a voltage-frequency domain entry, or refuses it with ERR. -/
  | domainEntryWrite (d j : Nat) (v : BitVec 64)
  /-- DOMAIN_CLOCK_STEP (R443): FCUR moves one step toward FCODE every 2 µs. -/
  | domainClockStep (d j : Nat)
  /-- POWER_ON (R449): Power-on runs a cold start. -/
  | powerOn
  /-- COLD_START (R449): A write of 1 to BOOT.RST runs the start stages from fuse read to clear. -/
  | coldStart
  /-- WARM_START (R449): A write of 2 to BOOT.RST runs a start from saved training and repair data. -/
  | warmStart
  /-- HOST_MEM_LOAD (R448): A host CXL.mem load recalls any owner and returns the latest value. -/
  | hostMemLoad (a n : Nat)
  /-- HOST_MEM_STORE (R448): A host CXL.mem store recalls an owner and is performed with a new wts. -/
  | hostMemStore (a : Nat) (bytes : List Byte)
  /-- ASID_LIVE (R454): Root mailbox request that moves an ASID from FREE to LIVE. -/
  | asidLive (w1 w2 : DWord)
  /-- ASID_RELEASE (R454): Root mailbox request that moves an ASID from LIVE to RETIRING. -/
  | asidRelease (w1 : DWord)
  /-- ASID_FREE (R318): A RETIRING ASID becomes FREE once nothing of it remains and its invalidation completes. -/
  | asidFree (a : Nat)
  /-- INVALIDATE (R454): Root mailbox request that starts invalidations on the named dies. -/
  | invalidate (w1 w2 : DWord)
  /-- INVALIDATION_COMPLETE (R329): An invalidation completes once earlier walks and accesses through dropped entries end. -/
  | invalidationComplete (j : Nat)
  /-- GROUP (R454): Root mailbox request that writes a package group entry. -/
  | group (w1 w2 : DWord)
  /-- CHANNEL (R454): Root mailbox request that assigns or frees a channel. -/
  | channel (w1 : DWord)
  /-- QUEUE_PRIVILEGE (R454): Root mailbox request that sets a queue's PRIV bit. -/
  | queuePrivilege (w1 : DWord)
  /-- SAVE_AREA (R454): Root mailbox request that sets SAVEBASE and SAVEN of a die. -/
  | saveArea (w1 w2 : DWord)
  /-- MANAGEMENT_IMAGE (R454): Root mailbox request that verifies a management image and warm-starts on success. -/
  | managementImage (w1 w2 : DWord)
  /-- ASID_DEBUG (R454): Root mailbox request that sets or clears DBG of a LIVE ASID. -/
  | asidDebug (w1 : DWord)
  /-- ATTACH (R458): Management mailbox request that attaches the debug unit to an instance. -/
  | attach (w1 w2 w3 : DWord)
  /-- DETACH (R458): Clears the attachment's breakpoints and traces and resumes its regions. -/
  | detach (a : Nat)
  /-- BREAK (R458): Arms a breakpoint comparator. -/
  | breakArm (w1 w2 : DWord)
  /-- UNBREAK (R458): Disarms a comparator. -/
  | breakDisarm (w1 : DWord)
  /-- STOP (R459): Stops a region at once. -/
  | debugStop (w1 : DWord)
  /-- RESUME (R459): Resumes stopped or halted regions. -/
  | debugResume (w1 : DWord)
  /-- READ (R458): Copies region state, a gauge record or a pool instance to host memory. -/
  | debugRead (w1 w2 w3 w4 : DWord)
  /-- TRACE (R458): Starts logging events of a kind into the event ring. -/
  | debugTrace (w1 w2 w3 : DWord)
  /-- UNTRACE (R458): Ends a trace. -/
  | debugUntrace (w1 : DWord)
  /-- GET_VERSION (R456): SPDM request answered with the supported version. -/
  | getVersion
  /-- GET_CAPABILITIES (R456): SPDM request answered with the responder's capabilities. -/
  | getCapabilities
  /-- NEGOTIATE_ALGORITHMS (R456): SPDM request selecting RSASSA-4096 with SHA-512. -/
  | negotiateAlgorithms
  /-- GET_DIGESTS (R456): SPDM request for certificate chain digests. -/
  | getDigests
  /-- GET_CERTIFICATE (R456): SPDM request for the slot 0 certificate chain. -/
  | getCertificate (slot off len : Nat)
  /-- CHALLENGE (R456): SPDM challenge signed with the device identity key. -/
  | challenge (slot : Nat) (nonce : List Byte)
  /-- GET_MEASUREMENTS (R456): SPDM request returning the four measurement blocks, optionally signed. -/
  | getMeasurements (index : Nat) (signed : Bool) (nonce : List Byte)
  /-- SOFT_ERROR_DETECT (R423): ECC finds an uncorrectable error, which poisons or stops according to where it lies. -/
  | softErrorDetect (at_ : ErrSite)
  /-- TIME_FLIT_RECEIVE (R399): A time flit arrives and the wellhead slews its tide, updating TLOCK. -/
  | timeFlitReceive (port : Nat) (src : Nat)
  /-- CONDUIT_FLIT_RECEIVE (R393): A conduit flit arrives, is checked and retried or delivered in order. -/
  | conduitFlitReceive (port : Nat) (f : Flit)
  /-- ROCE_RESPONSE_RECEIVE (R417): A remote acknowledgement of an RWRITE's last byte, or an RREAD's read response, arrives on a scale-out port and the job replies. -/
  | roceResponseReceive (j : Nat) (bytes : List Byte)
  /-- TRANSPORT_ERROR (R417): A transport error after transfer has begun ends an RWRITE or RREAD job with cause 0x08, and the bytes already written stand. -/
  | transportError (j : Nat)
  deriving DecidableEq, Repr

end Sys2Proof
end

