-- ==== Sys2Proof/Machine/Float.lean ====
section
/-! DEFINITION. Floating point, exactly (R3 to R5, R24 to R30, R39 to R45): values are signed dyadic numbers, an
operation forms its exact result and rounds it once. -/
namespace Sys2Proof.Machine

/-- (-1)^neg times m times 2^e; a zero keeps its sign. -/
structure Dyadic where
  neg : Bool
  m   : Nat
  e   : Int
  deriving DecidableEq, Repr

/-- What the bits of a float format stand for (R25, R27). -/
inductive FVal
  | nan (signalling : Bool)
  | inf (neg : Bool)
  | fin (d : Dyadic)
  deriving DecidableEq, Repr

/-- A binary format: `frac` fraction bits, `ebits` exponent bits. -/
structure FloatFmt where
  frac  : Nat
  ebits : Nat
  deriving DecidableEq, Repr

def fmtF32 : FloatFmt := ⟨23, 8⟩
def fmtBf16 : FloatFmt := ⟨7, 8⟩
def fmtF16 : FloatFmt := ⟨10, 5⟩

def FloatFmt.bias (f : FloatFmt) : Nat := 2 ^ (f.ebits - 1) - 1
/-- The exponent of the smallest normal number. -/
def FloatFmt.emin (f : FloatFmt) : Int := 1 - (f.bias : Int)
/-- The exponent of the largest finite number. -/
def FloatFmt.emax (f : FloatFmt) : Int := (f.bias : Int)
/-- All ones in the exponent field, as a number. -/
def FloatFmt.etop (f : FloatFmt) : Nat := 2 ^ f.ebits - 1

/-- The value of a bit pattern (R25). -/
def FloatFmt.value (f : FloatFmt) (n : Nat) : FVal :=
  let fr := n % 2 ^ f.frac
  let ex := n / 2 ^ f.frac % 2 ^ f.ebits
  let ng := n / 2 ^ (f.frac + f.ebits) % 2 == 1
  if ex = f.etop then
    (if fr = 0 then .inf ng else .nan (fr / 2 ^ (f.frac - 1) == 0))
  else if ex = 0 then .fin ⟨ng, fr, f.emin - f.frac⟩
  else .fin ⟨ng, fr + 2 ^ f.frac, (ex : Int) - f.bias - f.frac⟩

/-- The sign bit in place. -/
def FloatFmt.signBit (f : FloatFmt) (neg : Bool) : Nat := if neg then 2 ^ (f.frac + f.ebits) else 0

/-- The canonical NaN of R27. -/
def FloatFmt.canonicalNaN (f : FloatFmt) : Nat := f.etop * 2 ^ f.frac + 2 ^ (f.frac - 1)

def FloatFmt.infinity (f : FloatFmt) (neg : Bool) : Nat := f.signBit neg + f.etop * 2 ^ f.frac

/-- The largest finite value of a sign (R25). -/
def FloatFmt.largest (f : FloatFmt) (neg : Bool) : Nat := f.signBit neg + f.etop * 2 ^ f.frac - 1

def FloatFmt.zero (f : FloatFmt) (neg : Bool) : Nat := f.signBit neg

/-- Whether a magnitude truncated to `q`, with remainder `r` of `2^sh` (and something below it when `sticky`), goes up
by one under a rounding code (R39). -/
def roundsUp (rm : Rnd) (neg : Bool) (q r sh : Nat) (sticky : Bool) : Bool :=
  let two := 2 * r
  let pow := 2 ^ sh
  match rm with
  | .rne => decide (two > pow) || (decide (two = pow) && (sticky || q % 2 == 1))
  | .rtz => false
  | .rup => !neg && (r != 0 || sticky)
  | .rdn => neg && (r != 0 || sticky)
  | .rna => decide (two ≥ pow)

/-- Divide a magnitude by 2^sh, rounding: the rounded quotient and whether it is inexact. A negative shift multiplies. -/
def roundShift (rm : Rnd) (neg : Bool) (m : Nat) (sh : Int) (sticky : Bool) : Nat × Bool :=
  if sh ≤ 0 then
    let q := m * 2 ^ (-sh).toNat
    ((if sticky && ((rm == .rup && !neg) || (rm == .rdn && neg)) then q + 1 else q), sticky)
  else
    let k := sh.toNat
    let q := m / 2 ^ k
    let r := m % 2 ^ k
    ((if roundsUp rm neg q r k sticky then q + 1 else q), r != 0 || sticky)

/-- Whether an overflow under a rounding code gives an infinity (R4). -/
def overflowsToInf (rm : Rnd) (neg : Bool) : Bool :=
  match rm with
  | .rne => true
  | .rna => true
  | .rtz => false
  | .rup => !neg
  | .rdn => neg

/-- RoundW for a finite value into a float format (R4, R29): the bits and the flags. `sticky` says that the exact value
lies just above the given magnitude; its caller then gives a magnitude with bits to spare. Tininess is found after
rounding. -/
def roundFloat (f : FloatFmt) (rm : Rnd) (d : Dyadic) (sticky : Bool := false) : Nat × Flags :=
  if d.m = 0 then (f.zero d.neg, 0) else
  let top : Int := d.e + (d.m.log2 : Int)
  let lsbU : Int := top - f.frac
  let lsbMin : Int := f.emin - f.frac
  let unb := roundShift rm d.neg d.m (lsbU - d.e) sticky
  let lsb := if lsbU < lsbMin then lsbMin else lsbU
  let r := if lsbU < lsbMin then roundShift rm d.neg d.m (lsb - d.e) sticky else unb
  let q := r.1
  -- q ≤ 2^(frac+1); the field sum below carries into the exponent by itself
  let expField : Int := lsb - lsbMin
  let bits : Nat := q + expField.toNat * 2 ^ f.frac
  if bits ≥ f.etop * 2 ^ f.frac then
    ((if overflowsToInf rm d.neg then f.infinity d.neg else f.largest d.neg), flagOF ||| flagNX)
  else
    let tiny := decide (lsbU + f.frac < f.emin) && !(decide (lsbU + f.frac + 1 = f.emin) && decide (unb.1 ≥ 2 ^ (f.frac + 1)))
    (f.signBit d.neg + bits, flagIf r.2 flagNX ||| flagIf (tiny && r.2) flagUF)

/-- Sat for a float (R4, R40, R42): code 1 turns an infinity into the largest finite value and raises SAT. -/
def satFloat (f : FloatFmt) (s : Sat) (bits : Nat) : Nat × Flags :=
  match f.value bits, s with
  | .inf ng, .clamp => (f.largest ng, flagSAT)
  | _, _ => (bits, 0)

/-- Whether code 1 changed the value, or code 0 turned a finite value into an infinity: what R42 counts. -/
def saturatedFloat (f : FloatFmt) (s : Sat) (finite : Bool) (rounded : Nat) : Bool :=
  match f.value rounded with
  | .inf _ => s == .clamp || finite
  | _ => false

/-- Round a value of the extended line and saturate it. -/
def deliver (f : FloatFmt) (rm : Rnd) (s : Sat) (v : FVal) (sticky : Bool := false) : Nat × Flags :=
  match v with
  | .nan _ => (f.canonicalNaN, 0)
  | .inf ng => satFloat f s (f.infinity ng)
  | .fin d =>
    let r := roundFloat f rm d sticky
    let t := satFloat f s r.1
    (t.1, r.2 ||| t.2)

/-! ### Exact arithmetic -/

/-- A dyadic number as an integer multiple of 2^e, for an e no larger than its own. -/
def Dyadic.at (d : Dyadic) (e : Int) : Int :=
  let k : Int := (d.m * 2 ^ (d.e - e).toNat : Nat)
  if d.neg then -k else k

/-- The zero that an exact cancellation gives (R28). -/
def zeroSum (rm : Rnd) (a b : Bool) : Bool := if a = b then a else rm == .rdn

/-- The exact sum. The sign of a zero follows R28. -/
def Dyadic.add (rm : Rnd) (a b : Dyadic) : Dyadic :=
  let e := if a.e ≤ b.e then a.e else b.e
  let k := a.at e + b.at e
  if k = 0 then
    ⟨(if a.m = 0 ∧ b.m = 0 then zeroSum rm a.neg b.neg else rm == .rdn), 0, e⟩
  else ⟨decide (k < 0), k.natAbs, e⟩

def Dyadic.mul (a b : Dyadic) : Dyadic := ⟨a.neg != b.neg, a.m * b.m, a.e + b.e⟩

/-- a < b over the reals. -/
def Dyadic.lt (a b : Dyadic) : Bool :=
  let e := if a.e ≤ b.e then a.e else b.e
  decide (a.at e < b.at e)

def Dyadic.eqv (a b : Dyadic) : Bool :=
  let e := if a.e ≤ b.e then a.e else b.e
  decide (a.at e = b.at e)

def FVal.isNaN : FVal → Bool
  | .nan _ => true
  | _ => false

def FVal.isInf : FVal → Bool
  | .inf _ => true
  | _ => false

def FVal.isFinite : FVal → Bool
  | .fin _ => true
  | _ => false

def FVal.signalling : FVal → Bool
  | .nan s => s
  | _ => false

def FVal.isNeg : FVal → Bool
  | .nan _ => false
  | .inf n => n
  | .fin d => d.neg

def FVal.isZero : FVal → Bool
  | .fin d => d.m == 0
  | _ => false

def FVal.negate : FVal → FVal
  | .nan s => .nan s
  | .inf n => .inf (!n)
  | .fin d => .fin ⟨!d.neg, d.m, d.e⟩

/-- NV for a signalling NaN among the operands (R27). -/
def nvSignal (vs : List FVal) : Flags := flagIf (vs.any FVal.signalling) flagNV

/-- The exact sum of two values, with the flags of an invalid operation. -/
def addVal (rm : Rnd) (a b : FVal) : FVal × Flags :=
  match a, b with
  | .nan _, _ => (.nan false, nvSignal [a, b])
  | _, .nan _ => (.nan false, nvSignal [a, b])
  | .inf x, .inf y => if x = y then (.inf x, 0) else (.nan false, flagNV)
  | .inf x, .fin _ => (.inf x, 0)
  | .fin _, .inf y => (.inf y, 0)
  | .fin x, .fin y => (.fin (Dyadic.add rm x y), 0)

/-- The exact product. -/
def mulVal (a b : FVal) : FVal × Flags :=
  match a, b with
  | .nan _, _ => (.nan false, nvSignal [a, b])
  | _, .nan _ => (.nan false, nvSignal [a, b])
  | .inf x, .inf y => (.inf (x != y), 0)
  | .inf x, .fin d => if d.m = 0 then (.nan false, flagNV) else (.inf (x != d.neg), 0)
  | .fin d, .inf x => if d.m = 0 then (.nan false, flagNV) else (.inf (x != d.neg), 0)
  | .fin x, .fin y => (.fin (Dyadic.mul x y), 0)

/-- An operation on two bit patterns: exact, rounded once, saturated. -/
def fAdd (f : FloatFmt) (rm : Rnd) (s : Sat) (a b : Nat) : Nat × Flags :=
  let r := addVal rm (f.value a) (f.value b)
  let t := deliver f rm s r.1
  (t.1, r.2 ||| t.2)

def fSub (f : FloatFmt) (rm : Rnd) (s : Sat) (a b : Nat) : Nat × Flags :=
  let r := addVal rm (f.value a) (f.value b).negate
  let t := deliver f rm s r.1
  (t.1, r.2 ||| t.2)

def fMul (f : FloatFmt) (rm : Rnd) (s : Sat) (a b : Nat) : Nat × Flags :=
  let r := mulVal (f.value a) (f.value b)
  let t := deliver f rm s r.1
  (t.1, r.2 ||| t.2)

/-- a times b plus c, rounded once (R30). Whether an infinity times a zero raises NV beside a quiet NaN addend is
left open by IEEE 754 (assumption 8). -/
def fFma (f : FloatFmt) (rm : Rnd) (s : Sat) (a b c : Nat) : Nat × Flags :=
  let va := f.value a; let vb := f.value b; let vc := f.value c
  let p := mulVal va vb
  let r := addVal rm p.1 vc
  let t := deliver f rm s r.1
  let productInvalid := p.1.isNaN && !va.isNaN && !vb.isNaN
  let nv := if productInvalid && vc.isNaN then
      flagIf (Config.fmaZeroInfNaN || vc.signalling) flagNV
    else p.2 ||| r.2
  (t.1, nv ||| nvSignal [va, vb, vc] ||| t.2)

/-- a < b among values that are no NaN, with -0 below +0: the order of R28's min and max. -/
def FVal.below (a b : FVal) : Bool :=
  match a, b with
  | .nan _, _ => false
  | _, .nan _ => false
  | .inf x, .inf y => x && !y
  | .inf x, .fin _ => x
  | .fin _, .inf y => !y
  | .fin x, .fin y => x.lt y || (x.m == 0 && y.m == 0 && x.neg && !y.neg)

/-- Minimum and maximum under R28; a signalling NaN raises NV (R27). -/
def fMin (f : FloatFmt) (a b : Nat) : Nat × Flags :=
  let va := f.value a; let vb := f.value b
  if va.isNaN || vb.isNaN then (f.canonicalNaN, nvSignal [va, vb])
  else ((if vb.below va then b else a), 0)

def fMax (f : FloatFmt) (a b : Nat) : Nat × Flags :=
  let va := f.value a; let vb := f.value b
  if va.isNaN || vb.isNaN then (f.canonicalNaN, nvSignal [va, vb])
  else ((if va.below vb then b else a), 0)

/-- Numerical order and equality: zeros of either sign are equal. False with a NaN. -/
def FVal.ltNum (a b : FVal) : Bool :=
  match a, b with
  | .fin x, .fin y => x.lt y
  | _, _ => a.below b

def FVal.eqNum (a b : FVal) : Bool :=
  match a, b with
  | .fin x, .fin y => x.eqv y
  | .inf x, .inf y => x == y
  | _, _ => false

/-! ### RN and the helpers of R3 and R5 -/

def rnAdd (a b : Nat) : Nat := (fAdd fmtF32 .rne .ieee a b).1
def rnSub (a b : Nat) : Nat := (fSub fmtF32 .rne .ieee a b).1

/-- TwoSum (R5): the sum and its error, by the formula as written. -/
def twoSum (a b : Nat) : Nat × Nat :=
  let s := rnAdd a b
  let bb := rnSub s a
  (s, rnAdd (rnSub a (rnSub s bb)) (rnSub b bb))

/-- FastTwoSum (R5). -/
def fastTwoSum (a b : Nat) : Nat × Nat :=
  let s := rnAdd a b
  (s, rnSub b (rnSub s a))

def isFiniteF32 (a : Nat) : Bool := (fmtF32.value a).isFinite

/-- PairAdd (R5, R49): not finite anywhere gives the plain sum and +0; only the plain sum's flags are raised. -/
def pairAdd (x y : Nat × Nat) : (Nat × Nat) × Flags :=
  let plain := fAdd fmtF32 .rne .ieee x.1 y.1
  let st := twoSum x.1 y.1
  if isFiniteF32 x.1 && isFiniteF32 y.1 && isFiniteF32 st.1 then
    let t := rnAdd st.2 (rnAdd x.2 y.2)
    (fastTwoSum st.1 t, plain.2)
  else ((plain.1, 0), plain.2)

/-- The value of a pair (R5): RN(s + e), with the flags of that rounding (R3). -/
def pairValue (p : Nat × Nat) : Nat × Flags := fAdd fmtF32 .rne .ieee p.1 p.2

/-! ### Integers and conversions -/

/-- The value of a w-bit two's complement pattern. -/
def signedOf (w n : Nat) : Int := if n % 2 ^ w < 2 ^ (w - 1) then (n % 2 ^ w : Nat) else (n % 2 ^ w : Nat) - (2 ^ w : Nat)

/-- The w-bit pattern of an integer, modulo 2^w. -/
def wrapInt (w : Nat) (k : Int) : Nat := (k % (2 ^ w : Nat)).toNat

def intMin (w : Nat) (sgn : Bool) : Int := if sgn then -(2 ^ (w - 1) : Nat) else 0
def intMax (w : Nat) (sgn : Bool) : Int := if sgn then (2 ^ (w - 1) : Nat) - 1 else (2 ^ w : Nat) - 1

/-- Sat for an integer (R4, R26, R40, R42): codes 0 and 2 wrap, code 1 clamps; a value that code 1 or 2 changes
raises SAT. -/
def satInt (w : Nat) (sgn : Bool) (s : Sat) (k : Int) : Nat × Flags :=
  let lo := intMin w sgn; let hi := intMax w sgn
  let out := decide (k < lo) || decide (k > hi)
  match s with
  | .ieee => (wrapInt w k, 0)
  | .wrap => (wrapInt w k, flagIf out flagSAT)
  | .clamp => (wrapInt w (if k < lo then lo else if k > hi then hi else k), flagIf out flagSAT)

/-- RoundW to an integer (R4): the integer and whether it is inexact. -/
def roundToInt (rm : Rnd) (d : Dyadic) : Int × Bool :=
  let r := roundShift rm d.neg d.m (-d.e) false
  ((if d.neg then -(r.1 : Int) else (r.1 : Int)), r.2)

/-- Float to integer (R44). An infinite input gives the bound of its sign under every code and raises NV; under codes
1 and 2 it is a value that saturation changes (R42). -/
def floatToInt (f : FloatFmt) (w : Nat) (sgn : Bool) (rm : Rnd) (s : Sat) (n : Nat) : Nat × Flags :=
  match f.value n with
  | .nan _ => (0, flagNV)
  | .inf ng => (wrapInt w (if ng then intMin w sgn else intMax w sgn), flagNV ||| flagIf (s != .ieee) flagSAT)
  | .fin d =>
    let r := roundToInt rm d
    let t := satInt w sgn s r.1
    (t.1, flagIf r.2 flagNX ||| t.2)

/-- The dyadic value of an integer. -/
def dyadicOfInt (k : Int) : Dyadic := ⟨decide (k < 0), k.natAbs, 0⟩

/-- Integer to float (R45). -/
def intToFloat (f : FloatFmt) (rm : Rnd) (s : Sat) (k : Int) : Nat × Flags :=
  deliver f rm s (.fin (dyadicOfInt k))

/-- Float to float (R43): a NaN becomes the canonical NaN of the target, a signalling one raises NV. -/
def floatToFloat (f g : FloatFmt) (rm : Rnd) (s : Sat) (n : Nat) : Nat × Flags :=
  let v := f.value n
  let t := deliver g rm s v
  (t.1, nvSignal [v] ||| t.2)

end Sys2Proof.Machine
end

