-- ==== Sys2Proof/WellFormed.lean ====
section
/-! DEFINITION. Which syntax terms stand for an encoding: the checks of R82, R85, R86 and R90 to R92 that the
types of Syntax.lean do not make by themselves. -/
namespace Sys2Proof

/-- The pairings of pool operator and type of R72. -/
def PoolOp.pairs : PoolOp → PoolType → Bool
  | .fadd, t => t == .f32
  | .faddc, t => t == .f32
  | .fmax, t => t == .f32
  | .fmin, t => t == .f32
  | .iadd, t => t != .f32
  | .iadds, t => t == .i32 || t == .i64
  | .imax, t => t == .i32 || t == .i64
  | .imin, t => t == .i32 || t == .i64
  | .nmax, t => t == .n32
  | .nmin, t => t == .n32
  | .or, t => t != .f32
  | .and, t => t != .f32
  | .xor, t => t != .f32

/-- An fcvt with a float result refuses saturation code 2 (R40, R85). -/
def Sat.okFloat (s : Sat) : Bool := s != .wrap

/-- The fields of R259 and R260 that a binding's own bits decide: FOOT is zero when FV = 0; an ungated binding
names no handle and no slots, and a gated one names at least one slot. `ends` is read side only. -/
def BindArgs.wf (b : BindArgs) (readSide : Bool) : Bool :=
  (b.fv || b.foot == 0) && (b.gate != .none || (b.h == 0 && b.slots == 0)) &&
  (b.gate == .none || b.slots != 0) && (readSide || !b.ends)

/-- The fields of mrow and mcol that their own bits decide (R242): HANDLE is zero when ASRC = 1, ZH is zero unless
DR = 2, POOL and LANE are zero unless DR = 3, P + NP is at most 16, and SLOTS is at least 1 (R239). -/
def MatArgs.wf (m : MatArgs) : Bool :=
  (!m.asrc || m.h == 0) && (m.dr == .stash || m.zh == 0) &&
  (m.dr == .pool || (m.pool == 0 && m.lane == 0)) &&
  decide (m.port.val + m.npm.val + 1 ≤ 16) && m.slots != 0

/-- Whether an instruction stands for an encoding of its space. Steps that have no encoding are well formed. -/
def Instr.wf : Instr → Bool
  | .fcvtBf16F32 _ _ _ s => s.okFloat
  | .fcvtF16F32 _ _ _ s => s.okFloat
  | .pdcl _ _ sc op ty _ => op.pairs ty && sc != .node
  | .bindr b => b.wf true
  | .bindw b => b.wf false
  | .bindg b isrc sh =>
      b.wf true && b.gate == .none && (isrc != .pa || (b.base == 0 && sh == 0 && !b.fv))
  | .binds b _ => b.wf false && b.gate == .none
  | .bindf _ _ slots ends out => slots != 0 && (!out || !ends)
  | .bindc b sel out => b.wf (!out) && (!out || !sel)
  | .weir _ _ _ _ _ => true
  | .meter _ r => decide (r.toNat ≤ 256)
  | .snap save _ _ => save != 0 && decide (save.toNat % 4096 = 0) && decide (save.toNat < 2 ^ 57)
  | .relatch _ base log _ _ => decide (log.toNat ≤ 45) && decide (base.toNat % 2 ^ (log.toNat + 12) = 0)
  | .msgBind mp _ => decide (mp.toNat < 32)
  | .card _ _ nf f0 f1 _ =>
      nf != 3 && (decide (1 ≤ nf.toNat) || f0 == 0) && (decide (2 ≤ nf.toNat) || f1 == 0)
  | .ctl _ p => decide (p.toNat < 128)
  | .syncw w n => decide (w.toNat % 8 = 0) && decide (w.toNat < 2 ^ 57) && n != 0 && decide (n.toNat % 4 = 0)
  | .mload _ slots _ pack wbw tcols trows =>
      slots != 0 && wbw != 7 && (!pack || decide (wbw.toNat ≤ 2)) &&
      (pack || decide (tcols.toNat ≤ 63)) && decide (trows.toNat ≤ 63)
  | .mrow m => m.wf
  | .mcol m => m.wf
  | .mmask _ _ slots => slots != 0
  | _ => true

end Sys2Proof
end

