-- ==== Sys2Proof/Decode.lean ====
section
/-! DEFINITION. The decoders of the encoding spaces (R81) and, after them, the encoders, both from the tables of
spec/04_encodings.md. Fields are taken from a word read as a natural number. -/
namespace Sys2Proof

/-- Why a word is refused (R81, R82). -/
inductive Reject
  | reservedPrimary | reservedFunction | unusedField | reservedCode | illegalPairing | handleNumber
  | unassignedControl | readOnlyControl | reservedOpcode | portClass | fieldValue
  deriving DecidableEq, Repr

/-- Bits [lo+w-1:lo] of a word. -/
def fld (n lo w : Nat) : Nat := n / 2 ^ lo % 2 ^ w

/-- Bit lo of a word. -/
def bit (n lo : Nat) : Bool := n / 2 ^ lo % 2 == 1

/-- A register field (R83). -/
def regAt (n lo : Nat) : Reg := ⟨n / 2 ^ lo % 32, Nat.mod_lt _ (by decide)⟩

/-- A four-bit number: a handle, a lane, a matrix port. -/
def fin16At (n lo : Nat) : Fin 16 := ⟨n / 2 ^ lo % 16, Nat.mod_lt _ (by decide)⟩

/-- A pool number. -/
def fin64At (n lo : Nat) : Fin 64 := ⟨n / 2 ^ lo % 64, Nat.mod_lt _ (by decide)⟩

/-- Accept an instruction, or refuse it by name. -/
def accept (ok : Bool) (why : Reject) (i : Instr) : Except Reject Instr := if ok then .ok i else .error why

def rndOf : Nat → Option Rnd
  | 0 => some .rne | 1 => some .rtz | 2 => some .rup | 3 => some .rdn | 4 => some .rna | _ => none

def satOf : Nat → Option Sat
  | 0 => some .ieee | 1 => some .clamp | 2 => some .wrap | _ => none

def scopeOf : Nat → Option Scope
  | 0 => some .node | 1 => some (.lvl 0) | 2 => some (.lvl 1) | 3 => some (.lvl 2) | 4 => some (.lvl 3)
  | 5 => some (.lvl 4) | 6 => some (.lvl 5) | 7 => some .domain | _ => none

def poolOpOf : Nat → Option PoolOp
  | 0 => some .fadd | 1 => some .faddc | 2 => some .fmax | 3 => some .fmin | 4 => some .iadd | 5 => some .iadds
  | 6 => some .imax | 7 => some .imin | 8 => some .nmax | 9 => some .nmin | 10 => some .or | 11 => some .and
  | 12 => some .xor | _ => none

def poolTypeOf : Nat → PoolType
  | 0 => .f32 | 1 => .i32 | 2 => .n32 | _ => .i64

def engClassOf : Nat → Option EngClass
  | 0 => some .copy | 1 => some .weir | 2 => some .cascade | 3 => some .sluice | _ => none

/-- The control word of a number (R137). -/
def ctlOf (n : Nat) : Option Ctl :=
  match n with
  | 0x000 => some .cc | 0x001 => some .ic | 0x002 => some .icend | 0x003 => some .wid | 0x004 => some .shape
  | 0x005 => some .slot | 0x006 => some .place | 0x007 => some .asid
  | 0x008 => some (.wf 0) | 0x009 => some (.wf 1) | 0x00A => some (.wf 2) | 0x00B => some (.wf 3)
  | 0x00C => some (.wf 4) | 0x00D => some (.wf 5)
  | 0x010 => some .fpflags | 0x011 => some .hen | 0x012 => some .pend | 0x013 => some .susp
  | 0x014 => some .resume | 0x015 => some .timer | 0x016 => some .tide | 0x017 => some .lclk
  | 0x018 => some .ffcnt | 0x019 => some (.fault 0) | 0x01A => some (.fault 1) | 0x01B => some (.fault 2)
  | 0x01C => some (.fault 3) | 0x01D => some .fpop
  | _ =>
    if 0x020 ≤ n ∧ n ≤ 0x02F then some (.hstat ⟨n % 16, Nat.mod_lt _ (by decide)⟩)
    else if h : 0x044 ≤ n ∧ n ≤ 0x05F then some (.chmap ⟨n - 0x044, by omega⟩)
    else none

/-- The number of a control word (R137). -/
def Ctl.num : Ctl → Nat
  | .cc => 0x000 | .ic => 0x001 | .icend => 0x002 | .wid => 0x003 | .shape => 0x004 | .slot => 0x005
  | .place => 0x006 | .asid => 0x007 | .wf k => 0x008 + k.val | .fpflags => 0x010 | .hen => 0x011 | .pend => 0x012
  | .susp => 0x013 | .resume => 0x014 | .timer => 0x015 | .tide => 0x016 | .lclk => 0x017 | .ffcnt => 0x018
  | .fault k => 0x019 + k.val | .fpop => 0x01D | .hstat h => 0x020 + h.val | .chmap k => 0x044 + k.val

/-- ALU forms (R85, R145). -/
def decodeAlu (n : Nat) : Except Reject Instr :=
  let d := regAt n 21; let a := regAt n 16; let b := regAt n 11
  match fld n 0 11 with
  | 0x000 => .ok (.add d a b) | 0x001 => .ok (.sub d a b) | 0x002 => .ok (.and d a b) | 0x003 => .ok (.or d a b)
  | 0x004 => .ok (.xor d a b) | 0x005 => .ok (.shl d a b) | 0x006 => .ok (.shr d a b) | 0x007 => .ok (.sra d a b)
  | 0x008 => .ok (.mul d a b) | 0x009 => .ok (.mulh d a b) | 0x00A => .ok (.mulhn d a b) | 0x00B => .ok (.div d a b)
  | 0x00C => .ok (.divn d a b) | 0x00D => .ok (.rem d a b) | 0x00E => .ok (.remn d a b) | 0x00F => .ok (.min d a b)
  | 0x010 => .ok (.max d a b) | 0x011 => .ok (.minn d a b) | 0x012 => .ok (.maxn d a b) | 0x013 => .ok (.slt d a b)
  | 0x014 => .ok (.sltn d a b) | 0x015 => .ok (.seq d a b)
  | _ => .error .reservedFunction

/-- fcvt (R85, R159): kind in fn[5:0], rounding in fn[8:6], saturation in fn[10:9], rb zero. -/
def decodeFcvt (n : Nat) : Except Reject Instr :=
  let d := regAt n 21; let a := regAt n 16
  if fld n 11 5 ≠ 0 then .error .unusedField else
  match rndOf (fld n 6 3), satOf (fld n 9 2) with
  | some m, some s =>
    match fld n 0 6 with
    | 0x10 => accept (s == .ieee) .reservedCode (.fcvtF32I32 d a m)
    | 0x11 => accept (s == .ieee) .reservedCode (.fcvtF32N32 d a m)
    | 0x12 => accept (s == .ieee) .reservedCode (.fcvtF32I64 d a m)
    | 0x13 => accept (s == .ieee) .reservedCode (.fcvtF32N64 d a m)
    | 0x14 => .ok (.fcvtI32F32 d a m s)
    | 0x15 => .ok (.fcvtN32F32 d a m s)
    | 0x16 => .ok (.fcvtI64F32 d a m s)
    | 0x17 => .ok (.fcvtN64F32 d a m s)
    | 0x18 => accept (m == .rne && s == .ieee) .reservedCode (.fcvtF32Bf16 d a)
    | 0x19 => accept (m == .rne && s == .ieee) .reservedCode (.fcvtF32F16 d a)
    | 0x1A => accept s.okFloat .reservedCode (.fcvtBf16F32 d a m s)
    | 0x1B => accept s.okFloat .reservedCode (.fcvtF16F32 d a m s)
    | _ => .error .reservedFunction
  | _, _ => .error .reservedCode

/-- FPU forms (R85, R157 to R159). -/
def decodeFpu (n : Nat) : Except Reject Instr :=
  let d := regAt n 21; let a := regAt n 16; let b := regAt n 11
  match fld n 0 11 with
  | 0x000 => .ok (.fadd d a b) | 0x001 => .ok (.fsub d a b) | 0x002 => .ok (.fmul d a b) | 0x003 => .ok (.fma d a b)
  | 0x004 => .ok (.fmin d a b) | 0x005 => .ok (.fmax d a b) | 0x008 => .ok (.fcmpEq d a b) | 0x009 => .ok (.fcmpLt d a b)
  | 0x00A => .ok (.fcmpLe d a b) | 0x00B => .ok (.fcmpUn d a b)
  | _ => decodeFcvt n

/-- AMO forms (R85, R150, R151, R153). -/
def decodeAmo (n : Nat) : Except Reject Instr :=
  let d := regAt n 21; let a := regAt n 16; let b := regAt n 11; let w := bit n 4
  if fld n 0 11 = 0x080 then .ok (.waitv d a b) else
  match fld n 6 5, fld n 5 1, fld n 0 4 with
  | 0, 0, 0 => .ok (.amoAdd d a b w)
  | 0, 0, 1 => .ok (.amoAnd d a b w)
  | 0, 0, 2 => .ok (.amoOr d a b w)
  | 0, 0, 3 => .ok (.amoXor d a b w)
  | 0, 0, 4 => .ok (.amoMin d a b w)
  | 0, 0, 5 => .ok (.amoMax d a b w)
  | 0, 0, 6 => .ok (.amoMinn d a b w)
  | 0, 0, 7 => .ok (.amoMaxn d a b w)
  | 0, 0, 8 => .ok (.amoSwap d a b w)
  | 0, 0, 9 => accept (!w) .illegalPairing (.amoFadd d a b)
  | 1, 0, 0 => .ok (.cas d a b w)
  | _, _, _ => .error .reservedFunction

/-- HANDLE forms (R85, R160, R161, R163): the handle number in ra is 0 to 15. -/
def decodeHandle (n : Nat) : Except Reject Instr :=
  let h := fin16At n 16; let b := regAt n 11; let d := regAt n 21
  if bit n 20 then .error .handleNumber else
  match fld n 0 11 with
  | 0x000 => accept (fld n 21 5 == 0) .unusedField (.hwait h b)
  | 0x001 => accept (fld n 21 5 == 0) .unusedField (.hroom h b)
  | 0x002 => accept (fld n 21 5 == 0) .unusedField (.hpop h b)
  | 0x003 => accept (fld n 21 5 == 0) .unusedField (.hpush h b)
  | 0x004 => accept (fld n 11 5 == 0) .unusedField (.hget d h)
  | 0x005 => accept (fld n 21 5 == 0 && fld n 11 5 == 0) .unusedField (.idrain h)
  | _ => .error .reservedFunction

/-- COURSE forms (R85, R164, R165, R167). -/
def decodeCourse (n : Nat) : Except Reject Instr :=
  match fld n 0 11 with
  | 0x000 => accept (fld n 11 15 == 0) .unusedField .next
  | 0x001 => accept (fld n 11 10 == 0) .unusedField (.claim (regAt n 21))
  | 0x002 => accept (fld n 11 15 == 0) .unusedField .done
  | _ => .error .reservedFunction

/-- SYNC forms (R85, R168 to R172). -/
def decodeSync (n : Nat) : Except Reject Instr :=
  let d := regAt n 21; let a := regAt n 16; let b := regAt n 11
  match fld n 0 11 with
  | 0x000 => accept (fld n 21 5 == 0) .unusedField (.send a b)
  | 0x001 => accept (fld n 11 5 == 0) .unusedField (.recv d a)
  | 0x002 => accept (fld n 11 5 == 0) .unusedField (.arrive d a)
  | 0x003 => accept (fld n 21 5 == 0) .unusedField (.await a b)
  | _ =>
    if fld n 0 4 = 4 ∧ fld n 8 3 = 0 then
      match scopeOf (fld n 4 4) with
      | some c => accept (fld n 11 15 == 0) .unusedField (.fence c)
      | none => .error .reservedCode
    else .error .reservedFunction

/-- SYS forms (R85, R173). -/
def decodeSys (n : Nat) : Except Reject Instr :=
  if fld n 0 4 = 3 then accept (fld n 11 15 == 0) .unusedField (.trap (BitVec.ofNat 7 (fld n 4 7))) else
  match fld n 0 11 with
  | 0 => accept (fld n 11 15 == 0) .unusedField .nop
  | 1 => accept (fld n 11 15 == 0) .unusedField .halt
  | 2 => accept (fld n 11 15 == 0) .unusedField .wfe
  | 4 => accept (fld n 11 15 == 0) .unusedField .eret
  | 5 => accept (fld n 11 10 == 0) .unusedField (.time (regAt n 21))
  | 6 => accept (fld n 21 5 == 0 && fld n 11 5 == 0) .unusedField (.waitt (regAt n 16))
  | 7 => accept (fld n 11 15 == 0) .unusedField .ret
  | _ => .error .reservedFunction

/-- mtc (R86, R136, R137): a read-only or unassigned number is illegal. -/
def decodeMtc (n : Nat) : Except Reject Instr :=
  let a := regAt n 16
  if fld n 21 5 ≠ 0 then .error .unusedField else
  match ctlOf (fld n 0 16) with
  | some .fpflags => .ok (.mtcFpflags a)
  | some .hen => .ok (.mtcHen a)
  | some .resume => .ok (.mtcResume a)
  | some .timer => .ok (.mtcTimer a)
  | some .fpop => .ok (.mtcFpop a)
  | some (.chmap k) => .ok (.mtcChmap a k)
  | some _ => .error .readOnlyControl
  | none => .error .unassignedControl

/-- pdcl (R86, R372). -/
def decodePdcl (n : Nat) : Except Reject Instr :=
  if fld n 22 4 ≠ 0 then .error .unusedField else
  match scopeOf (fld n 12 4), poolOpOf (fld n 8 4) with
  | some sc, some op =>
    let ty := poolTypeOf (fld n 6 2)
    accept (op.pairs ty && sc != .node) .illegalPairing (.pdcl (bit n 21) (regAt n 16) sc op ty (fin64At n 0))
  | _, _ => .error .reservedCode

/-- prd and prd.c (R86, R374). -/
def decodePrd (n : Nat) : Except Reject Instr :=
  if fld n 16 5 ≠ 0 ∨ fld n 7 9 ≠ 0 then .error .unusedField
  else if bit n 6 then .ok (.prdC (regAt n 21) (fin64At n 0)) else .ok (.prd (regAt n 21) (fin64At n 0))

/-- cop and cop.r (R83, R88, R175). -/
def decodeCop (n : Nat) : Except Reject Instr :=
  if fld n 0 3 ≠ 0 then .error .unusedField else
  match engClassOf (fld n 8 3) with
  | none => .error .reservedCode
  | some c =>
    let op := BitVec.ofNat 4 (fld n 4 4)
    if bit n 3 then .ok (.copR (regAt n 21) (regAt n 16) (regAt n 11) c op)
    else accept (fld n 21 5 == 0) .unusedField (.cop (regAt n 16) (regAt n 11) c op)

/-- The decoder of conduct words (R83 to R88): total on every 32-bit word, refusing by name. -/
def decodeConduct (n : Nat) : Except Reject Instr :=
  let d := regAt n 21; let a := regAt n 16; let imm := BitVec.ofNat 16 (fld n 0 16)
  let sh := BitVec.ofNat 6 (fld n 0 6); let shOk := fld n 6 10 == 0
  let off26 := BitVec.ofNat 26 (fld n 0 26)
  match fld n 26 6 with
  | 0x01 => decodeAlu n
  | 0x02 => decodeFpu n
  | 0x03 => decodeAmo n
  | 0x04 => decodeHandle n
  | 0x05 => decodeCourse n
  | 0x06 => decodeSync n
  | 0x07 => decodeSys n
  | 0x08 => .ok (.addi d a imm)
  | 0x09 => .ok (.andi d a imm)
  | 0x0A => .ok (.ori d a imm)
  | 0x0B => .ok (.xori d a imm)
  | 0x0C => accept shOk .unusedField (.shli d a sh)
  | 0x0D => accept shOk .unusedField (.shri d a sh)
  | 0x0E => accept shOk .unusedField (.srai d a sh)
  | 0x0F => .ok (.slti d a imm)
  | 0x10 => accept (fld n 18 3 == 0) .unusedField (.lhi d (BitVec.ofNat 2 (fld n 16 2)) imm)
  | 0x11 =>
    if fld n 16 5 ≠ 0 then .error .unusedField else
    match ctlOf (fld n 0 16) with
    | some c => .ok (.mfc d c)
    | none => .error .unassignedControl
  | 0x12 => decodeMtc n
  | 0x13 => accept (fld n 4 22 == 0) .unusedField (.goto (BitVec.ofNat 4 (fld n 0 4)))
  | 0x14 => decodePdcl n
  | 0x15 => accept (fld n 21 5 == 0 && fld n 6 10 == 0) .unusedField (.pcon a (fin64At n 0))
  | 0x16 => decodePrd n
  | 0x17 => accept (fld n 16 5 == 0 && fld n 6 10 == 0) .unusedField (.pset d (fin64At n 0))
  | 0x18 => .ok (.ldB d a imm)
  | 0x19 => .ok (.ldH d a imm)
  | 0x1A => .ok (.ldW d a imm)
  | 0x1B => .ok (.ldD d a imm)
  | 0x1C => .ok (.ldBN d a imm)
  | 0x1D => .ok (.ldHN d a imm)
  | 0x1E => .ok (.ldWN d a imm)
  | 0x20 => .ok (.stB d a imm)
  | 0x21 => .ok (.stH d a imm)
  | 0x22 => .ok (.stW d a imm)
  | 0x23 => .ok (.stD d a imm)
  | 0x28 => .ok (.bEq d a imm)
  | 0x29 => .ok (.bNe d a imm)
  | 0x2A => .ok (.bLt d a imm)
  | 0x2B => .ok (.bGe d a imm)
  | 0x2C => .ok (.bLtn d a imm)
  | 0x2D => .ok (.bGen d a imm)
  | 0x30 => .ok (.jmp off26)
  | 0x31 => .ok (.call off26)
  | 0x32 => .ok (.issue d a imm)
  | 0x33 => decodeCop n
  | _ => .error .reservedPrimary

/-! ### Stream commands (R89 to R92) -/

def edgeAt (n : Nat) : EdgePort := ⟨n / 2 ^ 110 % 32, Nat.mod_lt _ (by decide)⟩

/-- PORT is of class W or E (R90). -/
def edgeOk (n : Nat) : Bool := !bit n 115

def gateOf : Nat → Gate
  | 0 => .none | 1 => .whole | 2 => .hold | _ => .slot

def drainOf : Nat → Drain
  | 0 => .none | 1 => .fabric | 2 => .stash | _ => .pool

/-- The layout of R259. -/
def bindArgsAt (n : Nat) : BindArgs :=
  { h := fin16At n 116, port := edgeAt n, slots := BitVec.ofNat 14 (fld n 96 14), fv := bit n 95,
    foot := BitVec.ofNat 8 (fld n 87 8), gate := gateOf (fld n 85 2), ends := bit n 84,
    desc := BitVec.ofNat 16 (fld n 64 16), base := BitVec.ofNat 64 (fld n 0 64) }

/-- HANDLE, PORT and SLOTS are zero where the command does not use them (R90). -/
def topZero (n : Nat) : Bool := fld n 96 24 == 0
def handleSlotsZero (n : Nat) : Bool := fld n 116 4 == 0 && fld n 96 14 == 0

/-- The fields of mrow and mcol (R242); the codes 7 of WAW and 3 of LA are refused, and PORT is of class MA. -/
def matArgsAt (n : Nat) : Except Reject MatArgs :=
  if fld n 114 2 ≠ 2 then .error .portClass
  else if fld n 90 6 ≠ 0 ∨ fld n 16 48 ≠ 0 ∨ fld n 0 6 ≠ 0 then .error .unusedField
  else if hw : fld n 83 3 < 7 then
    if hl : fld n 81 2 < 3 then
      .ok { h := fin16At n 116, port := fin16At n 110, slots := BitVec.ofNat 14 (fld n 96 14), asrc := bit n 89,
            zero := bit n 88, dr := drainOf (fld n 86 2), waw := ⟨fld n 83 3, hw⟩, la := ⟨fld n 81 2, hl⟩,
            zh := fin16At n 77, npm := regAt n 72, zbase := BitVec.ofNat 8 (fld n 64 8), pool := fin64At n 10,
            lane := fin16At n 6 }
    else .error .reservedCode
  else .error .reservedCode

/-- Accept a command whose fields are those of its description, or refuse it (R92). -/
def accCmd (ok : Bool) (i : Instr) : Except Reject Instr :=
  if ok then (if i.wf then .ok i else .error .fieldValue) else .error .unusedField

/-- The decoder of stream commands (R90, R92): what a command's own bits decide. -/
def decodeStream (n : Nat) : Except Reject Instr :=
  let b := bindArgsAt n; let port := edgeAt n; let h := fin16At n 116
  let slots := BitVec.ofNat 14 (fld n 96 14); let fb := BitVec.ofNat 64 (fld n 0 64)
  let onEdge := fun (r : Except Reject Instr) => if edgeOk n then r else .error .portClass
  match fld n 120 8 with
  | 0x01 => onEdge (accCmd (fld n 80 4 == 0) (.bindr b))
  | 0x02 => onEdge (accCmd (fld n 80 4 == 0) (.bindw b))
  | 0x03 =>
    let sh := BitVec.ofNat 2 (fld n 80 2)
    match fld n 82 2 with
    | 0 => onEdge (accCmd true (.bindg b .mem sh))
    | 1 => onEdge (accCmd true (.bindg b .fab sh))
    | 2 => onEdge (accCmd true (.bindg b .pa sh))
    | _ => .error .reservedCode
  | 0x04 => onEdge (accCmd (fld n 82 2 == 0) (.binds b (BitVec.ofNat 2 (fld n 80 2))))
  | 0x05 => onEdge (accCmd (fld n 0 83 == 0 && fld n 85 11 == 0) (.bindf h port slots (bit n 84) (bit n 83)))
  | 0x06 => onEdge (accCmd (fld n 80 2 == 0) (.bindc b (bit n 83) (bit n 82)))
  | 0x10 => onEdge (accCmd (fld n 96 14 == 0) (.weir h port (BitVec.ofNat 16 (fld n 80 16)) (BitVec.ofNat 16 (fld n 64 16)) fb))
  | 0x11 =>
    let bar := BitVec.ofNat 57 (fld n 0 57); let ph := BitVec.ofNat 32 (fld n 64 32)
    if topZero n && fld n 57 5 == 0 then
      match bit n 63, bit n 62 with
      | false, false => accCmd (fld n 0 57 == 0 && fld n 64 32 == 0) .barrierFence
      | true, false => accCmd (fld n 64 32 == 0) (.barrierArrive bar)
      | true, true => accCmd (fld n 64 32 == 0) (.barrierArriveWait bar)
      | false, true => .ok (.barrierWait bar ph)
    else .error .unusedField
  | 0x12 => onEdge (accCmd (handleSlotsZero n && fld n 0 64 == 0 && fld n 73 23 == 0) (.meter port (BitVec.ofNat 9 (fld n 64 9))))
  | 0x13 => accCmd (topZero n && fld n 73 23 == 0) (.snap fb (bit n 72) (BitVec.ofNat 8 (fld n 64 8)))
  | 0x14 => accCmd (topZero n && fld n 70 1 == 0 && fld n 57 7 == 0)
      (.relatch (BitVec.ofNat 16 (fld n 80 16)) (BitVec.ofNat 57 (fld n 0 57)) (BitVec.ofNat 6 (fld n 64 6)) (bit n 71) (BitVec.ofNat 8 (fld n 72 8)))
  | 0x18 => accCmd (topZero n && fld n 84 12 == 0 && fld n 9 55 == 0)
      (.seal (BitVec.ofNat 20 (fld n 64 20)) (bit n 8) (BitVec.ofNat 8 (fld n 0 8)))
  | 0x19 => onEdge
      (if handleSlotsZero n && fld n 85 11 == 0 && fld n 0 64 == 0 then
        (if bit n 84 then accCmd (fld n 64 20 == 0) (.gbindDetach port) else .ok (.gbind port (BitVec.ofNat 20 (fld n 64 20))))
       else .error .unusedField)
  | 0x20 =>
    match engClassOf (fld n 80 2) with
    | none => .error .reservedCode
    | some c =>
      if topZero n && fld n 83 13 == 0 && fld n 70 10 == 0 then
        (if bit n 82 then accCmd (fld n 0 64 == 0) (.msgBind (BitVec.ofNat 6 (fld n 64 6)) c)
         else accCmd (fld n 64 6 == 0) (.msg c fb))
      else .error .unusedField
  | 0x21 =>
    match engClassOf (fld n 90 2) with
    | none => .error .reservedCode
    | some c => accCmd (topZero n && fld n 80 8 == 0)
        (.card c (BitVec.ofNat 4 (fld n 92 4)) (BitVec.ofNat 2 (fld n 88 2)) (BitVec.ofNat 8 (fld n 64 8)) (BitVec.ofNat 8 (fld n 72 8)) fb)
  | 0x28 => accCmd (topZero n && fld n 64 32 == 0) (.atime fb)
  | 0x29 => onEdge (accCmd (handleSlotsZero n && fld n 0 64 == 0) (.ctl port (BitVec.ofNat 32 (fld n 64 32))))
  | 0x2A => accCmd (topZero n) (.syncw fb (BitVec.ofNat 32 (fld n 64 32)))
  | 0x30 => accCmd (fld n 110 6 == 0 && fld n 0 64 == 0 && fld n 83 13 == 0)
      (.mload h slots (bit n 82) (bit n 81) (BitVec.ofNat 3 (fld n 78 3)) (BitVec.ofNat 7 (fld n 71 7)) (BitVec.ofNat 7 (fld n 64 7)))
  | 0x31 => accCmd (fld n 0 120 == 0) .mswap
  | 0x32 => (matArgsAt n).bind fun m => accCmd true (.mrow m)
  | 0x33 => (matArgsAt n).bind fun m => accCmd true (.mcol m)
  | 0x34 =>
    let y := BitVec.ofNat 6 (fld n 72 6); let x := BitVec.ofNat 6 (fld n 64 6)
    if topZero n && fld n 0 64 == 0 && fld n 82 14 == 0 && fld n 78 2 == 0 && fld n 70 2 == 0 then
      match fld n 80 2 with
      | 0 => .ok (.moriginFixed y x)
      | 1 => .ok (.moriginWalk y x)
      | _ => .error .reservedCode
    else .error .unusedField
  | 0x35 =>
    if fld n 114 2 ≠ 2 then .error .portClass
    else accCmd (fld n 0 96 == 0) (.mmask h (BitVec.ofNat 4 (fld n 110 4)) slots)
  | _ => .error .reservedOpcode

/-! ### Cell and router words (R93 to R98), weir words (R99, R295, R296, R299), chunk node words (R100, R101) -/

def fmtOf : Nat → Option Fmt
  | 0 => some .f32 | 1 => some .bf16 | 2 => some .f16 | 3 => some .i8 | 4 => some .n8 | 5 => some .i16 | 6 => some .n16
  | 7 => some .i32 | 8 => some .n32 | 9 => some .bfp | _ => none

def widthOf : Nat → Option Width
  | 0 => some .w32 | 1 => some .w16 | 2 => some .w8 | _ => none

/-- The width that a format requires (R94). -/
def Fmt.fabricWidth : Fmt → Width
  | .f32 => .w32 | .i32 => .w32 | .n32 => .w32 | .i64 => .w32 | .n64 => .w32
  | .bf16 => .w16 | .f16 => .w16 | .i16 => .w16 | .n16 => .w16
  | .i8 => .w8 | .n8 => .w8 | .bfp => .w8

def Fmt.isFloat : Fmt → Bool
  | .f32 => true | .bf16 => true | .f16 => true | _ => false

def Fmt.isInt (f : Fmt) : Bool := !f.isFloat && f != .bfp

def cellOpOf : Nat → Option CellOp
  | 0x01 => some .add | 0x02 => some .sub | 0x03 => some .mul | 0x04 => some .fma | 0x05 => some .min | 0x06 => some .max
  | 0x07 => some .abs | 0x08 => some .neg | 0x09 => some .and | 0x0A => some .or | 0x0B => some .xor | 0x0C => some .shl
  | 0x0D => some .shr | 0x0E => some .sra | 0x0F => some .cmp | 0x10 => some .sel | 0x11 => some .mov
  | 0x12 => some .scale | 0x13 => some .popc | 0x14 => some .clz | 0x18 => some .cvt | 0x19 => some .qnt
  | 0x1A => some .dqn | 0x20 => some .acc | 0x21 => some .runacc | 0x22 => some .cnt | 0x28 => some .xfn
  | 0x29 => some .rcpe | 0x30 => some .join | 0x38 => some .mld | 0x39 => some .mst | 0x3A => some .mamo
  | 0x3B => some .xlat | 0x3C => some .msgout | 0x40 => some .poolc | 0x41 => some .stat | 0x42 => some .nfin
  | 0xE0 => some .rmwFadd | 0xE1 => some .rmwIadd | 0xE2 => some .rmwFmax | 0xE3 => some .clipb | 0xE4 => some .gauge
  | 0xE5 => some .pack | 0xE6 => some .unpack | _ => none

/-- The placement classes of R97. -/
def CellOp.placedAt : CellOp → Placement → Bool
  | .mov, _ => true
  | .mld, p => p == .port | .mst, p => p == .port | .mamo, p => p == .port | .xlat, p => p == .port | .msgout, p => p == .port
  | .qnt, p => p == .cell | .dqn, p => p == .cell | .acc, p => p == .cell | .runacc, p => p == .cell | .cnt, p => p == .cell
  | .xfn, p => p == .cell | .join, p => p == .cell | .stat, p => p == .cell | .nfin, p => p == .cell
  | .rmwFadd, p => p == .weir | .rmwIadd, p => p == .weir | .rmwFmax, p => p == .weir | .clipb, p => p == .weir
  | .gauge, p => p == .weir | .pack, p => p == .weir | .unpack, p => p == .weir
  | _, p => p != .port

/-- The formats an operation accepts (R192 to R208, R212, R217 to R220, R301 to R304). -/
def CellOp.fmtOk : CellOp → Fmt → Bool
  | .add, f => f != .bfp | .sub, f => f != .bfp | .mul, f => f != .bfp | .fma, f => f != .bfp | .min, f => f != .bfp
  | .max, f => f != .bfp | .abs, f => f != .bfp | .neg, f => f != .bfp | .cmp, f => f != .bfp
  | .and, f => f.isInt | .or, f => f.isInt | .xor, f => f.isInt | .shl, f => f.isInt | .shr, f => f.isInt
  | .sra, f => f.isInt | .popc, f => f.isInt | .clz, f => f.isInt | .cnt, f => f.isInt
  | .scale, f => f.isFloat | .qnt, f => f.isFloat | .dqn, f => f.isFloat | .nfin, f => f.isFloat
  | .clipb, f => f.isFloat | .gauge, f => f.isFloat
  | .sel, _ => true | .mov, _ => true | .mld, _ => true | .mst, _ => true
  | .cvt, f => f != .bfp | .acc, f => f != .bfp
  | .xlat, f => f != .bfp | .msgout, f => f != .bfp
  | .runacc, f => f == .f32 || f == .i32 || f == .n32
  | .xfn, f => f == .f32 | .rcpe, f => f == .f32 | .join, f => f == .n32
  | .mamo, f => f == .f32 || f == .i32 || f == .n32
  | .poolc, f => f == .f32 || f == .i32 || f == .n32
  | .stat, f => f.isFloat
  | .rmwFadd, f => f == .f32 | .rmwFmax, f => f == .f32 | .rmwIadd, f => f == .i32 || f == .n32
  | .pack, f => f == .bfp | .unpack, f => f == .bfp

/-- The sub-codes an operation defines (R97, R194, R197, R201, R204, R208, R212). -/
def CellOp.subOk (o : CellOp) (f : Fmt) (sub : Nat) : Bool :=
  match o with
  | .cmp => decide (sub ≤ 6) && (sub != 6 || f.isFloat)
  | .cvt => match fmtOf sub with
    | some g => g != .bfp && g != f
    | none => false
  | .qnt => decide (sub ≤ 1)
  | .acc => decide (sub ≤ 5) && (decide (sub ≤ 2) || f.isInt)
  | .runacc => decide (sub ≤ 5) && (decide (sub ≤ 2) || f.isInt)
  | .xfn => decide (sub ≤ 5)
  | .join => decide (sub ≤ 1)
  | .mamo => decide (sub ≤ 9) && (sub != 9 || f == .f32)
  | _ => sub == 0

/-- Operands read beyond a. -/
def CellOp.readsB : CellOp → Bool
  | .add => true | .sub => true | .mul => true | .fma => true | .min => true | .max => true | .and => true | .or => true
  | .xor => true | .shl => true | .shr => true | .sra => true | .cmp => true | .sel => true | .scale => true
  | .runacc => true | .join => true | _ => false

def CellOp.readsC : CellOp → Bool
  | .fma => true | .sel => true | _ => false

/-- PRED may hold a predicate (R186). -/
def CellOp.predicable : CellOp → Bool
  | .cvt => false | .qnt => false | .dqn => false | .runacc => false | .cnt => false | .xfn => false | .rcpe => false
  | .join => false | .xlat => false | .msgout => false | .rmwFadd => false | .rmwIadd => false | .rmwFmax => false
  | .clipb => false | .gauge => false | .pack => false | .unpack => false | _ => true

/-- PRED is the side port (R200). -/
def CellOp.hasSide : CellOp → Bool
  | .cvt => true | .qnt => true | .dqn => true | _ => false

/-- INDEX and COUNT (R97, R201, R203, R213, R217, R219, R302, R303). -/
def CellOp.indexOk (o : CellOp) (sub gauges index count : Nat) : Bool :=
  match o with
  | .qnt => count == 0 && (if sub = 1 then decide (index < 4096) && decide (index < gauges) else index == 0)
  | .stat => count == 0 && decide (index < 4096) && decide (index < gauges)
  | .clipb => count == 0 && decide (index < 4096) && decide (index < gauges)
  | .gauge => count == 0 && decide (index < 4096) && decide (index < gauges)
  | .poolc => count == 0 && index % 64 == 0
  | .acc => index == 0
  | .cnt => index == 0
  | .mld => decide (count < 2 ^ 24) && (count / 256 % 256 != 0 || (index == 0 && count == 0))
  | .mst => decide (count < 2 ^ 24) && (count / 256 % 256 != 0 || (index == 0 && count == 0))
  | .mamo => decide (count < 2 ^ 24) && (count / 256 % 256 != 0 || (index == 0 && count == 0))
  | _ => index == 0 && count == 0

/-- COMM = 1 (R97, R201). -/
def CellOp.commOk (o : CellOp) (f : Fmt) (sub count : Nat) : Bool :=
  match o with
  | .acc => count == 0 && (sub != 0 || f.isInt)
  | .poolc => true | .rmwFadd => true | .rmwIadd => true | .rmwFmax => true
  | _ => false

/-- The burst code (R96): B = 1 for bfp streams. DESIGN CHOICE (log entry 61): a word with B = 1 and another FMT, whose op is neither qnt
nor dqn, is refused; R96 says only where B must be 1. -/
def burstOk (needsBfp : Bool) (b : Bool) (bw bl : Nat) : Bool :=
  bw != 7 && b == needsBfp && (if b then decide (1 ≤ bl) && decide (bl ≤ 4) else bw == 0)

/-- Input selects of a fabric word (R95). -/
def inSelOf : Nat → Option InSel
  | 0 => some .none | 1 => some (.link .n) | 2 => some (.link .e) | 3 => some (.link .s) | 4 => some (.link .w)
  | 5 => some .self | 6 => some .const | _ => none

/-- Input selects of weir node i (R296). -/
def weirSelOf (i n : Nat) : Option InSel :=
  if n = 0 then some .none else if n = 1 then some .stream else if n = 5 then some .self else if n = 6 then some .const
  else if h : 8 ≤ n ∧ n < 16 then (if n - 8 < i then some (.node ⟨n - 8, by omega⟩) else none)
  else none

/-- Whether the result of a word is an integer, a float, or a bfp block, for the saturation codes of R40. -/
def satOkFor (o : CellOp) (f : Fmt) (sub : Nat) (s : Sat) : Bool :=
  match s with
  | .wrap =>
    match o with
    | .cvt => match fmtOf sub with
      | some g => g.isInt
      | none => false
    | .qnt => false
    | .dqn => false
    | .cmp => true
    | _ => f.isInt
  | _ => true

/-- WIDTH agrees with FMT, with the target for cvt, and is W8 for qnt (R94, R197, R198). -/
def widthOk (o : CellOp) (f : Fmt) (sub : Nat) (w : Width) : Bool :=
  match o with
  | .cvt => match fmtOf sub with
    | some g => w == g.fabricWidth
    | none => false
  | .qnt => w == .w8
  | _ => w == f.fabricWidth

/-- The checks of R93 to R97 (and R201 to R220, R301) on a word's fields. DESIGN CHOICE (log entry 61): a side port with select 5 or 6 is
accepted, and no token ever stands at it. -/
def cellFieldsOk (place : Placement) (gauges : Nat) (o : CellOp) (f : Fmt) (sub : Nat) (w : Width) (rnd : Rnd) (s : Sat)
    (comm : Bool) (a b c p : InSel) (bfp : Bool) (bw bl index const count : Nat) : Bool :=
  o.placedAt place && o.fmtOk f && o.subOk f sub && widthOk o f sub w && satOkFor o f sub s &&
  (b == .none || o.readsB) && (c == .none || o.readsC) && (p == .none || o.predicable || o.hasSide) &&
  o.indexOk sub gauges index count && (!comm || o.commOk f sub count) &&
  burstOk (f == .bfp || o == .qnt || o == .dqn) bfp bw bl &&
  (match o with
   | .cnt => a == .none || const % 65536 == 0
   | .rmwFadd => rnd == .rne && s == .ieee && bl == 0
   | .rmwIadd => rnd == .rne && s == .ieee && bl == 0
   | .rmwFmax => rnd == .rne && s == .ieee && bl == 0
   | _ => true)

/-- A cell word with its selects read by `sel` (R93). -/
def decodeCellWith (sel : Nat → Option InSel) (place : Placement) (gauges : Nat) (n : Nat) : Option CellWord :=
  match cellOpOf (fld n 120 8), widthOf (fld n 118 2), rndOf (fld n 115 3), satOf (fld n 113 2),
        fmtOf (fld n 84 4), sel (fld n 108 4), sel (fld n 104 4), sel (fld n 100 4), sel (fld n 96 4) with
  | some o, some w, some r, some s, some f, some a, some b, some c, some p =>
    let sub := fin16At n 80
    let bw : Fin 8 := ⟨n / 2 ^ 91 % 8, Nat.mod_lt _ (by decide)⟩
    let bl : Fin 8 := ⟨n / 2 ^ 88 % 8, Nat.mod_lt _ (by decide)⟩
    if !bit n 95 && cellFieldsOk place gauges o f sub.val w r s (bit n 112) a b c p (bit n 94) bw.val bl.val
        (fld n 64 16) (fld n 32 32) (fld n 0 32) then
      some { op := o, width := w, fmt := f, sub := sub, rnd := r, sat := s, comm := bit n 112, ina := a, inb := b,
             inc := c, pred := p, bfp := bit n 94, bw := bw, bl := bl, index := BitVec.ofNat 16 (fld n 64 16),
             const := BitVec.ofNat 32 (fld n 32 32), count := BitVec.ofNat 32 (fld n 0 32) }
    else none
  | _, _, _, _, _, _, _, _, _ => none

/-- The links that exist at a cell of the grid (R95): no north link in row 0, a south link in row 15 only at odd
columns. -/
def linkExists (row col : Nat) : Dir → Bool
  | .n => row != 0
  | .s => row != 15 || col % 2 == 1
  | _ => true

def InSel.okAt (row col : Nat) : InSel → Bool
  | .link d => linkExists row col d
  | _ => true

/-- The direction in which a port cell's own words write its fabric link (R210). -/
def portDir (port : Nat) : Dir := if port < 16 then .e else .w

def InSel.okPort (port : Nat) : InSel → Bool
  | .link d => d == portDir port
  | .self => true | .const => true | .none => true
  | _ => false

def CellWord.selsOk (w : CellWord) (ok : InSel → Bool) : Bool := ok w.ina && ok w.inb && ok w.inc && ok w.pred

/-- A source of a router output: codes 1 to 5 (R98). -/
def rsrcOf : Nat → Option RSrc
  | 1 => some (.link .n) | 2 => some (.link .e) | 3 => some (.link .s) | 4 => some (.link .w) | 5 => some .result | _ => none

/-- The operator of an output field from its ROP, ALT and CTLS (R98): none when a code is reserved, a source that the operator needs is
missing, or one that it has not is given. -/
def ropOf (rop alt ctl : Nat) : Option ROp :=
  match rop with
  | 0 => if alt = 0 ∧ ctl = 0 then some .pass else none
  | 1 => if alt = 0 then (rsrcOf ctl).map .steer else none
  | 2 => (rsrcOf alt).bind fun a => (rsrcOf ctl).map (.merge a)
  | 3 => (rsrcOf alt).bind fun a => (rsrcOf ctl).map (.carry a)
  | 4 => if alt = 0 then (rsrcOf ctl).map .repeat else none
  | 5 => if alt = 0 then (rsrcOf ctl).map .drop else none
  | _ => none

/-- A 16-bit output field (R98): none when refused, `some none` when off. The fields of an output that is off must hold values that
their own rows allow (R82), and say nothing. -/
def routerOutOf (n : Nat) : Option (Option RouterOut) :=
  let sel := n / 2 ^ 12 % 16
  match ropOf (n / 2 ^ 9 % 8) (n / 2 ^ 4 % 8) (n / 2 % 8) with
  | none => none
  | some o =>
    if sel = 0 then some none
    else (rsrcOf sel).map fun s =>
      some { src := s, op := o, hop := ⟨n / 2 ^ 7 % 4, Nat.mod_lt _ (by decide)⟩, sense := n % 2 == 1 }

def decodeRouter (n : Nat) : Option RouterWord :=
  match routerOutOf (n / 2 ^ 48 % 2 ^ 16), routerOutOf (n / 2 ^ 32 % 2 ^ 16), routerOutOf (n / 2 ^ 16 % 2 ^ 16),
        routerOutOf (n % 2 ^ 16) with
  | some a, some b, some c, some d => some ⟨a, b, c, d⟩
  | _, _, _, _ => none

def RouterWord.out (r : RouterWord) : Dir → Option RouterOut
  | .n => r.outN | .e => r.outE | .s => r.outS | .w => r.outW

/-- The sources that an output's data comes from: those it may route onward. -/
def ROp.sources (s : RSrc) : ROp → List RSrc
  | .pass => [s] | .steer c => [s, c] | .merge a c => [s, a, c] | .carry a c => [s, a, c] | .repeat c => [s, c]
  | .drop c => [s, c]

def ROp.dataSources (s : RSrc) : ROp → List RSrc
  | .merge a _ => [s, a] | .carry a _ => [s, a] | _ => [s]

def RouterOut.sources (o : RouterOut) : List RSrc := o.op.sources o.src

def RSrc.okAt (row col : Nat) : RSrc → Bool
  | .link d => linkExists row col d
  | .result => true

/-- The cell that a direction leads to, k links away: row and column plus 16, so that edges stay natural numbers. -/
def stepCell (row col : Nat) (d : Dir) (k : Nat) : Int × Int :=
  match d with
  | .n => ((row : Int) - k, col) | .s => ((row : Int) + k, col)
  | .e => (row, (col : Int) + k) | .w => (row, (col : Int) - k)

def inGrid (p : Int × Int) : Bool := decide (0 ≤ p.1) && decide (p.1 ≤ 15) && decide (0 ≤ p.2) && decide (p.2 ≤ 31)

/-- The checks of R98 that one cell's router word decides: nothing is routed back where it came from, sources exist, an
express hop stays in the grid, an output does not go into an absent edge link. DESIGN CHOICE (log entry 61): a source that names an absent
link is refused, and an express path may end at an edge port or an ma port. -/
def routerOutOkAt (row col : Nat) (d : Dir) (o : RouterOut) : Bool :=
  (o.op.dataSources o.src).all (fun s => s != .link d) &&
  o.sources.all (RSrc.okAt row col) &&
  (List.range o.hop.val).all (fun i => inGrid (stepCell row col d (i + 1))) &&
  (let e := stepCell row col d (o.hop.val + 1)
   inGrid e || d == .e && e.2 == 32 || d == .w && e.2 == -1 || (d == .s && e.1 == 16 && col % 2 == 0))

def dirs : List Dir := [.n, .e, .s, .w]

def RouterWord.okAt (r : RouterWord) (row col : Nat) : Bool :=
  dirs.all fun d => match r.out d with
    | none => true
    | some o => routerOutOkAt row col d o

/-- A router-only cell names no result (R58). -/
def RouterWord.noResult (r : RouterWord) : Bool :=
  dirs.all fun d => match r.out d with
    | none => true
    | some o => o.sources.all (· != .result)

/-- A port cell's router word: only the output toward its neighbour, which routes nothing back that came from there; the port's link
may control it (R98, R210, R212). -/
def RouterWord.okPort (r : RouterWord) (port : Nat) : Bool :=
  dirs.all fun d => match r.out d with
    | none => true
    | some o => d == portDir port && (o.op.dataSources o.src).all (· == .result) &&
        o.sources.all (fun s => s == .result || s == .link (portDir port))

/-- Why a configuration record is refused: the status of R56. -/
inductive ConfReject | type | word
  deriving DecidableEq, Repr

/-- A 32-byte configuration record (R58, R324, R343) in an image with that many gauge declarations. -/
def decodeConfRec (gauges : Nat) (n : Nat) : Except ConfReject ConfRec :=
  let ty := fld n 192 8
  if ty = 0x01 then
    let row := fin16At n 200; let col := regAt n 204
    match decodeRouter (fld n 128 64) with
    | none => .error .word
    | some r =>
      if fld n 209 47 ≠ 0 ∨ !r.okAt row.val col.val then .error .word
      else if fld n 0 128 = 0 then (if r.noResult then .ok (.cell row col none r) else .error .word)
      else
        match decodeCellWith inSelOf .cell gauges (fld n 0 128) with
        | some w => if w.selsOk (InSel.okAt row.val col.val) then .ok (.cell row col (some w) r) else .error .word
        | none => .error .word
  else if ty = 0x02 then
    let port := regAt n 200
    match decodeRouter (fld n 128 64), decodeCellWith inSelOf .port gauges (fld n 0 128) with
    | some r, some w =>
      if fld n 206 50 = 0 ∧ fld n 205 1 = 0 ∧ r.okPort port.val ∧ w.selsOk (InSel.okPort port.val) then .ok (.port port w r)
      else .error .word
    | _, _ => .error .word
  else if ty = 0x03 then
    let acc := fld n 128 2; let len := fld n 64 64; let base := fld n 0 57; let spill := bit n 130
    if fld n 211 45 = 0 ∧ fld n 206 2 = 0 ∧ fld n 205 1 = 0 ∧ fld n 131 61 = 0 ∧ fld n 57 7 = 0 ∧ acc ≠ 0 ∧
        (spill → fld n 208 3 = 7 ∧ acc = 3) ∧ len ≠ 0 ∧ len % 4096 = 0 ∧ base % 4096 = 0 ∧ base + len ≤ 2 ^ 57 then
      .ok (.window { port := regAt n 200, ent := ⟨n / 2 ^ 208 % 8, Nat.mod_lt _ (by decide)⟩, spill := spill,
                     rd := bit n 128, wr := bit n 129, base := base, len := len })
    else .error .word
  else if ty = 0x04 then
    if fld n 211 45 = 0 ∧ fld n 200 8 = 0 ∧ fld n 28 164 = 0 ∧ fld n 8 8 = 0 ∧ fld n 16 12 < gauges then
      .ok (.rill { node := ⟨n / 2 ^ 208 % 8, Nat.mod_lt _ (by decide)⟩, decl := fld n 16 12, wait := fld n 0 8 })
    else .error .word
  else .error .type

/-- Weir node record i (R295, R296, R299). -/
def decodeWeirNode (gauges i n : Nat) : Option CellWord :=
  if fld n 203 53 ≠ 0 ∨ fld n 200 3 ≠ i ∨ fld n 192 8 ≠ 1 ∨ fld n 128 64 ≠ 0 then none else
  match decodeCellWith (weirSelOf i) .weir gauges (fld n 0 128) with
  | none => none
  | some w =>
    match w.op with
    | .cvt => match fmtOf w.sub.val with
      | some g => if g.fabricWidth == w.fmt.fabricWidth then some w else none
      | none => none
    | _ => some w

/-- A chunk node word i of a graph of `count` nodes (R100, R101). -/
def decodeChunkNode (count i n : Nat) : Option ChunkNode :=
  let op := fld n 60 4; let peer := fld n 48 10; let rop := fld n 0 4
  let succ := fun k => if k = 0xFFF then some (none : Option Nat) else if k < count ∧ k ≠ i then some (some k) else none
  let cop : Option ChunkOp :=
    match op with
    | 1 => if rop = 0 then some (.send peer) else none
    | 2 => if rop = 0 then some (.recv peer) else none
    | 3 => if rop ≤ 6 ∧ peer = 0 then some (.red rop) else none
    | 4 => if rop = 0 ∧ peer = 0 then some .redc else none
    | 5 => if rop = 0 ∧ peer = 0 then some .copy else none
    | 6 => if rop = 0 ∧ peer = 0 then some .a2a else none
    | 7 => if rop = 0 ∧ peer = 0 then some .signal else none
    | _ => none
  match cop, succ (fld n 28 12), succ (fld n 16 12) with
  | some o, some a, some b =>
    some { op := o, cls := ⟨n / 2 ^ 58 % 4, Nat.mod_lt _ (by decide)⟩, dep := fld n 40 8, succA := a, succB := b,
           src := fin64At n 10, dst := fin64At n 4 }
  | _, _, _ => none


/-! ### Encoders, from the same tables -/

def Rnd.code : Rnd → Nat
  | .rne => 0 | .rtz => 1 | .rup => 2 | .rdn => 3 | .rna => 4

def Sat.code : Sat → Nat
  | .ieee => 0 | .clamp => 1 | .wrap => 2

def Scope.code : Scope → Nat
  | .node => 0 | .lvl k => k.val + 1 | .domain => 7

def PoolOp.code : PoolOp → Nat
  | .fadd => 0 | .faddc => 1 | .fmax => 2 | .fmin => 3 | .iadd => 4 | .iadds => 5 | .imax => 6 | .imin => 7
  | .nmax => 8 | .nmin => 9 | .or => 10 | .and => 11 | .xor => 12

def PoolType.code : PoolType → Nat
  | .f32 => 0 | .i32 => 1 | .n32 => 2 | .i64 => 3

def EngClass.code : EngClass → Nat
  | .copy => 0 | .weir => 1 | .cascade => 2 | .sluice => 3

def Gate.code : Gate → Nat
  | .none => 0 | .whole => 1 | .hold => 2 | .slot => 3

def Drain.code : Drain → Nat
  | .none => 0 | .fabric => 1 | .stash => 2 | .pool => 3

def bitOf (b : Bool) : Nat := if b then 1 else 0

/-- A word of the R format (R83). -/
def wordR (op d a b fn : Nat) : Nat := op * 2 ^ 26 + d * 2 ^ 21 + a * 2 ^ 16 + b * 2 ^ 11 + fn

/-- A word of the I, B or T format (R83). -/
def wordI (op d a imm : Nat) : Nat := op * 2 ^ 26 + d * 2 ^ 21 + a * 2 ^ 16 + imm

/-- A word of the J format (R83). -/
def wordJ (op off : Nat) : Nat := op * 2 ^ 26 + off

/-- An fcvt word (R85). -/
def wordCvt (kind : Nat) (d a : Reg) (m : Rnd) (s : Sat) : Nat :=
  wordR 0x02 d.val a.val 0 (kind + m.code * 2 ^ 6 + s.code * 2 ^ 9)

/-- An amo word (R85). -/
def wordAmo (op : Nat) (d a b : Reg) (w : Bool) : Nat := wordR 0x03 d.val a.val b.val (op + bitOf w * 2 ^ 4)

/-- The 32-bit word of a conduct instruction (R83 to R88); none for what is no conduct instruction. -/
def encodeConduct : Instr → Option Nat
  | .add d a b => some (wordR 0x01 d.val a.val b.val 0x000)
  | .sub d a b => some (wordR 0x01 d.val a.val b.val 0x001)
  | .and d a b => some (wordR 0x01 d.val a.val b.val 0x002)
  | .or d a b => some (wordR 0x01 d.val a.val b.val 0x003)
  | .xor d a b => some (wordR 0x01 d.val a.val b.val 0x004)
  | .shl d a b => some (wordR 0x01 d.val a.val b.val 0x005)
  | .shr d a b => some (wordR 0x01 d.val a.val b.val 0x006)
  | .sra d a b => some (wordR 0x01 d.val a.val b.val 0x007)
  | .mul d a b => some (wordR 0x01 d.val a.val b.val 0x008)
  | .mulh d a b => some (wordR 0x01 d.val a.val b.val 0x009)
  | .mulhn d a b => some (wordR 0x01 d.val a.val b.val 0x00A)
  | .div d a b => some (wordR 0x01 d.val a.val b.val 0x00B)
  | .divn d a b => some (wordR 0x01 d.val a.val b.val 0x00C)
  | .rem d a b => some (wordR 0x01 d.val a.val b.val 0x00D)
  | .remn d a b => some (wordR 0x01 d.val a.val b.val 0x00E)
  | .min d a b => some (wordR 0x01 d.val a.val b.val 0x00F)
  | .max d a b => some (wordR 0x01 d.val a.val b.val 0x010)
  | .minn d a b => some (wordR 0x01 d.val a.val b.val 0x011)
  | .maxn d a b => some (wordR 0x01 d.val a.val b.val 0x012)
  | .slt d a b => some (wordR 0x01 d.val a.val b.val 0x013)
  | .sltn d a b => some (wordR 0x01 d.val a.val b.val 0x014)
  | .seq d a b => some (wordR 0x01 d.val a.val b.val 0x015)
  | .fadd d a b => some (wordR 0x02 d.val a.val b.val 0x000)
  | .fsub d a b => some (wordR 0x02 d.val a.val b.val 0x001)
  | .fmul d a b => some (wordR 0x02 d.val a.val b.val 0x002)
  | .fma d a b => some (wordR 0x02 d.val a.val b.val 0x003)
  | .fmin d a b => some (wordR 0x02 d.val a.val b.val 0x004)
  | .fmax d a b => some (wordR 0x02 d.val a.val b.val 0x005)
  | .fcmpEq d a b => some (wordR 0x02 d.val a.val b.val 0x008)
  | .fcmpLt d a b => some (wordR 0x02 d.val a.val b.val 0x009)
  | .fcmpLe d a b => some (wordR 0x02 d.val a.val b.val 0x00A)
  | .fcmpUn d a b => some (wordR 0x02 d.val a.val b.val 0x00B)
  | .fcvtF32I32 d a m => some (wordCvt 0x10 d a m .ieee)
  | .fcvtF32N32 d a m => some (wordCvt 0x11 d a m .ieee)
  | .fcvtF32I64 d a m => some (wordCvt 0x12 d a m .ieee)
  | .fcvtF32N64 d a m => some (wordCvt 0x13 d a m .ieee)
  | .fcvtI32F32 d a m s => some (wordCvt 0x14 d a m s)
  | .fcvtN32F32 d a m s => some (wordCvt 0x15 d a m s)
  | .fcvtI64F32 d a m s => some (wordCvt 0x16 d a m s)
  | .fcvtN64F32 d a m s => some (wordCvt 0x17 d a m s)
  | .fcvtBf16F32 d a m s => some (wordCvt 0x1A d a m s)
  | .fcvtF16F32 d a m s => some (wordCvt 0x1B d a m s)
  | .fcvtF32Bf16 d a => some (wordCvt 0x18 d a .rne .ieee)
  | .fcvtF32F16 d a => some (wordCvt 0x19 d a .rne .ieee)
  | .amoAdd d a b w => some (wordAmo 0 d a b w)
  | .amoAnd d a b w => some (wordAmo 1 d a b w)
  | .amoOr d a b w => some (wordAmo 2 d a b w)
  | .amoXor d a b w => some (wordAmo 3 d a b w)
  | .amoMin d a b w => some (wordAmo 4 d a b w)
  | .amoMax d a b w => some (wordAmo 5 d a b w)
  | .amoMinn d a b w => some (wordAmo 6 d a b w)
  | .amoMaxn d a b w => some (wordAmo 7 d a b w)
  | .amoSwap d a b w => some (wordAmo 8 d a b w)
  | .amoFadd d a b => some (wordAmo 9 d a b false)
  | .cas d a b w => some (wordAmo 0x040 d a b w)
  | .waitv d a b => some (wordR 0x03 d.val a.val b.val 0x080)
  | .hwait h b => some (wordR 0x04 0 h.val b.val 0x000)
  | .hroom h b => some (wordR 0x04 0 h.val b.val 0x001)
  | .hpop h b => some (wordR 0x04 0 h.val b.val 0x002)
  | .hpush h b => some (wordR 0x04 0 h.val b.val 0x003)
  | .hget d h => some (wordR 0x04 d.val h.val 0 0x004)
  | .idrain h => some (wordR 0x04 0 h.val 0 0x005)
  | .next => some (wordR 0x05 0 0 0 0x000)
  | .claim d => some (wordR 0x05 d.val 0 0 0x001)
  | .done => some (wordR 0x05 0 0 0 0x002)
  | .send a b => some (wordR 0x06 0 a.val b.val 0x000)
  | .recv d a => some (wordR 0x06 d.val a.val 0 0x001)
  | .arrive d a => some (wordR 0x06 d.val a.val 0 0x002)
  | .await a b => some (wordR 0x06 0 a.val b.val 0x003)
  | .fence c => some (wordR 0x06 0 0 0 (c.code * 2 ^ 4 + 4))
  | .nop => some (wordR 0x07 0 0 0 0)
  | .halt => some (wordR 0x07 0 0 0 1)
  | .wfe => some (wordR 0x07 0 0 0 2)
  | .trap c => some (wordR 0x07 0 0 0 (c.toNat * 2 ^ 4 + 3))
  | .eret => some (wordR 0x07 0 0 0 4)
  | .time d => some (wordR 0x07 d.val 0 0 5)
  | .waitt a => some (wordR 0x07 0 a.val 0 6)
  | .ret => some (wordR 0x07 0 0 0 7)
  | .addi d a imm => some (wordI 0x08 d.val a.val imm.toNat)
  | .andi d a imm => some (wordI 0x09 d.val a.val imm.toNat)
  | .ori d a imm => some (wordI 0x0A d.val a.val imm.toNat)
  | .xori d a imm => some (wordI 0x0B d.val a.val imm.toNat)
  | .slti d a imm => some (wordI 0x0F d.val a.val imm.toNat)
  | .shli d a sh => some (wordI 0x0C d.val a.val sh.toNat)
  | .shri d a sh => some (wordI 0x0D d.val a.val sh.toNat)
  | .srai d a sh => some (wordI 0x0E d.val a.val sh.toNat)
  | .lhi d k imm => some (wordI 0x10 d.val k.toNat imm.toNat)
  | .mfc d c => some (wordI 0x11 d.val 0 c.num)
  | .mtcFpflags a => some (wordI 0x12 0 a.val Ctl.fpflags.num)
  | .mtcHen a => some (wordI 0x12 0 a.val Ctl.hen.num)
  | .mtcResume a => some (wordI 0x12 0 a.val Ctl.resume.num)
  | .mtcTimer a => some (wordI 0x12 0 a.val Ctl.timer.num)
  | .mtcFpop a => some (wordI 0x12 0 a.val Ctl.fpop.num)
  | .mtcChmap a k => some (wordI 0x12 0 a.val (Ctl.chmap k).num)
  | .goto t => some (wordI 0x13 0 0 t.toNat)
  | .pdcl st a sc op ty pl => some (wordI 0x14 (bitOf st) a.val (sc.code * 2 ^ 12 + op.code * 2 ^ 8 + ty.code * 2 ^ 6 + pl.val))
  | .pcon a pl => some (wordI 0x15 0 a.val pl.val)
  | .prd d pl => some (wordI 0x16 d.val 0 pl.val)
  | .prdC d pl => some (wordI 0x16 d.val 0 (2 ^ 6 + pl.val))
  | .pset d pl => some (wordI 0x17 d.val 0 pl.val)
  | .ldB d a off => some (wordI 0x18 d.val a.val off.toNat)
  | .ldH d a off => some (wordI 0x19 d.val a.val off.toNat)
  | .ldW d a off => some (wordI 0x1A d.val a.val off.toNat)
  | .ldD d a off => some (wordI 0x1B d.val a.val off.toNat)
  | .ldBN d a off => some (wordI 0x1C d.val a.val off.toNat)
  | .ldHN d a off => some (wordI 0x1D d.val a.val off.toNat)
  | .ldWN d a off => some (wordI 0x1E d.val a.val off.toNat)
  | .stB v a off => some (wordI 0x20 v.val a.val off.toNat)
  | .stH v a off => some (wordI 0x21 v.val a.val off.toNat)
  | .stW v a off => some (wordI 0x22 v.val a.val off.toNat)
  | .stD v a off => some (wordI 0x23 v.val a.val off.toNat)
  | .bEq a b off => some (wordI 0x28 a.val b.val off.toNat)
  | .bNe a b off => some (wordI 0x29 a.val b.val off.toNat)
  | .bLt a b off => some (wordI 0x2A a.val b.val off.toNat)
  | .bGe a b off => some (wordI 0x2B a.val b.val off.toNat)
  | .bLtn a b off => some (wordI 0x2C a.val b.val off.toNat)
  | .bGen a b off => some (wordI 0x2D a.val b.val off.toNat)
  | .jmp off => some (wordJ 0x30 off.toNat)
  | .call off => some (wordJ 0x31 off.toNat)
  | .issue a b t => some (wordI 0x32 a.val b.val t.toNat)
  | .cop a b c op => some (wordR 0x33 0 a.val b.val (c.code * 2 ^ 8 + op.toNat * 2 ^ 4))
  | .copR d a b c op => some (wordR 0x33 d.val a.val b.val (c.code * 2 ^ 8 + op.toNat * 2 ^ 4 + 8))
  | _ => none

/-- A stream command from its fields (R89). -/
def wordS (opc h port slots fa fb : Nat) : Nat :=
  opc * 2 ^ 120 + h * 2 ^ 116 + port * 2 ^ 110 + slots * 2 ^ 96 + fa * 2 ^ 64 + fb

/-- The layout of R259, with the command's own bits [83:80]. -/
def wordBind (opc : Nat) (b : BindArgs) (own : Nat) : Nat :=
  wordS opc b.h.val b.port.val b.slots.toNat
    (bitOf b.fv * 2 ^ 31 + b.foot.toNat * 2 ^ 23 + b.gate.code * 2 ^ 21 + bitOf b.ends * 2 ^ 20 + own * 2 ^ 16 + b.desc.toNat)
    b.base.toNat

/-- mrow and mcol (R242). -/
def wordMat (opc : Nat) (m : MatArgs) : Nat :=
  wordS opc m.h.val (32 + m.port.val) m.slots.toNat
    (bitOf m.asrc * 2 ^ 25 + bitOf m.zero * 2 ^ 24 + m.dr.code * 2 ^ 22 + m.waw.val * 2 ^ 19 + m.la.val * 2 ^ 17
      + m.zh.val * 2 ^ 13 + m.npm.val * 2 ^ 8 + m.zbase.toNat)
    (m.pool.val * 2 ^ 10 + m.lane.val * 2 ^ 6)

/-- The 128-bit word of a stream command (R89, R90); none for what is no stream command. -/
def encodeStream : Instr → Option Nat
  | .bindr b => some (wordBind 0x01 b 0)
  | .bindw b => some (wordBind 0x02 b 0)
  | .bindg b isrc sh =>
      some (wordBind 0x03 b (sh.toNat + (match isrc with | .mem => 0 | .fab => 4 | .pa => 8)))
  | .binds b sh => some (wordBind 0x04 b sh.toNat)
  | .bindf h port slots ends out =>
      some (wordS 0x05 h.val port.val slots.toNat (bitOf ends * 2 ^ 20 + bitOf out * 2 ^ 19) 0)
  | .bindc b sel out => some (wordBind 0x06 b (bitOf sel * 8 + bitOf out * 4))
  | .weir h port mask nrec image => some (wordS 0x10 h.val port.val 0 (mask.toNat * 2 ^ 16 + nrec.toNat) image.toNat)
  | .barrierFence => some (wordS 0x11 0 0 0 0 0)
  | .barrierArrive bar => some (wordS 0x11 0 0 0 0 (2 ^ 63 + bar.toNat))
  | .barrierArriveWait bar => some (wordS 0x11 0 0 0 0 (2 ^ 63 + 2 ^ 62 + bar.toNat))
  | .barrierWait bar ph => some (wordS 0x11 0 0 0 ph.toNat (2 ^ 62 + bar.toNat))
  | .meter port r => some (wordS 0x12 0 port.val 0 r.toNat 0)
  | .snap save rv rch => some (wordS 0x13 0 0 0 (bitOf rv * 2 ^ 8 + rch.toNat) save.toNat)
  | .relatch asid base log rv rch =>
      some (wordS 0x14 0 0 0 (asid.toNat * 2 ^ 16 + rch.toNat * 2 ^ 8 + bitOf rv * 2 ^ 7 + log.toNat) base.toNat)
  | .seal rec rv rch => some (wordS 0x18 0 0 0 rec.toNat (bitOf rv * 2 ^ 8 + rch.toNat))
  | .gbind port rec => some (wordS 0x19 0 port.val 0 rec.toNat 0)
  | .gbindDetach port => some (wordS 0x19 0 port.val 0 (2 ^ 20) 0)
  | .msg c addr => some (wordS 0x20 0 0 0 (c.code * 2 ^ 16) addr.toNat)
  | .msgBind mp c => some (wordS 0x20 0 0 0 (2 ^ 18 + c.code * 2 ^ 16 + mp.toNat) 0)
  | .card c op nf f0 f1 opnd =>
      some (wordS 0x21 0 0 0 (op.toNat * 2 ^ 28 + c.code * 2 ^ 26 + nf.toNat * 2 ^ 24 + f1.toNat * 2 ^ 8 + f0.toNat) opnd.toNat)
  | .atime t => some (wordS 0x28 0 0 0 0 t.toNat)
  | .ctl port p => some (wordS 0x29 0 port.val 0 p.toNat 0)
  | .syncw w n => some (wordS 0x2A 0 0 0 n.toNat w.toNat)
  | .mload h slots bm pack wbw tcols trows =>
      some (wordS 0x30 h.val 0 slots.toNat
        (bitOf bm * 2 ^ 18 + bitOf pack * 2 ^ 17 + wbw.toNat * 2 ^ 14 + tcols.toNat * 2 ^ 7 + trows.toNat) 0)
  | .mswap => some (wordS 0x31 0 0 0 0 0)
  | .mrow m => some (wordMat 0x32 m)
  | .mcol m => some (wordMat 0x33 m)
  | .moriginFixed y x => some (wordS 0x34 0 0 0 (y.toNat * 2 ^ 8 + x.toNat) 0)
  | .moriginWalk y x => some (wordS 0x34 0 0 0 (2 ^ 16 + y.toNat * 2 ^ 8 + x.toNat) 0)
  | .mmask h port slots => some (wordS 0x35 h.val (32 + port.toNat) slots.toNat 0 0)
  | _ => none

/-- The decoder as spec/opcode_table.json numbers bits: rows with bits are conduct words of 32 bits. -/
def decodeTableWord (nbits w : Nat) : Option Instr :=
  if nbits ≤ 32 then
    match decodeConduct (w % 2 ^ 32) with
    | .ok i => some i
    | .error _ => none
  else none

end Sys2Proof
end

