-- ==== Sys2Proof/Machine/State.lean ====
section
/-! DEFINITION. The state of the LUS-8840: everything the spec gives the machine, as plain data, and its reset values. -/
namespace Sys2Proof.Machine

/-- Why a step stops the machine. -/
inductive Fault
  /-- HOST_MEM_LOAD and HOST_MEM_STORE raise it for an address outside the package's 512 GiB of device memory: the HDM
  decoder claims no such address and the spec gives the access no effect (R446, R448). Safe. -/
  | hostAddress
  deriving DecidableEq, Repr

/-- Why a step has no meaning. -/
inductive Refusal
  /-- Raised by Dispatch for an instruction that has no meaning in the model yet. Safe. -/
  | notModelled (mnemonic : String)
  deriving DecidableEq, Repr

/-! ### Cells and routers (R176 to R221) -/

/-- A link latch or a result latch: one token deep, with the readers that have taken it (R176, R187). Reader numbers:
0 to 3 the inputs a, b, c and PRED; 4 to 7 the outputs n, e, s and w. -/
structure Latch where
  tok   : Option Token
  taken : List Nat
  deriving DecidableEq, Repr

/-- Where a drop output stands in its burst (R189). -/
inductive DropState | start | passing | discarding
  deriving DecidableEq, Repr

/-- The state of one router output (R187, R189, R190). `loop` is carry's LOOP; `held` is repeat's token. -/
structure OutState where
  latch   : Option Token
  loop    : Bool
  held    : Option Token
  drop    : DropState
  ctlTaken : Option Token
  stopped : Bool
  eosSent : Bool
  deriving DecidableEq, Repr

/-- A local tile of counts (R219, R341): the words of a train, and the elements counted since the tile began. -/
structure Tile where
  words : List Nat
  n     : Nat
  deriving DecidableEq, Repr

/-- A granted column function operand: its result reaches the reply queue at `due` (R205). -/
structure InFlight where
  due    : Nat
  value  : Word
  deriving DecidableEq, Repr

/-- What the operation of a cell keeps (R195 to R208, R219, R220). Each operation uses the fields its rule names and
leaves the others at their first values. -/
structure CellMem where
  elems    : List Nat            -- cvt lanes, qnt elements collected
  queue    : List Token          -- tokens still to be emitted, oldest first
  lanes    : List (Option Nat)   -- acc: r per lane, none while empty
  fold     : Nat                 -- acc: tokens in the fold
  run      : Option (Word × Word) -- runacc: key and r of the open run
  pairs    : Nat                 -- runacc: pairs since the last data-last
  ctr      : Nat                 -- cnt: v
  emitted  : Nat                 -- cnt: tokens emitted
  lastA    : Option Word         -- join
  lastB    : Option Word         -- join
  block    : Option Nat          -- bfp: data tokens left in the block
  chosenA  : Bool                -- sel with FMT 9
  blockE   : Nat                 -- dqn: E of the block
  sticky   : Bool                -- nfin
  tile     : Tile                -- stat; saturation counts of a converting cell
  replies  : List Word           -- xfn reply queue
  flight   : List InFlight       -- xfn grants in flight
  codes    : Option (Rnd × Sat)  -- cvt, qnt, dqn: codes in force (R41)
  boundary : Bool                -- cvt, qnt, dqn: the next token starts a burst (R200)
  scale    : Nat                 -- qnt by record: E latched at the burst's start
  gen8     : Nat                 -- the generation the tile counts under (R341)
  deriving DecidableEq, Repr

/-- A compute cell with its router. `step` is the number of the step whose words it holds; `word` is none for a router-only
cell; `stopped` says that it does not fire again, `ended` that its own final firing is made (R129),
`marked` that it has made its marker firing in the cut that is open (R184, R428), `fired` counts the firings of its step (R458). A cell of the free pool
has no word and no output. -/
structure Cell where
  step    : Nat
  word    : Option CellWord
  router  : RouterWord
  linkN   : Latch
  linkE   : Latch
  linkS   : Latch
  linkW   : Latch
  result  : Latch
  outN    : OutState
  outE    : OutState
  outS    : OutState
  outW    : OutState
  self    : Word
  count   : Nat
  stopped : Bool
  ended   : Bool
  marked  : Bool
  fired   : Nat
  mem     : CellMem
  deriving DecidableEq, Repr

/-! ### Ports, bindings and attachments (R210 to R216, R250 to R282, R324 to R335) -/

/-- A latched window (R324, R325). -/
structure Window where
  recd   : WindowRec
  active : Bool
  pbase  : Nat
  wr     : Bool
  clsW   : Bool
  deriving DecidableEq, Repr

/-- One page translation: virtual page base, size as a power of two, physical base and the leaf's attributes. -/
structure PageEntry where
  asid  : BitVec 16
  vbase : Nat
  log   : Nat
  pbase : Nat
  wr    : Bool
  clsW  : Bool
  deriving DecidableEq, Repr

/-- A spillway entry (R332). -/
structure Spilled where
  va      : Nat
  payload : Word
  n       : Nat
  ack     : Option (Nat × Nat)
  deriving DecidableEq, Repr

/-- The spillway of a port (R332 to R335). -/
structure Spillway where
  queue   : List Spilled
  head    : Nat
  count   : Nat
  since   : Nat
  retryAt : Nat
  deriving DecidableEq, Repr

/-- A pattern descriptor (R258). Strides are signed byte strides. -/
structure Pattern where
  counts  : List Nat
  strides : List Int
  xbase   : Nat
  deriving DecidableEq, Repr

/-- What a binding does (R259, R266 to R269). -/
inductive BindKind
  | read | write | gather (src : IdxSrc) (shift : Nat) | scatter (shift : Nat)
  | compress (coords : Bool) | expand | fifo (out : Bool)
  deriving DecidableEq, Repr

/-- A binding with what was read for it at issue. `hold` is its holder number at admission; `lclk` the lease clock at issue
(R307); `ackWord` the synchronisation word armed when it was issued (R276). -/
structure Binding where
  kind    : BindKind
  h       : Nat
  slots   : Nat
  foot    : Option Nat
  gate    : Gate
  ends    : Bool
  base    : Nat
  pat     : Pattern
  tmpl    : Nat
  step    : Nat
  seq     : Nat
  hold    : Option Nat
  lclk    : DWord
  ackWord : Option (Nat × Nat)
  deriving DecidableEq, Repr

/-- An entry of a port queue (R255). -/
inductive PortEntry
  | bind (b : Binding)
  | weir (h mask ctx step tmpl : Nat)
  | gbind (r : Option Nat) (step tmpl : Nat)
  | ctl (payload : Word) (step tmpl : Nat)
  deriving DecidableEq, Repr

/-- A binding that runs (R261). `group` and `n` are j and n; `idx` the ring index latched for the group; `elem` the index read
or taken for the element n; `pair` the tokens taken for it so far; `blocks` and `left` the blocks begun and the data tokens of the
last one still to come (R263, R264); `ctx` the graph's context with the port tokens of one element; `lines` the stash lines written; `outstanding` the elements posted and not yet performed; `fill` the words that it
has written of each line that it has not yet written whole (R285). -/
structure Running where
  b           : Binding
  group       : Nat
  n           : Nat
  idx         : Option Nat
  elem        : Option Nat
  pair        : List Token
  blocks      : Nat
  left        : Nat
  ctx         : Option (Nat × Nat)
  lines       : List Nat
  outstanding : Nat
  fill        : Tbl (BitVec 16)
  faulted     : Bool
  deriving DecidableEq, Repr

/-- A port cell and its port. `link` is the link arriving from its neighbour, `out` the latch toward it, `queue` the tokens still
to be emitted; `pred` is a predicate token that has been taken; `held` what xlat and msgout have collected; `round` counts the
accesses made in a chain; `posted` says that a read has gone to a weir array; `blockE` is the exponent of the block being
written. -/
structure Port where
  step    : Nat
  word    : CellWord
  router  : RouterWord
  link    : Latch
  out     : Option Token
  queue   : List Token
  pred    : Option Token
  held    : List Token
  count   : Nat
  stopped : Bool
  ended   : Bool
  run     : Option Running
  round   : Nat
  posted  : Bool
  tile    : Tile
  blockE  : Nat
  self    : Word
  opst    : OutState         -- the state of the router operator at its output; its latch is `out`
  deriving DecidableEq, Repr

/-- A pair that an xlat cell has emitted: the step, the virtual address and the physical one (R214, R328). -/
structure PairOut where
  step : Nat
  va   : Nat
  pa   : Nat
  deriving DecidableEq, Repr

/-- What stays with a port across steps: its queue, attachments, windows, meter and spillway (R255, R257, R274). `clsNext` is a msg
binding of a step whose word the port has yet to install (R277). -/
structure PortSide where
  queue    : List PortEntry
  grec     : Option Nat
  cls      : Option EngClass
  clsNext  : Option (Nat × EngClass)
  rate     : Nat
  moved    : List Nat
  windows  : List Window
  latch    : Option PageEntry
  xlatches : List PageEntry
  spill    : Spillway
  stallAt  : Nat
  stallVa  : Option Nat
  marker   : Bool
  relatch  : Bool
  pairs    : List PairOut
  deriving DecidableEq, Repr

/-! ### The matrix unit (R222 to R249) -/

/-- A bank of the matrix unit (R223). `ms` holds the mantissas of the logical tile row by row, `es` the exponents of its
squares; both empty stand for zeros throughout. `bits` marks the weights of a bitmap. -/
structure Bank where
  tr   : Nat
  tc   : Nat
  wb   : Nat
  pack : Bool
  bm   : Bool
  es   : List Nat
  ms   : List Int
  bits : List Bool
  orgY : Nat
  orgX : Nat
  deriving DecidableEq, Repr

/-- A command in the matrix channel (R239, R244), with its step, template and number. -/
inductive MatCmd
  | load (h slots : Nat) (bm pack : Bool) (wb tr tc : Nat)
  | swap
  | op (col : Bool) (m : MatArgs)
  | mask (h port slots : Nat)
  | origin (walk : Bool) (y x : Nat)
  deriving DecidableEq, Repr

structure MatEntry where
  cmd     : MatCmd
  step    : Nat
  tmpl    : Nat
  started : Bool
  done    : Bool
  orgY    : Nat
  orgX    : Nat
  deriving DecidableEq, Repr

/-- A vector whose bit-planes have entered (R229): its planes end at `planes`, when its handles advance, and its N results,
already formed, are in the accumulator rows from `row` at `due`. -/
structure VecInFlight where
  planes   : Nat
  due      : Nat
  advanced : Bool
  row      : Nat
  vals     : List Word
  flags    : Flags
  op       : MatArgs
  last     : Bool
  mask     : Option Nat
  tmpl     : Nat
  deriving DecidableEq, Repr

/-- A drain of one vector in progress (R237). `pos` counts, for each mz port, the elements that have left. -/
structure DrainState where
  dr   : Drain
  row  : Nat
  n    : Nat
  pos  : List Nat
  zh   : Nat
  pool : Nat
  lane : Nat
  tmpl : Nat
  deriving DecidableEq, Repr

/-- The matrix unit. `accBad` are the accumulator rows that hold an uncorrectable error (R369, R423); `vec` counts the vectors that the running operation has started; `mz` holds the result latches of the
south ports, `ma` the link latches of the feeding ports, `owed` the eos and markers that the mz ports have still to send;
`maEos` are the ports whose eos of this step has been taken, `maWait` those that owe an eos of an earlier step (R248);
`marked` that the unit has made its marker firing in the cut that is open (R249). -/
structure Matrix where
  step     : Nat
  banks    : Bank × Bank
  active1  : Bool
  acc      : Tbl (List Word)
  accBad   : List Nat
  channel  : List MatEntry
  walk     : Bool
  orgY     : Nat
  orgX     : Nat
  vec      : Nat
  maskH    : Option Nat
  slices   : Tbl (List Token)
  flight   : List VecInFlight
  drains   : List DrainState
  mz       : Tbl Token
  ma       : Tbl Token
  owed     : List (Nat × Token)
  maEos    : List Nat
  maWait   : List Nat
  faulted  : Bool
  marked   : Bool
  freeAt   : Nat
  deriving DecidableEq, Repr

/-! ### The sequencer (R134 to R175) -/

/-- The states of a handler (R140). -/
inductive HState | idle | active | suspended | stopped
  deriving DecidableEq, Repr

/-- What a stalled word of a handler has so far: nothing, a request on its way, an answer, the fault that the
answer is (cause code, and the address that goes with it), or a place that a channel of another package keeps for its word. -/
inductive Wait
  | none
  | posted
  | answered (v : DWord) (clk : DWord) (flags : Flags)
  | faulted (cause : Nat) (addr : Nat)
  | room (chan : Nat)
  deriving DecidableEq, Repr

/-- A handler (R62, R139 to R141) with its reply latch (R175). -/
structure Handler where
  decl  : Bool
  off   : Nat
  pri   : Nat
  hen   : Bool
  st    : HState
  ia    : Nat
  wait  : Wait
  latch : Option Nat
  deriving DecidableEq, Repr

/-- A circular-buffer handle (R73, R250). -/
structure Handle where
  decl   : Bool
  loc    : Bool
  lsz    : Nat
  slots  : Nat
  base   : Nat
  p      : Nat
  c      : Nat
  f      : Nat
  deriving DecidableEq, Repr

/-- A command in the region's command queue: its 128 bits, its template, the step that issued it, the lease clock at
its issue, and for a weir command the contexts loaded and its holder number (R125, R162, R248, R271). -/
structure QueuedCmd where
  bits : BitVec 128
  tmpl : Nat
  step : Nat
  lclk : DWord
  ctx  : Nat
  hold : Option Nat
  deriving DecidableEq, Repr

/-- A stash line (R285, R288, R310). `stamp` orders lines by use; `vas` are the ASIDs and pages by which regions have
accessed it, by which an unmap finds it (R309). -/
structure StashLine where
  line   : Nat
  data   : Vector Byte 64
  owned  : Bool
  dirty  : Bool
  poison : Bool
  pinned : Bool
  wts    : DWord
  rts    : DWord
  stamp  : Nat
  vas    : List (BitVec 16 × Nat)
  deriving DecidableEq, Repr

/-- What a region is doing (R115, R144, R173, R426 to R437, R459). -/
inductive RegionMode
  | free | placed | running | stopped | halted | held | frozen | draining | retired
  deriving DecidableEq, Repr

/-- A step that stands in a region: its number, its image and index there, whether it is loaded, whether it was refused, and
the tide before which no node installs it (R59, R128, R281). -/
structure StepSlot where
  num     : Nat
  image   : Nat
  idx     : Nat
  loaded  : Bool
  refused : Bool
  openAt  : Nat
  deriving DecidableEq, Repr

/-- A column function unit (R204). -/
structure Column where
  last : Nat
  deriving DecidableEq, Repr

/-- A `snap` whose cut is open (R280): its save area, answer channel, the tide at which it began, its template, and whether its
region is frozen because the cut did not close in time. -/
structure SnapOp where
  va     : Nat
  ch     : Option Nat
  since  : Nat
  tmpl   : Nat
  frozen : Bool
  deriving DecidableEq, Repr

/-- What the stream interface is doing with the command at its head (R275 to R281). -/
structure StreamIf where
  posted  : Bool
  answer  : Option (DWord × DWord)
  bad     : Option Nat
  ackWord : Option (Nat × Nat)
  atime   : Option DWord
  snap    : Option SnapOp
  phase   : Option Word
  deriving DecidableEq, Repr

/-- A rill node of a region (R343, R344). -/
structure RillNode where
  grec   : RillRec
  step   : Nat
  train  : Option (Nat × List Nat)
  expiry : Nat
  deriving DecidableEq, Repr

/-! ### Memory at home, translation (R283 to R310, R316 to R330) -/

/-- The clocks and the owner of a line at its home (R288). The owner is a place number. -/
structure HomeLine where
  wts   : DWord
  rts   : DWord
  owner : Option Nat
  deriving DecidableEq, Repr

/-- The states of an ASID (R317). -/
inductive AsidState | free | retiring | live
  deriving DecidableEq, Repr

/-- An entry of the ASID context table (R317). -/
structure AsidEntry where
  root : Nat
  dbg  : Bool
  st   : AsidState
  deriving DecidableEq, Repr

/-- A table pointer that a walk has read and that the walk cache of a die holds (R323): the table whose entries a walk reads at a level
for the addresses that share `vbase`. -/
structure TableHeld where
  die   : Nat
  asid  : BitVec 16
  level : Nat
  vbase : Nat
  table : Nat
  deriving DecidableEq, Repr

/-- An invalidation in progress on a die (R329): the ASID, the range (none for all of it), the physical pages of the entries that it has
dropped, each with its size as a power of 2, and for a release the fact. -/
structure Invalidation where
  die   : Nat
  asid  : BitVec 16
  range : Option (Nat × Nat)
  pages : List (Nat × Nat)
  whole : Bool
  done  : Bool
  deriving DecidableEq, Repr

/-! ### Gauge records (R337 to R354) -/

/-- A gauge record's entry and live half (R338, R339). `live` and `sealed` hold the forty words of R339: 0 to 31 the bins,
32 MAXM, 33 NELEM, 34 NZERO, 35 NSAT, 36 NNF, 37 LATE, 38 GSAT, 39 zero. -/
structure GaugeRec where
  alloc     : Bool
  image     : Nat
  sealTide  : DWord
  asid      : BitVec 16
  psn       : Bool
  rsc       : Bool
  clearLive : Bool
  autoSeal  : Bool
  margin    : BitVec 8
  satth     : Word
  clip      : Word
  scale     : BitVec 8
  gen       : Word
  live      : List Nat
  sealed    : List Nat
  deriving DecidableEq, Repr

/-- A region's copy of a record's GEN and SCALE (R347). -/
structure GenCopy where
  gen   : Word
  scale : BitVec 8
  deriving DecidableEq, Repr

/-- A train held at a die's rill root (R344). -/
structure RootTrain where
  id     : Nat
  gen8   : Nat
  words  : List Nat
  expiry : Nat
  deriving DecidableEq, Repr

/-- A seal under way: its record, the region that issued it with its ASID and template, the markers still to reach home
(a region's place number, or 1024 + k for array k), its answer channel (R279, R346, R348). `gens` are the regions whose
generation word has not arrived after the seal action, and `gen` the generation that it made. -/
structure SealOp where
  id    : Nat
  p     : Nat
  asid  : BitVec 16
  tmpl  : Nat
  marks : List Nat
  ch    : Option Nat
  gen   : Word
  gens  : List Nat
  deriving DecidableEq, Repr

/-! ### Pools (R355 to R379) -/

/-- A gather that its home serves (R363): what it has combined, its flags, the first poison, and the least place in the order of the
lanes that it has not passed; the package that it has asked for a lane, and those that it has still to ask (R378). -/
structure GatherState where
  acc : BitVec 64
  fl  : Flags
  bad : Option (Nat × Nat)
  pos : Nat
  asked : Option Nat
  pkgs  : List Nat
  deriving DecidableEq, Repr

/-- A home basin (R356), or this package's part of an instance whose home another package holds. `gath` is the gather being served;
`ending` says that the final settle has been made and whether it found poison (R438); `refs` are the regions that have declared the pool and not retired, `had` all that declared it. -/
structure HomeBasin where
  key   : PoolKey
  decl  : PoolDecl
  arr   : Nat
  clk   : DWord
  flags : Flags
  hpsn  : Bool
  value : BitVec 64
  gath  : Option GatherState
  ending : Option Bool
  refs  : List Nat
  had   : List Nat
  deriving DecidableEq, Repr

/-- A lane (R360) of an instance: `key` names the instance, `slot` its 24-bit number (R358). -/
structure Lane where
  key    : PoolKey
  slot   : Nat
  n      : Nat
  cause  : Nat
  p      : Bool
  v      : Bool
  value  : BitVec 64
  parked : Bool
  deriving DecidableEq, Repr

/-- A pool that a region's course has declared (R373). -/
structure RegionPool where
  pool : Nat
  key  : PoolKey
  decl : PoolDecl
  deriving DecidableEq, Repr

/-- The value that an instance of a launch's course has passed on at its release, for a chained successor (R438). -/
structure Legacy where
  launch : Nat
  pool   : Nat
  decl   : PoolDecl
  value  : BitVec 64
  deriving DecidableEq, Repr

/-! ### Launching, placement, engines (R105 to R133, R311 to R315, R424 to R445) -/

/-- A launch record (R105). -/
structure LaunchRec where
  tag     : DWord
  args    : List DWord
  irq     : Bool
  vec     : Nat
  group   : Nat
  compl   : Nat
  chunk   : Nat
  iters   : Nat
  asid    : BitVec 16
  ninst   : Nat
  pri     : Nat
  sys     : Bool
  link    : Bool
  dommask : Nat
  place   : Nat
  reach   : Nat
  shape   : Nat
  widBase : DWord
  job     : Nat
  image   : Nat
  deriving DecidableEq, Repr

/-- A region saved by a pre-emption (R427 to R433): its slot q, its place identity, the form (0 splice point, 1 cut,
2 freeze), and the save slot. -/
structure SavedRegion where
  q     : Nat
  place : Nat
  form  : Nat
  slot  : Nat
  deriving DecidableEq, Repr

/-- A launch that a sluice holds (R112 to R114, R132, R437, R439). `src` is the queue number, 32 for the inbox, whose records have a
sender with a place and an ASID; `todo` are the indices still to be placed, in ascending order, and `chain` those that splice into
an instance of the predecessor instead; `link` is the launch that follows it in a chain; `since` the tide since which it is passed
over; `resume` the pre-empted instance that it places again; `isOver` that its completion record has been written. -/
structure Launch where
  recd     : LaunchRec
  src      : Nat
  sender   : Nat
  sasid    : BitVec 16
  arrived  : Nat
  cls      : Nat
  since    : Option Nat
  anchored : Bool
  todo     : List Nat
  chain    : List Nat
  gone     : List Nat
  done     : Nat
  faulted  : Option Nat
  link     : Option Nat
  resume   : Option Nat
  isOver   : Bool
  deriving DecidableEq, Repr

/-- A placed or pre-empted instance (R115 to R120, R426, R433): its launch, its index, its regions in slot order (a saved one under
the number of its save), the claim cursor,
the regions that have retired, whether a fault ended it, the order of its placement, and its saved regions. -/
structure Instance where
  launch  : Nat
  index   : Nat
  places  : List Nat
  cursor  : DWord
  retired : List Nat
  failed  : Bool
  stamp   : Nat
  saved   : List SavedRegion
  deriving DecidableEq, Repr

/-- A launch queue (R108). `last` the launch of the record accepted last. -/
structure Queue where
  qbase  : Nat
  en     : Bool
  priv   : Bool
  loc    : Bool
  weight : Nat
  logsz  : Nat
  err    : Bool
  head   : Word
  tail   : Word
  last   : Option Nat
  deriving DecidableEq, Repr

/-- A live footprint of a holder (R75, R125). -/
structure FootRange where
  base : Nat
  len  : Nat
  acc  : Nat
  deriving DecidableEq, Repr

/-- A holder at admission (R125 to R127, R385): a binding, or a job of an engine. `dropped` says that the watchdog ended it. -/
structure Holder where
  id       : Nat
  asid     : BitVec 16
  foots    : List FootRange
  edges    : List Nat
  admitted : Bool
  dropped  : Bool
  job      : Bool
  since    : Nat
  clk      : DWord
  p        : Nat
  deriving DecidableEq, Repr

/-- An active message (R122) with its sender: place, die, ASID, lease clock, the handler for a `cop.r`, the TAG address, and
the footprints that its card names; `pools` the pools that its region had declared, once that has retired. -/
structure EngMsg where
  cls   : EngClass
  words : List DWord
  p     : Nat
  die   : Nat
  asid  : BitVec 16
  sys   : Bool
  clk   : DWord
  latch : Option Nat
  wid   : DWord
  foots : List FootRange
  carded : Bool
  hold  : Option Nat
  pools : List RegionPool
  deriving DecidableEq, Repr

/-- A job of a copy engine, of the weir-job inbox or of the cascade: its message, its clock, its operands once they have been read
and checked (source, destination and length of a copy), how many of its words are done, and the reply it holds (R170, R311 to
R314). -/
structure Job where
  msg   : EngMsg
  clk   : DWord
  args  : Option (Nat × Nat × Nat)
  pos   : Nat
  reply : Option Nat
  deriving DecidableEq, Repr

/-- A voltage-frequency domain (R443). -/
structure Domain where
  en    : Bool
  err   : Bool
  fcur  : Nat
  fcode : Nat
  ch    : Nat
  cw    : Nat
  cy    : Nat
  cx    : Nat
  stepAt : Option Nat
  deriving DecidableEq, Repr

/-- The power state of a cluster (R441, R442). -/
inductive Power | on | entering (due : Nat) | gated | leaving (due : Nat)
  deriving DecidableEq, Repr

structure Cluster where
  power    : Power
  freeFrom : Nat
  deriving DecidableEq, Repr

/-- A pre-emption in progress on a die (R425, R426). -/
structure Preempt where
  inst    : Nat
  start   : Nat
  splTo   : Nat
  snapTo  : Nat
  marked  : List Nat
  deriving DecidableEq, Repr

/-- A channel (R168 to R170): its owner, its words with their clocks, the place and event that subscribe it,
and the places that it keeps for words of other packages (log entry 63). -/
structure Channel where
  owner : Option (BitVec 16)
  words : List (DWord × DWord)
  sub   : Option (Nat × Nat)
  kept  : Nat
  deriving DecidableEq, Repr

/-- A relatch in progress on a die (R282, R328): the ports that its token has not emerged from, as 32 * place + port, the region
that issued it and its answer channel. -/
structure RelatchOp where
  asid : BitVec 16
  base : Nat
  log  : Nat
  left : List Nat
  p    : Nat
  ch   : Option Nat
  deriving DecidableEq, Repr

/-- A fabric die: its sluice registers, queues, tables and engines. `served` counts the launches served in a round, by 64 times the
class plus the source, `credit` the weights that the round began with under the same numbers, and `turn` the source that the
round of a class stands at (R113); `inboxLast` is the record accepted last of each sender. -/
structure Die where
  inbw      : Nat
  stallMax  : Word
  admwd     : Word
  snapTo    : Word
  splTo     : Word
  saveBase  : Nat
  saveN     : Nat
  autop     : Bool
  retTo     : Word
  gateDly   : Word
  pcap      : Nat
  fclr      : Word
  domains   : Tbl Domain
  queues    : Tbl Queue
  served    : Tbl Nat
  credit    : Tbl Nat
  turn      : Tbl Nat
  inboxLast : Tbl Nat
  launches  : Tbl Launch
  insts     : Tbl Instance
  inbox     : List EngMsg
  copyIn    : List EngMsg
  weirIn    : List EngMsg
  copyEng   : Tbl (List Job)
  weirJobs  : List Job
  holders   : Tbl Holder
  arrivals  : List Holder
  chans     : Tbl Channel
  hclk      : DWord
  preempt   : Option Preempt
  preqWait  : Option Nat
  slotsUsed : List Nat
  clusters  : Tbl Cluster
  etc       : List PageEntry
  rillRoot  : List RootTrain
  relatch   : Option RelatchOp
  noLatch   : List (BitVec 16 × Nat × Nat)
  deriving DecidableEq, Repr

/-! ### Images (R54 to R80) -/

/-- A stream-command template (R70). -/
structure Template where
  cmd  : BitVec 128
  alsb : Nat
  awid : Nat
  blsb : Nat
  bwid : Nat
  deriving DecidableEq, Repr

/-- A step of a placed image (R57): its flags, its script and its configuration records. -/
structure ImgStep where
  loop   : Bool
  term   : Bool
  succ   : Nat
  script : Nat
  len    : Nat
  confs  : List (BitVec 256)
  deriving DecidableEq, Repr

/-- A handler entry (R62). -/
structure HandlerEntry where
  off : Nat
  pri : Nat
  en  : Bool
  idx : Nat
  deriving DecidableEq, Repr

/-- A relocation entry (R78). -/
structure Reloc where
  addend : Int
  off    : Nat
  sym    : Nat
  kind   : Nat
  sec    : Nat
  deriving DecidableEq, Repr

/-- A block of the data file (R465, R475): the external symbol that it becomes, its alignment and attributes, its bytes and the
relocations inside it. -/
structure DataBlock where
  sym    : Nat
  align  : Nat
  rw     : Bool
  clsW   : Bool
  bytes  : List Byte
  relocs : List Reloc
  deriving DecidableEq, Repr

/-- A course image as farload placed it (R54 to R80). `code` is the conduct-script section, `cpool` the base address and
length of the constant pool, `gauges` the record ids of its gauge declarations. -/
structure Image where
  asid     : BitVec 16
  spanW    : Nat
  spanH    : Nat
  entry    : Nat
  steps    : List ImgStep
  code     : List Word
  handlers : List HandlerEntry
  tmpls    : List Template
  pools    : List (Nat × PoolDecl)
  handles  : List (Nat × Handle)
  gauges   : List Nat
  foots    : Tbl FootRange
  cpoolVa  : Nat
  cpoolLen : Nat
  deriving DecidableEq, Repr

/-! ### Weir arrays, the cascade, conduit and Ethernet (R294 to R304, R393 to R417) -/

/-- A stream context of a weir array (R271, R295, R296). -/
structure WeirCtx where
  nodes : List CellWord
  p     : Nat
  selfs : List Word
  counts : List Nat
  tiles : Tbl Tile
  limit : List Nat
  dead  : List Nat
  part  : Option (List Word × List Word)
  deriving DecidableEq, Repr

/-- A weir array: its contexts by number, how many basin rows are in use. -/
structure WeirArray where
  ctxs : Tbl WeirCtx
  rows : List PoolKey
  deriving DecidableEq, Repr

/-- A loaded chunk graph (R401, R402, R406). -/
structure Graph where
  asid    : BitVec 16
  nodes   : List ChunkNode
  group   : Nat
  base    : Nat
  len     : Nat
  number  : Nat
  replays : Word
  lastSt  : Nat
  flags   : Flags
  deriving DecidableEq, Repr

/-- A base-table entry (R405). -/
structure BaseEntry where
  len   : Nat
  space : Nat
  pair  : Bool
  addr  : Nat
  deriving DecidableEq, Repr

/-- Where a node of a replay stands (R406, R409, R413): how many predecessors it waits for; how many bytes it has sent or received;
for `a2a` the route table (length, destination, source address) with the counts received, then the counts of every member with
the verdicts received, then for every member the bytes and the messages placed. An `isOver` node has performed everything and is
`done` once its successors have been told. -/
inductive NodeState
  | waiting (count : Nat) | running | sending (sent : Nat) | receiving (got : Nat)
  | counting (route : List (Nat × Nat × Nat)) (bad : Bool) (got : List (Nat × Nat × Bool))
  | judging (route : List (Nat × Nat × Nat)) (counts : List Nat) (got : List (Nat × Bool))
  | paying (counts : List Nat) (placed : List (Nat × Nat))
  | isOver | done
  deriving DecidableEq, Repr

/-- A replay (R406): its job, its base table, its nodes, the tide of each node's last progress, the fault that ended it. -/
structure Replay where
  gid    : Nat
  job    : Job
  table  : List BaseEntry
  number : Nat
  nodes  : List NodeState
  since  : List Nat
  cause  : Nat
  credits : List (Nat × Nat × Nat × Nat)
  deriving DecidableEq, Repr

/-- A RoCE queue pair (R416): its owner and the length of its remote region. -/
structure QueuePair where
  asid : BitVec 16
  len  : Nat
  deriving DecidableEq, Repr

/-- A flit that waits for a slot of a port: its class, source and destination package, the further slots that its body takes (R393,
R395). -/
structure WireFlit where
  cls  : Fin 4
  src  : Nat
  dst  : Nat
  more : Nat
  body : FlitBody
  deriving DecidableEq, Repr

/-- A conduit port (R393, R395): the sequence number expected of each source, destination and class, and the one that it sends next;
the flits that wait; the classes of its last slots, newest first, 4 for a slot that none took; what is left of the weights of classes
0 to 2; the source served last in each class; how many slots it has had. -/
structure ConduitPort where
  expect  : List (Nat × Nat × Nat × Nat)
  retries : Nat
  sent    : List (Nat × Nat × Nat × Nat)
  queue   : List WireFlit
  hist    : List Nat
  credit  : List Nat
  turn    : Tbl Nat
  slots   : Nat
  deriving DecidableEq, Repr

/-- The wellhead: the cascade and the ports. `held` are the jobs, replays and transfers (kind 0, 1, 2 and number) that hold a reply for
a full channel, oldest first (R170); `routes` the port of each other package's route (R394); `sentNo` numbers what waits for another
package's answer; `eth` is what the scale-out ports have sent, by queue pair, and `out` the flits that the conduit ports have sent. -/
structure Wellhead where
  inbox    : List EngMsg
  jobs     : Tbl Job
  graphs   : Tbl Graph
  replays  : Tbl Replay
  refnode  : Tbl Nat
  chunkMem : Tbl Byte
  rows     : List PoolKey
  tlock    : Bool
  slew     : Int
  groups   : Tbl (BitVec 1024)
  domain   : List Nat
  pkg      : Nat
  routes   : Tbl Nat
  ports    : Tbl ConduitPort
  qps      : Tbl QueuePair
  roce     : Tbl Job
  sentNo   : Nat
  held     : List (Nat × Nat)
  eth      : List (Nat × FlitBody)
  out      : List (Nat × Flit)
  deriving DecidableEq, Repr

/-! ### Host, start, firmware, debug (R446 to R459) -/

/-- BOOT (R450). -/
structure Boot where
  stage : Nat
  warm  : Bool
  fail  : Nat
  st    : Nat
  deriving DecidableEq, Repr

/-- A mailbox (R453): REQ words, BUSY and RES. -/
structure Mailbox where
  req  : List DWord
  busy : Bool
  res  : Nat
  deriving DecidableEq, Repr

/-- A breakpoint comparator (R458). -/
structure Comparator where
  kind : Nat
  w2   : DWord
  hits : Nat
  deriving DecidableEq, Repr

/-- A trace (R458). -/
structure Trace where
  kind : Nat
  obj  : DWord
  len  : DWord
  deriving DecidableEq, Repr

/-- A debug attachment (R457, R458): the instance, as a die and an entry of its table for each die that holds it, its event ring and
its traces. -/
structure Attachment where
  insts  : List (Nat × Nat)
  asid   : BitVec 16
  base   : Nat
  size   : Nat
  prod   : Nat
  dropped : Nat
  traces : Tbl Trace
  deriving DecidableEq, Repr

/-- Root firmware, management firmware and attestation (R449 to R456). -/
structure Firmware where
  root      : Mailbox
  mgmt      : Mailbox
  saved     : Bool
  image     : List Byte
  log       : List (BitVec 512)
  verified  : Option (BitVec 512)
  starts    : Nat
  spdm      : List (Nat × List Byte)
  msix      : List Nat
  hostLoads : List (Option (List Byte))   -- what the host loads have brought, in order; none for one that completed with poison (R448)
  negotiated : Bool
  offer     : Nat × Nat           -- the signature and hash algorithms, as sets of bits, that the requester offers (R456)
  deriving DecidableEq, Repr

/-! ### Messages in flight -/

/-- Who waits for the answer of a home action: a handler of a region, or the region's stream interface. -/
inductive Asker
  | handler (p k : Nat) | stream (p : Nat)
  deriving DecidableEq, Repr

/-- What a wait or an advance does to a LOC = 1 handle's header (R251, R254, R160). -/
inductive HeaderOp | waitFilled (n : Nat) | waitFree (n : Nat) | pop (n : Nat) | push (n : Nat) | read
  deriving DecidableEq, Repr

/-- What a handler or a region has sent to another package, to be answered there: a channel word (R168), a declaration, a gather, the
release of an instance (R356, R374, R438), or an access to the memory of that package (R283, R396): a line that the region loads, an action
at a home (`monitor` when it waits there), an element or an atomic of a port, a store, an acknowledgement of a synchronisation word, or
an access of a unit that takes its answer itself. -/
inductive Sent
  | word (chan : Nat)
  | decl (key : PoolKey) (decl : PoolDecl)
  | gather (key : PoolKey) (counted : Bool)
  | release (key : PoolKey)
  | line (line : Nat)
  | home (who : Asker) (pa : Nat) (monitor : Bool)
  | element (n va pa idx : Nat) (rd : Bool) (ack : Option (Nat × Nat))
  | update (n va : Nat)
  | store (line : Nat)
  | ack
  | unit (who pa : Nat) (op : AwayOp)
  deriving DecidableEq, Repr

/-- A message between units. `again` marks an element that a spillway has replayed (R333, R481); `farGot` is what an access of a unit to
another package's memory has brought back, until the unit takes it. -/
inductive Body
  | loadReq (p line : Nat) (clk : DWord)
  | loadReply (p line : Nat) (data : Vector Byte 64) (wts rts : DWord) (poison : Bool)
  | storeReq (p line : Nat) (whole : Bool)
  | ownReply (p line : Nat) (data : Vector Byte 64) (wts rts : DWord) (poison : Bool)
  | recall (p line : Nat) (drop : Bool)
  | writeBack (p : Nat) (l : StashLine)
  | atomic (who : Asker) (op : AtomOp) (wide : Bool) (pa : Nat) (v clk : DWord)
  | atomicReply (who : Asker) (old clk : DWord) (flags : Flags) (bad : Option Nat)
  | waitv (who : Asker) (pa gen : Nat) (clk : DWord)
  | waitvArmed (who : Asker) (pa gen : Nat) (clk : DWord)
  | arrive (who : Asker) (pa : Nat) (clk : DWord)
  | await (who : Asker) (pa phase : Nat) (clk : DWord)
  | header (who : Asker) (h pa : Nat) (op : HeaderOp) (clk : DWord)
  | claim (p k : Nat)
  | chanWord (p unit die ch : Nat) (v clk : DWord) (asid : BitVec 16)
  | heldReply (d : Nat) (m : EngMsg) (status : Nat) (clk : DWord)
  | poolDecl (p k : Nat) (key : PoolKey) (decl : PoolDecl) (fresh : Bool)
  | poolCon (key : PoolKey) (slot : Nat) (v : BitVec 64) (clk : DWord) (bad : Option Nat) (pair : Bool) (ty : Option PoolType)
      (step : Nat)
  | gather (p k : Nat) (key : PoolKey) (counted settle : Bool)
  | completion (p k : Nat) (v : BitVec 64) (flags : Flags) (clk : DWord) (bad : Option (Nat × Nat)) (counted : Bool)
  | engine (m : EngMsg)
  | reply (p k tag status : Nat) (clk : DWord)
  | holder (d : Nat) (h : Holder)
  | weirElem (p n array ctx pa va idx : Nat) (vs : List Word) (ack : Option (Nat × Nat)) (clk : DWord) (rd again : Bool)
  | rmw (op : CellOp) (p n array va pa : Nat) (v : Word) (ack : Option (Nat × Nat)) (clk : DWord) (again : Bool)
  | ack (p va pa bytes : Nat) (clk : DWord)
  | train (to_ : Option (Nat × Nat)) (who id gen8 : Nat) (words : List Nat)
  | sealMark (to_ : Option Nat) (op : Nat)
  | genWord (p id : Nat) (gen : Word) (scale : BitVec 8) (op : Option Nat)
  | rescale (p id : Nat)
  | sent (p k tag : Nat) (what : Sent)
  | farGot (p who pa : Nat) (op : AwayOp) (v : Nat) (clk : DWord) (bad : Option Nat)
  | credit (gid number to_ len cls peer : Nat)
  | flit (src : Nat) (b : FlitBody)
  deriving DecidableEq, Repr

/-- A message in flight. Messages with one source key are served in the order in which they were sent. -/
structure Msg where
  src  : Option Nat
  body : Body
  deriving DecidableEq, Repr

/-- What the machine does next (assumption 2): a conduct word of a region's sequencer, the stream command at the head of a
region's command queue, one of the steps that have no encoding, or `arrived`: the accesses of a region that waited for a stash line
are made, which now stands there. `mailbox` is a write of the host to a mailbox: of a word of REQ,
or GO (R453). `homeWord` names a line whose words a program uses as a barrier, a claim cursor, a synchronisation word or a LOC = 1 ring
(R293; log entry 64). `queuePair` is the driver's creation of a queue pair for an ASID, with the length of its remote region (R416).
`attest` is an SPDM request by its code, other than those that the responder supports, and `offer` are the algorithms that the requester
names in its NEGOTIATE_ALGORITHMS, the signature and the hash ones (R456). -/
inductive Action
  | issue (p : Nat)
  | command (p : Nat)
  | event (i : Instr)
  | tick
  | arrived (p : Nat)
  | farload (file : List Byte) (data : List DataBlock) (asid : BitVec 16) (vas pas : List Nat)
  | mailbox (root : Bool) (off : Nat) (v : DWord)
  | homeWord (line : Nat)
  | queuePair (qp : Nat) (asid : BitVec 16) (len : Nat)
  | attest (code : Nat)
  | offer (asym hash : Nat)
  deriving DecidableEq, Repr

/-- A region (R12): the course it holds, its sequencer, its fabric and its memories. Absent fields of a free region stand
at the values of Region.free. `before` is the mode that a region held by a debugger goes back to (R459); `kept` is the mode, with
that, of a region that is frozen or saved (R427 to R433); `stops` the handlers that a word breakpoint has stopped, `passing` those that it
lets pass at their next word, `picked` the handler whose pick has stopped the region (R458, R478, R483); `storing` the lines that the stores of stalled handlers have
asked for (R459); `inherit` the pool values that a chained successor takes over
(R438), `succ` the number of its configuration once that follows the last tokens of a region that has executed `done` (R132), `succFlags` the
flags that its nodes have raised by then (R31), and
`dropTo` the last step whose spilled elements a `goto` or `done` has discarded (R336). -/
structure Region where
  mode     : RegionMode
  inst     : Nat
  launch   : Nat
  image    : Nat
  sys      : Bool
  job      : Nat
  instIdx  : Nat
  placeId  : Nat
  origin   : Nat
  spanW    : Nat
  spanH    : Nat
  group    : Nat
  reach    : Nat
  elastic  : Bool
  regs     : Vector DWord 32
  cc       : BitVec 4
  ic       : Word
  icend    : Word
  widBase  : DWord
  shape    : Nat
  slot     : Nat
  asid     : BitVec 16
  fpflags  : Flags
  ev       : Bool
  rescale  : Bool
  timer    : DWord
  timerEv  : Bool
  lclk     : DWord
  faults   : List (BitVec 256)
  faultsAt : Nat                 -- the tide of the entry that entered last
  faultsIn : Nat                 -- entries that have entered at that tide
  handlers : Tbl Handler
  chmap    : Tbl (BitVec 9)
  handles  : Tbl Handle
  cmdQ     : List QueuedCmd
  sif      : StreamIf
  bindSeq  : Nat
  live     : List (Nat × Nat)
  pools    : List RegionPool
  pconOut  : Nat
  steps    : List StepSlot
  stepNo   : Nat
  cells    : Tbl Cell
  ports    : Tbl Port
  sides    : Tbl PortSide
  columns  : Tbl Column
  matrix   : Matrix
  stash    : List StashLine
  wbOut    : Nat
  asked    : List (Nat × Bool)
  tlb      : List PageEntry
  rill     : Tbl RillNode
  gens     : Tbl GenCopy
  comps    : Tbl Comparator
  doneAt   : Nat
  stage    : Nat
  finished : Bool
  lateFault : Bool
  halter   : Option Nat
  before   : RegionMode
  kept     : RegionMode × RegionMode
  stampNo  : Nat
  stops    : List Nat
  passing  : List Nat
  picked   : Option Nat
  storing  : Tbl Nat
  inherit  : List Legacy
  succ     : Option Nat
  succFlags : Flags
  dropTo   : Nat
  deriving DecidableEq, Repr

/-- The machine. `agenda`, `picks`, `fresh`, `cur` and `stalled` are the model's own fields: what runs next, how many choices and
free values have been drawn, the region and handler whose word is being executed, and whether that word stalled. `homeWords` are the
lines of words that the homes alone perform (R293); `walks` the walk caches of the dies (R323). -/
structure State where
  tide     : Nat
  mem      : List Host.Cell
  lines    : Tbl HomeLine
  poison   : List Nat
  homeWords : List Nat
  walks    : List TableHeld
  asids    : Tbl AsidEntry
  prot     : List (Nat × Nat)
  invals   : Tbl Invalidation
  records  : Tbl GaugeRec
  seals    : Tbl SealOp
  basins   : List HomeBasin
  lanes    : List Lane
  images   : Tbl Image
  dies     : Tbl Die
  regions  : Tbl Region
  arrays   : Tbl WeirArray
  well     : Wellhead
  boot     : Boot
  fw       : Firmware
  attach   : Tbl Attachment
  net      : List Msg
  agenda   : List Action
  picks    : Nat
  fresh    : Nat
  cur      : Nat × Nat
  stalled  : Bool
  deriving DecidableEq, Repr

/-! ### Reset values. A register whose reset value the spec does not give has the value that log entry 1 names. -/

def Latch.empty : Latch := { tok := none, taken := [] }
def OutState.init : OutState :=
  { latch := none, loop := false, held := none, drop := .start, ctlTaken := none, stopped := false, eosSent := false }
def Tile.empty : Tile := { words := [], n := 0 }
def CellMem.init : CellMem :=
  { elems := [], queue := [], lanes := [], fold := 0, run := none, pairs := 0, ctr := 0, emitted := 0, lastA := none,
    lastB := none, block := none, chosenA := false, blockE := 0, sticky := false, tile := Tile.empty, replies := [],
    flight := [], codes := none, boundary := true, scale := 0, gen8 := 0 }
def Spillway.empty : Spillway := { queue := [], head := 0, count := 0, since := 0, retryAt := 0 }
def PortSide.init : PortSide :=
  { queue := [], grec := none, cls := none, clsNext := none, rate := 0, moved := [], windows := [], latch := none, xlatches := [],
    spill := Spillway.empty, stallAt := 0, stallVa := none, marker := false, relatch := false, pairs := [] }
/-- A bank at the start of a course or a step (R224). -/
def Bank.reset : Bank :=
  { tr := 512, tc := 512, wb := 8, pack := false, bm := false, es := [], ms := [], bits := [], orgY := 0, orgX := 0 }
/-- The matrix unit at power-up (R224, R245). -/
def Matrix.reset : Matrix :=
  { step := 0, banks := (Bank.reset, Bank.reset), active1 := false, acc := [], accBad := [], channel := [], walk := true, orgY := 0,
    orgX := 0, vec := 0, maskH := none, slices := [], flight := [], drains := [], mz := [], ma := [], owed := [], maEos := [],
    maWait := [], faulted := false, marked := false, freeAt := 0 }
def Handler.undeclared : Handler :=
  { decl := false, off := 0, pri := 0, hen := false, st := .idle, ia := 0, wait := .none, latch := .none }
def Handle.undeclared : Handle := { decl := false, loc := false, lsz := 0, slots := 0, base := 0, p := 0, c := 0, f := 0 }
def StreamIf.init : StreamIf := { posted := false, answer := none, bad := none, ackWord := none, atime := none, snap := none, phase := none }
/-- The unit granted last counts as row 15 at step start (R204). -/
def Column.init : Column := { last := 15 }
/-- A free region. -/
def Region.free : Region :=
  { mode := .free, inst := 0, launch := 0, image := 0, sys := false, job := 0, instIdx := 0, placeId := 0, origin := 0, spanW := 0,
    spanH := 0, group := 0, reach := 0, elastic := false, regs := Vector.replicate 32 0, cc := 0, ic := 0, icend := 0,
    widBase := 0, shape := 0, slot := 0, asid := 0, fpflags := 0, ev := false, rescale := false, timer := 0, timerEv := false,
    lclk := 0, faults := [], faultsAt := 0, faultsIn := 0, handlers := [], chmap := [], handles := [], cmdQ := [], sif := StreamIf.init, bindSeq := 0, live := [],
    pools := [], pconOut := 0, steps := [], stepNo := 0, cells := [], ports := [], sides := [], columns := [], matrix := Matrix.reset,
    stash := [], wbOut := 0, asked := [], tlb := [], rill := [], gens := [], comps := [], doneAt := 0, stage := 0, finished := false,
    lateFault := false, halter := none, before := .free, kept := (.free, .free), stampNo := 0, stops := [], passing := [], picked := none, storing := [], inherit := [], succ := none, succFlags := 0, dropTo := 0 }
/-- A line at home that no access has reached (R288). -/
def HomeLine.init : HomeLine := { wts := 0, rts := 0, owner := none }
/-- An entry of the ASID context table at reset (R317). -/
def AsidEntry.reset : AsidEntry := { root := 0, dbg := false, st := .free }
def GaugeRec.blank : GaugeRec :=
  { alloc := false, image := 0, sealTide := 0, asid := 0, psn := false, rsc := false, clearLive := false, autoSeal := false,
    margin := 0, satth := 0, clip := 0, scale := 127, gen := 0, live := [], sealed := [] }
/-- A launch queue at reset (R108). -/
def Queue.reset : Queue :=
  { qbase := 0, en := false, priv := false, loc := false, weight := 1, logsz := 4, err := false, head := 0, tail := 0,
    last := none }
/-- Domain 0 at reset, and every other domain (R443). -/
def Domain.first : Domain :=
  { en := true, err := false, fcur := 8, fcode := 8, ch := 3, cw := 3, cy := 0, cx := 0, stepAt := none }
def Domain.reset : Domain :=
  { en := false, err := false, fcur := 8, fcode := 8, ch := 0, cw := 0, cy := 0, cx := 0, stepAt := none }
def Channel.reset : Channel := { owner := none, words := [], sub := none, kept := 0 }
def Cluster.reset : Cluster := { power := .on, freeFrom := 0 }
/-- A die's registers at reset (R110, R424, R440). -/
def Die.reset : Die :=
  { inbw := 4, stallMax := 200, admwd := 10000, snapTo := 20, splTo := 50, saveBase := 0, saveN := 0, autop := false, retTo := 1000,
    gateDly := 100, pcap := 256, fclr := 0, domains := [(0, Domain.first)], queues := [], served := [], credit := [], turn := [], inboxLast := [],
    launches := [], insts := [], inbox := [], copyIn := [], weirIn := [], copyEng := [], weirJobs := [], holders := [],
    arrivals := [], chans := [], hclk := 0, preempt := none, preqWait := none, slotsUsed := [], clusters := [], etc := [],
    rillRoot := [], relatch := none, noLatch := [] }
def WeirArray.reset : WeirArray := { ctxs := [], rows := [] }
def ConduitPort.reset : ConduitPort :=
  { expect := [], retries := 0, sent := [], queue := [], hist := [], credit := [1, 2, 4], turn := [], slots := 0 }
def Wellhead.reset : Wellhead :=
  { inbox := [], jobs := [], graphs := [], replays := [], refnode := [], chunkMem := [], rows := [], tlock := true, slew := 0,
    groups := [], domain := [0], pkg := 0, routes := [], ports := [], qps := [], roce := [], sentNo := 0,
    held := [], eth := [], out := [] }
def Mailbox.reset : Mailbox := { req := [0, 0, 0, 0, 0, 0, 0, 0], busy := false, res := 0 }
/-- BOOT at reset (R450). -/
def Boot.reset : Boot := { stage := 0, warm := false, fail := 0, st := 0 }
def Firmware.reset : Firmware :=
  { root := Mailbox.reset, mgmt := Mailbox.reset, saved := false, image := [], log := [], verified := none, starts := 0, spdm := [],
    hostLoads := [], msix := [], negotiated := false, offer := (0, 0) }

/-- The machine right after reset: every unit stopped, every register at its reset value, BOOT.STATE STARTING (R449, R450).
The start stages follow as steps (log entry 10). -/
def State.reset : State :=
  { tide := 0, mem := [], lines := [], poison := [], homeWords := [], walks := [], asids := [], prot := [], invals := [], records := [], seals := [], basins := [],
    lanes := [], images := [], dies := [], regions := [], arrays := [], well := Wellhead.reset, boot := Boot.reset,
    fw := Firmware.reset, attach := [], net := [], agenda := [], picks := 0, fresh := 0, cur := (0, 0), stalled := false }

end Sys2Proof.Machine
end

