-- ==== Sys2Proof/Machine/Tables.lean ====
section
/-! DEFINITION. Tables by number, and the accessors of the state's tables. -/
namespace Sys2Proof.Machine

/-- The entry of a key, none when it is not listed. -/
def Tbl.find {α : Type} : Tbl α → Nat → Option α
  | [], _ => none
  | (k, v) :: t, i => if k = i then some v else Tbl.find t i

/-- The entry of a key, or a default. -/
def Tbl.look {α : Type} (t : Tbl α) (i : Nat) (d : α) : α :=
  match Tbl.find t i with
  | some v => v
  | none => d

/-- Set an entry, keeping keys in rising order. -/
def Tbl.put {α : Type} : Tbl α → Nat → α → Tbl α
  | [], i, v => [(i, v)]
  | (k, w) :: t, i, v => if i < k then (i, v) :: (k, w) :: t else if i = k then (i, v) :: t else (k, w) :: Tbl.put t i v

/-- Remove the entry of a key. -/
def Tbl.drop {α : Type} : Tbl α → Nat → Tbl α
  | [], _ => []
  | (k, w) :: t, i => if k = i then Tbl.drop t i else (k, w) :: Tbl.drop t i

/-- The values of a table. -/
def Tbl.vals {α : Type} (t : Tbl α) : List α := t.map (·.2)

/-- Change one listed entry. -/
def Tbl.adjust {α : Type} (t : Tbl α) (i : Nat) (f : α → α) : Tbl α :=
  match Tbl.find t i with
  | some v => Tbl.put t i (f v)
  | none => t

/-- The lowest number not in use as a key. -/
def Tbl.nextKey {α : Type} (t : Tbl α) : Nat := t.foldl (fun n e => if n ≤ e.1 then e.1 + 1 else n) 0

/-- Remove the element at a position. -/
def removeAt {α : Type} : List α → Nat → List α
  | [], _ => []
  | _ :: t, 0 => t
  | x :: t, n + 1 => x :: removeAt t n

/-- Replace the element at a position. -/
def replaceAt {α : Type} : List α → Nat → α → List α
  | [], _, _ => []
  | _ :: t, 0, y => y :: t
  | x :: t, n + 1, y => x :: replaceAt t n y

/-! ### The state's tables -/

def State.region (s : State) (p : Nat) : Region := Tbl.look s.regions p Region.free
def State.setRegion (s : State) (p : Nat) (r : Region) : State := { s with regions := Tbl.put s.regions p r }
def State.die (s : State) (d : Nat) : Die := Tbl.look s.dies d Die.reset
def State.setDie (s : State) (d : Nat) (x : Die) : State := { s with dies := Tbl.put s.dies d x }
def State.array (s : State) (k : Nat) : WeirArray := Tbl.look s.arrays k WeirArray.reset
def State.setArray (s : State) (k : Nat) (a : WeirArray) : State := { s with arrays := Tbl.put s.arrays k a }
def State.asidOf (s : State) (a : Nat) : AsidEntry := Tbl.look s.asids a AsidEntry.reset
def State.line (s : State) (l : Nat) : HomeLine := Tbl.look s.lines l HomeLine.init
def State.setLine (s : State) (l : Nat) (h : HomeLine) : State := { s with lines := Tbl.put s.lines l h }
def State.record (s : State) (i : Nat) : GaugeRec := Tbl.look s.records i GaugeRec.blank
def State.setRecord (s : State) (i : Nat) (g : GaugeRec) : State := { s with records := Tbl.put s.records i g }

/-- The image a region runs. -/
def State.imageOf (s : State) (r : Region) : Option Image := Tbl.find s.images r.image

def Region.handler (r : Region) (k : Nat) : Handler := Tbl.look r.handlers k Handler.undeclared
def Region.setHandler (r : Region) (k : Nat) (h : Handler) : Region := { r with handlers := Tbl.put r.handlers k h }
def Region.handle (r : Region) (n : Nat) : Handle := Tbl.look r.handles n Handle.undeclared
def Region.setHandle (r : Region) (n : Nat) (h : Handle) : Region := { r with handles := Tbl.put r.handles n h }
def Region.side (r : Region) (n : Nat) : PortSide := Tbl.look r.sides n PortSide.init
def Region.setSide (r : Region) (n : Nat) (x : PortSide) : Region := { r with sides := Tbl.put r.sides n x }
def Die.chan (d : Die) (c : Nat) : Channel := Tbl.look d.chans c Channel.reset
def Die.setChan (d : Die) (c : Nat) (x : Channel) : Die := { d with chans := Tbl.put d.chans c x }
def Die.queue (d : Die) (q : Nat) : Queue := Tbl.look d.queues q Queue.reset
def Die.setQueue (d : Die) (q : Nat) (x : Queue) : Die := { d with queues := Tbl.put d.queues q x }
def Die.domain (d : Die) (j : Nat) : Domain := Tbl.look d.domains j Domain.reset
def Die.setDomain (d : Die) (j : Nat) (x : Domain) : Die := { d with domains := Tbl.put d.domains j x }
def Die.cluster (d : Die) (c : Nat) : Cluster := Tbl.look d.clusters c Cluster.reset
def Die.setCluster (d : Die) (c : Nat) (x : Cluster) : Die := { d with clusters := Tbl.put d.clusters c x }

/-- Regions that a pre-emption has saved stand in the table of regions under numbers from here on: 4096 for each die, one for each
save slot. -/
def savedBase : Nat := 2 ^ 31
/-- The number of a save slot of a die. -/
def savedKey (d slot : Nat) : Nat := savedBase + 4096 * (d % 4) + slot % 4096

/-- The fabric die of a place (R13), or of a saved region. -/
def dieOfPlace (p : Nat) : Nat := if p < 256 then p / 64 else p / 4096 % 4

end Sys2Proof.Machine
end

