-- ==== Sys2Proof/Machine/Operands.lean ====
section
/-! DEFINITION. The operand forms of conduct words: registers, immediates, addresses, branch targets (R83 to R87, R134,
R146 to R149, R154). -/
namespace Sys2Proof.Machine

/-- A general register: g0 reads as zero (R134). -/
def Region.get (r : Region) (i : Reg) : DWord := if i.val = 0 then 0 else r.regs[i]

/-- Write a general register: a write to g0 is discarded (R134). -/
def Region.set (r : Region) (i : Reg) (v : DWord) : Region :=
  if i.val = 0 then r else { r with regs := r.regs.set i v }

/-- The low 32 bits of a register, as a number. -/
def low32 (v : DWord) : Nat := v.toNat % 2 ^ 32

/-- A 16-bit immediate sign-extended to 64 bits. -/
def sext16 (imm : BitVec 16) : DWord := imm.signExtend 64

/-- A 16-bit immediate zero-extended. -/
def zext16 (imm : BitVec 16) : DWord := imm.setWidth 64

/-- A conduct address: ga plus an offset, modulo 2^57 (R148, R149). -/
def confine (v : DWord) : Nat := v.toNat % 2 ^ 57

def loadAddr (base : DWord) (off : BitVec 16) : Nat := confine (base + sext16 off)

/-- The low n bytes of a value, sign-extended or zero-extended to 64 bits (R148). -/
def extendBytes (n : Nat) (signed : Bool) (v : Nat) : DWord :=
  if signed then BitVec.ofInt 64 (signedOf (8 * n) v) else BitVec.ofNat 64 (v % 2 ^ (8 * n))
where
  signedOf (w n : Nat) : Int :=
    if n % 2 ^ w < 2 ^ (w - 1) then ((n % 2 ^ w : Nat) : Int) else ((n % 2 ^ w : Nat) : Int) - ((2 ^ w : Nat) : Int)

/-- The target of a branch of word offset off16, from the word's own byte address (R87). -/
def branchTarget (ia : Nat) (off : BitVec 16) : Int := (ia : Int) + 4 * off.toInt

/-- The target of a jmp or call (R87). -/
def jumpTarget (ia : Nat) (off : BitVec 26) : Int := (ia : Int) + 4 * off.toInt

end Sys2Proof.Machine
end

