-- ==== Sys2Proof/Machine/Mem.lean ====
section
/-! DEFINITION. Memory at the homes: bytes by physical address, the lease clocks of lines, recalls and write-backs
(R283 to R293, R310). -/
namespace Sys2Proof.Machine

/-! ### Bytes -/

/-- What a byte that no list entry names reads as: stage 7 of a start writes zero over device memory (R449). For host
memory it is the model's choice (assumption 3). -/
def Memory.unlisted : Byte := 0

/-- The canonical form: addresses strictly rising, and no entry equal to what an unlisted address reads as. -/
def Memory.wf : List Host.Cell → Bool
  | [] => true
  | [(_, v)] => v != Memory.unlisted
  | (a, v) :: (b, w) :: t => decide (a < b) && v != Memory.unlisted && Memory.wf ((b, w) :: t)

/-- Read one byte. -/
def Memory.read : List Host.Cell → Nat → Byte
  | [], _ => Memory.unlisted
  | (k, v) :: t, a => if k = a then v else if a < k then Memory.unlisted else Memory.read t a

/-- Write one byte, keeping the canonical form. -/
def Memory.write : List Host.Cell → Nat → Byte → List Host.Cell
  | [], a, b => if b = Memory.unlisted then [] else [(a, b)]
  | (k, v) :: t, a, b =>
    if k = a then (if b = Memory.unlisted then t else (a, b) :: t)
    else if a < k then (if b = Memory.unlisted then (k, v) :: t else (a, b) :: (k, v) :: t)
    else (k, v) :: Memory.write t a b

/-- n bytes from an address, little-endian (R1), as a number. -/
def Memory.readLE (m : List Host.Cell) (a : Nat) : Nat → Nat
  | 0 => 0
  | n + 1 => (Memory.read m a).toNat + 256 * Memory.readLE m (a + 1) n

/-- Write the low n bytes of a number, little-endian. -/
def Memory.writeLE (m : List Host.Cell) (a : Nat) : Nat → Nat → List Host.Cell
  | 0, _ => m
  | n + 1, v => Memory.writeLE (Memory.write m a (BitVec.ofNat 8 (v % 256))) (a + 1) n (v / 256)

/-- n bytes from an address, as a list. -/
def Memory.bytes (m : List Host.Cell) (a : Nat) : Nat → List Byte
  | 0 => []
  | n + 1 => Memory.read m a :: Memory.bytes m (a + 1) n

/-- Write a list of bytes. -/
def Memory.writeBytes (m : List Host.Cell) (a : Nat) : List Byte → List Host.Cell
  | [] => m
  | b :: t => Memory.writeBytes (Memory.write m a b) (a + 1) t

/-- Little-endian value of a list of bytes. -/
def leValue : List Byte → Nat
  | [] => 0
  | b :: t => b.toNat + 256 * leValue t

/-- The low n bytes of a number, lowest first. -/
def leBytes : Nat → Nat → List Byte
  | 0, _ => []
  | n + 1, v => BitVec.ofNat 8 (v % 256) :: leBytes n (v / 256)

/-! ### Physical addresses (R283) -/

def hostBit (pa : Nat) : Bool := pa / 2 ^ 51 % 2 == 1
def pkgOf (pa : Nat) : Nat := pa / 2 ^ 39 % 1024
def dieOf (pa : Nat) : Nat := pa / 2 ^ 37 % 4
/-- The weir array that homes an address. -/
def arrayOf (pa : Nat) : Nat := 2 * (2 * dieOf pa + pa / 2 ^ 9 % 2) + pa / 2 ^ 8 % 2
/-- The home bank within the cistern. -/
def bankOf (pa : Nat) : Nat := (BitVec.ofNat 6 (pa / 2 ^ 6) ^^^ BitVec.ofNat 6 (pa / 2 ^ 12)).toNat
/-- An address that a conduct, port or weir access may name: no HOST bit, no reserved bit. -/
def paOk (pa : Nat) : Bool := decide (pa < 2 ^ 49)
def lineOf (pa : Nat) : Nat := pa / 64

/-! ### Lines as data -/

/-- The 64 bytes of a line at its home. -/
def State.lineData (s : State) (line : Nat) : Vector Byte 64 :=
  Vector.ofFn fun (i : Fin 64) => Memory.read s.mem (64 * line + i.val)

/-- Write the 64 bytes of a line at its home. -/
def State.putLine (s : State) (line : Nat) (d : Vector Byte 64) : State :=
  { s with mem := Memory.writeBytes s.mem (64 * line) d.toList }

/-- n bytes at an offset of a line. -/
def lineRead (d : Vector Byte 64) (off n : Nat) : Nat := leValue ((d.toList.drop off).take n)

/-- Replace n bytes of a line. -/
def lineWrite (d : Vector Byte 64) (off n v : Nat) : Vector Byte 64 :=
  Vector.ofFn fun (i : Fin 64) =>
    if off ≤ i.val ∧ i.val < off + n then BitVec.ofNat 8 (v / 256 ^ (i.val - off) % 256) else d[i]

/-! ### Poison marks at the homes (R310) -/

def State.homePoisoned (s : State) (line : Nat) : Bool := s.poison.contains line

def insertSorted (n : Nat) : List Nat → List Nat
  | [] => [n]
  | k :: t => if n < k then n :: k :: t else if n = k then k :: t else k :: insertSorted n t

def State.markPoison (s : State) (line : Nat) (bad : Bool) : State :=
  { s with poison := if bad then insertSorted line s.poison else s.poison.filter (· != line) }

/-! ### The stash (R285 to R288) -/

def Region.findLine (r : Region) (line : Nat) : Option StashLine := r.stash.find? (·.line == line)

/-- Replace or add a stash line, as the one used last. -/
def Region.putStash (r : Region) (l : StashLine) : Region :=
  { r with stash := { l with stamp := r.stampNo } :: r.stash.filter (·.line != l.line), stampNo := r.stampNo + 1 }

def Region.dropStash (r : Region) (line : Nat) : Region := { r with stash := r.stash.filter (·.line != line) }

/-- The stash set of a line: 1,024 sets of sixteen ways (R285). -/
def setOfLine (line : Nat) : Nat := line % 1024

/-- The line that a fill of a set evicts: the least recently used that is not pinned, once sixteen stand (R285, R286). -/
def Region.victim (r : Region) (line : Nat) : Option StashLine :=
  let set := r.stash.filter (fun l => setOfLine l.line == setOfLine line)
  if set.length < 16 then none
  else (set.filter (fun l => !l.pinned)).foldl
    (fun acc l => match acc with
      | none => some l
      | some m => if l.stamp < m.stamp then some l else some m) none

/-! ### Write-backs and recalls (R287, R290) -/

/-- The monitors armed on a line, the last one first: each is tested again at every write of the line, before anything else
happens (R153, R171, R251). -/
def wakesFrom (line : Nat) : Nat → List Msg → List Action → List Action
  | _, [], acc => acc
  | i, m :: t, acc =>
    let acc' := match m.src, m.body with
      | none, .waitvArmed _ pa _ _ => if lineOf pa = line then .event (.waitvWake i) :: acc else acc
      | none, .await _ pa _ _ => if lineOf pa = line then .event (.waitvWake i) :: acc else acc
      | none, .header _ _ pa _ _ => if lineOf pa = line then .event (.handleHeaderAction i) :: acc else acc
      | _, _ => acc
    wakesFrom line (i + 1) t acc'

def State.wake (s : State) (line : Nat) : State := { s with agenda := wakesFrom line 0 s.net [] ++ s.agenda }

def maxClk (a b : DWord) : DWord := if a.toNat < b.toNat then b else a

/-- The home's part of a write-back: the data with its timestamps, and no owner left (R290, R310). -/
def State.applyWriteBack (s : State) (l : StashLine) : State :=
  let h := s.line l.line
  (((s.putLine l.line l.data).setLine l.line { wts := l.wts, rts := maxClk h.rts l.rts, owner := none }).markPoison l.line l.poison).wake
    l.line

/-- Perform a write-back message of a region and acknowledge it. -/
def State.performWriteBack (s : State) (p : Nat) (l : StashLine) : State :=
  let s1 := s.applyWriteBack l
  let r := s1.region p
  s1.setRegion p { r with wbOut := r.wbOut - 1 }

/-- Perform every write-back of a line that is on its way, oldest first. -/
def State.flushLine (s : State) (line : Nat) : State :=
  let mine := s.net.filterMap fun m => match m.body with
    | .writeBack p l => if l.line = line then some (p, l) else none
    | _ => none
  let rest := s.net.filter fun m => match m.body with
    | .writeBack _ l => l.line != line
    | _ => true
  mine.foldl (fun s x => s.performWriteBack x.1 x.2) { s with net := rest }

/-- An ownership reply still on its way to a region is withdrawn: its store asks again. -/
def State.cancelOwn (s : State) (o line : Nat) : State :=
  let r := s.region o
  { s.setRegion o { r with asked := r.asked.filter (fun a => a != (line, true)) } with
    net := s.net.filter fun m => match m.body with
      | .ownReply p l _ _ _ _ => !(p == o && l == line)
      | _ => true }

/-- The home recalls the owner of a line (R290): its data comes home; the old owner keeps a lease, or nothing when the
recall is for a store. An owner whose reply is still on its way has stored nothing: it loses the line, and a copy that it has leased
is never written back. -/
def State.recallNow (s : State) (line : Nat) (drop : Bool) : State :=
  let s1 := s.flushLine line
  match (s1.line line).owner with
  | none => s1
  | some o =>
    let r := s1.region o
    match r.findLine line with
    | some l =>
      if l.owned then
        let s2 := s1.applyWriteBack l
        let r' := if drop then r.dropStash line
          else { r with stash := r.stash.map fun x => if x.line == line then { x with owned := false, dirty := false } else x }
        s2.setRegion o r'
      else (s1.cancelOwn o line).setLine line { s1.line line with owner := none }
    | none => (s1.cancelOwn o line).setLine line { s1.line line with owner := none }

/-- A line from which the homes alone serve every access (R293): its owner is recalled and no stash keeps a copy. -/
def State.markHome (s : State) (line : Nat) : State :=
  if s.homeWords.contains line then s
  else
    let s1 := s.recallNow line true
    { s1 with homeWords := insertSorted line s1.homeWords, regions := s1.regions.map fun e => (e.1, e.2.dropStash line) }

/-! ### Accesses at the home (R289, R290, R292, R293): no copy is left -/

/-- Read n bytes at the home under a clock: the value, the clock after it, whether the copy is marked poisoned. -/
def State.homeRead (s : State) (pa n : Nat) (clk : DWord) : Nat × DWord × Bool × State :=
  let line := lineOf pa
  let h := s.line line
  let s1 := if h.owner.isSome && decide (clk.toNat > h.rts.toNat) then s.recallNow line false else s
  let h1 := s1.line line
  let lease : DWord := BitVec.ofNat 64 Config.lease
  let s2 := if h1.owner.isSome then s1
    else s1.setLine line { h1 with rts := maxClk h1.rts (maxClk (h1.wts + lease) (clk + lease)) }
  (Memory.readLE s2.mem pa n, maxClk clk h1.wts, s2.homePoisoned line, s2)

/-- Read n bytes at the home for an action that then writes them (R290): the owner's copy is recalled for the store, and no lease is
granted. -/
def State.homeTake (s : State) (pa n : Nat) (clk : DWord) : Nat × DWord × Bool × State :=
  let line := lineOf pa
  let s1 := s.recallNow line true
  (Memory.readLE s1.mem pa n, maxClk clk (s1.line line).wts, s1.homePoisoned line, s1)

/-- Write n bytes at the home under a clock: t is above every lease. -/
def State.homeWrite (s : State) (pa n v : Nat) (clk : DWord) : DWord × State :=
  let line := lineOf pa
  let s1 := s.recallNow line true
  let h := s1.line line
  let t := maxClk clk (h.rts + 1)
  let s2 := { s1 with mem := Memory.writeLE s1.mem pa n v }
  let s3 := s2.setLine line { wts := t, rts := t, owner := none }
  (t, (if n = 64 then s3.markPoison line false else s3).wake line)

/-! ### Messages -/

/-- The source keys of ordered messages: a region's memory requests, channel words, pool traffic, engine messages, holders. -/
def keyMem (p : Nat) : Option Nat := some (8 * p)
def keyChan (p : Nat) : Option Nat := some (8 * p + 1)
def keyPool (p : Nat) : Option Nat := some (8 * p + 2)
def keyEngine (p : Nat) : Option Nat := some (8 * p + 3)
def keyHold (p : Nat) : Option Nat := some (8 * p + 4)
def keyRill (p : Nat) : Option Nat := some (8 * p + 5)
/-- What the homes send to one region: replies and recalls. -/
def keyReply (p : Nat) : Option Nat := some (8 * p + 6)
/-- The jobs that one msgout port posts to admission (R125). -/
def keyOut (p n : Nat) : Option Nat := some (2 ^ 28 + 64 * p + n)
/-- The elements that one port sends to the weir arrays (R297). -/
def keyPort (p n : Nat) : Option Nat := some (2 ^ 20 + 64 * p + n)

def State.post (s : State) (src : Option Nat) (b : Body) : State := { s with net := s.net ++ [{ src := src, body := b }] }

/-- The place of who asks. -/
def Asker.place : Asker → Nat
  | .handler p _ => p
  | .stream p => p

/-- The region to which a message is addressed, if it is addressed to one. -/
def Body.target : Body → Option Nat
  | .loadReply p _ _ _ _ _ => some p
  | .ownReply p _ _ _ _ _ => some p
  | .atomicReply w _ _ _ _ => some w.place
  | .claim p _ => some p
  | .poolDecl p _ _ _ _ => some p
  | .completion p _ _ _ _ _ _ => some p
  | .reply p _ _ _ _ => some p
  | .train (some (p, _)) _ _ _ _ => some p
  | .sealMark (some p) _ => some p
  | .genWord p _ _ _ _ => some p
  | .rescale p _ => some p
  | _ => none

/-- The pool instance at whose home a message is served. -/
def Body.pool : Body → Option PoolKey
  | .poolDecl _ _ key _ _ => some key
  | .poolCon key _ _ _ _ _ _ _ => some key
  | .gather _ _ key _ _ => some key
  | _ => none

/-- Whether the binding of an instance may hold several packages (R69, R118). -/
def PoolKey.spread (key : PoolKey) : Bool := decide (4 ≤ key.reach % 16)
/-- The package of an instance's home region (R356). -/
def State.homePkg (s : State) (key : PoolKey) : Nat := if key.spread then key.home / 1024 else s.well.pkg
def State.homeHere (s : State) (key : PoolKey) : Bool := s.homePkg key == s.well.pkg

/-- Whether the home region of an instance of its own launch is saved: the home basin is carried with it (R357). -/
def State.homeAway (s : State) (key : PoolKey) : Bool :=
  s.regions.any fun e => decide (savedBase ≤ e.1) && s.homeHere key && e.2.placeId == key.home % 1024 && e.2.job == key.job && e.2.asid.toNat == key.asid

/-- The region to which a message is a word that waits while the region stands still (R431, R459). -/
def Body.word : Body → Option Nat
  | .completion p _ _ _ _ _ _ => some p
  | .reply p _ _ _ _ => some p
  | .genWord p _ _ _ _ => some p
  | .rescale p _ => some p
  | _ => none

/-- What is addressed to a saved region, or to a home basin that it carries, waits at its source (R357, R431), as do the words addressed
to a region that is frozen or held by a debugger (R459). -/
def State.awaySide (s : State) (b : Body) : Bool :=
  (match b.target with
    | some p => decide (savedBase ≤ p) && decide (p < 2 ^ 30)
    | none => false) ||
  (match b.word with
    | some p => (s.region p).mode == .held || (s.region p).mode == .frozen
    | none => false) ||
  -- the wake-up of a handler that waits on a word or a barrier is such a word; a handler reads the answer to an atomic when it next issues
  (match b with
    | .atomicReply (.handler p _) _ _ _ _ => (s.region p).mode == .held
    | _ => false) ||
  (match b.pool with
    | some key => s.homeAway key
    | none => false)

/-- The message at a position, when it is not held and no earlier message of its source is still on its way. -/
def State.ready (s : State) (m : Nat) : Option Body :=
  match s.net[m]? with
  | none => none
  | some x =>
    if s.awaySide x.body then none
    else
      match x.src with
      | none => some x.body
      | some k => if (s.net.take m).any (fun y => y.src == some k) then none else some x.body

def State.unpost (s : State) (m : Nat) : State := { s with net := removeAt s.net m }

/-- Write back every dirty line of a region (R287): each stays leased, its write-back on its way to the home. -/
def State.writeBackAll (s : State) (p : Nat) : State :=
  let r := s.region p
  let dirty := r.stash.filter (·.dirty)
  let r' := { r with stash := r.stash.map (fun l => if l.dirty then { l with dirty := false, owned := false } else l),
                     wbOut := r.wbOut + dirty.length }
  (dirty.reverse).foldl (fun s l => s.post (keyMem p) (.writeBack p l)) (s.setRegion p r')

/-- Write back one line and invalidate it, as before an atomic (R152). -/
def State.writeBackLine (s : State) (p line : Nat) : State :=
  let r := s.region p
  match r.findLine line with
  | none => s
  | some l =>
    let r1 := r.dropStash line
    if l.dirty || l.owned then
      (s.setRegion p { r1 with wbOut := r1.wbOut + 1 }).post (keyMem p) (.writeBack p l)
    else s.setRegion p r1

/-- Fill a stash line, evicting another when its set is full (R285, R287). -/
def State.fillStash (s : State) (p : Nat) (l : StashLine) : State :=
  let r := s.region p
  match (if (r.findLine l.line).isSome then none else r.victim l.line) with
  | none => s.setRegion p (r.putStash l)
  | some v =>
    let r1 := (r.dropStash v.line).putStash l
    if v.dirty || v.owned then
      (s.setRegion p { r1 with wbOut := r1.wbOut + 1 }).post (keyMem p) (.writeBack p v)
    else s.setRegion p r1

end Sys2Proof.Machine
end

