-- ==== Sys2Proof/Machine/Translate.lean ====
section
/-! DEFINITION. Translation: the radix walk, the region TLB and the checks after it (R316 to R323). -/
namespace Sys2Proof.Machine

/-- How a translation stands after one more action (R322): a page, a translation fault with reason and level, a poisoned table line, or
a pointer to the table that the walk reads next. -/
inductive Trans
  | page (e : PageEntry)
  | fault (reason level : Nat)
  | poison (line : Nat)
  | table (base : Nat)
  deriving DecidableEq, Repr

/-- The number of the lowest address bit that a level indexes (R319). -/
def levelShift (level : Nat) : Nat := 12 + 9 * (level - 1)

def entryBit (e i : Nat) : Bool := e / 2 ^ i % 2 == 1
/-- PA[51:12] of an entry, as an address. -/
def entryBase (e : Nat) : Nat := e / 2 ^ 12 % 2 ^ 40 * 2 ^ 12

/-- Whether a valid entry at a level is malformed (R320). `head`: a level 1 entry whose index is a multiple of 16. -/
def entryMalformed (e level : Nat) (head : Bool) : Bool :=
  let t := entryBit e 1
  let g64 := entryBit e 4
  decide (e / 2 ^ 52 ≠ 0) || decide (e / 2 ^ 5 % 2 ^ 7 ≠ 0)
    || (!t && decide (4 ≤ level)) || (t && level == 1)
    || (t && (g64 || entryBit e 3 || entryBit e 2))
    || (g64 && level != 1)
    || (!t && level == 3 && decide (entryBase e % 2 ^ 30 ≠ 0))
    || (!t && level == 2 && decide (entryBase e % 2 ^ 21 ≠ 0))
    || (g64 && level == 1 && (!head || decide (entryBase e % 2 ^ 16 ≠ 0)))

/-- Entry j of a table, as its home holds it (R322). -/
def State.tableEntry (s : State) (table j : Nat) : Nat := Memory.readLE s.mem (table + 8 * j) 8

/-- A leaf as a page of size 2^log. -/
def leafPage (asid : BitVec 16) (va log e : Nat) : PageEntry :=
  { asid := asid, vbase := va / 2 ^ log * 2 ^ log, log := log, pbase := entryBase e, wr := entryBit e 2, clsW := entryBit e 3 }

/-- The last level of a walk: the head of the 64 KiB group first, then the entry itself (R321). -/
def State.walkLeaf (s : State) (asid : BitVec 16) (va table : Nat) : Trans :=
  let j := va / 2 ^ 12 % 512
  let j0 := 16 * (j / 16)
  let head := s.tableEntry table j0
  if s.homePoisoned (lineOf (table + 8 * j0)) then .poison (lineOf (table + 8 * j0))
  else if entryBit head 0 && entryBit head 4 then
    if entryMalformed head 1 true then .fault 1 1 else .page (leafPage asid va 16 head)
  else
    let e := s.tableEntry table j
    if s.homePoisoned (lineOf (table + 8 * j)) then .poison (lineOf (table + 8 * j))
    else if !entryBit e 0 then .fault 0 1
    else if entryMalformed e 1 (j == j0) then .fault 1 1
    else .page (leafPage asid va 12 e)

/-- The part of a walk that reads the table of one level (R319 to R322): one action at the home of the entry that it names. -/
def State.walkRead (s : State) (asid : BitVec 16) (va level table : Nat) : Trans :=
  if level ≤ 1 then s.walkLeaf asid va table
  else
    let a := table + 8 * (va / 2 ^ levelShift level % 512)
    let e := s.tableEntry table (va / 2 ^ levelShift level % 512)
    if s.homePoisoned (lineOf a) then .poison (lineOf a)
    else if !entryBit e 0 then .fault 0 level
    else if entryMalformed e level false then .fault 1 level
    else if entryBit e 1 then .table (entryBase e)
    else .page (leafPage asid va (levelShift level) e)

/-- A walk on from the table of a level, to its end. -/
def State.walkFrom (s : State) (asid : BitVec 16) (va : Nat) : Nat → Nat → Trans
  | 0, table => s.walkRead asid va 1 table
  | level + 1, table =>
    match s.walkRead asid va (level + 1) table with
    | .table base => s.walkFrom asid va level base
    | t => t

/-- A walk under an ASID from its root, to its end (R317, R319). -/
def State.walk (s : State) (asid : BitVec 16) (va : Nat) : Trans := s.walkFrom asid va 5 (s.asidOf asid.toNat).root

/-! ### The walk caches (R323) -/

/-- Whether a held table pointer leads on for an address. -/
def TableHeld.leads (t : TableHeld) (d : Nat) (asid : BitVec 16) (va : Nat) : Bool :=
  t.die == d && t.asid == asid && va / 2 ^ levelShift (t.level + 1) == t.vbase

/-- Where a walk goes on: the table of the lowest level that the walk cache of the die holds for the address, else the root. -/
def State.walkAt (s : State) (d : Nat) (asid : BitVec 16) (va : Nat) : Nat × Nat :=
  ((s.walks.filter (·.leads d asid va)).foldl (fun a t => if t.level < a.1 then (t.level, t.table) else a)
    (5, (s.asidOf asid.toNat).root))

/-- One more action of a walk on a die: it reads one level, and the walk cache holds a pointer that it finds (R322, R323). -/
def State.walkOne (s : State) (d : Nat) (asid : BitVec 16) (va : Nat) : Trans × State :=
  let (level, table) := s.walkAt d asid va
  match s.walkRead asid va level table with
  | .table base =>
    let t : TableHeld := { die := d, asid := asid, level := level - 1, vbase := va / 2 ^ levelShift level, table := base }
    (.table base, { s with walks := t :: s.walks })
  | t => (t, s)

/-- At most so many levels of a walk on a die, read in one action: the walk cache holds the pointers found. -/
def State.walkDown (s : State) (d : Nat) (asid : BitVec 16) (va : Nat) : Nat → State
  | 0 => s
  | n + 1 =>
    match s.walkOne d asid va with
    | (.table _, s1) => s1.walkDown d asid va n
    | _ => s

/-- A walk reads one level in one action (R322): an action whose walks have found `least` table pointers or more is not made, but
the first of them is held, and the action goes on from there when it is taken again (log entry 65). -/
def State.walked (s : State) (least : Nat) (o : Host.Outcome State Fault Refusal) : Host.Outcome State Fault Refusal :=
  match o with
  | .next t =>
    if s.walks.length + least ≤ t.walks.length then
      match t.walks[t.walks.length - s.walks.length - 1]? with
      | some w => .next { s with walks := w :: s.walks }
      | none => o
    else o
  | .fault _ => o
  | .refused _ => o

/-! ### Caches of translations (R323) -/

def PageEntry.holds (e : PageEntry) (asid : BitVec 16) (va : Nat) : Bool :=
  e.asid == asid && va / 2 ^ e.log * 2 ^ e.log == e.vbase
def PageEntry.pa (e : PageEntry) (va : Nat) : Nat := e.pbase + va % 2 ^ e.log

def rangesMeet (a n b m : Nat) : Bool := decide (a < b + m) && decide (b < a + n)
def PageEntry.meets (e : PageEntry) (base size : Nat) : Bool := rangesMeet e.vbase (2 ^ e.log) base size

/-- Find a translation in a cache. -/
def cacheFind (c : List PageEntry) (asid : BitVec 16) (va : Nat) : Option PageEntry := c.find? (·.holds asid va)

/-- Load a translation into a cache of n entries, the newest first. -/
def cacheAdd (c : List PageEntry) (n : Nat) (e : PageEntry) : List PageEntry :=
  (e :: c.filter (fun x => !x.holds e.asid e.vbase)).take n

/-- The region TLB, then one action of a walk (R316, R322). A page found by a walk enters the TLB of 512 entries. -/
def State.translateRegion (s : State) (p : Nat) (asid : BitVec 16) (va : Nat) : Trans × State :=
  let r := s.region p
  match cacheFind r.tlb asid va with
  | some e => (.page e, s)
  | none =>
    match s.walkOne (dieOfPlace p) asid va with
    | (.page e, s1) => (.page e, s1.setRegion p { s1.region p with tlb := cacheAdd r.tlb 512 e })
    | x => x

/-- The engine translation cache of a die, then a walk (R316); the action that asks is made once a single level is left to read
(State.walked). The spec gives no
size for the cache; 512 entries, as the region TLB (assumption 12). -/
def State.translateEngine (s : State) (d : Nat) (asid : BitVec 16) (va : Nat) : Trans × State :=
  let x := s.die d
  match cacheFind x.etc asid va with
  | some e => (.page e, s)
  | none =>
    match (s.walkDown d asid va 4).walkOne d asid va with
    | (.page e, s1) => (.page e, s1.setDie d { s1.die d with etc := cacheAdd x.etc 512 e })
    | x => x

/-! ### Checks after a translation (R317, R322) -/

/-- Save slots are protected while SAVEN is not 0 (R424). -/
def State.saveRanges (s : State) : List (Nat × Nat) :=
  (s.dies.filter (fun x => x.2.saveN != 0)).map fun x => (x.2.saveBase, x.2.saveN * 2 ^ 21)

/-- Whether a physical address lies in a protected range. -/
def State.protectedPa (s : State) (pa : Nat) : Bool :=
  (s.prot ++ s.saveRanges).any fun (b, n) => decide (b ≤ pa) && decide (pa < b + n)

/-- Cause codes of R420. -/
inductive Cause
  | illegal | command | config | ragged | kind | order | translation | permission | alignment | access | pool | rescale
  | spillway | engine | soft | fetchBound | stepBound | handle | channel | barrier | trap | matrix | message | coordinate
  | sync | admission | save
  deriving DecidableEq, Repr

def Cause.code : Cause → Nat
  | .illegal => 0x01 | .command => 0x02 | .config => 0x03 | .ragged => 0x04 | .kind => 0x05 | .order => 0x06
  | .translation => 0x07 | .permission => 0x08 | .alignment => 0x09 | .access => 0x0A | .pool => 0x0B | .rescale => 0x0C
  | .spillway => 0x0D | .engine => 0x0E | .soft => 0x0F | .fetchBound => 0x10 | .stepBound => 0x11 | .handle => 0x12
  | .channel => 0x13 | .barrier => 0x14 | .trap => 0x15 | .matrix => 0x16 | .message => 0x17 | .coordinate => 0x18
  | .sync => 0x19 | .admission => 0x1A | .save => 0x1B

/-- The cause of a code; soft for a code that is none (no message carries one). -/
def Cause.ofCode (n : Nat) : Cause :=
  if n = 0x02 then .command else if n = 0x07 then .translation else if n = 0x08 then .permission
  else if n = 0x09 then .alignment else if n = 0x0A then .access else if n = 0x0B then .pool else if n = 0x12 then .handle
  else if n = 0x13 then .channel else if n = 0x14 then .barrier else if n = 0x19 then .sync else .soft

/-- ADDR of a fault word of an access: its virtual address for the causes that carry one (R418). -/
def Cause.addr (c : Cause) (va : Nat) : Nat :=
  match c with
  | .translation => va | .permission => va | .alignment => va | .access => va
  | _ => 0

/-- The DETAIL of a translation fault: [6] reason, [2:0] level (R420). -/
def transDetail (reason level : Nat) : Nat := 64 * reason + level

/-- What an access needs. -/
inductive Need | read | write
  deriving DecidableEq, Repr

/-- The outcome of checking a translated access: its physical address and class, a cause with its DETAIL, or that its walk goes on. -/
inductive Checked
  | ok (pa : Nat) (clsW : Bool)
  | bad (c : Cause) (detail : Nat)
  | wait
  deriving DecidableEq, Repr

/-- The checks of R317, R322 and R283 on a translated access. -/
def State.checkPage (s : State) (e : PageEntry) (va : Nat) (need : Need) : Checked :=
  let pa := e.pa va
  if (need == .write && !e.wr) || s.protectedPa pa then .bad .permission 0
  else if !paOk pa then .bad .access 0
  else .ok pa e.clsW

/-- Translate and check an access of a region (R316, R322, R283); it waits while its walk goes on. -/
def State.accessRegion (s : State) (p va : Nat) (need : Need) : Checked × State :=
  match s.translateRegion p (s.region p).asid va with
  | (.page e, s1) => (s1.checkPage e va need, s1)
  | (.fault reason level, s1) => (.bad .translation (transDetail reason level), s1)
  | (.poison _, s1) => (.bad .soft 0, s1)
  | (.table _, s1) => (.wait, s1)

/-- The same without waiting: the action that asks is made once a single level is left to read (State.walked). -/
def State.accessNow (s : State) (p va : Nat) (need : Need) : Checked × State :=
  let r := s.region p
  (if (cacheFind r.tlb r.asid va).isSome then s else s.walkDown (dieOfPlace p) r.asid va 4).accessRegion p va need

/-- A conduct access (R149): alignment, then translation, then permission, then the page's class. -/
def State.accessConduct (s : State) (p va size : Nat) (need : Need) : Checked × State :=
  if va % size ≠ 0 then (.bad .alignment 0, s)
  else
    match s.accessRegion p va need with
    | (.ok _ true, s1) => (.bad .access 0, s1)
    | x => x

end Sys2Proof.Machine
end

