-- ==== Sys2Proof/Machine/Trace.lean ====
section
/-! DEFINITION. Debug hooks that other units call: breakpoints, and the event ring of an attachment (R457 to R459). -/
namespace Sys2Proof.Machine

/-- The mode that a region is in apart from a debugger's stop. -/
def Region.modeUnder (r : Region) : RegionMode := if r.mode == .held then r.before else r.mode

/-- Change the mode of a region, under a debugger's stop when there is one. -/
def Region.setMode (r : Region) (m : RegionMode) : Region := if r.mode == .held then { r with before := m } else { r with mode := m }

/-- The debug unit stops a region at once (R459). -/
def Region.hold (r : Region) : Region :=
  if r.mode == .held then r
  else if r.mode == .frozen then (if r.kept.1 == .held then r else { r with kept := (.held, r.kept.1) })
  else { r with mode := .held, before := r.mode }

/-- A breakpoint on a firing that matches stops the region once, and lets the same firing pass after a Resume: `hits` says
that it has stopped there. -/
def State.breakAt (s : State) (p kind : Nat) (hit : DWord → Bool) : Bool × State :=
  let r := s.region p
  let mine (c : Comparator) : Bool := c.kind == kind && hit c.w2
  if r.comps.any (fun e => mine e.2 && e.2.hits == 0) then
    let cs := r.comps.map fun e => (e.1, if mine e.2 then { e.2 with hits := 1 } else e.2)
    (true, s.setRegion p { r with comps := cs }.hold)
  else if r.comps.any (fun e => mine e.2) then
    let cs := r.comps.map fun e => (e.1, if mine e.2 then { e.2 with hits := 0 } else e.2)
    (false, s.setRegion p { r with comps := cs })
  else (false, s)

/-- Whether a comparator of a region is armed on an event of a kind. -/
def Region.breaks (r : Region) (kind : Nat) (hit : DWord → Bool) : Bool := r.comps.any fun e => e.2.kind == kind && hit e.2.w2

/-- Whether a debugger has stopped a region, or a handler of it (R458, R459, R478). -/
def Region.debugStopped (r : Region) : Bool := r.mode == .held || !r.stops.isEmpty

/-- Host memory in the machine's address space: physical addresses with the HOST bit (R283). -/
def hostPa (a : Nat) : Nat := 2 ^ 51 + a % 2 ^ 51

/-- Entries of a ring of `size` 4 KiB units behind its 64-byte header. -/
def ringEntries (size : Nat) : Nat := (4096 * size - 64) / 32

/-- Write an event into the ring of an attachment, or count it as dropped when the ring is full (R458). The indices run
freely and are taken modulo the number of entries; the layout of what the event tells is open (log entry 16). -/
def State.logTo (s : State) (a kind place : Nat) (tells : List Nat) : State :=
  match Tbl.find s.attach a with
  | none => s
  | some x =>
    let b := hostPa x.base
    let cons := Memory.readLE s.mem (b + 4) 4
    let n := ringEntries x.size
    if n ≤ (x.prod + 2 ^ 32 - cons) % 2 ^ 32 then
      { s with mem := Memory.writeLE s.mem (b + 8) 4 ((x.dropped + 1) % 2 ^ 32),
               attach := Tbl.put s.attach a { x with dropped := (x.dropped + 1) % 2 ^ 32 } }
    else
      let e := b + 64 + 32 * (x.prod % n)
      let head := s.tide / 8000 % 2 ^ 64 + kind % 256 * 2 ^ 64 + place % 1024 * 2 ^ 72
      let m1 := Memory.writeLE s.mem e 32 (head + (Config.eventData kind tells).toNat * 2 ^ 96)
      { s with mem := Memory.writeLE m1 b 4 ((x.prod + 1) % 2 ^ 32),
               attach := Tbl.put s.attach a { x with prod := (x.prod + 1) % 2 ^ 32 } }

/-- An event at a place is logged once for each trace that names it, of the attachments that it concerns (R458). -/
def State.traceFor (s : State) (mine : Attachment → Bool) (kind place : Nat) (tells : List Nat) (hit : Trace → Bool) : State :=
  s.attach.foldl (fun s e =>
    if mine e.2 then
      ((e.2.traces.map (·.2)).filter fun t => t.kind == kind && hit t).foldl (fun s _ => s.logTo e.1 kind place tells) s
    else s) s

/-- An event of a region's instance. -/
def State.trace (s : State) (p kind place : Nat) (tells : List Nat) (hit : Trace → Bool) : State :=
  let r := s.region p
  s.traceFor (fun a => a.insts.contains (dieOfPlace p, r.inst)) kind place tells hit

/-- A fold into a lane of a pool that an attached instance has declared: its slot, the value taken and N afterwards (R478). -/
def State.traceFold (s : State) (key : PoolKey) (slot : Nat) (v : BitVec 64) (n : Nat) : State :=
  s.traceFor
    (fun a => a.insts.any fun i => s.regions.any fun e => dieOfPlace e.1 == i.1 && e.2.inst == i.2 && e.2.pools.any (·.key == key))
    0 (slot / 2 ^ 4 % 2 ^ 10) [slot, v.toNat, n] (fun t => t.obj.toNat == key.pool)

end Sys2Proof.Machine
end

