-- ==== Sys2Proof/Machine/Ops.lean ====
section
/-! DEFINITION. The shared operations of a region: its wid, fault words and the fault file, taking a fault and returning
from one, handlers and events, the end of a course, transfers of control (R64, R134 to R144, R154 to R156, R418 to R422,
R435). -/
namespace Sys2Proof.Machine

/-! ### Outcomes -/

abbrev Out := Host.Outcome State Fault Refusal

/-- The word or unit whose condition does not hold waits: nothing changes but the mark that it stalled (R8, R135). -/
def State.stall (s : State) : Out := .next { s with stalled := true }

/-- A step that has nothing to do. -/
def State.idle (s : State) : Out := .next s

/-- Draw a value that the spec leaves open (assumption 11). -/
def State.draw (s : State) : DWord × State := (Config.freeWord s.fresh, { s with fresh := s.fresh + 1 })

/-! ### The work identifier (R64, R66, R67, R116, R137) -/

/-- The width of field k of a wid shape, k from 1 to 6 (R66). -/
def fieldWidth (shape k : Nat) : Nat := shape / 2 ^ (8 * (k - 1)) % 256
/-- The bit position of field k. -/
def fieldPos (shape : Nat) : Nat → Nat
  | 0 => 0
  | 1 => 0
  | k + 1 => fieldPos shape k + fieldWidth shape k
def shapeElastic (shape : Nat) : Bool := shape / 2 ^ 48 % 2 == 1
/-- The number of fields n of a shape. -/
def shapeFields (shape : Nat) : Nat := (List.range 6).foldl (fun n i => if fieldWidth shape (i + 1) = 0 then n else n + 1) 0

/-- The wid of a region: its placed wid with field 1 replaced by ic (R64). -/
def Region.wid (r : Region) : DWord :=
  let w1 := fieldWidth r.shape 1
  BitVec.ofNat 64 (r.widBase.toNat / 2 ^ w1 * 2 ^ w1 + r.ic.toNat % 2 ^ w1)

/-- Field k of the wid, right-aligned; zero for a field of width 0 (R137). -/
def Region.wf (r : Region) (k : Nat) : DWord :=
  BitVec.ofNat 64 (r.wid.toNat / 2 ^ fieldPos r.shape k % 2 ^ fieldWidth r.shape k)

/-! ### Fault words (R418, R419) -/

/-- The parts of a fault word. -/
structure FaultInfo where
  cause  : Cause
  unit   : Nat := 0
  detail : Nat := 0
  wid    : Nat
  addr   : Nat := 0
  token  : Nat := 0
  tkind  : Option Nat := none
  sel    : Nat := 0
  hidx   : Option Nat := none
  place  : Nat
  coord  : Nat := 0

/-- The 256-bit fault word (R418). -/
def FaultInfo.word (f : FaultInfo) : BitVec 256 :=
  BitVec.ofNat 256
    (f.wid % 2 ^ 64 * 2 ^ 192 + f.addr % 2 ^ 64 * 2 ^ 128 + f.token % 2 ^ 32 * 2 ^ 96
      + (match f.tkind with
          | some k => k % 16 * 2 ^ 92 + 2 ^ 91
          | none => 0)
      + f.sel % 16 * 2 ^ 64 + f.cause.code * 2 ^ 56 + f.unit % 16 * 2 ^ 52 + f.detail % 128 * 2 ^ 40
      + (match f.hidx with
          | some k => 2 ^ 39 + k % 32 * 2 ^ 32
          | none => 0)
      + f.place % 1024 * 2 ^ 16 + f.coord % 2 ^ 16)

/-- A field of a fault word. -/
def faultField (w : BitVec 256) (pos n : Nat) : Nat := w.toNat / 2 ^ pos % 2 ^ n

/-- COORD of a compute cell, of a port and of the matrix unit, of a weir array (R419). -/
def coordCell (c : Nat) : Nat := c % 512
def coordPort (n : Nat) : Nat := n % 64
def coordWeir (node k : Nat) : Nat := node % 8 * 16 + k % 16

/-! ### Events (R139, R173) -/

/-- An event becomes pending, or a handler executes eret: the event latch EV is set (R173). -/
def State.raiseEv (s : State) (p : Nat) : State :=
  let r := s.region p
  s.setRegion p { r with ev := true }

/-- Set flags of a region's fpflags (R31, R138). Those of a unit that already holds a step of the chained successor belong to the word
that the successor starts with (R132, R439). -/
def State.raiseFlags (s : State) (p step : Nat) (f : Flags) : State :=
  let r := s.region p
  s.setRegion p (if r.succ == some step then { r with succFlags := r.succFlags ||| f } else { r with fpflags := r.fpflags ||| f })

/-- The channel word of chmapk: V and the channel (R142). -/
def Region.chmapOf (r : Region) (k : Nat) : BitVec 9 := Tbl.look r.chmap k 0

/-- Whether the event of handler k is pending (R139). -/
def State.eventPending (s : State) (p k : Nat) : Bool :=
  let r := s.region p
  if k = 0 then false
  else if k = 1 then !r.faults.isEmpty
  else if k = 2 then r.rescale
  else if k = 3 then r.timerEv
  else
    let m := (r.chmapOf k).toNat
    decide (256 ≤ m) && !((s.die (dieOfPlace p)).chan (m % 256)).words.isEmpty

/-- The number of no handler: a reply to it is discarded. -/
def noHandler : Nat := 32
/-- The number of no region. -/
def noRegion : Nat := 2 ^ 30

/-! ### What leaves for another package (R168, R393, R394) -/

def Wellhead.port (w : Wellhead) (n : Nat) : ConduitPort := Tbl.look w.ports n ConduitPort.reset
def State.setConduit (s : State) (n : Nat) (x : ConduitPort) : State := { s with well := { s.well with ports := Tbl.put s.well.ports n x } }

/-- The bytes of data that a flit's body carries. -/
def flitBytes : FlitBody → Nat
  | .bytes _ _ _ _ d _ _ => d.length
  | .a2aMessage _ _ _ _ d => d.length
  | _ => 0

/-- A body waits at the port of the route to its destination; it takes a slot for every 240 bytes (R393, R394). Nothing goes to a package
to which the tables give no route. -/
def Wellhead.queueFlit (w : Wellhead) (src dst : Nat) (cls : Fin 4) (b : FlitBody) : Wellhead :=
  match Tbl.find w.routes dst with
  | none => w
  | some n =>
    let x := w.port n
    let f : WireFlit := { cls := cls, src := src, dst := dst, more := (flitBytes b - 1) / 240, body := b }
    { w with ports := Tbl.put w.ports n { x with queue := x.queue ++ [f] } }
def State.queueFlit (s : State) (src dst : Nat) (cls : Fin 4) (b : FlitBody) : State := { s with well := s.well.queueFlit src dst cls b }

/-- This package sends a body to another in a class. -/
def State.emitTo (s : State) (dst : Nat) (cls : Fin 4) (b : FlitBody) : State := s.queueFlit s.well.pkg dst cls b

/-! ### What waits for another package's answer -/

/-- A handler or a region sends a body to another package, which answers under the number of what stands here. -/
def State.sendAway (s : State) (pkg p k : Nat) (what : Sent) (b : Nat → FlitBody) (cls : Fin 4 := 3) : State :=
  let tag := s.well.sentNo
  (({ s with well := { s.well with sentNo := tag + 1 } } : State).post none (.sent p k tag what)).emitTo pkg cls (b tag)

/-- What an answer ends. -/
def State.sentOf (s : State) (tag : Nat) : Option ((Nat × Nat × Sent) × State) :=
  match s.net.findIdx? (fun m => match m.body with
    | .sent _ _ t _ => t == tag
    | _ => false) with
  | none => none
  | some i =>
    match s.net[i]? with
    | some { src := _, body := .sent p k _ w } => some ((p, k, w), s.unpost i)
    | _ => none

/-- The number under which another package's request stands here, with its tag, and the number of one of its regions. -/
def awayTag (pkg tag : Nat) : Nat := 2 ^ 31 + 1024 * tag + pkg % 1024
def isAway (p : Nat) : Bool := decide (2 ^ 31 ≤ p)
def awayPkg (p : Nat) : Nat := (p - 2 ^ 31) % 1024
def awayNo (p : Nat) : Nat := (p - 2 ^ 31) / 1024

/-! ### Accesses whose home is in another package (R283, R396) -/

/-- Whether the home of an address lies in another package. -/
def State.elsewhere (s : State) (pa : Nat) : Bool := !hostBit pa && pkgOf pa != s.well.pkg

/-- An access goes to its home in another package, over the conduit in class 0. -/
def State.askMemory (s : State) (pa p k : Nat) (what : Sent) (op : AwayOp) (clk : DWord) : State :=
  s.sendAway (pkgOf pa) p k what (fun tag => .ask tag pa op clk) 0

/-- What an access of a unit that awaits its answer has brought back. -/
def State.farFound (s : State) (p who pa : Nat) (op : AwayOp) : Option (Nat × DWord × Option Nat) :=
  s.net.findSome? fun m => match m.body with
    | .farGot q w a o v clk bad => if q = p ∧ w = who ∧ a = pa ∧ o = op then some (v, clk, bad) else none
    | _ => none

/-- Whether an access of a unit is on its way. -/
def Body.farAsked (b : Body) (p who pa : Nat) (op : AwayOp) : Bool :=
  match b with
  | .sent q k _ (.unit w a o) => q == p && k != noHandler && w == who && a == pa && o == op
  | _ => false

/-- An access of a unit whose home is in another package is on its way once, until its answer comes. -/
def State.farAsk (s : State) (p who pa : Nat) (op : AwayOp) (clk : DWord) : State :=
  if s.net.any (·.body.farAsked p who pa op) then s else s.askMemory pa p who (.unit who pa op) op clk

/-- The answers that a unit has used leave. -/
def State.farDrop (s : State) (p : Nat) (mine : Nat → AwayOp → Bool) : State :=
  { s with net := s.net.filter fun m => match m.body with
      | .farGot q w _ op _ _ _ => !(q == p && mine w op)
      | _ => true }

/-- Whether a store of a region to a line of another package is on its way. -/
def State.storeOut (s : State) (p line : Nat) : Bool :=
  s.net.any fun m => match m.body with
    | .sent q _ _ (.store l) => q == p && l == line
    | _ => false

/-- A store of a unit whose home is in another package: it leaves at once, and counts as a write-back until its home has performed it
(R287). The region keeps no copy of the line: it owns no line of another package (log entry 70). -/
def State.farStore (s : State) (p pa n v : Nat) : State :=
  let r := s.region p
  let s1 := s.setRegion p { r.dropStash (lineOf pa) with wbOut := r.wbOut + 1 }
  s1.askMemory pa p noHandler (.store (lineOf pa)) (.write n v false) r.lclk

/-- A place that a channel of another package keeps for a word is given back. -/
def Wellhead.freeRoom (w : Wellhead) (chan : Nat) : Wellhead :=
  w.queueFlit w.pkg (chan / 2 ^ 10 % 2 ^ 10) 3 (.channelFree (chan / 2 ^ 8 % 4) (chan % 2 ^ 8))
def State.freeRoom (s : State) (chan : Nat) : State := { s with well := s.well.freeRoom chan }

/-! ### The end of a course: done, and the instance that a fault ends (R144, R167, R435) -/

/-- Whether handler k of region q is one whose waits are withdrawn: of region p, and the one handler named if any. -/
def forsaken (p : Nat) (only : Option Nat) (q k : Nat) : Bool :=
  q == p && (match only with
    | none => true
    | some j => j == k)

/-- Messages of stopped handlers: waits are withdrawn, what was sent is still performed, and its answer is discarded
(R166, R435). -/
def orphanBody (p : Nat) (only : Option Nat) (b : Body) : Option Body :=
  let mine (w : Asker) : Bool := match w with
    | .handler q k => forsaken p only q k
    | _ => false
  let nobody : Asker := .handler p noHandler
  match b with
  | .atomic w op wide pa v clk => some (if mine w then .atomic nobody op wide pa v clk else b)
  | .atomicReply w _ _ _ _ => if mine w then none else some b
  | .waitv w _ _ _ => if mine w then none else some b
  | .waitvArmed w _ _ _ => if mine w then none else some b
  | .arrive w pa clk => some (if mine w then .arrive nobody pa clk else b)
  | .await w _ _ _ => if mine w then none else some b
  | .header w h pa op clk =>
    if mine w then
      match op with
      | .pop _ => some (.header nobody h pa op clk)
      | .push _ => some (.header nobody h pa op clk)
      | _ => none
    else some b
  | .claim q k => some (if forsaken p only q k then .claim p noHandler else b)
  | .poolDecl q k key decl f => some (if forsaken p only q k then .poolDecl p noHandler key decl f else b)
  | .gather q k key counted settle => some (if forsaken p only q k then .gather p noHandler key counted settle else b)
  | .completion q k _ _ _ _ _ => if forsaken p only q k then none else some b
  | .sent q _ tag (.home w pa monitor) =>
    if mine w then (if monitor then none else some (.sent q noHandler tag (.home nobody pa monitor))) else some b
  | .sent q k tag w => some (if forsaken p only q k then .sent q noHandler tag w else b)
  | .farGot q who _ _ _ _ _ => if forsaken p only q who then none else some b
  | .reply q k _ _ _ => if forsaken p only q k then none else some b
  | _ => some b

/-- Engine messages of handlers that have stopped (`gone` none) or of a region that has retired (`gone` the pools that it had declared). -/
def orphanEng (p : Nat) (only : Option Nat) (gone : Option (List RegionPool)) (m : EngMsg) : EngMsg :=
  let m1 := { m with latch := m.latch.map (fun k => if forsaken p only m.p k then noHandler else k) }
  match gone with
  | some pools => if m.p == p then { m1 with p := noRegion, pools := pools } else m1
  | none => m1
def orphanJob (p : Nat) (only : Option Nat) (gone : Option (List RegionPool)) (j : Job) : Job := { j with msg := orphanEng p only gone j.msg }

def Die.orphan (d : Die) (p : Nat) (only : Option Nat) (gone : Option (List RegionPool)) : Die :=
  { d with inbox := d.inbox.map (orphanEng p only gone), copyIn := d.copyIn.map (orphanEng p only gone),
           weirIn := d.weirIn.map (orphanEng p only gone), weirJobs := d.weirJobs.map (orphanJob p only gone),
           copyEng := d.copyEng.map fun e => (e.1, e.2.map (orphanJob p only gone)) }

def Wellhead.orphan (w : Wellhead) (p : Nat) (only : Option Nat) (gone : Option (List RegionPool)) : Wellhead :=
  { w with inbox := w.inbox.map (orphanEng p only gone), jobs := w.jobs.map fun e => (e.1, orphanJob p only gone e.2),
           roce := w.roce.map fun e => (e.1, orphanJob p only gone e.2),
           replays := w.replays.map fun e => (e.1, { e.2 with job := orphanJob p only gone e.2.job }) }

/-- The places that other packages keep for the words of handlers that stop are given back. -/
def Wellhead.freeRooms (w : Wellhead) (p : Nat) (only : Option Nat) (hs : Tbl Handler) : Wellhead :=
  hs.foldl (fun w e => match e.2.wait with
    | .room v => if forsaken p only p e.1 then w.freeRoom v else w
    | _ => w) w

/-- A reply that arrives after a region's handlers have stopped is discarded (R435). -/
def State.orphan (s : State) (p : Nat) (only : Option Nat) (gone : Bool) : State :=
  let pools := if gone then some (s.region p).pools else none
  { s with net := s.net.filterMap (fun m => match m.body with
              | .engine e => some { m with body := .engine (orphanEng p only pools e) }
              | .heldReply d e st clk => some { m with body := .heldReply d (orphanEng p only pools e) st clk }
              | b => (orphanBody p only b).map fun b' => { m with body := b' }),
           dies := s.dies.map fun e => (e.1, e.2.orphan p only pools),
           well := (s.well.freeRooms p only (s.region p).handlers).orphan p only pools }

/-- A port stalled in order ends its binding at once as a faulted holder, and spillway entries are discarded, as are those that the
region's present steps have still to divert (R336, R435). -/
def Region.dropSpills (r : Region) : Region :=
  { r with
    ports := r.ports.map fun e =>
      (e.1, if (r.side e.1).stallVa.isSome then
        { e.2 with run := e.2.run.map fun b => { b with faulted := true } } else e.2),
    sides := r.sides.map (fun e => (e.1, { e.2 with spill := Spillway.empty, stallVa := none })), dropTo := r.stepNo }

/-- Whether the stream interface has taken the command at the head of the queue (R162, R435). -/
def StreamIf.busy (f : StreamIf) : Bool := f.posted || f.answer.isSome || f.bad.isSome || f.phase.isSome

/-- Stage 1 of retiring (R435): every handler stops, queued commands and, at `done`, fault file entries are discarded. -/
def State.startDone (s : State) (p : Nat) (keepFaults : Bool) : State :=
  let s1 := s.orphan p none false
  let r := (s1.region p).dropSpills
  s1.setRegion p
    { r.setMode .draining with
      stage := 2, doneAt := s.tide, finished := true, lateFault := false,
      handlers := r.handlers.map (fun e => (e.1, { e.2 with st := .stopped, wait := .none, latch := none })),
      faults := if keepFaults then r.faults else [], ev := false, rescale := false, timerEv := false,
      cmdQ := if r.sif.busy then r.cmdQ.take 1 else [], stops := [], passing := [], picked := none, storing := [] }

def RegionMode.live (m : RegionMode) : Bool :=
  match m with
  | .placed => true | .running => true | .stopped => true | .halted => true | .held => true
  | .free => false | .frozen => false | .draining => false | .retired => false

def minOpt (a : Option Nat) (n : Nat) : Option Nat :=
  match a with
  | none => some n
  | some m => some (if n < m then n else m)

/-- The lowest faulted instance index of a launch, for its completion record (R107). -/
def State.markFaulted (s : State) (d launch index : Nat) : State :=
  let x := s.die d
  s.setDie d { x with launches := Tbl.adjust x.launches launch fun l => { l with faulted := minOpt l.faulted index } }

/-- The instance of a region has been ended by a fault. -/
def State.markFailed (s : State) (p : Nat) : State :=
  let d := dieOfPlace p
  let r := s.region p
  let s1 := s.markFaulted d r.launch r.instIdx
  let x := s1.die d
  s1.setDie d { x with insts := Tbl.adjust x.insts r.inst fun i => { i with failed := true } }

/-- The sluice ends an instance with launch status 0x0B: each of its regions goes through `done` (R144; assumption 13). -/
def State.endInstance (s : State) (p : Nat) : State :=
  let d := dieOfPlace p
  let r := s.region p
  let s1 := s.markFailed p
  match Tbl.find (s.die d).insts r.inst with
  | none => s1.startDone p true
  | some i => i.places.foldl (fun s q =>
      if (s.region q).modeUnder.live && (s.region q).inst == r.inst then s.startDone q true else s) s1

/-- The region stops (R144): its handlers are stopped and its instance ends. An instance that is being saved ends when the
save finds the region stopped (R432). -/
def State.stopRegion (s : State) (p : Nat) : State :=
  let r := s.region p
  if r.modeUnder == .draining then s.setRegion p { r with lateFault := true }
  else if !r.modeUnder.live then s
  else
    let stop (h : Handler) : Handler := { h with st := .stopped, wait := .none }
    let s1 := ({ s with well := s.well.freeRooms p none r.handlers } : State).setRegion p { r.setMode .stopped with handlers := r.handlers.map (fun e => (e.1, stop e.2)) }
    match (s.die (dieOfPlace p)).preempt with
    | some x => if x.inst = r.inst then s1.markFailed p else s1.endInstance p
    | none => s1.endInstance p

/-! ### Taking a fault and returning from one (R139 to R144, R421, R437) -/

/-- What a debugger sees of an entry of a fault file (R458): a breakpoint of KIND 3 stops the region, and a trace of kind 3 logs it. -/
def State.faultSeen (s : State) (p : Nat) (w : BitVec 256) : State :=
  let r := s.region p
  let s1 := if r.comps.any (fun e => e.2.kind == 3) then s.setRegion p r.hold else s
  s1.trace p 3 r.placeId [w.toNat] (fun _ => true)

/-- UNIT and COORD of a fault word, by which entries of one cycle are ordered (R421). -/
def faultOrder (w : BitVec 256) : Nat := faultField w 52 4 * 2 ^ 16 + faultField w 0 16

/-- A word behind the entries that come before it. -/
def insertFault (w : BitVec 256) : List (BitVec 256) → List (BitVec 256)
  | [] => [w]
  | x :: t => if faultOrder w < faultOrder x then w :: x :: t else x :: insertFault w t

/-- The fault file with one more entry: behind those of earlier cycles, and by UNIT and COORD among those of this one (R421). -/
def Region.fileFault (r : Region) (tide : Nat) (w : BitVec 256) : Region :=
  let k := if r.faultsAt = tide then min r.faultsIn r.faults.length else 0
  let old := r.faults.length - k
  { r with faults := r.faults.take old ++ insertFault w (r.faults.drop old), faultsAt := tide, faultsIn := k + 1 }

/-- Whether a region's course has executed `done` and drains, also while it is held or frozen (R435, R437). -/
def Region.drains (r : Region) : Bool :=
  r.modeUnder == .draining || (r.modeUnder == .frozen && (r.kept.1 == .draining || (r.kept.1 == .held && r.kept.2 == .draining)))

/-- Enter a fault word in the fault file of a region (R421, R144, R437). Event 1 becomes pending with the first entry. -/
def State.enterFault (s : State) (p : Nat) (w : BitVec 256) : State :=
  let r := s.region p
  if r.modeUnder == .free || r.modeUnder == .retired then s
  else if r.drains then
    if r.faults.length < 8 then (s.setRegion p { r.fileFault s.tide w with lateFault := true }).faultSeen p w
    else s.setRegion p { r with lateFault := true }
  else if 8 ≤ r.faults.length then s.stopRegion p
  else
    let s1 := (s.setRegion p { r.fileFault s.tide w with ev := r.ev || r.faults.isEmpty }).faultSeen p w
    if (r.handler 1).decl then s1 else s1.stopRegion p

/-- A fault of a unit at a place, raised by work of a region (R418). -/
def State.faultAt (s : State) (p place : Nat) (c : Cause) (unit coord : Nat) (detail addr token : Nat) (tkind : Option Nat)
    (sel : Nat) : State :=
  s.enterFault p (FaultInfo.word
    { cause := c, unit := unit, detail := detail, wid := (s.region p).wid.toNat, addr := addr, token := token, tkind := tkind,
      sel := sel, place := place, coord := coord })

/-- A fault of a unit of a region other than its sequencer. -/
def State.unitFault (s : State) (p : Nat) (c : Cause) (unit coord : Nat) (detail addr token : Nat) (tkind : Option Nat)
    (sel : Nat) : State :=
  s.faultAt p (s.region p).placeId c unit coord detail addr token tkind sel

/-- A fault of node i of weir array k, whose place number is 256 + k (R13). -/
def State.weirFault (s : State) (p k i : Nat) (c : Cause) (token : Nat) : State :=
  s.faultAt p (256 + k) c 6 (coordWeir i k) 0 0 token none 0

/-- A conduct word faults (R143): the fault word names the handler, which is suspended at the word; nothing else of the
word happens. A fault of handler 1 stops the region (R144). -/
def State.takeFault (s : State) (c : Cause) (detail addr token : Nat) : State :=
  let p := s.cur.1
  let k := s.cur.2
  let r := s.region p
  let h := r.handler k
  let s1 := s.setRegion p (r.setHandler k { h with st := .suspended, wait := .none })
  let s2 := s1.enterFault p (FaultInfo.word
    { cause := c, unit := 0, detail := detail, wid := r.wid.toNat, addr := addr, token := token, hidx := some k,
      place := r.placeId })
  if k = 1 then s2.stopRegion p else s2

/-- The byte address of the word being executed (R141). -/
def State.here (s : State) : Nat := ((s.region s.cur.1).handler s.cur.2).ia

/-- A fault of the current word whose TOKEN is its byte address (R418). -/
def State.raise (s : State) (c : Cause) (detail addr : Nat) : Out := .next (s.takeFault c detail addr s.here)

/-- A command fault of the current word: TOKEN is the template index, ADDR the byte address (R418). -/
def State.raiseCommand (s : State) (t : Nat) : Out := .next (s.takeFault .command 0 s.here t)

/-- A pool fault of the current word: TOKEN in the layout of R376, ADDR the byte address (R418). -/
def State.raisePool (s : State) (token : Nat) : Out := .next (s.takeFault .pool 0 s.here token)

/-- A word bound for a channel of another ASID is refused: the permission fault names the channel in TOKEN, [9:8] die and
[7:0] channel (R170; assumption 14). -/
def State.channelRefused (s : State) (p unit die ch : Nat) : State :=
  s.unitFault p .permission unit 0 0 0 (die % 4 * 256 + ch % 256) none 0

/-- A reply word of an engine job is refused: the acting unit is the engine, and the place of the cascade is 272 (R13, R170, R418). -/
def State.replyRefused (s : State) (m : EngMsg) (die ch : Nat) : State :=
  s.faultAt m.p (if m.cls == .cascade then 272 else (s.region m.p).placeId) .permission 5 0 0 0 (die % 4 * 256 + ch % 256) none 0

/-- End the suspension of a handler (R143): it retries its word, or skips it. -/
def State.resumeHandler (s : State) (p k : Nat) (skip : Bool) : State :=
  let r := s.region p
  let h := r.handler k
  if h.st == .suspended then
    s.setRegion p (r.setHandler k { h with st := .active, wait := .none, ia := if skip then h.ia + 4 else h.ia })
  else s

/-- The return from a handler (R141, R173): it is idle again, and EV is set. -/
def State.returnFrom (s : State) (p k : Nat) : State :=
  let r := s.region p
  s.setRegion p { r.setHandler k { r.handler k with st := .idle, ia := 0, wait := .none } with ev := true }

/-! ### Completing a word -/

/-- The following word of a handler. -/
def Region.advance (r : Region) (k : Nat) : Region :=
  let h := r.handler k
  r.setHandler k { h with ia := h.ia + 4, wait := .none }

/-- The current word completes, leaving its region as given; the handler goes on at the following word. -/
def State.complete (s : State) (r : Region) : Out := .next (s.setRegion s.cur.1 (r.advance s.cur.2))

/-- The region whose word is being executed. -/
def State.mine (s : State) : Region := s.region s.cur.1

/-- The current word writes one register and completes. -/
def State.writes (s : State) (rd : Reg) (v : DWord) : Out := s.complete (s.mine.set rd v)

/-- The current word writes one register, raises flags and completes. -/
def State.writesFlags (s : State) (rd : Reg) (v : DWord) (f : Flags) : Out :=
  s.complete { s.mine.set rd v with fpflags := (s.mine.set rd v).fpflags ||| f }

/-- Set what the current word waits for. -/
def State.setWait (s : State) (w : Wait) : State :=
  let r := s.mine
  s.setRegion s.cur.1 (r.setHandler s.cur.2 { r.handler s.cur.2 with wait := w })

def State.waitOf (s : State) : Wait := (s.mine.handler s.cur.2).wait

/-- The current word has sent a message: it waits for the answer. -/
def State.postAndWait (s : State) (src : Option Nat) (b : Body) : Out := ((s.setWait .posted).post src b).stall

/-- The handler that issues the current word, as the asker of a home action. -/
def State.asker (s : State) : Asker := .handler s.cur.1 s.cur.2

/-! ### Code and transfers of control (R61, R62, R141, R156) -/

/-- Where the code of a handler lies in the conduct-script section: byte offset and length (R141). -/
def codeRange (img : Image) (r : Region) (k : Nat) : Nat × Nat :=
  if k = 0 then
    match img.steps[r.cc.toNat]? with
    | some st => (st.script, 4 * st.len)
    | none => (0, 0)
  else ((r.handler k).off, 4 * img.code.length - (r.handler k).off)

/-- The conduct word at an instruction address of a handler, none outside its code. -/
def State.fetch (s : State) (p k ia : Nat) : Option Word :=
  let r := s.region p
  match s.imageOf r with
  | none => none
  | some img =>
    let (base, len) := codeRange img r k
    if ia + 4 ≤ len then img.code[(base + ia) / 4]? else none

/-- An illegal instruction (R81, R82): ADDR is the conduct word. -/
def State.raiseIllegal (s : State) : Out :=
  s.raise .illegal 0 (match s.fetch s.cur.1 s.cur.2 s.here with
    | some w => w.toNat
    | none => 0)

/-- Whether a target lies in the code of the current handler (R156). -/
def State.inCode (s : State) (t : Int) : Bool :=
  match s.imageOf s.mine with
  | none => false
  | some img => decide (0 ≤ t) && decide (t + 4 ≤ ((codeRange img s.mine s.cur.2).2 : Int)) && decide (t % 4 = 0)

/-- Continue at a target, with the region as given; a target outside the handler's code faults and nothing changes. -/
def State.transfer (s : State) (r : Region) (t : Int) : Out :=
  if s.inCode t then
    .next (s.setRegion s.cur.1 (r.setHandler s.cur.2 { r.handler s.cur.2 with ia := t.toNat, wait := .none }))
  else s.raise .fetchBound 0 0

end Sys2Proof.Machine
end

