-- ==== Sys2Proof/Machine/Access.lean ====
section
/-! DEFINITION. Accesses through the stash, and the answers of the homes (R148 to R153, R284 to R293). -/
namespace Sys2Proof.Machine

/-- Whether an address lies in the ring of a LOC = 0 handle, whose lines are pinned from their first touch (R286). -/
def Region.ringVa (r : Region) (va : Nat) : Bool :=
  r.handles.any fun e => e.2.decl && !e.2.loc && decide (e.2.base ≤ va) && decide (va < e.2.base + e.2.slots * 2 ^ e.2.lsz)

/-- Whether a stash line serves a load (R288, R289). -/
def Region.readable (r : Region) (l : StashLine) : Bool := l.owned || decide (r.lclk.toNat ≤ l.rts.toNat)

/-- Ask the home for a line, when no request that serves the access is on its way: a load waits for the line that a store of the region
has asked for, so that no lease is granted while the region owns it (R290, R291). `whole`: a binding will write the whole line, whose old
data do not move (R285). -/
def State.ask (s : State) (p line : Nat) (store : Bool) (whole : Bool := false) : State :=
  let r := s.region p
  if r.asked.contains (line, store) || r.asked.contains (line, true) then s
  else
    (s.setRegion p { r with asked := (line, store) :: r.asked }).post (keyMem p)
      (if store then .storeReq p line whole else .loadReq p line r.lclk)

/-- Whether an address lies in the header line or the ring of a LOC = 1 handle of the region (R251). -/
def Region.homeVa (r : Region) (va : Nat) : Bool :=
  r.handles.any fun e => e.2.decl && e.2.loc && decide (e.2.base ≤ va + 64) && decide (va < e.2.base + e.2.slots * 2 ^ e.2.lsz)

/-- Whether a region of the same address space declares a LOC = 1 handle whose header or ring holds an address (R251). -/
def State.homeVa (s : State) (p va : Nat) : Bool :=
  s.regions.any fun e => e.2.asid == (s.region p).asid && e.2.homeVa va

/-- Whether an access acts at the home and leaves no copy: it meets a LOC = 1 ring or header, or the line of a word that the homes
alone hold, a barrier, a claim cursor or a synchronisation word (R293, R305; log entry 64). -/
def State.actsHome (s : State) (p va pa : Nat) : Bool := s.homeWords.contains (lineOf pa) || s.homeVa p va

/-- A line that a region accesses by a page (R309). -/
def StashLine.seen (l : StashLine) (asid : BitVec 16) (va : Nat) : StashLine :=
  { l with vas := if l.vas.contains (asid, va / 4096) then l.vas else (asid, va / 4096) :: l.vas }

/-- A load of n bytes by a unit of a region at a home in another package: the value and its mark, none until the answer has come. -/
def State.farLoad (s : State) (p unit pa n : Nat) : Option (Nat × Bool) × State :=
  match s.farFound p unit pa (.read n) with
  | some (v, clk, bad) =>
    let s1 := s.farDrop p (fun w _ => w == unit)
    let r := s1.region p
    (some (v, bad.isSome), s1.setRegion p { r with lclk := maxClk r.lclk clk })
  | none => (none, s.farAsk p unit pa (.read n) (s.region p).lclk)

/-- The number of a unit of a region, other than a handler, that awaits an answer of another package. -/
def farUnit : Nat := 99

/-- A class C load of n bytes through the stash of a region (R289): the value and whether its copy is marked poisoned;
none while the line is not there, and the request is on its way. Where the home alone serves the line it acts there (R293), in whatever
package that lies (R283); a store of the region to a line of another package comes before. -/
def State.stashRead (s : State) (p va pa n : Nat) (unit : Nat := farUnit) : Option (Nat × Bool) × State :=
  let r := s.region p
  if s.elsewhere pa && s.storeOut p (lineOf pa) then (none, s)
  else if s.elsewhere pa && s.actsHome p va pa then s.farLoad p unit pa n
  else if s.actsHome p va pa then
    let (v, clk, bad, s1) := (s.markHome (lineOf pa)).homeRead pa n r.lclk
    (some (v, bad), s1.setRegion p { s1.region p with lclk := clk })
  else
  match r.findLine (lineOf pa) with
  | some l =>
    if r.readable l then
      (some (lineRead l.data (pa % 64) n, l.poison),
        s.setRegion p { r.putStash { l.seen r.asid va with pinned := l.pinned || r.ringVa va } with lclk := maxClk r.lclk l.wts })
    else (none, s.ask p (lineOf pa) false)
  | none => (none, s.ask p (lineOf pa) false)

/-- A class C store of n bytes to an owned line (R290): t is above the lease, and a store of all 64 bytes clears the
poison mark (R310). -/
def Region.storeOwned (r : Region) (l : StashLine) (va off n v : Nat) : Region :=
  let t := maxClk r.lclk (l.rts + 1)
  { r.putStash { l.seen r.asid va with data := lineWrite l.data off n v, dirty := true, wts := t, rts := t,
                                       pinned := l.pinned || r.ringVa va, poison := l.poison && n != 64 } with lclk := t }

/-- Whether the sequencer of a region runs, or did until the region was stopped or frozen. -/
def Region.sequences (r : Region) : Bool :=
  let runs (m : RegionMode) : Bool := m == .running || m == .halted
  runs r.modeUnder || (r.modeUnder == .frozen && (runs r.kept.1 || (r.kept.1 == .held && runs r.kept.2)))

/-- The handler whose store has been sent and whose line is owned by now. -/
def Region.storeDue (r : Region) : Option Nat :=
  if !r.sequences then none
  else (r.storing.find? fun e => (r.handler e.1).st == .active && (match r.findLine e.2 with
    | some l => l.owned
    | none => false)).map (·.1)

/-- The mark of a region's copy of a line goes: all of its bytes have been written (R310). -/
def Region.cleanCopy (r : Region) (line : Nat) : Region :=
  { r with stash := r.stash.map fun l => if l.line = line then { l with poison := false } else l }

/-- A class C store through the stash: false while the line is not owned, and the request is on its way. Where the home alone serves
the line it acts there (R293, R305); a store to another package leaves for its home (R283). -/
def State.stashWrite (s : State) (p va pa n v : Nat) (whole : Bool := false) : Bool × State :=
  let r := s.region p
  if s.elsewhere pa then (true, s.farStore p pa n v)
  else if s.actsHome p va pa then
    let (clk, s1) := (s.markHome (lineOf pa)).homeWrite pa n v r.lclk
    (true, s1.setRegion p { s1.region p with lclk := clk })
  else
  match r.findLine (lineOf pa) with
  | some l => if l.owned then (true, s.setRegion p (r.storeOwned l va (pa % 64) n v)) else (false, s.ask p (lineOf pa) true whole)
  | none => (false, s.ask p (lineOf pa) true whole)

/-- The current word faults on an access. -/
def State.raiseAccess (s : State) (c : Cause) (detail va : Nat) : Out := s.raise c detail (c.addr va)

/-- A load of n bytes (R148, R289). -/
def State.load (s : State) (rd ra : Reg) (off : BitVec 16) (n : Nat) (signed : Bool) : Out :=
  let p := s.cur.1
  let va := loadAddr (s.mine.get ra) off
  match s.accessConduct p va n .read with
  | (.bad c d, s1) => s1.raiseAccess c d va
  | (.wait, s1) => s1.stall
  | (.ok pa _, s1) =>
    match s1.stashRead p va pa n s.cur.2 with
    | (none, s2) => s2.stall
    | (some (v, poisoned), s2) => if poisoned then s1.raise .soft 0 0 else s2.writes rd (extendBytes n signed v)

/-- A store of the word under execution is on its way: it waits for the ownership of its line, and is made when that comes although the
sequencer issues nothing then (R429, R459). -/
def State.storeWaits (s : State) (line : Nat) : State :=
  s.setRegion s.cur.1 { s.mine with storing := Tbl.put s.mine.storing s.cur.2 line }

/-- The word under execution waits for what its access does at a home in another package: its handler is answered as by a home of this
package. -/
def State.awaitHome (s : State) (pa : Nat) (op : AwayOp) : Out :=
  ((s.setWait .posted).askMemory pa s.cur.1 s.cur.2 (.home s.asker pa false) op s.mine.lclk).stall

/-- A store of the low n bytes of a register (R148, R290). One to another package waits for its home's answer (R283). -/
def State.store (s : State) (rv ra : Reg) (off : BitVec 16) (n : Nat) : Out :=
  let p := s.cur.1
  let va := loadAddr (s.mine.get ra) off
  match s.waitOf with
  | .answered _ clk _ => s.complete { s.mine with lclk := maxClk s.mine.lclk clk }
  | .faulted c addr => s.raise (Cause.ofCode c) 0 addr
  | .posted => s.stall
  | .room _ => s.stall
  | .none =>
  match s.accessConduct p va n .write with
  | (.bad c d, s1) => s1.raiseAccess c d va
  | (.wait, s1) => s1.stall
  | (.ok pa _, s1) =>
    if s1.elsewhere pa then
      let s2 := s1.setRegion p (s1.mine.dropStash (lineOf pa))
      s2.awaitHome pa (.write n ((s1.mine.get rv).toNat % 2 ^ (8 * n)) false)
    else
    match s1.stashWrite p va pa n ((s1.mine.get rv).toNat % 2 ^ (8 * n)) with
    | (false, s2) => (s2.storeWaits (lineOf pa)).stall
    | (true, s2) => s2.complete { s2.mine with storing := Tbl.drop s2.mine.storing s2.cur.2 }

/-! ### Atomics at the home (R150 to R152) -/

/-- What an atomic makes of the old value; none where it writes nothing. Flags of fadd. -/
def AtomOp.apply (op : AtomOp) (wide : Bool) (old v : Nat) : Option Nat × Flags :=
  let w := if wide then 64 else 32
  let o := old % 2 ^ w
  let x := v % 2 ^ w
  match op with
  | .add => (some ((o + x) % 2 ^ w), 0)
  | .and => (some (o &&& x), 0)
  | .or => (some (o ||| x), 0)
  | .xor => (some (o ^^^ x), 0)
  | .min => (some (if signedOf w x < signedOf w o then x else o), 0)
  | .max => (some (if signedOf w o < signedOf w x then x else o), 0)
  | .minn => (some (if x < o then x else o), 0)
  | .maxn => (some (if o < x then x else o), 0)
  | .swap => (some x, 0)
  | .fadd => let t := fAdd fmtF32 .rne .ieee o x; (some t.1, t.2)
  | .cas expect => (if o = expect.toNat % 2 ^ w then some x else none, 0)

/-- An atomic at the home bank, as one action (R152): the old value, the clock after it, its flags; none when the copy is
marked poisoned, and nothing is written. A `cas` that writes nothing is a load. -/
def State.atomicAtHome (s : State) (op : AtomOp) (wide : Bool) (pa : Nat) (v clk : DWord) : Option (Nat × DWord × Flags) × State :=
  let n := if wide then 8 else 4
  let (old, c, bad, s1) := s.homeTake pa n clk
  if bad then (none, s1)
  else
    match op.apply wide old v.toNat with
    | (none, f) => (some (old, c, f), (s1.homeRead pa n clk).2.2.2)
    | (some new, f) =>
      let (t, s2) := s1.homeWrite pa n new c
      (some (old, t, f), s2)

/-- An answer reaches who waits for it: a handler or the stream interface. -/
def State.answer (s : State) (who : Asker) (v clk : DWord) (flags : Flags) (bad : Option Nat) : State :=
  match who with
  | .handler p k =>
    let r := s.region p
    let h := r.handler k
    if h.wait == .posted then
      let w := match bad with
        | none => Wait.answered v clk flags
        | some c => Wait.faulted c 0
      let s1 := s.setRegion p (r.setHandler k { h with wait := w })
      { s1 with agenda := .issue p :: s1.agenda }
    else s
  | .stream p =>
    let r := s.region p
    s.setRegion p { r with sif := { r.sif with posted := false, answer := if bad.isSome then none else some (v, clk), bad := bad } }

/-- The current word is an atomic (R149, R150, R152): the home performs it, and the word completes with the old value. -/
def State.atomic (s : State) (rd ra : Reg) (wide : Bool) (op : AtomOp) (v : DWord) : Out :=
  let p := s.cur.1
  match s.waitOf with
  | .answered old clk f =>
    let r := s.mine.set rd (extendBytes (if wide then 8 else 4) true old.toNat)
    s.complete { r with lclk := maxClk r.lclk clk, fpflags := r.fpflags ||| f }
  | .faulted c addr => s.raise (Cause.ofCode c) 0 addr
  | .posted => s.stall
  | .room _ => s.stall
  | .none =>
    let va := confine (s.mine.get ra)
    match s.accessConduct p va (if wide then 8 else 4) .write with
    | (.bad c d, s1) => s1.raiseAccess c d va
    | (.wait, s1) => s1.stall
    | (.ok pa _, s1) =>
      (s1.writeBackLine p (lineOf pa)).postAndWait (keyMem p) (.atomic s1.asker op wide pa v s1.mine.lclk)

end Sys2Proof.Machine
end

