-- ==== Sys2Proof/Machine/Handles.lean ====
section
/-! DEFINITION. Handles: counts, advances, cistern headers and the conduct forms (R160, R161, R163, R250 to R254). -/
namespace Sys2Proof.Machine

/-- What a wait or an advance makes of the counts of a handle: the handle after it, none while a wait must wait, and an
error when an advance does not fit (R160, R253). -/
def Handle.act (h : Handle) (op : HeaderOp) : Except Unit (Option Handle) :=
  match op with
  | .waitFilled n => .ok (if n ≤ h.f then some h else none)
  | .waitFree n => .ok (if n ≤ h.slots - h.f then some h else none)
  | .pop n => if h.f < n then .error () else .ok (some { h with c := (h.c + n) % h.slots, f := h.f - n })
  | .push n => if h.slots - h.f < n then .error () else .ok (some { h with p := (h.p + n) % h.slots, f := h.f + n })
  | .read => .ok (some h)

/-- The snapshot of a handle (R161). -/
def Handle.word (h : Handle) : DWord :=
  if h.decl then
    BitVec.ofNat 64 (2 ^ 56 + h.p % 2 ^ 14 * 2 ^ 42 + h.c % 2 ^ 14 * 2 ^ 28 + (h.slots - h.f) % 2 ^ 14 * 2 ^ 14 + h.f % 2 ^ 14)
  else 0

/-- The snapshot of a LOC = 1 handle whose header cannot be read (R161). -/
def handleErrWord : DWord := BitVec.ofNat 64 (2 ^ 57 + 2 ^ 56)

/-! ### Header lines (R251, R252) -/

def headerVa (h : Handle) : Nat := (h.base + 2 ^ 57 - 64) % 2 ^ 57

/-- The header's address, checked: a class C page of the region's own die (R251, R252). -/
def State.headerAt (s : State) (p : Nat) (h : Handle) (need : Need) : Checked × State :=
  match s.accessRegion p (headerVa h) need with
  | (.ok pa clsW, s1) =>
    if clsW || pkgOf pa != s.well.pkg || dieOf pa != dieOfPlace p then (.bad .handle 0, s1) else (.ok pa false, s1)
  | (.bad .access _, s1) => (.bad .handle 0, s1)
  | x => x

/-- The low word of a header for counts under a declaration (R251). -/
def headerWordOf (h : Handle) : Nat :=
  h.lsz % 32 * 2 ^ 56 + h.slots % 2 ^ 14 * 2 ^ 42 + h.p % 2 ^ 14 * 2 ^ 28 + h.c % 2 ^ 14 * 2 ^ 14 + h.f % 2 ^ 14

/-- SLOTS and LSZ of a header word, and whether it is unused so far. -/
def headerFresh (w : Nat) : Bool := w / 2 ^ 42 % 2 ^ 19 == 0
/-- The checks of R252 on a header: reserved bits zero, SLOTS and LSZ those of the declaration. -/
def headerOk (decl : Handle) (w rest : Nat) : Bool :=
  w / 2 ^ 61 % 8 == 0 && rest == 0 &&
    (headerFresh w || (w / 2 ^ 42 % 2 ^ 14 == decl.slots && w / 2 ^ 56 % 32 == decl.lsz))

/-- The counts of a header word: [13:0] F, [27:14] C, [41:28] P (R251). -/
def headerHandle (decl : Handle) (w : Nat) : Handle :=
  { decl with f := w % 2 ^ 14, c := w / 2 ^ 14 % 2 ^ 14, p := w / 2 ^ 28 % 2 ^ 14 }

/-- Whether an action at a header moves an index. -/
def HeaderOp.advances : HeaderOp → Bool
  | .pop _ => true
  | .push _ => true
  | _ => false

/-- HANDLE_HEADER_ACTION (R251, R252, R254, R293): a wait or an advance at the header's home bank, as one action. A wait whose
condition does not hold stays armed on the line. -/
def State.headerAction (s : State) (m : Nat) (who : Asker) (h pa : Nat) (op : HeaderOp) (clk : DWord) : State :=
  let decl := (s.region who.place).handle h
  let s0 := (s.unpost m).markHome (lineOf pa)
  let (w, c, bad, s1) := if op.advances then s0.homeTake pa 8 clk else s0.homeRead pa 8 clk
  let hclk := Memory.readLE s1.mem (pa + 8) 8
  let rest := Memory.readLE s1.mem (pa + 16) 48
  let reply (s : State) (v : Nat) (c : DWord) (e : Option Nat) : State :=
    s.post none (.atomicReply who (BitVec.ofNat 64 v) c 0 e)
  if bad then reply s1 0 clk (some Cause.soft.code)
  else if !headerOk decl w rest then reply s1 0 clk (some Cause.handle.code)
  else
    let cur := headerHandle decl w
    match cur.act op with
    | .error () => reply s1 0 clk (some Cause.handle.code)
    | .ok none =>
      let s2 := if headerFresh w then (s1.homeWrite pa 8 (headerWordOf cur) clk).2 else s1
      s2.post none (.header who h pa op clk)
    | .ok (some next) =>
      match op with
      | .read => reply s1 cur.word.toNat c none
      | .waitFilled _ =>
        let s2 := if headerFresh w then (s1.homeWrite pa 8 (headerWordOf cur) clk).2 else s1
        reply s2 (headerWordOf next) (maxClk c (BitVec.ofNat 64 hclk)) none
      | .waitFree _ =>
        let s2 := if headerFresh w then (s1.homeWrite pa 8 (headerWordOf cur) clk).2 else s1
        reply s2 (headerWordOf next) c none
      | .pop _ =>
        let (t, s2) := s1.homeWrite pa 8 (headerWordOf next) clk
        reply s2 (headerWordOf next) t none
      | .push _ =>
        let k := if hclk < clk.toNat then clk.toNat else hclk
        let (t, s2) := s1.homeWrite pa 16 (headerWordOf next + k * 2 ^ 64) clk
        reply s2 (headerWordOf next) t none

def execHandleHeaderAction (m : Nat) (s : State) : Out :=
  match s.ready m with
  | some (.header who h pa op clk) => .next (s.headerAction m who h pa op clk)
  | _ => s.idle

/-! ### The conduct forms -/

/-- Every write-back of the region has been acknowledged once none is on its way and no line is dirty (R168, R171, R254). -/
def Region.clean (r : Region) : Bool := r.wbOut == 0 && !r.stash.any (·.dirty)

/-- A wait or an advance on a LOC = 1 handle by the current word (R252, R254). -/
def State.headerWord (s : State) (h : Nat) (op : HeaderOp) (onDone : DWord → DWord → Out) (flush : Bool) : Out :=
  let p := s.cur.1
  match s.waitOf with
  | .answered v clk _ => onDone v clk
  | .faulted c addr => s.raise (Cause.ofCode c) 0 addr
  | .posted => s.stall
  | .room _ => s.stall
  | .none =>
    match s.headerAt p (s.mine.handle h) (if op == .read then .read else .write) with
    | (.bad c d, s1) => s1.raise c d (c.addr (headerVa (s.mine.handle h)))
    | (.wait, s1) => s1.stall
    | (.ok pa _, s1) =>
      if flush && !s1.mine.clean then (s1.writeBackAll p).stall
      else s1.postAndWait (keyMem p) (.header s1.asker h pa op s1.mine.lclk)

/-- The current word waits on a handle or advances it: first the checks of R160, then the action. A count of 0 changes
nothing. An action at a header raises lclk as an access of its line does (R289, R290, R293). -/
def State.handleWord (s : State) (h : Fin 16) (rb : Reg) (op : Nat → HeaderOp) (bounded release : Bool) : Out :=
  let r := s.mine
  let hd := r.handle h.val
  let n := (r.get rb).toNat
  if !hd.decl || (bounded && decide (hd.slots < n)) then s.raise .handle 0 0
  else if n = 0 then s.complete r
  else if hd.loc then
    s.headerWord h.val (op n)
      (fun _ clk => s.complete { r with lclk := maxClk r.lclk clk }) release
  else
    match hd.act (op n) with
    | .error () => s.raise .handle 0 0
    | .ok none => s.stall
    | .ok (some hd') => s.complete (r.setHandle h.val hd')

/-- HWAIT (R160): on a LOC = 1 handle an acquire (R254). -/
def execHwait (h : Fin 16) (rb : Reg) (s : State) : Out := s.handleWord h rb .waitFilled true false
/-- HROOM (R160). -/
def execHroom (h : Fin 16) (rb : Reg) (s : State) : Out := s.handleWord h rb .waitFree true false
/-- HPOP (R160). -/
def execHpop (h : Fin 16) (rb : Reg) (s : State) : Out := s.handleWord h rb .pop false false
/-- HPUSH (R160): on a LOC = 1 handle a release, after every dirty line is written back (R254). -/
def execHpush (h : Fin 16) (rb : Reg) (s : State) : Out := s.handleWord h rb .push false true

/-- The snapshot of a handle in a register: a LOC = 1 header is read at its home; one that cannot be read gives HERR
(R161, R252). -/
def State.handleStatus (s : State) (rd : Reg) (h : Nat) : Out :=
  let hd := s.mine.handle h
  if !(hd.decl && hd.loc) then s.writes rd hd.word
  else
    match s.waitOf with
    | .faulted _ _ => s.writes rd handleErrWord
    | _ =>
      match s.headerAt s.cur.1 hd .read, s.waitOf with
      | (.bad _ _, _), .none => s.writes rd handleErrWord
      | _, _ => s.headerWord h .read (fun v clk => s.complete { s.mine.set rd v with lclk := maxClk s.mine.lclk clk }) false

/-- HGET (R161). -/
def execHget (rd : Reg) (h : Fin 16) (s : State) : Out := s.handleStatus rd h.val

/-- The handle that a binding names, if any (R163). -/
def bindsHandle : Instr → Option Nat
  | .bindr b => if b.gate == .none then none else some b.h.val
  | .bindw b => if b.gate == .none then none else some b.h.val
  | .bindc b _ _ => if b.gate == .none then none else some b.h.val
  | .bindf h _ _ _ _ => some h.val
  | _ => none

/-- Whether a queued command is a binding that names a handle. -/
def QueuedCmd.names (q : QueuedCmd) (h : Nat) : Bool :=
  match decodeStream q.bits.toNat with
  | .ok i => bindsHandle i == some h
  | .error _ => false

/-- IDRAIN (R163): every earlier binding that names the handle has completed. -/
def execIdrain (h : Fin 16) (s : State) : Out :=
  if s.mine.live.any (·.2 == h.val) || s.mine.cmdQ.any (·.names h.val) then s.stall else s.complete s.mine

end Sys2Proof.Machine
end

