-- ==== Sys2Proof/Machine/Control.lean ====
section
/-! DEFINITION. Branches and calls, system instructions and control words (R136 to R143, R154 to R156, R173, R174). -/
namespace Sys2Proof.Machine

/-! ### Branches and calls -/

/-- A branch (R154): a taken one continues at the target. -/
def State.branch (s : State) (ra rb : Reg) (off : BitVec 16) (taken : DWord → DWord → Bool) : Out :=
  if taken (s.mine.get ra) (s.mine.get rb) then s.transfer s.mine (branchTarget s.here off) else s.complete s.mine

/-- B_EQ (R154). -/
def execBEq (ra rb : Reg) (off : BitVec 16) (s : State) : Out := s.branch ra rb off (fun a b => a == b)
/-- B_NE (R154). -/
def execBNe (ra rb : Reg) (off : BitVec 16) (s : State) : Out := s.branch ra rb off (fun a b => a != b)
/-- B_LT (R154). -/
def execBLt (ra rb : Reg) (off : BitVec 16) (s : State) : Out := s.branch ra rb off (fun a b => decide (a.toInt < b.toInt))
/-- B_GE (R154). -/
def execBGe (ra rb : Reg) (off : BitVec 16) (s : State) : Out := s.branch ra rb off (fun a b => decide (b.toInt ≤ a.toInt))
/-- B_LTN (R154). -/
def execBLtn (ra rb : Reg) (off : BitVec 16) (s : State) : Out := s.branch ra rb off (fun a b => decide (a.toNat < b.toNat))
/-- B_GEN (R154). -/
def execBGen (ra rb : Reg) (off : BitVec 16) (s : State) : Out := s.branch ra rb off (fun a b => decide (b.toNat ≤ a.toNat))

/-- JMP (R155). -/
def execJmp (off : BitVec 26) (s : State) : Out := s.transfer s.mine (jumpTarget s.here off)
/-- CALL (R155): g31 takes the address of the following word. -/
def execCall (off : BitVec 26) (s : State) : Out :=
  s.transfer (s.mine.set 31 (BitVec.ofNat 64 (s.here + 4))) (jumpTarget s.here off)
/-- RET (R155, R156): continues at g31; a g31 that is no multiple of 4 faults. -/
def execRet (s : State) : Out := s.transfer s.mine ((s.mine.get 31).toNat : Int)

/-! ### System instructions (R173, R174) -/

/-- NOP (R173). -/
def execNop (s : State) : Out := s.complete s.mine

/-- The attachment of a debugger to the instance of a region (R457). -/
def State.attachedTo (s : State) (p : Nat) : Option Nat :=
  let r := s.region p
  (s.attach.find? fun e => e.2.insts.contains (dieOfPlace p, r.inst)).map (·.1)

/-- HALT (R173): with a debugger attached the region stays halted until a Resume; otherwise every handler stops and the
instance ends with status 0x0B. -/
def execHalt (s : State) : Out :=
  let p := s.cur.1
  match s.attachedTo p with
  | some _ => .next (s.setRegion p { s.mine.advance s.cur.2 with mode := .halted, halter := some s.cur.2 })
  | none => .next (s.stopRegion p)

/-- WFE (R173): completes and clears EV once EV is set. -/
def execWfe (s : State) : Out := if s.mine.ev then s.complete { s.mine with ev := false } else s.stall

/-- TRAP (R173): the trap fault, with the code in DETAIL (R420). -/
def execTrap (c : BitVec 7) (s : State) : Out := s.raise .trap c.toNat 0

/-- ERET (R141, R173): illegal in handler 0. -/
def execEret (s : State) : Out := if s.cur.2 = 0 then s.raiseIllegal else .next (s.returnFrom s.cur.1 s.cur.2)

/-- The tide clock in nanoseconds (R19); the model keeps it in steps of 1/8000 ns. -/
def State.tideNow (s : State) : DWord := BitVec.ofNat 64 (s.tide / 8000)

/-- TIME (R173). -/
def execTime (rd : Reg) (s : State) : Out := s.writes rd s.tideNow

/-- WAITT (R173): waits until the tide reaches ga. -/
def execWaitt (ra : Reg) (s : State) : Out :=
  if (s.mine.get ra).toNat ≤ s.tideNow.toNat then s.complete s.mine else s.stall

/-! ### Control words (R136 to R139, R142) -/

/-- A word with one bit for each handler from 0 to 31. -/
def handlerBits (f : Nat → Bool) : DWord :=
  BitVec.ofNat 64 ((List.range 32).foldl (fun n k => if f k then n + 2 ^ k else n) 0)

/-- Bits [64j+63:64j] of the oldest fault file entry; zero when the file is empty (R137). -/
def Region.faultPart (r : Region) (j : Nat) : DWord :=
  match r.faults with
  | [] => 0
  | w :: _ => BitVec.ofNat 64 (faultField w (64 * j) 64)

/-- A control word as it stands (R137). Write-only words read zero (R136). -/
def State.readCtl (s : State) (c : Ctl) : DWord :=
  let r := s.mine
  match c with
  | .cc => r.cc.setWidth 64
  | .ic => r.ic.setWidth 64
  | .icend => r.icend.setWidth 64
  | .wid => r.wid
  | .shape => BitVec.ofNat 64 (r.shape % 2 ^ 49)
  | .slot => BitVec.ofNat 64 (r.slot % 64)
  | .place => BitVec.ofNat 64 (r.placeId % 512)
  | .asid => r.asid.setWidth 64
  | .wf k => r.wf (k.val + 1)
  | .fpflags => r.fpflags.setWidth 64
  | .hen => handlerBits (fun k => k == 0 || ((r.handler k).decl && (r.handler k).hen))
  | .pend => handlerBits (fun k => s.eventPending s.cur.1 k)
  | .susp => handlerBits (fun k => (r.handler k).st == .suspended)
  | .resume => 0
  | .timer => r.timer
  | .tide => s.tideNow
  | .lclk => r.lclk
  | .ffcnt => BitVec.ofNat 64 r.faults.length
  | .fault k => r.faultPart k.val
  | .fpop => 0
  | .hstat h => (r.handle h.val).word
  | .chmap k => (r.chmapOf (k.val + 4)).setWidth 64

/-- MFC (R136): hstat of a LOC = 1 handle reads its header at home (R252). -/
def execMfc (rd : Reg) (c : Ctl) (s : State) : Out :=
  match c with
  | .hstat h => s.handleStatus rd h.val
  | _ => s.writes rd (s.readCtl c)

/-- MTC_FPFLAGS (R138): replaces the word. -/
def execMtcFpflags (ra : Reg) (s : State) : Out :=
  s.complete { s.mine with fpflags := (s.mine.get ra).setWidth 6 }

/-- MTC_HEN (R137): bits of undeclared handlers are ignored, and handler 0 stays enabled. -/
def execMtcHen (ra : Reg) (s : State) : Out :=
  let v := (s.mine.get ra).toNat
  s.complete { s.mine with handlers := s.mine.handlers.map fun e =>
    (e.1, if e.1 != 0 && e.2.decl then { e.2 with hen := v / 2 ^ e.1 % 2 == 1 } else e.2) }

/-- MTC_RESUME (R143): ends the suspension of a handler. -/
def execMtcResume (ra : Reg) (s : State) : Out :=
  let v := (s.mine.get ra).toNat
  let s1 := s.resumeHandler s.cur.1 (v % 32) (v / 32 % 2 == 1)
  s1.complete s1.mine

/-- Event 3 latches, once, when the tide has reached the timer, and the timer returns to 0 (R139, R174). -/
def Region.latchTimer (r : Region) (now : DWord) : Region :=
  if r.timer != 0 && decide (r.timer.toNat ≤ now.toNat) && r.modeUnder.live then { r with timer := 0, timerEv := true, ev := true } else r

/-- MTC_TIMER (R174): arms or disarms event 3. A value that the tide has passed already latches first, as it does in the cycle after the
word that wrote it. -/
def execMtcTimer (ra : Reg) (s : State) : Out := s.complete { s.mine.latchTimer s.tideNow with timer := s.mine.get ra }

/-- MTC_FPOP (R137): removes the oldest fault file entry. -/
def execMtcFpop (_ra : Reg) (s : State) : Out := s.complete { s.mine with faults := s.mine.faults.drop 1 }

/-- Release the channel that chmapk holds (R142). -/
def State.releaseChannel (s : State) (p k : Nat) : State :=
  let d := s.die (dieOfPlace p)
  s.setDie (dieOfPlace p)
    { d with chans := d.chans.map fun e => (e.1, if e.2.sub == some (p, k) then { e.2 with sub := none } else e.2) }

/-- MTC_CHMAP (R142, R170): subscribes a channel of the region's die to an event, or releases it. -/
def execMtcChmap (ra : Reg) (k : Fin 28) (s : State) : Out :=
  let p := s.cur.1
  let e := k.val + 4
  let v := (s.mine.get ra).toNat
  let ch := v % 256
  let r := s.mine
  if v / 256 % 2 = 0 then
    let s1 := s.releaseChannel p e
    s1.complete { s1.mine with chmap := Tbl.put r.chmap e (BitVec.ofNat 9 v) }
  else
    let c := (s.die (dieOfPlace p)).chan ch
    if c.owner != some r.asid then s.raise .permission 0 0
    else if c.sub.isSome && c.sub != some (p, e) then s.raise .channel 0 0
    else
      let s1 := s.releaseChannel p e
      let d := s1.die (dieOfPlace p)
      let s2 := s1.setDie (dieOfPlace p) (d.setChan ch { d.chan ch with sub := some (p, e) })
      s2.complete { s2.mine with chmap := Tbl.put r.chmap e (BitVec.ofNat 9 v), ev := r.ev || !c.words.isEmpty }

/-- TIMER_EXPIRY (R174): event 3 latches once, and timer returns to 0. -/
def execTimerExpiry (p : Nat) (s : State) : Out :=
  let r := s.region p
  if r.timer != 0 && decide (r.timer.toNat ≤ s.tideNow.toNat) && r.modeUnder.live then .next (s.setRegion p (r.latchTimer s.tideNow))
  else s.idle

/-- WAITT_EXPIRY (R173): the tide has reached the value of a stalled `waitt`, and its sequencer may issue. -/
def execWaittExpiry (p k : Nat) (s : State) : Out :=
  let r := s.region p
  let due : Bool := match s.fetch p k (r.handler k).ia with
    | none => false
    | some w =>
      match decodeConduct w.toNat with
      | .ok (.waitt ra) => decide ((r.get ra).toNat ≤ s.tideNow.toNat)
      | _ => false
  if (r.handler k).st == .active && due then .next { s with agenda := .issue p :: s.agenda } else s.idle

end Sys2Proof.Machine
end

