-- ==== Sys2Proof/Machine/Bfp.lean ====
section
/-! DEFINITION. Block floating point: qnt by block and by record, dqn, headers, lane and packed form
(R33 to R38, R42, R46 to R48, R51, R304). -/
namespace Sys2Proof.Machine

/-- A quantised block: exponent, mantissas, the flags raised, how many elements saturated (R42). -/
structure BfpBlock where
  e     : Nat
  ms    : List Int
  flags : Flags
  sats  : Nat
  deriving DecidableEq, Repr

/-- Q of R33. -/
def bfpQ (w : Nat) : Nat := 2 ^ (w - 1) - 1

/-- The exponent of a block's unit (R33). -/
def bfpUnit (e w : Nat) : Int := (e : Int) - 127 - ((w : Int) - 1)

/-- RoundW(x, bfpW, mode) / unit: the mantissa and whether it is inexact (R4). -/
def bfpMant (rm : Rnd) (unit : Int) (d : Dyadic) : Int × Bool :=
  let r := roundShift rm d.neg d.m (unit - d.e) false
  ((if d.neg then -(r.1 : Int) else (r.1 : Int)), r.2)

/-- The exponent floor(log2 |x|) of a non-zero value. -/
def Dyadic.top (d : Dyadic) : Int := d.e + (d.m.log2 : Int)

/-- The finite elements. -/
def finites (vs : List FVal) : List Dyadic :=
  vs.filterMap fun v => match v with
    | .fin d => some d
    | _ => none

/-- The largest floor(log2 |x|) over the non-zero elements. -/
def largestTop (ds : List Dyadic) : Option Int :=
  ds.foldl (fun acc d => if d.m = 0 then acc else
    match acc with
    | none => some d.top
    | some t => some (if t < d.top then d.top else t)) none

/-- How many finite elements have a rounded mantissa above Q at a unit. -/
def overCount (rm : Rnd) (unit : Int) (q : Nat) (ds : List Dyadic) : Nat :=
  ds.countP fun d => decide ((bfpMant rm unit d).1.natAbs > q)

/-- Whether rounding some finite element at a unit is inexact (R4). -/
def inexactAt (rm : Rnd) (unit : Int) (ds : List Dyadic) : Bool := ds.any fun d => (bfpMant rm unit d).2

/-- A block that code 0 poisons (R36, R42): each finite element above Q counts once and raises OF. -/
def poisonedBlock (n : Nat) (big : Nat) (flags : Flags) : BfpBlock :=
  { e := 255, ms := List.replicate n 0, flags := flags ||| flagIf (big != 0) flagOF, sats := big }

/-- The mantissas at an exponent, clamped to Q, with NX for every inexact rounding and SAT for every clamp. -/
def clampBlock (rm : Rnd) (e w : Nat) (vs : List FVal) (flags : Flags) : BfpBlock :=
  let unit := bfpUnit e w; let q : Int := bfpQ w
  let each := vs.map fun v => match v with
    | .fin d =>
      let m := bfpMant rm unit d
      let big := decide (m.1.natAbs > bfpQ w)
      ((if big then (if m.1 < 0 then -q else q) else m.1), m.2, big)
    | .inf ng => ((if ng then -q else q), false, true)
    | .nan _ => (0, false, false)
  let sats := each.countP fun t => t.2.2
  { e := e, ms := each.map (·.1),
    flags := flags ||| flagIf (each.any fun t => t.2.1) flagNX ||| flagIf (sats != 0) flagSAT, sats := sats }

/-- qnt by block (R46). Under code 0 a poisoned block counts its finite elements above Q at E = 254, whatever poisoned it
(R42); the test at a tentative E of 254 raises NX by its own roundings (R4). -/
def qntBlock (f : FloatFmt) (w : Nat) (rm : Rnd) (s : Sat) (xs : List Nat) : BfpBlock :=
  let vs := xs.map f.value
  let nv := nvSignal vs
  let n := xs.length
  let ds := finites vs
  let anyInf := vs.any FVal.isInf
  let top := bfpUnit 254 w
  let poisoned (flags : Flags) := poisonedBlock n (if s == .ieee then overCount rm top (bfpQ w) ds else 0) flags
  if vs.any FVal.isNaN || s == .ieee && anyInf then poisoned nv
  else
    match largestTop ds with
    | none => if anyInf then clampBlock rm 254 w vs nv else { e := 0, ms := List.replicate n 0, flags := nv, sats := 0 }
    | some t =>
      let e0 : Nat := (if t + 128 < 1 then 1 else t + 128).toNat
      let e1 := if e0 ≤ 254 && overCount rm (bfpUnit e0 w) (bfpQ w) ds != 0 then e0 + 1 else e0
      if e1 > 254 && s == .ieee then poisoned (nv ||| flagIf (decide (e0 ≤ 254) && inexactAt rm top ds) flagNX)
      else
        let b := clampBlock rm (if e1 > 254 then 254 else e1) w vs nv
        if b.ms.all (· == 0) then { b with e := 0 } else b

/-- qnt by record (R47) at the record's exponent: every element is rounded first and raises its NX (R4), also in a block
that is then poisoned; under code 0 each finite element above Q counts (R42). -/
def qntRecord (f : FloatFmt) (w : Nat) (e : Nat) (rm : Rnd) (s : Sat) (xs : List Nat) : BfpBlock :=
  let vs := xs.map f.value
  let ds := finites vs
  let unit := bfpUnit e w
  let big := if s == .ieee then overCount rm unit (bfpQ w) ds else 0
  let flags := nvSignal vs ||| flagIf (inexactAt rm unit ds) flagNX
  if vs.any FVal.isNaN || s == .ieee && (vs.any FVal.isInf || big != 0) then poisonedBlock xs.length big flags
  else clampBlock rm e w vs (nvSignal vs)

/-- The low bits of an integer as a signed value of width w (R33: a consumer reads only bits [W-1:0]). -/
def lowSigned (w n : Nat) : Int := signedOf w n

/-- dqn of one mantissa (R48). -/
def dqnElem (f : FloatFmt) (w e : Nat) (rm : Rnd) (s : Sat) (lane : Nat) : Nat × Flags :=
  let m := lowSigned w lane
  if e = 255 then (f.canonicalNaN, 0)
  else if e = 0 ∨ m = 0 then (0, 0)
  else deliver f rm s (.fin ⟨decide (m < 0), m.natAbs, bfpUnit e w⟩)

/-- The LEN code of a block length (R34). -/
def lenCode (l : Nat) : Nat := if l = 8 then 0 else if l = 16 then 1 else if l = 32 then 2 else 3

/-- A header payload (R34). -/
def headerOf (l w e : Nat) : Nat := lenCode l * 2 ^ 11 + (w - 2) * 2 ^ 8 + e

/-- A header's block length, width and exponent; none when it is malformed (R37). -/
def readHeader (n : Nat) : Option (Nat × Nat × Nat) :=
  if n / 2 ^ 13 ≠ 0 ∨ n / 2 ^ 8 % 8 = 7 then none
  else some (8 * 2 ^ (n / 2 ^ 11 % 4), n / 2 ^ 8 % 8 + 2, n % 256)

/-- Four lanes of eight bits as a payload. -/
def packLanes8 (ms : List Int) : Nat := ms.foldr (fun m acc => wrapInt 8 m + 256 * acc) 0

/-- The bits an element takes in packed form (R38). -/
def packField (w : Nat) : Nat := if w = 2 then 2 else if w ≤ 4 then 4 else 8

/-- One 4-byte element of packed form from its mantissas, lowest first (R304). -/
def packElem (w : Nat) (ms : List Int) : Nat :=
  ms.foldr (fun m acc => wrapInt (packField w) m + 2 ^ packField w * acc) 0 % 2 ^ 32

/-- The mantissas of a packed element, lowest first. -/
def unpackElem (w n : Nat) : List Int :=
  (List.range (32 / packField w)).map fun j => lowSigned w (n / 2 ^ (packField w * j))

/-- One k-block of the matrix unit (R51): c becomes RN(c + p). -/
def blockStep (c : Nat) (wa ea wb eb : Nat) (as bs : List Int) : Nat × Flags :=
  let p : Int := (List.zipWith (· * ·) as bs).foldl (· + ·) 0
  let pv : FVal :=
    if ea = 255 ∨ eb = 255 then .nan false
    else if ea = 0 ∨ eb = 0 then .fin ⟨false, 0, 0⟩
    else .fin ⟨decide (p < 0), p.natAbs, bfpUnit ea wa + bfpUnit eb wb⟩
  let cv := fmtF32.value c
  let r := addVal .rne cv pv
  let t := deliver fmtF32 .rne .ieee r.1
  (t.1, r.2 ||| t.2)

end Sys2Proof.Machine
end

