-- ==== Sys2Proof/Machine/Lanes.lean ====
section
/-! DEFINITION. Lanes: the lane operations of cells, folds, conversions and the classes of gauge counts (R40 to R45, R185,
R186, R193 to R203, R340). -/
namespace Sys2Proof.Machine

/-- Bits of a lane (R185). -/
def laneBits : Width → Nat
  | .w32 => 32
  | .w16 => 16
  | .w8 => 8

/-- The lanes of a payload, lane 0 first (R185). -/
def splitLanes (w n : Nat) : List Nat := (List.range (32 / w)).map fun j => n / 2 ^ (w * j) % 2 ^ w

/-- A payload from lanes, lane 0 first. -/
def joinLanes (w : Nat) (vs : List Nat) : Nat := vs.foldr (fun v acc => v % 2 ^ w + 2 ^ w * acc) 0

/-- The floating-point format of a format code. -/
def floatFmtOf : Fmt → Option FloatFmt
  | .f32 => some fmtF32
  | .bf16 => some fmtBf16
  | .f16 => some fmtF16
  | _ => none

/-- Bits of a number format (R24). -/
def fmtBits : Fmt → Nat
  | .f32 => 32 | .bf16 => 16 | .f16 => 16 | .i8 => 8 | .n8 => 8 | .i16 => 16 | .n16 => 16 | .i32 => 32 | .n32 => 32
  | .i64 => 64 | .n64 => 64 | .bfp => 8

def fmtSigned : Fmt → Bool
  | .i8 => true | .i16 => true | .i32 => true | .i64 => true
  | _ => false

/-- The value of an integer lane. -/
def intOf (f : Fmt) (n : Nat) : Int := if fmtSigned f then signedOf (fmtBits f) n else ((n % 2 ^ fmtBits f : Nat) : Int)

/-- An integer result brought to its format (R42, R192). -/
def intResult (f : Fmt) (s : Sat) (k : Int) : Nat × Flags := satInt (fmtBits f) (fmtSigned f) s k

/-- A unary float operation that only changes the sign; a NaN gives the canonical NaN (R193). -/
def signOp (f : FloatFmt) (g : Nat → Nat) (a : Nat) : Nat × Flags :=
  match f.value a with
  | .nan s => (f.canonicalNaN, flagIf s flagNV)
  | _ => (g a, 0)

/-- The sign bit of a float format, as a power of two. -/
def signUnit (f : FloatFmt) : Nat := 2 ^ (f.frac + f.ebits)

/-- a times 2^k, rounded once (R193). -/
def scaleOp (f : FloatFmt) (rm : Rnd) (s : Sat) (a : Nat) (k : Int) : Nat × Flags :=
  match f.value a with
  | .nan sg => (f.canonicalNaN, flagIf sg flagNV)
  | .inf n => deliver f rm s (.inf n)
  | .fin d => deliver f rm s (.fin ⟨d.neg, d.m, d.e + (if k < -4096 then -4096 else if 4096 < k then 4096 else k)⟩)

/-- The number of one bits of a lane. -/
def popcount (w n : Nat) : Nat := ((List.range w).filter (fun i => n / 2 ^ i % 2 == 1)).length

/-- The number of leading zero bits of a lane. -/
def leadingZeros (w n : Nat) : Nat := if n % 2 ^ w = 0 then w else w - 1 - (n % 2 ^ w).log2

/-- The relation of a cmp SUB over floats: whether it holds, and its flags (R194). -/
def cmpFloat (f : FloatFmt) (sub a b : Nat) : Bool × Flags :=
  let x := f.value a
  let y := f.value b
  let nan := x.isNaN || y.isNaN
  let quiet := nvSignal [x, y]
  match sub with
  | 0 => (FVal.eqNum x y, quiet)
  | 1 => (!FVal.eqNum x y, quiet)
  | 2 => (FVal.ltNum x y, flagIf nan flagNV)
  | 3 => (!nan && (FVal.ltNum x y || FVal.eqNum x y), flagIf nan flagNV)
  | 4 => (FVal.ltNum y x, flagIf nan flagNV)
  | 5 => (!nan && (FVal.ltNum y x || FVal.eqNum x y), flagIf nan flagNV)
  | _ => (nan, quiet)

/-- The relation of a cmp SUB over integers (R194). -/
def cmpInt (sub : Nat) (x y : Int) : Bool :=
  match sub with
  | 0 => x == y
  | 1 => x != y
  | 2 => decide (x < y)
  | 3 => decide (x ≤ y)
  | 4 => decide (y < x)
  | _ => decide (y ≤ x)

/-- One lane of the operations 0x01 to 0x14 over floats (R193 to R196). -/
def laneFloat (f : FloatFmt) (op : CellOp) (sub lw : Nat) (rm : Rnd) (s : Sat) (a b c : Nat) : Nat × Flags :=
  match op with
  | .add => fAdd f rm s a b
  | .sub => fSub f rm s a b
  | .mul => fMul f rm s a b
  | .fma => fFma f rm s a b c
  | .min => fMin f a b
  | .max => fMax f a b
  | .abs => signOp f (fun n => n % signUnit f) a
  | .neg => signOp f (fun n => if n / signUnit f % 2 = 1 then n - signUnit f else n + signUnit f) a
  | .scale => scaleOp f rm s a (signedOf lw b)
  | .cmp => let r := cmpFloat f sub a b; (bitOf r.1, r.2)
  | .sel => (if c ≠ 0 then a else b, 0)
  | _ => (a, 0)

/-- One lane of the operations 0x01 to 0x14 over integers (R193 to R196). -/
def laneInt (f : Fmt) (op : CellOp) (sub lw : Nat) (s : Sat) (a b c : Nat) : Nat × Flags :=
  let x := intOf f a
  let y := intOf f b
  match op with
  | .add => intResult f s (x + y)
  | .sub => intResult f s (x - y)
  | .mul => intResult f s (x * y)
  | .fma => intResult f s (x * y + intOf f c)
  | .min => (if y < x then b else a, 0)
  | .max => (if x < y then b else a, 0)
  | .abs => intResult f s (x.natAbs : Int)
  | .neg => intResult f s (-x)
  | .and => (a &&& b, 0)
  | .or => (a ||| b, 0)
  | .xor => (a ^^^ b, 0)
  | .shl => (a * 2 ^ (b % lw) % 2 ^ lw, 0)
  | .shr => (a / 2 ^ (b % lw), 0)
  | .sra => (wrapInt lw (signedOf lw a / 2 ^ (b % lw)), 0)
  | .cmp => (bitOf (cmpInt sub x y), 0)
  | .sel => (if c ≠ 0 then a else b, 0)
  | .popc => (popcount lw a, 0)
  | .clz => (leadingZeros lw a, 0)
  | _ => (a, 0)

/-- The lanes of a result where the predicate's lane is true, lane a unchanged elsewhere (R186). -/
def maskLanes (lw : Nat) (pred : Option Nat) (a r : Nat) : Nat :=
  match pred with
  | none => r
  | some p =>
    let la := splitLanes lw a; let lr := splitLanes lw r; let lp := splitLanes lw p
    joinLanes lw ((List.range la.length).map fun j => if lp.getD j 1 = 0 then la.getD j 0 else lr.getD j 0)

/-- One lane of the operations 0x01 to 0x14; sel and mov accept every format (R195). -/
def laneOp (f : Fmt) (op : CellOp) (sub lw : Nat) (rm : Rnd) (s : Sat) (a b c : Nat) : Nat × Flags :=
  match floatFmtOf f with
  | some ff => laneFloat ff op sub lw rm s a b c
  | none => laneInt f op sub lw s a b c

/-- The operations of class X on one token, lane by lane; a false lane of the predicate keeps lane a (R185, R186). -/
def tokenOp (w : CellWord) (a b c : Nat) (pred : Option Nat) : Nat × Flags :=
  let lw := laneBits w.width
  let la := splitLanes lw a
  let lb := splitLanes lw b
  let lc := splitLanes lw c
  let lp : List Nat := match pred with
    | none => la.map (fun _ => 1)
    | some p => splitLanes lw p
  let rs := (List.range la.length).map fun j =>
    if lp.getD j 1 = 0 then (la.getD j 0, (0 : Flags))
    else laneOp w.fmt w.op w.sub.val lw w.rnd w.sat (la.getD j 0) (lb.getD j 0) (lc.getD j 0)
  (joinLanes lw (rs.map (·.1)), rs.foldl (fun f r => f ||| r.2) 0)

/-- One step of a fold: Sat(RoundW(op(r, a))) (R201, R202). -/
def foldOp (f : Fmt) (sub : Nat) (rm : Rnd) (s : Sat) (r a : Nat) : Nat × Flags :=
  let lw := fmtBits f
  match sub with
  | 0 => laneOp f .add 0 lw rm s r a 0
  | 1 => laneOp f .min 0 lw rm s r a 0
  | 2 => laneOp f .max 0 lw rm s r a 0
  | 3 => (r &&& a, 0)
  | 4 => (r ||| a, 0)
  | _ => (r ^^^ a, 0)

/-- One element from an integer format to another (R45): a wider one takes its sign or zero extension and saturates
nothing; a narrower one, or the other signedness of its width, applies Sat to the exact value. -/
def intToInt (src dst : Fmt) (s : Sat) (n : Nat) : Nat × Flags :=
  if fmtBits src < fmtBits dst then (wrapInt (fmtBits dst) (intOf src n), 0) else intResult dst s (intOf src n)

/-- One element from a format to another (R43 to R45). -/
def convertElem (src dst : Fmt) (rm : Rnd) (s : Sat) (n : Nat) : Nat × Flags :=
  match floatFmtOf src, floatFmtOf dst with
  | some f, some g => floatToFloat f g rm s n
  | some f, none => floatToInt f (fmtBits dst) (fmtSigned dst) rm s n
  | none, some g => intToFloat g rm s (intOf src n)
  | none, none => intToInt src dst s n

/-! ### Gauge counts (R340, R345) -/

/-- Widen an element exactly to f32 (R43). -/
def widenF32 (f : FloatFmt) (n : Nat) : Nat := (floatToFloat f fmtF32 .rne .ieee n).1

/-- The count word that an f32 element raises, 0 to 31 a bin, 33 NZERO, 35 NNF, and its magnitude for MAXM (R340). -/
def gaugeClass (n : Nat) : Nat × Nat :=
  match fmtF32.value n with
  | .nan _ => (35, 0)
  | .inf _ => (35, 0)
  | .fin d => if d.m = 0 then (33, 0) else (n / 2 ^ 23 % 256 / 8, n % 2 ^ 31)

/-- SatAdd (R345). -/
def satAdd32 (a b : Nat) : Nat := if 2 ^ 32 - 1 < a + b then 2 ^ 32 - 1 else a + b

/-- The words of an empty train: 36 count words by IDX (R342). -/
def emptyTrain : List Nat := List.replicate 36 0

/-- Raise word i of a train by k; word 32 is MAXM and combines by maximum. -/
def bumpWord (ws : List Nat) (i k : Nat) : List Nat :=
  let ws := if ws.isEmpty then emptyTrain else ws
  ws.set i (if i = 32 then (if ws.getD 32 0 < k then k else ws.getD 32 0) else satAdd32 (ws.getD i 0) k)

/-- Count one f32 element into the words of a tile (R340). -/
def countElem (ws : List Nat) (n : Nat) : List Nat :=
  let c := gaugeClass n
  bumpWord (bumpWord ws c.1 1) 32 c.2

/-- Merge two trains word by word (R344). -/
def mergeTrains (a b : List Nat) : List Nat :=
  (List.range 36).map fun i =>
    if i = 32 then (if a.getD i 0 < b.getD i 0 then b.getD i 0 else a.getD i 0) else satAdd32 (a.getD i 0) (b.getD i 0)

end Sys2Proof.Machine
end

