-- ==== Sys2Proof/Machine/Wire.lean ====
section
/-! DEFINITION. What leaves this package: routes, the queues of the conduit ports and their slots, and what waits for another package's
answer (R20, R168, R378, R393 to R396, R399). -/
namespace Sys2Proof.Machine

/-! ### Routes and queues (R394, R396) -/

/-- The packages of a group, in ascending number (R398). -/
def State.groupMembers (s : State) (g : Nat) : List Nat :=
  let mask := (Tbl.look s.well.groups g 0).toNat
  (List.range 1024).filter fun p => bit mask p

/-- The port sends in one class only kinds of traffic that R396 puts there; nodes carry their own class. -/
def flitClassOk (cls : Fin 4) : FlitBody → Bool
  | .channelAsk _ _ _ _ _ => cls == 3
  | .channelRoom _ => cls == 3
  | .channelFree _ _ => cls == 3
  | .channel _ _ _ _ _ => cls == 3
  | .channelRefused _ => cls == 3
  | .ask _ _ _ _ => cls == 0
  | .answer _ _ _ _ _ => cls == 0
  | .line _ _ _ => cls == 0
  | .lineData _ _ _ _ _ => cls == 0
  | .lineHome _ => cls == 0
  | .contribution _ _ _ => cls == 3
  | .poolDecl _ _ _ _ _ => cls == 3
  | .poolDeclared _ _ => cls == 3
  | .gather _ _ _ _ => cls == 3
  | .gathered _ _ _ _ _ => cls == 3
  | .laneAsk _ _ _ => cls == 3
  | .lanes _ _ => cls == 3
  | .poolRelease _ _ _ => cls == 3
  | .poolReleased _ _ => cls == 3
  | .poolFreed _ _ => cls == 3
  | .gatherOff _ => cls == 3
  | .credit _ _ _ _ c => cls.val == c
  | _ => true

/-! ### Slots (R395, R396) -/

def ConduitPort.waits (x : ConduitPort) (c : Nat) : Bool := x.queue.any (·.cls.val == c)

/-- Class 3 takes at most 16 of any 64 consecutive slots. -/
def ConduitPort.topMay (x : ConduitPort) : Bool := decide ((x.hist.take 63).countP (· == 3) < 16)

/-- The weights of classes 0, 1 and 2. -/
def classWeights : List Nat := [1, 2, 4]

/-- The class that a slot goes to, with what is left of the weights: class 3 first, within its cap, and then the lowest class with flits
and a share left; a round ends when none has one. -/
def ConduitPort.pickClass (x : ConduitPort) : Option (Nat × List Nat) :=
  if x.waits 3 && x.topMay then some (3, x.credit)
  else
    match [0, 1, 2].find? fun c => x.waits c && decide (0 < x.credit.getD c 0) with
    | some c => some (c, x.credit.set c (x.credit.getD c 0 - 1))
    | none => ([0, 1, 2].find? x.waits).map fun c => (c, classWeights.set c (classWeights.getD c 0 - 1))

/-- The source that follows the one served last, in ascending number and round again. -/
def nextTurn (last : Option Nat) (srcs : List Nat) : Option Nat :=
  let least (l : List Nat) : Option Nat := l.foldl minOpt none
  match last with
  | none => least srcs
  | some k =>
    match least (srcs.filter fun q => decide (k < q)) with
    | some q => some q
    | none => least srcs

/-- A counter kept for a source, a destination and a class. -/
def seqOf (t : List (Nat × Nat × Nat × Nat)) (src dst cls : Nat) : Nat :=
  match t.find? (fun e => e.1 == src && e.2.1 == dst && e.2.2.1 == cls) with
  | some e => e.2.2.2
  | none => 0
def seqNext (t : List (Nat × Nat × Nat × Nat)) (src dst cls : Nat) : List (Nat × Nat × Nat × Nat) :=
  (src, dst, cls, seqOf t src dst cls + 1) :: t.filter fun e => !(e.1 == src && e.2.1 == dst && e.2.2.1 == cls)

/-- A slot of the port passes: its class stands in the history of the last 63. -/
def ConduitPort.slot (x : ConduitPort) (c : Nat) : ConduitPort := { x with hist := (c :: x.hist).take 63, slots := x.slots + 1 }

/-- The flit of class c that the next slot takes, and the queue behind it: sources take turns, and each source's flits keep their order.
A body that takes further slots stays at the head of them. -/
def ConduitPort.takeFlit (x : ConduitPort) (c : Nat) : Option (WireFlit × ConduitPort) :=
  match nextTurn (Tbl.find x.turn c) ((x.queue.filter (·.cls.val == c)).map (·.src)) with
  | none => none
  | some q =>
    let x1 := { x with turn := Tbl.put x.turn c q }
    match x.queue.findIdx? (fun f => f.cls.val == c && f.src == q) with
    | none => none
    | some i =>
      match x.queue[i]? with
      | none => none
      | some f =>
        if f.more = 0 then some (f, { x1 with queue := removeAt x.queue i })
        else some (f, { x1 with queue := replaceAt x.queue i { f with more := f.more - 1 } })

/-- The traffic among which a flit keeps its order: its class, or that of the time protocol, which has slots of its own. -/
def flitOrder (f : Flit) : Nat :=
  match f.body with
  | .time _ => 4
  | _ => f.cls.val

/-- One slot of a conduit port (R395, R396): every 4,096th is the time protocol's, and carries the tide to the neighbour (R399). -/
def State.conduitSlot (n : Nat) (s : State) : Out :=
  let x := s.well.port n
  let send (x : ConduitPort) (f : Flit) : State :=
    let s1 := s.setConduit n x
    { s1 with well := { s1.well with out := s1.well.out ++ [(n, f)] } }
  if x.slots % 4096 = 4095 then
    match Config.neighbour n with
    | none => .next (s.setConduit n (x.slot 4))
    | some q =>
      .next (send { x.slot 4 with sent := seqNext x.sent s.well.pkg q 4 }
        { cls := 3, src := s.well.pkg, dst := q, seq := seqOf x.sent s.well.pkg q 4, crcOk := true, body := .time s.tide })
  else
    match x.pickClass with
    | none => .next (s.setConduit n (x.slot 4))
    | some (c, credit) =>
      match ({ x with credit := credit } : ConduitPort).takeFlit c with
      | none => .next (s.setConduit n (x.slot 4))
      | some (f, y) =>
        let y1 := y.slot c
        if f.more ≠ 0 then .next (s.setConduit n y1)
        else .next (send { y1 with sent := seqNext y1.sent f.src f.dst c }
          { cls := f.cls, src := f.src, dst := f.dst, seq := seqOf y1.sent f.src f.dst c, crcOk := true, body := f.body })

/-! ### What waits for another package's answer -/

/-- The answer of an action elsewhere to a handler that waits for it: a value, or a fault. -/
def State.poolAnswer (s : State) (p k : Nat) (w : Wait) : State :=
  let r := s.region p
  let h := r.handler k
  if h.wait == .posted then
    let s1 := s.setRegion p (r.setHandler k { h with wait := w })
    { s1 with agenda := .issue p :: s1.agenda }
  else s

end Sys2Proof.Machine
end

