-- ==== Sys2Proof/Machine/Sync.lean ====
section
/-! DEFINITION. Channels, barriers and fences (R67 to R69, R118, R168 to R172). -/
namespace Sys2Proof.Machine

/-! ### What a scope binds to (R69, R118) -/

/-- A hardware reach. -/
inductive Reach | region | span | die | package | group | domain
  deriving DecidableEq, Repr

/-- The reach that lvlk binds to (R69, R118). With n = 0 the spec names no level n; levels from 3 on then bind to the
package (assumption 15). -/
def levelReach (shape reach k : Nat) : Reach :=
  let n := shapeFields shape
  let j := if n = 0 then k else if n < k then n else k
  if j ≤ 1 then .region
  else if j = 2 then .span
  else if n = 0 then .package
  else
    match reach / 2 ^ (3 * (j - 3)) % 8 with
    | 0 => .span
    | 1 => .die
    | 2 => .package
    | _ => .group

def Region.scopeReach (r : Region) (c : Scope) : Reach :=
  match c with
  | .node => .region
  | .lvl k => levelReach r.shape r.reach (k.val + 1)
  | .domain => .domain

/-- Whether a reach is the region alone: a span of one region is (R69). -/
def Region.reachIsRegion (r : Region) (x : Reach) : Bool :=
  match x with
  | .region => true
  | .span => r.spanW * r.spanH == 1
  | _ => false

/-! ### Channels -/

/-- Room of a channel (R168, R170). -/
def channelDepth : Nat := 32

/-- A word enters a channel of a die: its event becomes pending when it was empty (R139, R170). -/
def State.enterChannel (s : State) (d ch : Nat) (v clk : DWord) : State :=
  let x := s.die d
  let c := x.chan ch
  let s1 := s.setDie d (x.setChan ch { c with words := c.words ++ [(v, clk)] })
  match c.sub with
  | some (p, _) => if c.words.isEmpty then s1.raiseEv p else s1
  | none => s1

def State.channelHasRoom (s : State) (d ch : Nat) : Bool :=
  let c := (s.die d).chan ch
  decide (c.words.length + c.kept < channelDepth)

/-- The places that a channel keeps for words of other packages (log entry 63). -/
def State.keepRoom (s : State) (d ch : Nat) (k : Nat → Nat) : State :=
  let x := s.die d
  let c := x.chan ch
  s.setDie d (x.setChan ch { c with kept := k c.kept })

/-- SEND (R168, R170): a release. For a channel of another package the word asks there for room, and is refused there, or leaves once a place
is kept for it; until then it is evaluated again from the start whenever its handler issues (R135; log entry 63). -/
def execSend (ra rb : Reg) (s : State) : Out :=
  let p := s.cur.1
  let r := s.mine
  let a := (r.get ra).toNat
  let pkg := a / 2 ^ 10 % 2 ^ 10
  let d := a / 2 ^ 8 % 4
  let ch := a % 2 ^ 8
  match s.waitOf with
  | .answered v _ _ => if v.toNat = a then (let s1 := s.channelRefused p 0 d ch; s1.complete s1.mine) else (s.setWait .none).stall
  | .faulted _ _ => s.complete r
  | .posted => s.stall
  | .room v =>
    if v ≠ a then ((s.freeRoom v).setWait .none).stall
    else if !r.clean then (s.writeBackAll p).stall
    else
      let s1 := s.emitTo pkg 3 (.channel r.asid.toNat d ch (r.get rb) r.lclk)
      s1.complete s1.mine
  | .none =>
    if a / 2 ^ 20 ≠ 0 ∨ s.well.domain.contains pkg = false then s.raise .channel 0 0
    else if pkg = s.well.pkg ∧ ((s.die d).chan ch).owner ≠ some r.asid then s.raise .permission 0 0
    else if !r.clean then (s.writeBackAll p).stall
    else if pkg = s.well.pkg then
      if s.channelHasRoom d ch then
        let s1 := s.enterChannel d ch (r.get rb) r.lclk
        s1.complete s1.mine
      else s.stall
    else
      ((s.setWait .posted).sendAway pkg p s.cur.2 (.word a) fun tag => .channelAsk tag r.placeId r.asid.toNat d ch).stall

/-- RECV (R169, R170): takes the oldest word of a channel of the region's die; an acquire. -/
def execRecv (rd ra : Reg) (s : State) : Out :=
  let d := dieOfPlace s.cur.1
  let r := s.mine
  let a := (r.get ra).toNat
  let c := (s.die d).chan a
  if a / 2 ^ 8 ≠ 0 then s.raise .channel 0 0
  else if c.owner ≠ some r.asid then s.raise .permission 0 0
  else
    match c.words with
    | [] => s.stall
    | (v, clk) :: rest =>
      let s1 := s.setDie d ((s.die d).setChan a { c with words := rest })
      let r1 := s1.mine.set rd v
      s1.complete { r1 with lclk := maxClk r1.lclk clk }

/-! ### Barriers -/

/-- ARRIVE (R171): a release; the home counts the arrival. -/
def execArrive (rd ra : Reg) (s : State) : Out :=
  let p := s.cur.1
  match s.waitOf with
  | .answered v clk _ =>
    let r := s.mine.set rd v
    s.complete { r with lclk := maxClk r.lclk clk }
  | .faulted c addr => s.raise (Cause.ofCode c) 0 addr
  | .posted => s.stall
  | .room _ => s.stall
  | .none =>
    let va := confine (s.mine.get ra)
    match s.accessConduct p va 16 .write with
    | (.bad c d, s1) => s1.raiseAccess c d va
    | (.wait, s1) => s1.stall
    | (.ok pa _, s1) =>
      if !s1.mine.clean then (s1.writeBackAll p).stall
      else s1.postAndWait (keyMem p) (.arrive s1.asker pa s1.mine.lclk)

/-- AWAIT (R171): an acquire. -/
def execAwait (ra rb : Reg) (s : State) : Out :=
  let p := s.cur.1
  match s.waitOf with
  | .answered _ clk _ => s.complete { s.mine with lclk := maxClk s.mine.lclk clk }
  | .faulted c addr => s.raise (Cause.ofCode c) 0 addr
  | .posted => s.stall
  | .room _ => s.stall
  | .none =>
    let va := confine (s.mine.get ra)
    match s.accessConduct p va 16 .read with
    | (.bad c d, s1) => s1.raiseAccess c d va
    | (.wait, s1) => s1.stall
    | (.ok pa _, s1) => s1.postAndWait (keyMem p) (.await s1.asker pa (low32 (s1.mine.get rb)) s1.mine.lclk)

/-! ### Fences -/

/-- FENCE (R172): a scope that binds to the region is reached once earlier accesses have taken effect in the stash, which
they have; a wider one waits for write-backs and for the region's pool contributions. -/
def execFence (c : Scope) (s : State) : Out :=
  let r := s.mine
  if r.reachIsRegion (r.scopeReach c) then s.complete r
  else if !r.clean then (s.writeBackAll s.cur.1).stall
  else if r.pconOut ≠ 0 then s.stall
  else s.complete r

end Sys2Proof.Machine
end

