-- ==== Sys2Proof/Machine/Pools.lean ====
section
/-! DEFINITION. Pool registers: instances and their homes, lanes, folds, gathers, and the conduct forms (R355 to R379). -/
namespace Sys2Proof.Machine

/-! ### Instances (R355, R356, R358) -/

/-- The code of a reach in a pool's key. -/
def Reach.code : Reach → Nat
  | .region => 0 | .span => 1 | .die => 2 | .package => 3 | .group => 4 | .domain => 5

/-- The wid prefix at a scope's level (R67): level k ends at the top of field k; with n = 0 every level, and the domain,
names the whole launch. -/
def Region.prefixAt (r : Region) (c : Scope) : Nat :=
  let n := shapeFields r.shape
  match c with
  | .lvl k => if n = 0 then 0 else r.wid.toNat / 2 ^ fieldPos r.shape ((if n < k.val + 1 then n else k.val + 1) + 1)
  | .node => r.wid.toNat
  | .domain => 0

/-- The instance of a pool that a region reaches at a scope, with the place number of its home region (R355, R356). -/
def Region.poolKey (r : Region) (pool : Nat) (c : Scope) : PoolKey :=
  let x := r.scopeReach c
  { job := r.job, asid := r.asid.toNat, pool := pool, scope := c.code, pfx := r.prefixAt c,
    reach := x.code + (if x == .group then 16 * r.group else 0),
    home := match x with
      | .region => r.placeId
      | .span => r.origin
      | .die => 64 * (r.placeId / 64)
      | _ => 0 }

/-- The packages of an instance's binding: those of the group or of the domain, or this one. -/
def State.bindingPkgs (s : State) (key : PoolKey) : List Nat :=
  if key.reach % 16 = 4 then s.groupMembers (key.reach / 16) else if key.spread then s.well.domain else [s.well.pkg]

/-- The instance of a pool with its home, which lies in the lowest-numbered package of the binding (R356). -/
def State.poolKey (s : State) (r : Region) (pool : Nat) (c : Scope) : PoolKey :=
  let key := r.poolKey pool c
  if key.spread then { key with home := 1024 * ((s.bindingPkgs key).foldl minOpt none).getD s.well.pkg } else key

/-- The slot of a lane of a place of this package (R358). -/
def State.slotOf (s : State) (place lane : Nat) : Nat := s.well.pkg * 2 ^ 14 + place * 2 ^ 4 + lane

/-- The slot that names a home basin. -/
def homeSlot : Nat := 0xFFFFFF

def State.basin (s : State) (key : PoolKey) : Option HomeBasin := s.basins.find? (·.key == key)
def State.setBasin (s : State) (b : HomeBasin) : State :=
  { s with basins := b :: s.basins.filter (·.key != b.key) }

/-- Place a lane, keeping lanes in ascending slot order; a parked lane of the slot stays before it (R379). -/
def insertLane (x : Lane) : List Lane → List Lane
  | [] => [x]
  | y :: t =>
    if x.slot < y.slot then x :: y :: t
    else if x.slot = y.slot && x.key == y.key && !y.parked then x :: t
    else y :: insertLane x t

def Lane.empty (key : PoolKey) (slot : Nat) : Lane :=
  { key := key, slot := slot, n := 0, cause := 0, p := false, v := false, value := 0, parked := false }

def State.lane (s : State) (key : PoolKey) (slot : Nat) : Lane :=
  match s.lanes.find? (fun l => l.slot == slot && l.key == key && !l.parked) with
  | some l => l
  | none => Lane.empty key slot

def State.setLane (s : State) (l : Lane) : State := { s with lanes := insertLane l s.lanes }

/-- Empty every lane of an instance. -/
def State.emptyLanes (s : State) (key : PoolKey) : State := { s with lanes := s.lanes.filter (·.key != key) }

/-- The first failure of a lane poisons it (R368). -/
def Lane.poisonWith (l : Lane) (cause : Nat) : Lane := if l.p then l else { l with p := true, cause := cause }

/-- Poison every lane of a region for an instance (R356). -/
def State.poisonLanes (s : State) (key : PoolKey) (place cause : Nat) : State :=
  (List.range 16).foldl (fun s i => s.setLane ((s.lane key (s.slotOf place i)).poisonWith cause)) s

/-! ### Operators (R361, R364) -/

def poolWidth : PoolType → Nat
  | .i64 => 64
  | _ => 32

/-- The identity of an operator at a type. -/
def poolIdentity (ty : PoolType) : PoolOp → BitVec 64
  | .fadd => 0x80000000
  | .faddc => 0x80000000
  | .fmax => 0xFF800000
  | .fmin => 0x7F800000
  | .imax => BitVec.ofNat 64 (2 ^ (poolWidth ty - 1))
  | .imin => BitVec.ofNat 64 (2 ^ (poolWidth ty - 1) - 1)
  | .nmin => 0xFFFFFFFF
  | .and => BitVec.ofNat 64 (2 ^ poolWidth ty - 1)
  | _ => 0

def pairOf (v : BitVec 64) : Nat × Nat := (v.toNat % 2 ^ 32, v.toNat / 2 ^ 32)
def ofPair (p : Nat × Nat) : BitVec 64 := BitVec.ofNat 64 (p.2 % 2 ^ 32 * 2 ^ 32 + p.1 % 2 ^ 32)

/-- op(x, y) with its flags. -/
def poolApply (ty : PoolType) (op : PoolOp) (x y : BitVec 64) : BitVec 64 × Flags :=
  let w := poolWidth ty
  let a := x.toNat % 2 ^ w
  let b := y.toNat % 2 ^ w
  let one (r : Nat × Flags) : BitVec 64 × Flags := (BitVec.ofNat 64 r.1, r.2)
  match op with
  | .fadd => one (fAdd fmtF32 .rne .ieee a b)
  | .faddc => let r := pairAdd (pairOf x) (pairOf y); (ofPair r.1, r.2)
  | .fmax => one (fMax fmtF32 a b)
  | .fmin => one (fMin fmtF32 a b)
  | .iadd => one ((a + b) % 2 ^ w, 0)
  | .iadds => one (satInt w true .clamp (signedOf w a + signedOf w b))
  | .imax => one (if signedOf w a < signedOf w b then b else a, 0)
  | .imin => one (if signedOf w b < signedOf w a then b else a, 0)
  | .nmax => one (if a < b then b else a, 0)
  | .nmin => one (if b < a then b else a, 0)
  | .or => one (a ||| b, 0)
  | .and => one (a &&& b, 0)
  | .xor => one (a ^^^ b, 0)

/-- What a gather delivers to rd (R364), with the flags of the rounding that gives a pair's value (R3). -/
def poolDeliver (ty : PoolType) (op : PoolOp) (acc : BitVec 64) : DWord × Flags :=
  match ty with
  | .f32 =>
    if op == .faddc then (BitVec.ofNat 64 (pairValue (pairOf acc)).1, (pairValue (pairOf acc)).2)
    else (BitVec.ofNat 64 (acc.toNat % 2 ^ 32), 0)
  | .i32 => (extendBytes 4 true acc.toNat, 0)
  | .n32 => (BitVec.ofNat 64 (acc.toNat % 2 ^ 32), 0)
  | .i64 => (acc, 0)

/-! ### Contributions (R362, R366, R367) -/

def satAddOne (n : Nat) : Nat := if n + 1 < 2 ^ 32 then n + 1 else 2 ^ 32 - 1

/-- A contribution folds into its lane, as one action: the lane, the count of the home, its flags and its clock. `bad` is
the cause of an event that poisons the lane in its place; `pair` says that the value is a pair already; `ty` is the type that the
contributor's format matches, checked here (R377): a word of the sequencer and the cascade have none. A home in another package is told
to count it (R366, R378). -/
def State.fold (s : State) (key : PoolKey) (slot : Nat) (v : BitVec 64) (clk : DWord) (bad : Option Nat) (pair : Bool)
    (ty : Option PoolType) : State :=
  match s.basin key with
  | none => s
  | some b =>
    let l := s.lane key slot
    let x : BitVec 64 := if pair && b.decl.op == .faddc then v else BitVec.ofNat 64 (v.toNat % 2 ^ poolWidth b.decl.ty)
    let cause := match bad, ty with
      | some c, _ => some c
      | none, some t => if t == b.decl.ty then none else some 1
      | none, none => none
    let (l1, f) : Lane × Flags :=
      match cause with
      | some c => (l.poisonWith c, 0)
      | none =>
        if l.p then (l, 0)
        else if !l.v then ({ l with v := true, value := x }, 0)
        else let t := poolApply b.decl.ty b.decl.op l.value x; ({ l with value := t.1 }, t.2)
    let s0 := s.setLane { l1 with n := satAddOne l1.n }
    let s1 := if s.homeHere key then s0.setBasin { b with arr := b.arr + 1, flags := b.flags ||| f, clk := maxClk b.clk clk }
      else s0.emitTo (s.homePkg key) 3 (.contribution key f clk)
    s1.traceFold key slot v (satAddOne l1.n)

/-- POOL_FOLD (R362): a contribution of a `pcon` also ends the wait of a later fence (R172). -/
def execPoolFold (m : Nat) (s : State) : Out :=
  match s.ready m, s.net[m]? with
  | some (.poolCon key slot v clk bad pair ty _), some x =>
    let s1 := (s.unpost m).fold key slot v clk bad pair ty
    match x.src with
    | some k =>
      if k % 8 = 2 ∧ k < 2 ^ 20 then
        let r := s1.region (k / 8)
        .next (s1.setRegion (k / 8) { r with pconOut := r.pconOut - 1 })
      else .next s1
    | none => .next s1
  | _, _ => s.idle

def Region.pool (r : Region) (n : Nat) : Option RegionPool := r.pools.find? (·.pool == n)

/-- The source key of a unit of a region: 16 plus the number of a cell, 600 plus that of a port, 700 the matrix unit, 800 plus the
number of a weir array. -/
def keyUnit (p u : Nat) : Option Nat := some (2 ^ 24 + 2048 * p + u)

/-- A unit of a region contributes a value, or a failure, to a declared pool through a place (R217, R237, R299, R377). `ty` is
the type that the value's format matches, `step` the step of the node that contributes. False when the region has not declared the
pool. -/
def State.contributeAt (s : State) (p u place step pool lane : Nat) (ty : PoolType) (v : Word) (bad : Option Nat) (clk : DWord) :
    Bool × State :=
  match (s.region p).pool pool with
  | none => (false, s)
  | some x => (true, s.post (keyUnit p u) (.poolCon x.key (s.slotOf place lane) (v.setWidth 64) clk bad false (some ty) step))

/-- A contribution of a unit of the region itself, under the region's clock. -/
def State.contribute (s : State) (p u step pool lane : Nat) (ty : PoolType) (v : Word) (bad : Option Nat) : Bool × State :=
  s.contributeAt p u (s.region p).placeId step pool lane ty v bad (s.region p).lclk

/-! ### Splices (R131) -/

def poolIndex (w : CellWord) : Nat × Nat := (w.index.toNat / 2 ^ 10, w.index.toNat / 2 ^ 6 % 16)

/-- Whether a matrix command drains to a lane of a pool. -/
def drainsTo (pool lane : Nat) : Instr → Bool
  | .mrow a => a.dr == Drain.pool && a.pool.val == pool && a.lane.val == lane
  | .mcol a => a.dr == Drain.pool && a.pool.val == pool && a.lane.val == lane
  | _ => false

/-- Whether nodes of steps before `step` may still contribute to a lane of a region, or their contributions are on their way: a
contribution of that step waits (R131). -/
def State.laneHeld (s : State) (p step pool lane : Nat) : Bool :=
  let r := s.region p
  let m := r.matrix
  let slot := s.slotOf r.placeId lane
  (r.cells.any fun e => decide (e.2.step < step) && !e.2.ended && !e.2.stopped && (match e.2.word with
    | some w => w.op == .poolc && poolIndex w == (pool, lane)
    | none => false)) ||
  (decide (m.step < step) &&
    ((m.channel.any fun e => decide (e.step < step) && (match e.cmd with
      | .op _ a => a.dr == Drain.pool && a.pool.val == pool && a.lane.val == lane
      | _ => false)) ||
     (m.flight.any fun v => v.op.dr == Drain.pool && v.op.pool.val == pool && v.op.lane.val == lane) ||
     (m.drains.any fun d => d.dr == Drain.pool && d.pool == pool && d.lane == lane))) ||
  (r.cmdQ.any fun q => decide (q.step < step) && (match decodeStream q.bits.toNat with
    | .ok i => drainsTo pool lane i
    | .error _ => false)) ||
  s.net.any fun x => match x.src, x.body with
    | some k, .poolCon key sl _ _ _ _ _ n =>
      decide (2 ^ 24 + 2048 * p ≤ k) && decide (k < 2 ^ 24 + 2048 * p + 2048) && key.pool == pool && sl == slot && decide (n < step)
    | _, _ => false

/-! ### Declarations (R356, R372) -/

def PoolDecl.initial (d : PoolDecl) : BitVec 64 :=
  match d.init with
  | some v => v
  | none => poolIdentity d.ty d.op

/-- Whether a later declaration agrees with the installed one. -/
def PoolDecl.agrees (d installed : PoolDecl) : Bool :=
  d.ty == installed.ty && d.op == installed.op && d.scope == installed.scope && d.cntv == installed.cntv &&
    d.count == installed.count && d.settle == installed.settle &&
    (match d.init with
      | none => true
      | some v => v == installed.initial)

def HomeBasin.fresh (key : PoolKey) (d : PoolDecl) : HomeBasin :=
  { key := key, decl := d, arr := 0, clk := 0, flags := 0, hpsn := false, value := d.initial, gath := none, ending := none,
    refs := [], had := [] }

/-- The value that an instance of the predecessor has passed to a region for a declaration of its chained successor: one that agrees in
TYPE, OP and SCOPE (R438). -/
def Region.inherited (r : Region) (pool : Nat) (d : PoolDecl) : Option (BitVec 64) :=
  (r.inherit.find? fun x => x.launch != r.launch && x.pool == pool && x.decl.ty == d.ty && x.decl.op == d.op && x.decl.scope == d.scope).map
    (·.value)

/-- A first declaration of a pool in a region reaches its home: it is installed, with the value that a predecessor passed on in place
of its own where they agree (R438), or checked. One that disagrees is refused,
and every lane of the region for the pool is poisoned. -/
def State.declare (s : State) (p : Nat) (pool : Nat) (key : PoolKey) (d : PoolDecl) : Bool × State :=
  let r := s.region p
  let r1 := { r with pools := { pool := pool, key := key, decl := d } :: r.pools.filter (·.pool != pool) }
  match s.basin key with
  | none =>
    let v := (r.inherited pool d).getD d.initial
    (true, (s.setRegion p r1).setBasin { HomeBasin.fresh key d with value := v, refs := [p], had := [p] })
  | some b =>
    if d.agrees b.decl then (true, (s.setRegion p r1).setBasin { b with refs := insertSorted p b.refs, had := insertSorted p b.had, ending := none })
    else (false, s.poisonLanes key r.placeId 5)

/-- A declaration of a pool that its region has declared before (R372). An instance of the region's own that it leaves ends, and its
clock is kept; a wider one lasts until its release (R356). -/
def State.redeclare (s : State) (p : Nat) (old : RegionPool) (key : PoolKey) (d : PoolDecl) : Bool × State :=
  let r := s.region p
  if r.reachIsRegion (r.scopeReach d.scope) then
    let own := r.reachIsRegion (r.scopeReach old.decl.scope)
    let clk := match s.basin (if own then old.key else key) with
      | some b => b.clk
      | none => 0
    let r1 := { r with pools := { pool := old.pool, key := key, decl := d } :: r.pools.filter (·.pool != old.pool) }
    let s1 := (s.emptyLanes key).setRegion p r1
    let s2 := if own && old.key != key then { s1.emptyLanes old.key with basins := s1.basins.filter (·.key != old.key) } else s1
    (true, s2.setBasin { HomeBasin.fresh key d with clk := clk, refs := [p], had := [p] })
  else if key == old.key && (match s.basin key with
      | some b => d.agrees b.decl
      | none => false) then (true, s)
  else (false, if key == old.key then s.poisonLanes key r.placeId 5 else s)

/-- TOKEN of a pool fault (R376). -/
def poolToken (kind cause slot : Nat) : Nat := kind * 2 ^ 28 + cause % 16 * 2 ^ 24 + slot % 2 ^ 24

/-- A region takes a declaration that the home in another package has accepted: this package's part of the instance stands from now
on. -/
def State.declareHere (s : State) (p : Nat) (key : PoolKey) (d : PoolDecl) : State :=
  let r := s.region p
  let s1 := s.setRegion p { r with pools := { pool := key.pool, key := key, decl := d } :: r.pools.filter (·.pool != key.pool) }
  match s.basin key with
  | none => s1.setBasin { HomeBasin.fresh key d with refs := [p], had := [p] }
  | some b => s1.setBasin { b with refs := insertSorted p b.refs, had := insertSorted p b.had }

/-- A declaration of another package's region reaches the home, `q` its number, with the value that a predecessor passed to the region: it
is installed, or it agrees, or not. -/
def State.declareAway (s : State) (q : Nat) (key : PoolKey) (d : PoolDecl) (passed : Option (BitVec 64)) : Bool × State :=
  match s.basin key with
  | none => (true, s.setBasin { HomeBasin.fresh key d with value := passed.getD d.initial, refs := [q], had := [q] })
  | some b => if d.agrees b.decl then (true, s.setBasin { b with refs := insertSorted q b.refs, had := insertSorted q b.had, ending := none }) else (false, s)

/-- POOL_DECLARE_AT_HOME (R356, R372): a home in another package is asked. -/
def execPoolDeclareAtHome (m : Nat) (s : State) : Out :=
  match s.ready m with
  | some (.poolDecl p k key d _) =>
    let s0 := s.unpost m
    let r := s0.region p
    if !s.homeHere key && (r.pool key.pool).all (·.key == key) then
      .next (s0.sendAway (s.homePkg key) p k (.decl key d) fun tag => .poolDecl tag r.placeId key d (r.inherited key.pool d))
    else
      let (ok, s1) := match r.pool key.pool with
        | none => s0.declare p key.pool key d
        | some old => s0.redeclare p old key d
      .next (s1.poolAnswer p k (if ok then .answered 0 0 0 else .faulted Cause.pool.code (poolToken 3 0 0)))
  | _ => s.idle

/-- The answer of a home in another package to a declaration: a refused one poisons the region's lanes, and a refused image declaration
enters the pool fault (R356). -/
def State.declared (s : State) (p k : Nat) (key : PoolKey) (d : PoolDecl) (ok : Bool) : State :=
  let s1 := if ok then s.declareHere p key d else s.poisonLanes key (s.region p).placeId 5
  let s2 := if !ok && d.init.isSome then s1.unitFault p .pool 0 0 0 0 (poolToken 3 0 0) none 0 else s1
  s2.poolAnswer p k (if ok then .answered 0 0 0 else .faulted Cause.pool.code (poolToken 3 0 0))

/-- An image declaration, made before the course's first step (R72, R356): one that disagrees enters a pool fault. One whose home is in
another package has been made before. -/
def State.declareFromImage (s : State) (p pool : Nat) (d : PoolDecl) : State :=
  let r := s.region p
  let key := s.poolKey r pool d.scope
  if s.homeHere key then
    let (ok, s1) := s.declare p pool key d
    if ok then s1 else s1.unitFault p .pool 0 0 0 0 (poolToken 3 0 0) none 0
  else s

/-- An image declaration whose home is in another package is sent there before the course starts. -/
def State.askHome (s : State) (p pool : Nat) (d : PoolDecl) : State :=
  let r := s.region p
  let key := s.poolKey r pool d.scope
  if s.homeHere key then s
  else s.sendAway (s.homePkg key) p noHandler (.decl key d) fun tag => .poolDecl tag r.placeId key d (r.inherited pool d)

/-- Whether a region still waits for the answer of a home in another package to a declaration. -/
def State.declWaits (s : State) (p : Nat) : Bool :=
  s.net.any fun m => match m.body with
    | .sent q _ _ (.decl _ _) => q == p
    | _ => false

/-! ### Gathers (R363, R370, R371) -/

/-- The place of a lane in the order of a gather: ascending slot, a parked lane before the live one of its slot (R363, R379). -/
def Lane.order (l : Lane) : Nat := 2 * l.slot + (if l.parked then 0 else 1)

/-- A gather starts with the home's value. -/
def HomeBasin.begin_ (b : HomeBasin) : GatherState :=
  { acc := b.value, fl := 0, bad := if b.hpsn then some (homeSlot, 4) else none, pos := 0, asked := none, pkgs := [] }

/-- A gather starts; behind this package's lanes it takes those of the binding's other packages, in ascending number (R363, R378). -/
def State.beginGather (s : State) (b : HomeBasin) : GatherState :=
  { b.begin_ with pkgs := if b.key.spread then (s.bindingPkgs b.key).filter (· != s.well.pkg) else [] }

/-- A gather takes one lane. -/
def GatherState.take (b : HomeBasin) (g : GatherState) (l : Lane) : GatherState :=
  let g1 := { g with pos := l.order + 1 }
  if l.p then { g1 with bad := match g.bad with
    | none => some (l.slot, l.cause)
    | some x => some x }
  else if l.v then
    let t := poolApply b.decl.ty b.decl.op g.acc l.value
    { g1 with acc := t.1, fl := g.fl ||| t.2 }
  else g1

/-- The lowest place in the order at which a lane of an instance stands, from a place on. -/
def nextLane (key : PoolKey) (pos : Nat) (ls : List Lane) : Option Nat :=
  ls.foldl (fun n l => if l.key == key && decide (pos ≤ l.order) then minOpt n l.order else n) none

/-- A gather takes its next lane, in one action; a settling gather empties it, and ARR falls by what it took. None when it has passed
every lane. -/
def State.gatherStep (s : State) (b : HomeBasin) (g : GatherState) (settle : Bool) : Option State :=
  (nextLane b.key g.pos s.lanes).map fun k =>
    let here (l : Lane) : Bool := l.key == b.key && l.order == k
    let ls := s.lanes.filter here
    let g1 := ls.foldl (GatherState.take b) g
    if settle then
      { s with lanes := s.lanes.filter fun l => !here l }.setBasin
        { b with gath := some g1, arr := b.arr - ls.foldl (fun n (l : Lane) => n + l.n) 0 }
    else s.setBasin { b with gath := some g1 }

/-- The end of a gather: the value delivered, the pool's flags, its clock, the poison found. A settling gather settles the value
unless it found poison. The flags of a pair's delivered value go to the reader alone: FLAGS takes those of the combining (R363 to
R365, R371). -/
def State.gatherEnd (s : State) (b : HomeBasin) (g : GatherState) (settle : Bool) : (DWord × Flags × DWord × Option (Nat × Nat)) × State :=
  let flags := b.flags ||| g.fl
  let value := poolDeliver b.decl.ty b.decl.op g.acc
  let b1 : HomeBasin :=
    if !settle then { b with flags := flags }
    else if g.bad.isSome then b
    else { b with value := g.acc, flags := 0 }
  ((value.1, flags ||| value.2, b.clk, g.bad), s.setBasin { b1 with gath := none })

/-- A whole gather, with no fold between its lanes. -/
def State.gatherAll (settle : Bool) (key : PoolKey) : Nat → State → Option ((DWord × Flags × DWord × Option (Nat × Nat)) × State)
  | 0, _ => none
  | fuel + 1, s =>
    match s.basin key with
    | none => none
    | some b =>
      let g := b.gath.getD b.begin_
      match s.gatherStep b g settle with
      | some s1 => State.gatherAll settle key fuel s1
      | none => some (s.gatherEnd b g settle)

/-- The home serves the gathers of one instance one at a time, in order of arrival. -/
def State.gatherAhead (s : State) (m : Nat) (key : PoolKey) : Bool :=
  (s.net.take m).any fun x => match x.body with
    | .gather _ _ k _ _ => k == key
    | _ => false

/-! ### Gathers that end with their course (R366) -/

/-- The messages that are left once the gathers of a region are dropped: one that has begun, the first of its instance, goes on. -/
def State.gathersLeft (s : State) (p : Nat) : List Msg → List PoolKey → List Msg
  | [], _ => []
  | m :: t, seen =>
    match m.body with
    | .gather q _ key _ _ =>
      let begun := !seen.contains key && ((s.basin key).bind (·.gath)).isSome
      let rest := State.gathersLeft s p t (key :: seen)
      if q == p && !begun then rest else m :: rest
    | .sent q _ _ (.gather _ _) => if q == p then State.gathersLeft s p t seen else m :: State.gathersLeft s p t seen
    | _ => m :: State.gathersLeft s p t seen

/-- A course ends: its gathers that have not begun wait no longer (R366), here and at homes in other packages. -/
def State.dropGathers (s : State) (p : Nat) : State :=
  let asked := s.net.filterMap fun m => match m.body with
    | .sent q _ tag (.gather key _) => if q == p then some (tag, key) else none
    | _ => none
  asked.foldl (fun s x => s.emitTo (s.homePkg x.2) 3 (.gatherOff x.1)) { s with net := s.gathersLeft p s.net [] }

/-! ### The end of an instance and of a gather (R374, R378, R438) -/

/-- The basin, the lanes and the basin rows of an instance are freed, and gathers that still wait for it end with it. -/
def State.freeInstance (s : State) (key : PoolKey) : State :=
  let rows (l : List PoolKey) : List PoolKey := l.filter (· != key)
  let w := s.well
  { s.emptyLanes key with
    basins := s.basins.filter (·.key != key),
    arrays := s.arrays.map fun e => (e.1, { e.2 with rows := rows e.2.rows }),
    well := { w with rows := rows w.rows },
    net := s.net.filter fun m => match m.body with
      | .gather _ _ k _ _ => k != key
      | _ => true }

/-- The value that a release passes to the chained successors of the courses of its launch: it waits at every region of theirs that
reaches the instance (R438). -/
def State.passValue (s : State) (b : HomeBasin) (value : Option (BitVec 64)) : State :=
  match value with
  | none => s
  | some v =>
    { s with regions := s.regions.map fun e =>
        if e.2.modeUnder != .free && s.poolKey e.2 b.key.pool b.decl.scope == b.key then
          (e.1, { e.2 with inherit := { launch := e.2.launch, pool := b.key.pool, decl := b.decl, value := v } :: e.2.inherit })
        else e }

/-- An instance ends, with the value that it passes on: the other packages of its binding free their parts too. -/
def State.endPool (s : State) (b : HomeBasin) (value : Option (BitVec 64)) : State :=
  let key := b.key
  let s1 := (s.passValue b value).freeInstance key
  if key.spread then ((s.bindingPkgs key).filter (· != s.well.pkg)).foldl (fun s q => s.emitTo q 3 (.poolFreed key value)) s1 else s1

/-- The home of another package's instance has freed it, and what it settled passes on here too. -/
def State.poolFreed (s : State) (key : PoolKey) (value : Option (BitVec 64)) : State :=
  match s.basin key with
  | some b => (s.passValue b value).freeInstance key
  | none => s.freeInstance key

/-- The home ends an instance whose last holder is a region of another package, and tells it. -/
def State.finishAway (s : State) (q tag : Nat) (b : HomeBasin) (bad : Bool) : State :=
  let value := if b.decl.settle && !bad then some b.value else none
  (s.endPool b value).emitTo q 3 (.poolReleased tag (b.decl.settle && bad))

/-- The handler number of the final settle of an instance at its release (R438). -/
def settleHandler : Nat := 33

/-- Where the end of a gather goes: to its handler, to another package, or into the release that made it. -/
def State.gatherDone (s : State) (p k : Nat) (key : PoolKey) (res : DWord × Flags × DWord × Option (Nat × Nat)) (counted : Bool) : State :=
  if k = settleHandler then
    match s.basin key with
    | none => s
    | some b =>
      if isAway p then s.finishAway (awayPkg p) (awayNo p) b res.2.2.2.isSome
      else s.setBasin { b with ending := some res.2.2.2.isSome }
  else if isAway p then s.emitTo (awayPkg p) 3 (.gathered (awayNo p) res.1 res.2.1 res.2.2.1 res.2.2.2)
  else s.post none (.completion p k res.1 res.2.1 res.2.2.1 res.2.2.2 counted)

/-- POOL_GATHER (R363, R366, R378): the gather at the head takes its next lane; past the last one of this package it asks the next package
for one, and past them all it is answered. Folds land between. A home in another package serves it there. -/
def execPoolGather (m : Nat) (s : State) : Out :=
  match s.ready m with
  | some (.gather p k key counted settle) =>
    if !s.homeHere key then
      .next ((s.unpost m).sendAway (s.homePkg key) p k (.gather key counted) fun tag => .gather tag key counted settle)
    else
      match s.basin key with
      | none => s.idle
      | some b =>
        if s.gatherAhead m key || (counted && b.gath.isNone && decide (b.arr < b.decl.count)) then s.idle
        else
          let g := b.gath.getD (s.beginGather b)
          match s.gatherStep b g settle with
          | some s1 => .next s1
          | none =>
            match g.asked, g.pkgs with
            | some _, _ => s.idle
            | none, q :: _ =>
              .next ((s.setBasin { b with gath := some { g with asked := some q } }).emitTo q 3 (.laneAsk key g.pos settle))
            | none, [] =>
              let (res, s1) := (s.unpost m).gatherEnd b g settle
              .next (s1.gatherDone p k key res counted)
  | _ => s.idle

/-- Another package asks for the next lane of an instance: what stands at the next place of the order is taken in one action (R363,
R378). -/
def State.laneAsked (s : State) (src : Nat) (key : PoolKey) (pos : Nat) (settle : Bool) : State :=
  match nextLane key pos s.lanes with
  | none => s.emitTo src 3 (.lanes key [])
  | some k =>
    let here (l : Lane) : Bool := l.key == key && l.order == k
    let found : List LaneTaken := (s.lanes.filter here).map fun l =>
      { order := k, slot := l.slot, n := l.n, cause := l.cause, p := l.p, v := l.v, value := l.value }
    let s1 : State := if settle then { s with lanes := s.lanes.filter fun l => !here l } else s
    s1.emitTo src 3 (.lanes key found)

/-- Lanes of another package reach the gather that asked for them; with none left the gather goes on to the next package. -/
def State.lanesCame (s : State) (src : Nat) (key : PoolKey) (found : List LaneTaken) : State :=
  match s.basin key with
  | none => s
  | some b =>
    match b.gath with
    | none => s
    | some g =>
      if g.asked ≠ some src then s
      else if found.isEmpty then s.setBasin { b with gath := some { g with asked := none, pkgs := g.pkgs.drop 1 } }
      else
        let settles := s.net.findSome? fun m => match m.body with
          | .gather _ _ k _ st => if k = key then some st else none
          | _ => none
        let ls : List Lane := found.map fun x =>
          { key := key, slot := x.slot, n := x.n, cause := x.cause, p := x.p, v := x.v, value := x.value, parked := x.order % 2 == 0 }
        s.setBasin { b with
          gath := some { ls.foldl (GatherState.take b) g with asked := none },
          arr := if settles == some true then b.arr - found.foldl (fun n x => n + x.n) 0 else b.arr }

/-- POOL_COMPLETION_WORD (R374). -/
def execPoolCompletionWord (m : Nat) (s : State) : Out :=
  match s.ready m with
  | some (.completion p k v fl clk bad _) =>
    .next ((s.unpost m).poolAnswer p k (match bad with
      | none => .answered v clk fl
      | some (slot, cause) => .faulted Cause.pool.code (poolToken 0 cause slot)))
  | _ => s.idle

/-! ### The conduct forms -/

/-- PDCL (R372): a count that is 0 or does not fit 32 bits faults. -/
def execPdcl (settle : Bool) (ra : Reg) (scope : Scope) (op : PoolOp) (ty : PoolType) (pl : Fin 64) (s : State) : Out :=
  let r := s.mine
  match s.waitOf with
  | .answered _ _ _ => s.complete r
  | .faulted _ t => s.raisePool t
  | .posted => s.stall
  | .room _ => s.stall
  | .none =>
    let g := (r.get ra).toNat
    if ra.val ≠ 0 ∧ (g = 0 ∨ 2 ^ 32 ≤ g) then s.raisePool (poolToken 4 0 0)
    else
      let d : PoolDecl := { ty := ty, op := op, scope := scope, settle := settle, cntv := decide (ra.val ≠ 0), count := g, init := none }
      s.postAndWait (keyPool s.cur.1)
        (.poolDecl s.cur.1 s.cur.2 (s.poolKey r pl.val scope) d (r.pool pl.val).isNone)

/-- PCON (R373): a release; the word does not wait for the fold. -/
def execPcon (ra : Reg) (pl : Fin 64) (s : State) : Out :=
  let p := s.cur.1
  let r := s.mine
  match r.pool pl.val with
  | none => s.raisePool (poolToken 1 0 0)
  | some x =>
    if !r.clean then (s.writeBackAll p).stall
    else if s.laneHeld p r.stepNo pl.val 0 then s.stall
    else
      let s1 := s.post (keyPool p) (.poolCon x.key (s.slotOf r.placeId 0) (r.get ra) r.lclk none false none r.stepNo)
      s1.complete { r with pconOut := r.pconOut + 1 }

/-- A gather by the current word (R374, R375). -/
def State.gatherWord (s : State) (rd : Reg) (pl : Nat) (counted settle : Bool) : Out :=
  let r := s.mine
  match s.waitOf with
  | .answered v clk f =>
    let r1 := r.set rd v
    s.complete { r1 with fpflags := r1.fpflags ||| f, lclk := if counted then maxClk r1.lclk clk else r1.lclk }
  | .faulted _ t => s.raisePool t
  | .posted => s.stall
  | .room _ => s.stall
  | .none =>
    match r.pool pl with
    | none => s.raisePool (poolToken 1 0 0)
    | some x =>
      if counted && !x.decl.cntv then s.raisePool (poolToken 2 0 0)
      else s.postAndWait none (.gather s.cur.1 s.cur.2 x.key counted settle)

/-- PRD (R374). -/
def execPrd (rd : Reg) (pl : Fin 64) (s : State) : Out := s.gatherWord rd pl.val false false
/-- PRD_C (R374). -/
def execPrdC (rd : Reg) (pl : Fin 64) (s : State) : Out := s.gatherWord rd pl.val true false
/-- PSET (R375). -/
def execPset (rd : Reg) (pl : Fin 64) (s : State) : Out := s.gatherWord rd pl.val false true

end Sys2Proof.Machine
end

