-- ==== Sys2Proof/Machine/Gauges.lean ====
section
/-! DEFINITION. Gauge records: trains on the rill, seals, generation words, rescale events (R337 to R354). -/
namespace Sys2Proof.Machine

/-- Cycles in the units of the tide that the model keeps: 5/8 ns in steps of 1/8000 ns (R19). -/
def cycles (n : Nat) : Nat := 5000 * n
/-- Microseconds in the units of the tide. -/
def micros (n : Nat) : Nat := 8000000 * n

/-- The regions that the rectangle of a domain covers, by number (R443). -/
def Domain.covers (x : Domain) : List Nat :=
  (List.range 64).filter fun n =>
    decide (2 * x.cx ≤ n % 8) && decide (n % 8 < 2 * (x.cx + x.cw) + 2) && decide (2 * x.cy ≤ n / 8) && decide (n / 8 < 2 * (x.cy + x.ch) + 2)

/-- The regions of a domain: one with EN = 0 does not exist. -/
def Domain.regions (x : Domain) : List Nat := if x.en then x.covers else []

/-- FCUR of the domain that a region lies in; 8, the main clock, outside every domain. -/
def State.clockOf (s : State) (p : Nat) : Nat :=
  let x := s.die (dieOfPlace p)
  match (List.range 8).find? fun j => (Tbl.look x.domains j Domain.reset).regions.contains (p % 64) with
  | some j => (Tbl.look x.domains j Domain.reset).fcur
  | none => 8

/-- Cycles of a region's clock of 0.8 + 0.1 × FCUR GHz, in the units of the tide and rounded up: its cells, ports, column function units
and matrix unit run on it (R14, R443). -/
def State.cyclesAt (s : State) (p n : Nat) : Nat := (80000 * n + 7 + s.clockOf p) / (8 + s.clockOf p)

/-- The record that a declaration of a region's image names (R74). -/
def State.recordOf (s : State) (p decl : Nat) : Option Nat :=
  match s.imageOf (s.region p) with
  | none => none
  | some img => img.gauges[decl]?

/-- A region's copy of a record's generation and scale (R347). -/
def Region.genOf (r : Region) (id : Nat) : GenCopy := Tbl.look r.gens id { gen := 0, scale := 127 }

/-! ### Trains (R341 to R344) -/

def keyRoot (d : Nat) : Option Nat := some (2 ^ 21 + d)
def keyArray (k : Nat) : Option Nat := some (2 ^ 23 + k)
/-- The seal words that a weir array sends, one behind another (R170). -/
def keySeal (k : Nat) : Option Nat := some (2 ^ 23 + 1024 + k)

/-- A die's rill root takes a train: one of the same record and GEN8 merges (R344). -/
def mergeRoot (id gen8 : Nat) (words : List Nat) (due : Nat) : List RootTrain → List RootTrain
  | [] => [{ id := id, gen8 := gen8, words := words, expiry := due }]
  | x :: t =>
    if x.id = id ∧ x.gen8 = gen8 then { x with words := mergeTrains x.words words } :: t
    else x :: mergeRoot id gen8 words due t

def State.rootTake (s : State) (d id gen8 : Nat) (words : List Nat) : State :=
  let x := s.die d
  s.setDie d { x with rillRoot := mergeRoot id gen8 words (s.tide + cycles 32) x.rillRoot }

/-- The root forwards every train that it holds of a record. -/
def State.rootFlush (s : State) (d id : Nat) : State :=
  let x := s.die d
  let out := x.rillRoot.filter (·.id == id)
  out.foldl (fun s t => s.post (keyRoot d) (.train none 0 t.id t.gen8 t.words))
    (s.setDie d { x with rillRoot := x.rillRoot.filter (·.id != id) })

/-- The key of a step's adder node in a region's table. -/
def rillKey (step node : Nat) : Nat := 8 * step + node

/-- A unit of a region sends a train at a tile's end, stamped with the generation of the region's copy (R341, R347). It
goes to the adder node that the unit's step gives the record, and to the die's root when that step has none. -/
def State.sendTrain (s : State) (p u step id : Nat) (words : List Nat) : State :=
  let r := s.region p
  let g := (r.genOf id).gen.toNat % 256
  match r.rill.find? (fun e => e.2.step == step && s.recordOf p e.2.grec.decl == some id) with
  | some e => s.post (keyRill p) (.train (some (p, e.1)) u id g words)
  | none => s.rootTake (dieOfPlace p) id g words

/-- Whether a unit may fire that reports: it holds two trains, and they have left only when a node has taken them (R341). -/
def State.trainRoom (s : State) (p u : Nat) : Bool :=
  decide ((s.net.filter fun m => match m.body with
    | .train (some (q, _)) v _ _ _ => q == p && v == u
    | _ => false).length < 2)

/-- A node passes the train that it holds to its die's root. -/
def State.nodeFlush (s : State) (p k : Nat) : State :=
  let r := s.region p
  match Tbl.find r.rill k with
  | none => s
  | some nd =>
    match nd.train, s.recordOf p nd.grec.decl with
    | some (g, ws), some id =>
      (s.setRegion p { r with rill := Tbl.put r.rill k { nd with train := none } }).rootTake (dieOfPlace p) id g ws
    | _, _ => s

/-- RILL_NODE_TAKE_TRAIN (R344, R348): a node holds the first train for its window and merges later ones of the same GEN8;
a seal's marker flushes the trains ahead of it. -/
def execRillNodeTakeTrain (m : Nat) (s : State) : Out :=
  match s.ready m with
  | some (.train (some (p, k)) _ id g ws) =>
    let s0 := s.unpost m
    let r := s0.region p
    match Tbl.find r.rill k with
    | none => .next (s0.rootTake (dieOfPlace p) id g ws)
    | some nd =>
      let hold (s : State) : State :=
        let r := s.region p
        s.setRegion p { r with rill := Tbl.put r.rill k { nd with train := some (g, ws), expiry := s.tide + cycles nd.grec.wait } }
      match nd.train with
      | none => .next (hold s0)
      | some (g0, ws0) =>
        if g0 = g then
          .next (s0.setRegion p { r with rill := Tbl.put r.rill k { nd with train := some (g, mergeTrains ws0 ws) } })
        else .next (hold (s0.nodeFlush p k))
  | some (.sealMark (some p) j) =>
    match Tbl.find s.seals j with
    | none => .next (s.unpost m)
    | some op =>
      let s0 := s.unpost m
      let mine := (s0.region p).rill.filter fun e => s0.recordOf p e.2.grec.decl == some op.id
      let s1 := mine.foldl (fun s e => s.nodeFlush p e.1) s0
      let d := dieOfPlace p
      .next ((s1.rootFlush d op.id).post (keyRoot d) (.sealMark none (2 ^ 40 * j + p)))
  | _ => s.idle

/-- RILL_WINDOW_EXPIRY (R344). -/
def execRillWindowExpiry (p n : Nat) (s : State) : Out :=
  match Tbl.find (s.region p).rill n with
  | none => s.idle
  | some nd => if nd.train.isSome && decide (nd.expiry ≤ s.tide) then .next (s.nodeFlush p n) else s.idle

/-- RILL_ROOT_WINDOW_EXPIRY (R344). -/
def execRillRootWindowExpiry (d j : Nat) (s : State) : Out :=
  let x := s.die d
  match x.rillRoot[j]? with
  | none => s.idle
  | some t =>
    if t.expiry ≤ s.tide then
      .next ((s.setDie d { x with rillRoot := removeAt x.rillRoot j }).post (keyRoot d) (.train none 0 t.id t.gen8 t.words))
    else s.idle

/-! ### Records at home (R345 to R348, R351, R354) -/

/-- Words 0 to 39 of a half (R339). -/
def halfWords (h : List Nat) : List Nat := (List.range 40).map fun i => h.getD i 0

/-- floor(log2 M) of a positive f32 pattern. -/
def log2F32 (n : Nat) : Int :=
  let e : Nat := n / 2 ^ 23 % 256
  if e ≠ 0 then (e : Int) - 127 else ((Nat.log2 (n % 2 ^ 23) : Nat) : Int) - 149

/-- The regions that keep a copy of a record: those of every placed course launched from its image (R347, R351). -/
def State.copyHolders (s : State) (image : Nat) : List Nat :=
  (s.regions.filter fun e => (e.2.modeUnder.live || e.2.modeUnder == .draining || e.2.modeUnder == .frozen) && e.2.image == image).map (·.1)

/-- The record's part of the seal action (R346). -/
def GaugeRec.seal (g : GaugeRec) (tide : DWord) : GaugeRec :=
  let h := halfWords g.live
  let m := h.getD 32 0
  let e : Int := log2F32 m + 128 + g.margin.toInt
  let scale : Nat := if m = 0 then g.scale.toNat else if e < 1 then 1 else if 254 < e then 254 else Int.toNat e
  { g with scale := BitVec.ofNat 8 scale, sealed := h, gen := g.gen + 1, sealTide := tide, rsc := false,
           live := if g.clearLive then [] else h.set 38 0 }

/-- The seal action: the record seals, and its generation word goes to every region that keeps a copy (R346, R347). -/
def State.sealNow (s : State) (id : Nat) (op : Option Nat) : State :=
  let g := (s.record id).seal s.tideNow
  let qs := s.copyHolders g.image
  let s1 := qs.foldl (fun s q => s.post none (.genWord q id g.gen g.scale op)) (s.setRecord id g)
  match op with
  | none => s1
  | some j => { s1 with seals := Tbl.adjust s1.seals j fun o => { o with gen := g.gen, gens := qs } }

/-- The word that answers a seal, once every region has taken its generation word (R279, R347). -/
def State.sealAnswer (s : State) (j : Nat) : State :=
  match Tbl.find s.seals j with
  | none => s
  | some op =>
    if !op.marks.isEmpty || !op.gens.isEmpty then s
    else
      let s1 : State := { s with seals := Tbl.drop s.seals j }
      match op.ch with
      | none => s1
      | some ch =>
        s1.post (keySeal (op.id / 2 ^ 16)) (.chanWord op.p 4 (dieOfPlace op.p) ch (BitVec.ofNat 64 (op.id + op.gen.toNat * 2 ^ 32)) 0 op.asid)

/-- TRAIN_APPLY (R345): a crossing of the threshold sets RSC, seals under AUTOSEAL, and sends the rescale event. -/
def execTrainApply (m : Nat) (s : State) : Out :=
  match s.ready m with
  | some (.train none _ id g8 ws) =>
    let s0 := s.unpost m
    let g := s0.record id
    if g.psn || !g.alloc then .next s0
    else
      let h := halfWords g.live
      let w (i : Nat) : Nat := ws.getD i 0
      let up (h : List Nat) (i k : Nat) : List Nat := h.set i (satAdd32 (h.getD i 0) k)
      let h1 := (List.range 32).foldl (fun h i => up h i (w i)) h
      let h2 := h1.set 32 (if h1.getD 32 0 < w 32 then w 32 else h1.getD 32 0)
      let h3 := up (up (up h2 34 (w 33)) 35 (w 34)) 36 (w 35)
      let n := (List.range 32).foldl (fun n i => n + w i) (w 33 + w 35)
      let h4 := up h3 33 n
      if g.gen.toNat % 256 ≠ g8 then .next (s0.setRecord id { g with live := up h4 37 1 })
      else
        let before := h4.getD 38 0
        let h5 := up h4 38 (w 34)
        let after := h5.getD 38 0
        let cross := g.satth.toNat ≠ 0 ∧ before < g.satth.toNat ∧ g.satth.toNat ≤ after
        let s1 := s0.setRecord id { g with live := h5, rsc := g.rsc || decide cross }
        if cross then
          let s2 := if g.autoSeal then s1.sealNow id none else s1
          .next ((s2.copyHolders g.image).foldl (fun s q => s.post none (.rescale q id)) s2)
        else .next s1
  | _ => s.idle

/-- SEAL_ACTION (R279, R346, R348, R354): a marker reaches home; once all have, the record seals. A poisoned record's seal
ends with a soft-error fault. -/
def execSealAction (m : Nat) (s : State) : Out :=
  match s.ready m with
  | some (.sealMark none w) =>
    let s0 := s.unpost m
    let j := w / 2 ^ 40
    let unit := w % 2 ^ 40
    match Tbl.find s0.seals j with
    | none => .next s0
    | some op =>
      let marks := op.marks.filter (· != unit)
      let s1 : State := { s0 with seals := Tbl.put s0.seals j { op with marks := marks } }
      if !marks.isEmpty then .next s1
      else if (s1.record op.id).psn then
        .next (State.unitFault { s1 with seals := Tbl.drop s1.seals j } op.p .soft 4 0 0 0 op.tmpl none 0)
      else .next ((s1.sealNow op.id (some j)).sealAnswer j)
  | _ => s.idle

/-- GENERATION_WORD_ARRIVE (R347): a region replaces its copy; the words of a record come in the order of its seals, so that one which a
later word has overtaken changes nothing. -/
def execGenerationWordArrive (m : Nat) (s : State) : Out :=
  match s.ready m with
  | some (.genWord p id gen scale op) =>
    let s0 := s.unpost m
    let r := s0.region p
    let newer := match Tbl.find r.gens id with
      | some g => decide ((gen - g.gen).toNat < 2 ^ 31)
      | none => false
    let s1 := if newer then s0.setRegion p { r with gens := Tbl.put r.gens id { gen := gen, scale := scale } } else s0
    match op with
    | none => .next s1
    | some j =>
      .next (State.sealAnswer { s1 with seals := Tbl.adjust s1.seals j fun o => { o with gens := o.gens.filter (· != p) } } j)
  | _ => s.idle

/-- RESCALE_EVENT_ARRIVE (R351, R139): event 2 becomes pending, or a rescale entry is made in the fault file. -/
def execRescaleEventArrive (m : Nat) (s : State) : Out :=
  match s.ready m with
  | some (.rescale p id) =>
    let s0 := s.unpost m
    let r := s0.region p
    if r.mode == .free then .next s0
    else if (r.handler 2).decl then .next (s0.setRegion p { r with rescale := true, ev := r.ev || !r.rescale })
    -- a standing entry of the same record takes the event in (R139)
    else if r.faults.any fun w => faultField w 56 8 == Cause.rescale.code && faultField w 96 32 == id % 2 ^ 32 then .next s0
    else .next (s0.weirFault p (id / 2 ^ 16) 0 .rescale id)
  | _ => s.idle

/-- A `seal` starts: a marker goes into every region of the issuing instance, and into every array that holds a context of
one of its bindings or has a train of an ended one on its way; each follows the trains sent before it (R348). -/
def State.startSeal (s : State) (p id tmpl : Nat) (ch : Option Nat) : State :=
  let r := s.region p
  let ps := match Tbl.find (s.die (dieOfPlace p)).insts r.inst with
    | some i => i.places.filter fun q => decide (q < 256) || decide (savedBase ≤ q)
    | none => [p]
  let sends (k : Nat) : Bool := s.net.any fun m => m.src == keyArray k && (match m.body with
    | .train none _ _ _ _ => true
    | _ => false)
  let ks := (s.arrays.filter fun e => sends e.1 || e.2.ctxs.any fun c => ps.contains c.2.p).map (·.1)
  let j := Tbl.nextKey s.seals
  let op : SealOp := { id := id, p := p, asid := r.asid, tmpl := tmpl, marks := ps ++ ks.map (1024 + ·), ch := ch, gen := 0, gens := [] }
  let s1 : State := { s with seals := Tbl.put s.seals j op }
  let s2 := ps.foldl (fun s q => s.post (keyRill q) (.sealMark (some q) j)) s1
  ks.foldl (fun s k => s.post (keyArray k) (.sealMark none (2 ^ 40 * j + 1024 + k))) s2

end Sys2Proof.Machine
end

