-- ==== Sys2Proof/Machine/Replies.lean ====
section
/-! DEFINITION. Active messages as data, and the replies of engine jobs (R122, R124, R170, R175, R292). -/
namespace Sys2Proof.Machine

/-! ### The fields of a message (R122) -/

def msgOpc (w : DWord) : Nat := w.toNat / 2 ^ 56
def msgNfp (w : DWord) : Nat := w.toNat / 2 ^ 48 % 16
def msgNop (w : DWord) : Nat := w.toNat / 2 ^ 44 % 16
def msgTag (w : DWord) : Nat := w.toNat % 2 ^ 32
def msgWord0 (opc nfp nop tag : Nat) : DWord :=
  BitVec.ofNat 64 (opc % 256 * 2 ^ 56 + nfp % 16 * 2 ^ 48 + nop % 16 * 2 ^ 44 + tag % 2 ^ 32)

/-- Words of a message that its first word gives. -/
def msgLength (w : DWord) : Nat := 2 + msgNop w + (msgNfp w + 3) / 4

/-- Entry i of a message's job card, 16 bits. -/
def cardEntry (words : List DWord) (i : Nat) : Nat :=
  (words.getD (2 + msgNop (words.headD 0) + i / 4) 0).toNat / 2 ^ (16 * (i % 4)) % 2 ^ 16

/-- The footprints that a message's card names, as the sender's image declares them; an index that is not declared is left
out. -/
def State.cardFoots (s : State) (p : Nat) (words : List DWord) : List FootRange :=
  match s.imageOf (s.region p) with
  | none => []
  | some img => (List.range (msgNfp (words.headD 0))).filterMap fun i => Tbl.find img.foots (cardEntry words i / 256)

/-- Operand i of a message. -/
def EngMsg.opnd (m : EngMsg) (i : Nat) : Nat := (m.words.getD (2 + i) 0).toNat
def EngMsg.opc (m : EngMsg) : Nat := msgOpc (m.words.headD 0)
def EngMsg.nop (m : EngMsg) : Nat := msgNop (m.words.headD 0)
def EngMsg.tag (m : EngMsg) : Nat := msgTag (m.words.headD 0)

/-- Whether word 1 of a message keeps its reserved bits zero. -/
def replyWordOk (w : DWord) : Bool :=
  if bit w.toNat 63 then decide (w.toNat / 2 ^ 8 % 2 ^ 55 = 0) else decide (w.toNat / 2 ^ 57 = 0)

/-! ### Engine accesses (R283, R310, R313, R316, R317) -/

/-- How an engine access ends: the physical address and class of its page, or a failure by its cause. -/
inductive EngAt
  | at (pa : Nat) (clsW : Bool)
  | bad (c : Cause)

/-- Translate and check an access of an engine job. A leaf with the HOST bit is left to the job (R283, R313). -/
def State.engAt (s : State) (d : Nat) (asid : BitVec 16) (va : Nat) (need : Need) : EngAt × State :=
  match s.translateEngine d asid va with
  | (.fault _ _, s1) => (.bad .translation, s1)
  | (.poison _, s1) => (.bad .soft, s1)
  | (.table _, s1) => (.bad .translation, s1)
  | (.page e, s1) =>
    let pa := e.pa va
    if (need == .write && !e.wr) || s1.protectedPa pa then (.bad .permission, s1)
    else if hostBit pa || paOk pa then (.at pa e.clsW, s1)
    else (.bad .access, s1)

/-- Read n bytes at the home under a job clock: a marked copy fails (R310). -/
def State.engRead (s : State) (pa n : Nat) (clk : DWord) : Option (Nat × DWord) × State :=
  let (v, c, bad, s1) := s.homeRead pa n clk
  (if bad then none else some (v, c), s1)

/-- Write n bytes of one line at the home under a job clock: a marked copy fails, but for a write of the whole line (R310). -/
def State.engWrite (s : State) (pa n v : Nat) (clk : DWord) : Option DWord × State :=
  let s1 := s.recallNow (lineOf pa) true
  if s1.homePoisoned (lineOf pa) && n != 64 then (none, s1) else let t := s1.homeWrite pa n v clk; (some t.1, t.2)

/-! ### Engine accesses to another package (R283, R396) -/

/-- The number under which the accesses of an engine message go out, and of a job at a position: a word of a copy, a node of a replay. -/
def EngMsg.who (m : EngMsg) : Nat := m.tag + 2 ^ 32 * (m.die % 4 + if m.cls == .cascade then 4 else 0)
def Job.who (j : Job) : Nat := j.msg.who + 2 ^ 40 * j.pos

/-- Whether an access changes memory; an engine goes on once such a one has left. -/
def AwayOp.writes : AwayOp → Bool
  | .write _ _ _ => true
  | .element v => v.isSome
  | _ => false

/-- Whether writes of an engine are still on their way to another package. -/
def State.engOut (s : State) (mine : Nat → Bool) : Bool :=
  s.net.any fun m => match m.body with
    | .sent q _ _ (.unit w _ op) => q == noRegion && op.writes && mine w
    | _ => false

/-- A write of an engine leaves for another package. -/
def State.engPut (s : State) (j : Job) (pa : Nat) (op : AwayOp) (clk : DWord) : State := s.askMemory pa noRegion 0 (.unit j.who pa op) op clk

/-- What an engine has read of other packages for one of its positions has been used. -/
def State.engUsed (s : State) (j : Job) : State := s.farDrop noRegion fun w op => w == j.who && !op.writes

/-- The end of a job: none while its writes to other packages are on their way; then its status, failed where one of them met a marked copy
(R310), and its clock, with those that they bring back. -/
def State.engEnd (s : State) (j : Job) (status failed : Nat) : Option (Nat × DWord × State) :=
  let mine (w : Nat) : Bool := w % 2 ^ 40 == j.msg.who
  if s.engOut mine then none
  else
    let got := s.net.filterMap fun m => match m.body with
      | .farGot q w _ op _ clk bad => if q == noRegion && op.writes && mine w then some (clk, bad) else none
      | _ => none
    some (if status = 0 && got.any (·.2.isSome) then failed else status, got.foldl (fun c g => maxClk c g.1) j.clk,
      s.farDrop noRegion fun w _ => mine w)

/-- Lines of an engine are written at their home, here or in another package. -/
def State.engLine (s : State) (j : Job) (pa n v : Nat) (clk : DWord) : DWord × State :=
  if s.elsewhere pa then (clk, s.engPut j pa (.write n v false) clk) else s.homeWrite pa n v clk

/-! ### Replies (R124, R170, R175) -/

/-- How a reply goes: it is sent, or its channel is full and the engine holds it. -/
inductive Replied
  | sent (s : State)
  | full

/-- The engine fault in the fault file of the sender's region. The cascade's place number is 272 (R13, R418); the other engines have
none, and the word names the sender's place (log entry 38). -/
def State.engineFault (s : State) (m : EngMsg) (status : Nat) : State :=
  s.faultAt m.p (if m.cls == .cascade then 272 else (s.region m.p).placeId) .engine 5 0 0 m.tag status none 0

/-- The reply record: TAG, status. -/
def replyRecord (tag status : Nat) : Nat := tag % 2 ^ 32 + status % 256 * 2 ^ 64

/-- A reply to an address: the 16-byte record at its home; one that cannot be written becomes an engine fault. -/
def State.replyRecordAt (s : State) (m : EngMsg) (d va status : Nat) (clk : DWord) : State :=
  if va % 16 ≠ 0 then s.engineFault m status
  else
    match s.engAt d m.asid va .write with
    | (.bad _, s1) => s1.engineFault m status
    | (.at pa clsW, s1) =>
      if clsW || hostBit pa then s1.engineFault m status
      else if s1.elsewhere pa then s1.askMemory pa noRegion noHandler (.store (lineOf pa)) (.write 16 (replyRecord m.tag status) true) clk
      else
        match s1.engWrite pa 16 (replyRecord m.tag status) clk with
        | (none, s2) => s2.engineFault m status
        | (some _, s2) => s2

/-- The reply of a job of die d with its final clock. A message whose word 1 is malformed names no reply. -/
def State.reply (s : State) (d : Nat) (m : EngMsg) (status : Nat) (clk : DWord) : Replied :=
  match m.latch with
  | some k => .sent (s.post none (.reply m.p k m.tag status clk))
  | none =>
    let w := m.words.getD 1 0
    let none' : State := if status = 0 then s else s.engineFault m status
    if !replyWordOk w then .sent none'
    else if bit w.toNat 63 then
      let ch := w.toNat % 256
      if ((s.die d).chan ch).owner ≠ some m.asid then .sent (s.replyRefused m d ch)
      else if s.channelHasRoom d ch then .sent (s.enterChannel d ch (BitVec.ofNat 64 (m.tag + status * 2 ^ 32)) clk)
      else .full
    else
      let va := w.toNat % 2 ^ 57
      if va = 0 then .sent none' else .sent (s.replyRecordAt m d va status clk)

/-- Whether a message asks for its reply on a channel. -/
def EngMsg.toChannel (m : EngMsg) : Bool := m.latch.isNone && replyWordOk (m.words.getD 1 0) && bit (m.words.getD 1 0).toNat 63

/-- The source key of reply words that the inboxes of a die hold. -/
def keyInbox (d : Nat) : Option Nat := some (2 ^ 22 + d)

/-- Whether the inboxes of a die hold a reply word for which its channel has no room yet (R170). -/
def State.inboxHolds (s : State) (d : Nat) : Bool := s.net.any fun m => m.src == keyInbox d

end Sys2Proof.Machine
end

