-- ==== Sys2Proof/Machine/Admission.lean ====
section
/-! DEFINITION. Admission: holders, their footprints, edges and the watchdog (R76, R125 to R127, R385). -/
namespace Sys2Proof.Machine

/-- Two footprints conflict when they share a byte and one of them writes (R76). -/
def FootRange.conflicts (f g : FootRange) : Bool :=
  decide (f.base < g.base + g.len) && decide (g.base < f.base + f.len) && (decide (f.acc / 2 % 2 = 1) || decide (g.acc / 2 % 2 = 1))

def Holder.conflicts (h e : Holder) : Bool := h.asid == e.asid && h.foots.any fun f => e.foots.any f.conflicts

/-- Footprints in the live table of a die. -/
def Die.footCount (d : Die) : Nat := d.holders.foldl (fun n e => n + e.2.foots.length) 0

/-- An arriving holder takes its edges from every live conflicting footprint (R125). -/
def Die.installHolder (d : Die) (h : Holder) : Die :=
  { d with holders := Tbl.put d.holders h.id { h with edges := (d.holders.filter fun e => h.conflicts e.2).map (·.1) } }

/-- Arrivals that now fit enter in order (R127). -/
def Die.admitArrivals : Nat → Die → Die
  | 0, d => d
  | fuel + 1, d =>
    match d.arrivals with
    | [] => d
    | h :: t => if d.footCount + h.foots.length ≤ 1024 then Die.admitArrivals fuel (Die.installHolder { d with arrivals := t } h) else d

/-- HOLDER_ARRIVE (R125, R127): a holder reaches its die's admission stage. -/
def execHolderArrive (m : Nat) (s : State) : Out :=
  match s.ready m with
  | some (.holder d h) =>
    let x := s.die d
    let x1 : Die := { x with arrivals := x.arrivals ++ [{ h with since := s.tide }] }
    .next ((s.unpost m).setDie d (x1.admitArrivals x1.arrivals.length))
  | _ => s.idle

/-- A holder completes with its clock: its edges clear (R126, R385). -/
def Die.completeHolder (d : Die) (id : Nat) (clk : DWord) : Die :=
  let clear (h : Holder) : Holder :=
    if h.edges.contains id then { h with edges := h.edges.filter (· != id), clk := maxClk h.clk clk } else h
  let d1 := { d with
    holders := (Tbl.drop d.holders id).map (fun (e : Nat × Holder) => (e.1, clear e.2)), arrivals := d.arrivals.filter fun h => h.id != id }
  d1.admitArrivals d1.arrivals.length

/-- A holder completes; one that has not reached admission yet never does. -/
def State.completeHolder (s : State) (d id : Nat) (clk : DWord) : State :=
  let s1 := s.setDie d ((s.die d).completeHolder id clk)
  { s1 with net := s1.net.filter fun m => match m.body with
      | .holder _ h => h.id != id
      | _ => true }

/-- The binding holders of a region that are still live complete: its course retires (R126). -/
def State.completeBindings (s : State) (p : Nat) : State :=
  let d := dieOfPlace p
  let x := s.die d
  let mine (h : Holder) : Bool := !h.job && h.p == p
  let sent := s.net.filterMap fun m => match m.body with
    | .holder _ h => if mine h then some h.id else none
    | _ => none
  let ids := (x.holders.filter fun e => mine e.2).map (·.1) ++ (x.arrivals.filter mine).map (·.id) ++ sent
  ids.foldl (fun s id => s.completeHolder d id (s.region p).lclk) s

/-- Where a holder stands: admitted, dropped, or held. -/
inductive Hold | admitted | dropped | held
  deriving DecidableEq, Repr

def Die.holdOf (d : Die) (id : Option Nat) : Hold :=
  match id with
  | none => .admitted
  | some i =>
    match Tbl.find d.holders i with
    | none => .held
    | some h => if h.dropped then .dropped else if h.admitted then .admitted else .held

/-! ### Admitted jobs leave their inbox (R311, R314, R385) -/

/-- A job from an admitted message: its clock is the larger of the message's and of what its edges carry. -/
def Die.jobOf (d : Die) (m : EngMsg) : Job :=
  let c := match m.hold.bind (Tbl.find d.holders) with
    | some h => maxClk m.clk h.clk
    | none => m.clk
  { msg := m, clk := c, args := none, pos := 0, reply := none }

/-- The copy engine with the fewest jobs, the lowest-numbered among equals, of 16. -/
def Die.idlest (d : Die) : Nat :=
  (List.range 16).foldl (fun b e => if (Tbl.look d.copyEng e []).length < (Tbl.look d.copyEng b []).length then e else b) 0

/-- Give each admitted copy job to an engine whose queue of 64 has room. -/
def Die.giveCopies : List EngMsg → Die → Die
  | [], d => d
  | m :: t, d =>
    let e := d.idlest
    let q := Tbl.look d.copyEng e []
    if d.holdOf m.hold == .admitted && decide (q.length < 64) then
      Die.giveCopies t { d with copyEng := Tbl.put d.copyEng e (q ++ [d.jobOf m]) }
    else Die.giveCopies t { d with copyIn := d.copyIn ++ [m] }

/-- Admitted jobs go to the copy engines and to the arrays. -/
def Die.giveJobs (d : Die) : Die :=
  let d1 := Die.giveCopies d.copyIn { d with copyIn := [] }
  let ready (m : EngMsg) : Bool := d1.holdOf m.hold == .admitted
  { d1 with weirIn := d1.weirIn.filter fun m => !ready m, weirJobs := d1.weirJobs ++ (d1.weirIn.filter ready).map d1.jobOf }

/-- Admitted jobs of a die leave the inboxes; those of class 2 go to the cascade. -/
def State.giveJobs (s : State) (d : Nat) : State :=
  let s1 := s.setDie d (s.die d).giveJobs
  let x := s1.die d
  let ready (m : EngMsg) : Bool := m.die == d && x.holdOf m.hold == .admitted
  let w := s1.well
  let jobs := (w.inbox.filter ready).foldl (fun t m => Tbl.put t (Tbl.nextKey t) (x.jobOf m)) w.jobs
  { s1 with well := { w with inbox := w.inbox.filter (fun m => !ready m), jobs := jobs } }

/-- The end of a job with its holder, if it is one (R126). -/
def State.jobEnds (s : State) (d : Nat) (m : EngMsg) (clk : DWord) : State :=
  match m.hold with
  | some id => s.completeHolder d id clk
  | none => s

/-- The reply of a message that never became a job. Its word waits at the inbox while its channel is full, behind every earlier word
that waits there, and the job completes only when the word has entered (R126, R170). -/
def State.replyNow (s : State) (d : Nat) (m : EngMsg) (status : Nat) (clk : DWord) : State :=
  if m.toChannel && s.inboxHolds d then s.post (keyInbox d) (.heldReply d m status clk)
  else
    match s.reply d m status clk with
    | .sent s1 => s1.jobEnds d m clk
    | .full => s.post (keyInbox d) (.heldReply d m status clk)

/-- CHANNEL_WORD_ENTER (R168, R170, R279, R280, R282): a word enters its channel when that has room, or is refused there. For a
word of another package a place is kept. A reply that an inbox holds completes its job then. -/
def execChannelWordEnter (m : Nat) (s : State) : Out :=
  match s.ready m with
  | some (.chanWord p unit d ch v clk asid) =>
    let s1 := s.unpost m
    if ((s.die d).chan ch).owner ≠ some asid then
      .next (if isAway p then s1.emitTo (awayPkg p) 3 (.channelRefused (awayNo p)) else s1.channelRefused p unit d ch)
    else if s.channelHasRoom d ch then
      .next (if isAway p then (s1.keepRoom d ch (· + 1)).emitTo (awayPkg p) 3 (.channelRoom (awayNo p)) else s1.enterChannel d ch v clk)
    else s.idle
  | some (.heldReply d e status clk) =>
    match (s.unpost m).reply d e status clk with
    | .full => s.idle
    | .sent s1 => .next (s1.jobEnds d e clk)
  | _ => s.idle

/-- The end of a job that admission dropped (R127): its message leaves its inbox, and the reply carries status 0xFE. -/
def State.endDropped (s : State) (d : Nat) (m : EngMsg) : State := s.replyNow d m 0xFE m.clk

/-- HOLDER_ADMIT (R125, R385): every edge has cleared. A job starts; a binding's region takes the clock that its edges carry. -/
def execHolderAdmit (d h : Nat) (s : State) : Out :=
  let x := s.die d
  match Tbl.find x.holders h with
  | none => s.idle
  | some o =>
    if o.admitted || o.dropped || !o.edges.isEmpty then s.idle
    else
      let s1 := s.setDie d { x with holders := Tbl.put x.holders h { o with admitted := true } }
      if o.job then .next (s1.giveJobs d)
      else
        let r := s1.region o.p
        .next (s1.setRegion o.p { r with lclk := maxClk r.lclk o.clk })

/-- Whether a holder has been held for longer than ADMWD (R127). -/
def State.holderLate (s : State) (d : Nat) (o : Holder) : Bool :=
  let w := (s.die d).admwd
  !o.admitted && !o.dropped && w != 0 && decide (o.since + micros w.toNat < s.tide)

/-- What becomes of a holder that is dropped: a job ends by reply once its message is in its inbox, a binding's region takes the
admission-timeout fault. -/
def State.dropHolder (s : State) (d : Nat) (o : Holder) : State :=
  if !o.job then s.unitFault o.p .admission 7 0 0 0 0 none 0
  else
    let x := s.die d
    let mine (m : EngMsg) : Bool := m.hold == some o.id
    match (x.copyIn ++ x.weirIn ++ x.inbox ++ s.well.inbox).find? mine with
    | none => s
    | some m =>
      let out (l : List EngMsg) : List EngMsg := l.filter fun m => !mine m
      let s1 := s.setDie d { x with copyIn := out x.copyIn, weirIn := out x.weirIn, inbox := out x.inbox }
      let s2 : State := { s1 with well := { s1.well with inbox := out s1.well.inbox } }
      s2.endDropped d m

/-- ADMISSION_TIMEOUT (R127): a holder that has been held for longer than ADMWD, because an edge stands or because it does not fit, is
dropped. One whose edges have all cleared is admitted instead (R125). -/
def execAdmissionTimeout (d h : Nat) (s : State) : Out :=
  let x := s.die d
  match Tbl.find x.holders h with
  | some o =>
    if o.edges.isEmpty || !s.holderLate d o then s.idle
    else .next ((s.setDie d { x with holders := Tbl.put x.holders h { o with dropped := true } }).dropHolder d o)
  | none =>
    match x.arrivals.find? (·.id == h) with
    | none => s.idle
    | some o =>
      if !s.holderLate d o then s.idle
      else
        let y := { x with arrivals := x.arrivals.filter fun a => a.id != h }
        let z : Die := { y with holders := Tbl.put y.holders h { o with dropped := true, foots := [] } }
        .next ((s.setDie d (z.admitArrivals z.arrivals.length)).dropHolder d o)

end Sys2Proof.Machine
end

