-- ==== Sys2Proof/Machine/Alu.lean ====
section
/-! DEFINITION. The integer instructions (R145 to R147). -/
namespace Sys2Proof.Machine

/-- A form that reads two registers and writes one. -/
def State.alu (s : State) (rd ra rb : Reg) (f : DWord → DWord → DWord) : Out :=
  s.writes rd (f (s.mine.get ra) (s.mine.get rb))

/-- A form that reads a register and an immediate and writes one. -/
def State.aluImm (s : State) (rd ra : Reg) (f : DWord → DWord) : Out := s.writes rd (f (s.mine.get ra))

/-- 1 or 0. -/
def flag64 (b : Bool) : DWord := if b then 1 else 0

/-- The shift amount b[5:0] (R145). -/
def shiftOf (b : DWord) : Nat := b.toNat % 64

/-- Quotient truncated toward zero; b = 0 gives -1 (R145). -/
def divS (a b : DWord) : DWord := if b = 0 then -1 else BitVec.ofInt 64 (a.toInt.tdiv b.toInt)
/-- Remainder with the sign of a; b = 0 gives a (R145). -/
def remS (a b : DWord) : DWord := if b = 0 then a else BitVec.ofInt 64 (a.toInt.tmod b.toInt)
/-- Unsigned quotient; b = 0 gives all ones (R145). -/
def divU (a b : DWord) : DWord := if b = 0 then -1 else BitVec.ofNat 64 (a.toNat / b.toNat)
/-- Unsigned remainder; b = 0 gives a (R145). -/
def remU (a b : DWord) : DWord := if b = 0 then a else BitVec.ofNat 64 (a.toNat % b.toNat)
/-- High half of the signed product (R145). -/
def mulHigh (a b : DWord) : DWord := BitVec.ofInt 64 (a.toInt * b.toInt / 2 ^ 64)
/-- High half of the unsigned product (R145). -/
def mulHighU (a b : DWord) : DWord := BitVec.ofNat 64 (a.toNat * b.toNat / 2 ^ 64)
def minS (a b : DWord) : DWord := if b.toInt < a.toInt then b else a
def maxS (a b : DWord) : DWord := if a.toInt < b.toInt then b else a
def minU (a b : DWord) : DWord := if b.toNat < a.toNat then b else a
def maxU (a b : DWord) : DWord := if a.toNat < b.toNat then b else a
def ltS (a b : DWord) : Bool := decide (a.toInt < b.toInt)
def ltU (a b : DWord) : Bool := decide (a.toNat < b.toNat)

/-- ADD (R145). -/
def execAdd (rd ra rb : Reg) (s : State) : Out := s.alu rd ra rb (fun a b => a + b)
/-- SUB (R145). -/
def execSub (rd ra rb : Reg) (s : State) : Out := s.alu rd ra rb (fun a b => a - b)
/-- AND (R145). -/
def execAnd (rd ra rb : Reg) (s : State) : Out := s.alu rd ra rb (fun a b => a &&& b)
/-- OR (R145). -/
def execOr (rd ra rb : Reg) (s : State) : Out := s.alu rd ra rb (fun a b => a ||| b)
/-- XOR (R145). -/
def execXor (rd ra rb : Reg) (s : State) : Out := s.alu rd ra rb (fun a b => a ^^^ b)
/-- SHL (R145). -/
def execShl (rd ra rb : Reg) (s : State) : Out := s.alu rd ra rb (fun a b => a <<< shiftOf b)
/-- SHR (R145). -/
def execShr (rd ra rb : Reg) (s : State) : Out := s.alu rd ra rb (fun a b => a >>> shiftOf b)
/-- SRA (R145). -/
def execSra (rd ra rb : Reg) (s : State) : Out := s.alu rd ra rb (fun a b => a.sshiftRight (shiftOf b))
/-- MUL (R145). -/
def execMul (rd ra rb : Reg) (s : State) : Out := s.alu rd ra rb (fun a b => a * b)
/-- MULH (R145). -/
def execMulh (rd ra rb : Reg) (s : State) : Out := s.alu rd ra rb mulHigh
/-- MULHN (R145). -/
def execMulhn (rd ra rb : Reg) (s : State) : Out := s.alu rd ra rb mulHighU
/-- DIV (R145). -/
def execDiv (rd ra rb : Reg) (s : State) : Out := s.alu rd ra rb divS
/-- DIVN (R145). -/
def execDivn (rd ra rb : Reg) (s : State) : Out := s.alu rd ra rb divU
/-- REM (R145). -/
def execRem (rd ra rb : Reg) (s : State) : Out := s.alu rd ra rb remS
/-- REMN (R145). -/
def execRemn (rd ra rb : Reg) (s : State) : Out := s.alu rd ra rb remU
/-- MIN (R145). -/
def execMin (rd ra rb : Reg) (s : State) : Out := s.alu rd ra rb minS
/-- MAX (R145). -/
def execMax (rd ra rb : Reg) (s : State) : Out := s.alu rd ra rb maxS
/-- MINN (R145). -/
def execMinn (rd ra rb : Reg) (s : State) : Out := s.alu rd ra rb minU
/-- MAXN (R145). -/
def execMaxn (rd ra rb : Reg) (s : State) : Out := s.alu rd ra rb maxU
/-- SLT (R145). -/
def execSlt (rd ra rb : Reg) (s : State) : Out := s.alu rd ra rb (fun a b => flag64 (ltS a b))
/-- SLTN (R145). -/
def execSltn (rd ra rb : Reg) (s : State) : Out := s.alu rd ra rb (fun a b => flag64 (ltU a b))
/-- SEQ (R145). -/
def execSeq (rd ra rb : Reg) (s : State) : Out := s.alu rd ra rb (fun a b => flag64 (a == b))

/-- ADDI (R146). -/
def execAddi (rd ra : Reg) (imm : BitVec 16) (s : State) : Out := s.aluImm rd ra (fun a => a + sext16 imm)
/-- ANDI (R146). -/
def execAndi (rd ra : Reg) (imm : BitVec 16) (s : State) : Out := s.aluImm rd ra (fun a => a &&& zext16 imm)
/-- ORI (R146). -/
def execOri (rd ra : Reg) (imm : BitVec 16) (s : State) : Out := s.aluImm rd ra (fun a => a ||| zext16 imm)
/-- XORI (R146). -/
def execXori (rd ra : Reg) (imm : BitVec 16) (s : State) : Out := s.aluImm rd ra (fun a => a ^^^ zext16 imm)
/-- SLTI (R146). -/
def execSlti (rd ra : Reg) (imm : BitVec 16) (s : State) : Out := s.aluImm rd ra (fun a => flag64 (ltS a (sext16 imm)))
/-- SHLI (R146). -/
def execShli (rd ra : Reg) (sh : BitVec 6) (s : State) : Out := s.aluImm rd ra (fun a => a <<< sh.toNat)
/-- SHRI (R146). -/
def execShri (rd ra : Reg) (sh : BitVec 6) (s : State) : Out := s.aluImm rd ra (fun a => a >>> sh.toNat)
/-- SRAI (R146). -/
def execSrai (rd ra : Reg) (sh : BitVec 6) (s : State) : Out := s.aluImm rd ra (fun a => a.sshiftRight sh.toNat)

/-- Replace bits [16k+15:16k] of a value (R147). -/
def insertHalf (v : DWord) (k : BitVec 2) (imm : BitVec 16) : DWord :=
  (v &&& ~~~((0xFFFF : DWord) <<< (16 * k.toNat))) ||| (zext16 imm <<< (16 * k.toNat))

/-- LHI (R147). -/
def execLhi (rd : Reg) (k : BitVec 2) (imm : BitVec 16) (s : State) : Out :=
  s.writes rd (insertHalf (s.mine.get rd) k imm)

end Sys2Proof.Machine
end

