-- ==== Sys2Proof/Machine/Column.lean ====
section
/-! DEFINITION. The column functions (R204 to R206) and rcpe (R207). The irrational values are formed in fixed point
with 384 fraction bits, far past what rounding to f32 can see, and rounded once under RNE with a sticky bit. -/
namespace Sys2Proof.Machine

/-- Fraction bits of the fixed-point intermediates. -/
def fixBits : Nat := 384

/-- ln 2 in units of 2^-384, rounded down. -/
def ln2Fix : Nat :=
  0xb17217f7d1cf79abc9e3b39803f2f6af40f343267298b62d8a0d175b8baafa2be7b876206debac98559552fb4afa1b10

/-- The sum of y^k / k! from k = k0 on, in fixed point, `fuel` terms. -/
def expTerms : Nat → Nat → Nat → Nat → Nat → Nat
  | 0, _, _, _, acc => acc
  | fuel + 1, k, y, term, acc =>
    let t := term * y / 2 ^ fixBits / k
    expTerms fuel (k + 1) y t (acc + t)

/-- e^y for a fixed-point y in [0, 1). -/
def expFix (y : Nat) : Nat := expTerms 96 1 y (2 ^ fixBits) (2 ^ fixBits)

/-- The sum of z^(2i+1) / (2i+1) in fixed point. -/
def atanhTerms : Nat → Nat → Nat → Nat → Nat → Nat
  | 0, _, _, _, acc => acc
  | fuel + 1, k, z2, pow, acc =>
    atanhTerms fuel (k + 2) z2 (pow * z2 / 2 ^ fixBits) (acc + pow / k)

/-- ln t for t = num / den in [1, 2), in fixed point. -/
def lnFix (num den : Nat) : Nat :=
  let z := (num - den) * 2 ^ fixBits / (num + den)
  2 * atanhTerms 130 1 (z * z / 2 ^ fixBits) z 0

/-- The largest r with r * r ≤ n and r < 2^bits, bit by bit. -/
def isqrt : Nat → Nat → Nat → Nat
  | 0, _, r => r
  | b + 1, n, r => isqrt b n (if (r + 2 ^ b) * (r + 2 ^ b) ≤ n then r + 2 ^ b else r)

def rnResult (d : Dyadic) (sticky : Bool) : Nat × Flags := roundFloat fmtF32 .rne d sticky

def f32One : Nat := 0x3F800000
def f32Inf (neg : Bool) : Nat := fmtF32.infinity neg
def f32NaN : Nat := 0x7FC00000

/-- 1 / x. -/
def xfnRcp (d : Dyadic) : Nat × Flags :=
  if d.m = 0 then (f32Inf d.neg, flagDZ) else
  let k := d.m.log2 + 64
  rnResult ⟨d.neg, 2 ^ k / d.m, -(k : Int) - d.e⟩ (2 ^ k % d.m != 0)

/-- An even exponent for a square root: the magnitude and half the exponent. -/
def evenScale (d : Dyadic) : Nat × Int :=
  if d.e % 2 = 0 then (d.m, d.e / 2) else (2 * d.m, (d.e - 1) / 2)

def xfnSqrt (d : Dyadic) : Nat × Flags :=
  if d.m = 0 then (fmtF32.zero d.neg, 0)
  else if d.neg then (f32NaN, flagNV) else
  let s := evenScale d
  let n := s.1 * 2 ^ 128
  let r := isqrt 80 n 0
  rnResult ⟨false, r, s.2 - 64⟩ (r * r != n)

def xfnRsq (d : Dyadic) : Nat × Flags :=
  if d.m = 0 then (f32Inf d.neg, flagDZ)
  else if d.neg then (f32NaN, flagNV) else
  let s := evenScale d
  let n := 2 ^ 160 / s.1
  let r := isqrt 84 n 0
  rnResult ⟨false, r, -80 - s.2⟩ (!(2 ^ 160 % s.1 == 0 && r * r == n))

def xfnExp2 (d : Dyadic) : Nat × Flags :=
  if d.m = 0 then (f32One, 0) else
  let top : Int := d.e + (d.m.log2 : Int)
  if top ≥ 8 then
    -- |x| is at least 256: beyond the largest finite value, or a vanishing positive value
    (if d.neg then rnResult ⟨false, 1, -400⟩ true else rnResult ⟨false, 1, 400⟩ true)
  else
    let x := d.m * 2 ^ ((fixBits : Int) + d.e).toNat
    let n := x / 2 ^ fixBits
    let f := x % 2 ^ fixBits
    if f = 0 then rnResult ⟨false, 1, if d.neg then -(n : Int) else (n : Int)⟩ false
    else
      let f' := if d.neg then 2 ^ fixBits - f else f
      let n' : Int := if d.neg then -(n : Int) - 1 else (n : Int)
      rnResult ⟨false, expFix (f' * ln2Fix / 2 ^ fixBits), n' - fixBits⟩ true

def xfnLog2 (d : Dyadic) : Nat × Flags :=
  if d.m = 0 then (f32Inf true, flagDZ)
  else if d.neg then (f32NaN, flagNV) else
  let k := d.m.log2
  let e : Int := d.e + (k : Int)
  if d.m = 2 ^ k then rnResult ⟨decide (e < 0), e.natAbs, 0⟩ false
  else
    -- x = t * 2^e with t in (1, 2); near 2 the other side, log2 x = (e + 1) - log2 (2 / t), loses no bits
    let near2 := decide (3 * 2 ^ k ≤ 2 * d.m)
    let l := if near2 then lnFix (2 ^ (k + 1)) d.m else lnFix d.m (2 ^ k)
    let fr : Int := (l * 2 ^ fixBits / ln2Fix : Nat)
    let v : Int := if near2 then (e + 1) * (2 ^ fixBits : Nat) - fr else e * (2 ^ fixBits : Nat) + fr
    rnResult ⟨decide (v < 0), v.natAbs, -(fixBits : Int)⟩ true

def xfnTanh (d : Dyadic) : Nat × Flags :=
  if d.m = 0 then (fmtF32.zero d.neg, 0) else
  let top : Int := d.e + (d.m.log2 : Int)
  if top ≥ 5 then rnResult ⟨d.neg, 2 ^ 100 - 1, -100⟩ true
  else if top < -40 then rnResult ⟨d.neg, d.m * 2 ^ 100 - 1, d.e - 100⟩ true
  else
    let y := d.m * 2 ^ ((fixBits : Int) + d.e + 1).toNat
    let n := y / ln2Fix
    let r := y % ln2Fix
    let ex := expFix r * 2 ^ n
    rnResult ⟨d.neg, (ex - 2 ^ fixBits) * 2 ^ fixBits / (ex + 2 ^ fixBits), -(fixBits : Int)⟩ true

/-- The function of an xfn SUB on an f32 pattern (R204, R206). -/
def xfnValue (sub : Nat) (n : Nat) : Nat × Flags :=
  match fmtF32.value n with
  | .nan s => (f32NaN, flagIf s flagNV)
  | .inf ng =>
    match sub with
    | 0 => (fmtF32.zero ng, 0)
    | 1 => if ng then (f32NaN, flagNV) else (0, 0)
    | 2 => if ng then (f32NaN, flagNV) else (f32Inf false, 0)
    | 3 => if ng then (0, 0) else (f32Inf false, 0)
    | 4 => if ng then (f32NaN, flagNV) else (f32Inf false, 0)
    | _ => (fmtF32.signBit ng + f32One, 0)
  | .fin d =>
    match sub with
    | 0 => xfnRcp d
    | 1 => xfnRsq d
    | 2 => xfnSqrt d
    | 3 => xfnExp2 d
    | 4 => xfnLog2 d
    | _ => xfnTanh d

/-- rcpe (R207). -/
def rcpeValue (n : Nat) : Nat × Flags :=
  let s := fmtF32.signBit (n / 2 ^ 31 % 2 == 1)
  let e := n / 2 ^ 23 % 256
  let f := n % 2 ^ 23
  if e = 255 ∧ f ≠ 0 then (f32NaN, flagIf (f / 2 ^ 22 == 0) flagNV)
  else if e = 0 then (s + 0x7F800000, 0)
  else if e = 255 then (s, 0)
  else if e = 253 ∧ f = 0 then (s + 0x00800000, 0)
  else if e ≥ 253 then (s, 0)
  else
    let m := 128 + f / 2 ^ 16
    let den := 2 * m + 1
    let q := (2 ^ 21 + den) / (2 * den)
    (s + (253 - e) * 2 ^ 23 + (q - 2048) * 2 ^ 12, 0)

end Sys2Proof.Machine
end

