-- ==== Sys2Proof/Machine/Fabric.lean ====
section
/-! DEFINITION. The fabric: latches and their readers, the configuration of a step, how a node installs its word and how
its configuration ends (R58 to R60, R98, R128 to R131, R176 to R180, R213, R324, R325, R343). -/
namespace Sys2Proof.Machine

/-! ### Tokens (R102) -/

def kData : BitVec 4 := 0
def kLast : BitVec 4 := 1
def kHeader : BitVec 4 := 2
def kEos : BitVec 4 := 3
def kMarker : BitVec 4 := 4
def kCtl : BitVec 4 := 5
def kFault : BitVec 4 := 6
def kPoison : BitVec 4 := 7
def kRelatch : BitVec 4 := 8

def mkToken (k : BitVec 4) (v : Nat) : Token := { kind := k, payload := BitVec.ofNat 32 v, cause := 0 }
def eosToken : Token := mkToken kEos 0
def markerToken : Token := mkToken kMarker 0

def isDataToken (t : Token) : Bool := t.kind == kData || t.kind == kLast

/-! ### Latches (R176, R187) -/

/-- The token that a reader has not taken yet. -/
def Latch.head (l : Latch) (i : Nat) : Option Token := if l.taken.contains i then none else l.tok

/-- A reader takes the token; the latch frees when every reader has. -/
def Latch.take (l : Latch) (readers : List Nat) (i : Nat) : Latch :=
  if readers.all (fun j => j == i || l.taken.contains j) then Latch.empty else { l with taken := i :: l.taken }

def Latch.put (t : Token) : Latch := { tok := some t, taken := [] }
def Latch.free (l : Latch) : Bool := l.tok.isNone

def dirNo : Dir → Nat
  | .n => 0 | .e => 1 | .s => 2 | .w => 3
def opposite : Dir → Dir
  | .n => .s | .e => .w | .s => .n | .w => .e

/-- The router word with every output off. -/
def routerOff : RouterWord := { outN := none, outE := none, outS := none, outW := none }

/-- A cell of the free pool. -/
def Cell.free : Cell :=
  { step := 0, word := none, router := routerOff, linkN := Latch.empty, linkE := Latch.empty, linkS := Latch.empty,
    linkW := Latch.empty, result := Latch.empty, outN := OutState.init, outE := OutState.init, outS := OutState.init,
    outW := OutState.init, self := 0, count := 0, stopped := false, ended := false, marked := false, fired := 0, mem := CellMem.init }

def Region.cell (r : Region) (c : Nat) : Cell := Tbl.look r.cells c Cell.free
def Region.setCell (r : Region) (c : Nat) (x : Cell) : Region := { r with cells := Tbl.put r.cells c x }
def State.cell (s : State) (p c : Nat) : Cell := (s.region p).cell c
def State.setCell (s : State) (p c : Nat) (x : Cell) : State := s.setRegion p ((s.region p).setCell c x)

def Cell.link (x : Cell) : Dir → Latch
  | .n => x.linkN | .e => x.linkE | .s => x.linkS | .w => x.linkW
def Cell.setLink (x : Cell) (d : Dir) (l : Latch) : Cell :=
  match d with
  | .n => { x with linkN := l } | .e => { x with linkE := l } | .s => { x with linkS := l } | .w => { x with linkW := l }
def Cell.out (x : Cell) : Dir → OutState
  | .n => x.outN | .e => x.outE | .s => x.outS | .w => x.outW
def Cell.setOut (x : Cell) (d : Dir) (o : OutState) : Cell :=
  match d with
  | .n => { x with outN := o } | .e => { x with outE := o } | .s => { x with outS := o } | .w => { x with outW := o }

/-- The input selects of a word: a, b, c and PRED. -/
def wordSel (w : CellWord) : Nat → InSel
  | 0 => w.ina
  | 1 => w.inb
  | 2 => w.inc
  | _ => w.pred

/-- The readers of a source of a cell: inputs whose select names it, and outputs that name it (R176). -/
def Cell.readers (x : Cell) (src : RSrc) : List Nat :=
  (match x.word, src with
    | some w, .link d => [0, 1, 2, 3].filter fun i => wordSel w i == .link d
    | _, _ => []) ++
  (dirs.filter fun d => match x.router.out d with
    | some o => o.sources.contains src
    | none => false).map fun d => 4 + dirNo d

def Cell.source (x : Cell) : RSrc → Latch
  | .link d => x.link d
  | .result => x.result
def Cell.setSource (x : Cell) (src : RSrc) (l : Latch) : Cell :=
  match src with
  | .link d => x.setLink d l
  | .result => { x with result := l }

def Cell.headOf (x : Cell) (src : RSrc) (i : Nat) : Option Token := (x.source src).head i
def Cell.takeFrom (x : Cell) (src : RSrc) (i : Nat) : Cell :=
  match (x.source src).head i with
  | none => x
  | some _ => x.setSource src ((x.source src).take (x.readers src) i)

/-! ### Emitting (R178 to R180) -/

/-- Operations that give their tokens their own kinds (R180). -/
def marksOwn (o : CellOp) : Bool :=
  match o with
  | .qnt => true | .dqn => true | .runacc => true | .poolc => true | .stat => true
  | _ => false

/-- Whether a result can leave: the result latch is free, or nothing reads it. -/
def Cell.canEmit (x : Cell) : Bool := x.result.free || (x.readers .result).isEmpty

/-- The oldest pending token of a cell moves to its result latch: it is marked data-last by the cell's count, self takes
its payload, and after a data-last or eos both start again. -/
def Cell.drain (x : Cell) : Cell :=
  match x.mem.queue, x.word with
  | t :: rest, some w =>
    if !x.canEmit then x
    else
      let n := if t.kind == kData && !marksOwn w.op then x.count + 1 else x.count
      let full := t.kind == kData && !marksOwn w.op && decide (2 ^ w.bl.val ≤ n)
      let k := if full then kLast else t.kind
      let ends := k == kLast || k == kEos
      let x1 := { x with
        mem := { x.mem with queue := rest }, count := if ends then 0 else n, self := if ends then 0 else if t.kind == kMarker then x.self else t.payload,
        ended := x.ended || k == kEos }
      if (x.readers .result).isEmpty then x1 else { x1 with result := Latch.put { t with kind := k } }
  | _, _ => x

/-- A cell emits tokens: they leave one by one, the first at once. -/
def Cell.push (x : Cell) (ts : List Token) : Cell :=
  Cell.drain { x with mem := { x.mem with queue := x.mem.queue ++ ts } }

/-! ### Where an output leads (R98, R188) -/

inductive Land
  | cell (c : Nat) (d : Dir) | port (n : Nat) | ma (k : Nat) | nowhere
  deriving DecidableEq, Repr

/-- The latch at the end of the path of an output of cell c. -/
def landing (c : Nat) (d : Dir) (hop : Nat) : Land :=
  let row := c / 32
  let col := c % 32
  let e := stepCell row col d (hop + 1)
  if inGrid e then .cell (32 * e.1.toNat + e.2.toNat) (opposite d)
  else if d == .w && e.2 == -1 then .port row
  else if d == .e && e.2 == 32 then .port (16 + row)
  else if d == .s && e.1 == 16 && col % 2 == 0 then .ma (col / 2)
  else .nowhere

/-- The cell beside an edge port, and the link of it that the port drives (R95, R210). -/
def neighbourOf (n : Nat) : Nat × Dir := if n < 16 then (32 * n, .w) else (32 * (n - 16) + 31, .e)

/-! ### A step's configuration (R57 to R59, R98, R213, R324, R343) -/

/-- The number of a node: a cell's own, or 512 plus an edge port's. -/
def portNode (n : Nat) : Nat := 512 + n

def confNode : ConfRec → Option Nat
  | .cell row col _ _ => some (32 * row.val + col.val)
  | .port n _ _ => some (portNode n.val)
  | _ => none

/-- The links that a node's router word drives, express hops included, as numbers. -/
def drivenLinks (row col : Int) (w : RouterWord) : List Nat :=
  dirs.flatMap fun d => match w.out d with
    | none => []
    | some o => (List.range (o.hop.val + 1)).map fun (i : Nat) =>
        let k : Int := i
        let e : Int × Int := match d with
          | .n => (row - k, col) | .s => (row + k, col) | .e => (row, col + k) | .w => (row, col - k)
        (((e.1 + 1) * 64 + (e.2 + 1)) * 4 + dirNo d).toNat

def confLinks : ConfRec → List Nat
  | .cell row col _ w => drivenLinks row.val col.val w
  | .port n _ w => if n.val < 16 then drivenLinks n.val (-1) w else drivenLinks (n.val - 16 : Nat) 32 w
  | _ => []

def confWord : ConfRec → Option CellWord
  | .cell _ _ w _ => w
  | .port _ w _ => some w
  | _ => none

/-- The gauge declaration that a record's word names (R341). -/
def confDeclared (r : ConfRec) : Option Nat :=
  match confWord r with
  | some w => if w.op == .stat || (w.op == .qnt && w.sub.val == 1) then some (w.index.toNat % 4096) else none
  | none => none

/-- Unit and coordinates of a record, as a fault word or a detail word names them (R419). -/
def confWhere : ConfRec → Nat × Nat
  | .cell row col _ _ => (1, 32 * row.val + col.val)
  | .port n _ _ => (2, n.val)
  | .window w => (2, w.port.val)
  | .rill _ => (1, 0)

/-- The same for the bits of a record that is refused. -/
def rawWhere (n : Nat) : Nat × Nat :=
  if fld n 192 8 = 1 then (1, fld n 204 5 + 32 * fld n 200 4) else if fld n 192 8 = 4 then (1, 0) else (2, fld n 200 6)

/-- A port cell's place in a chain: chain id, predecessor, own and successor numbers (R97, R213). -/
def chainOf (r : ConfRec) : Option (Nat × Nat × Nat × Nat) :=
  match r with
  | .port _ w _ =>
    if (w.op == .mld || w.op == .mst || w.op == .mamo) && w.count.toNat / 2 ^ 8 % 2 ^ 8 != 0 then
      some (w.index.toNat, w.count.toNat / 2 ^ 16 % 2 ^ 8, w.count.toNat / 2 ^ 8 % 2 ^ 8, w.count.toNat % 2 ^ 8)
    else none
  | _ => none

/-- Follow the successor numbers of a chain from a member: how many members the line holds. -/
def chainWalk (ms : List (Nat × Nat × Nat)) : Nat → Nat → Nat
  | 0, _ => 0
  | fuel + 1, own =>
    match ms.find? (fun m => m.2.1 == own) with
    | none => 0
    | some m => if m.2.2 = 0 then 1 else 1 + chainWalk ms fuel m.2.2

/-- Whether the members of one chain form one line with its head and tail (R213). -/
def chainOk (ms : List (Nat × Nat × Nat)) : Bool :=
  let owns := ms.map (·.2.1)
  decide owns.Nodup && (ms.filter (·.1 == 0)).length == 1 && (ms.filter (·.2.2 == 0)).length == 1 &&
    ms.all (fun m => m.2.2 == 0 || ms.any (fun x => x.2.1 == m.2.2 && x.1 == m.2.1)) &&
    (match ms.find? (·.1 == 0) with
      | some h => chainWalk ms ms.length h.2.1 == ms.length
      | none => false)

/-- Whether a record clashes with the earlier ones of its image. -/
def confClash (before : List ConfRec) (r : ConfRec) : Bool :=
  ((confNode r).isSome && before.any (fun b => confNode b == confNode r)) ||
  before.any (fun b => (confLinks b).any (confLinks r).contains) || !decide (confLinks r).Nodup ||
  (match r with
    | .window w => before.any fun b => match b with
        | .window v => v.port == w.port && (v.ent == w.ent || (decide (v.base < w.base + w.len) && decide (w.base < v.base + v.len)))
        | _ => false
    | .rill x => before.any fun b => match b with
        | .rill y => y.node == x.node || y.decl == x.decl
        | _ => false
    | _ => false)

/-- Whether a record names something that its image lacks: a port cell, a chain in order. -/
def confLacks (all : List ConfRec) (r : ConfRec) : Bool :=
  (match r with
    | .window w => !all.any fun b => confNode b == some (portNode w.port.val)
    | _ => false) ||
  (match chainOf r with
    | some c => !chainOk (all.filterMap fun b => match chainOf b with
        | some x => if x.1 = c.1 then some x.2 else none
        | none => none)
    | none => false)

/-- Whether a record names a gauge declaration that no adder node of its step carries (R343). -/
def confUncarried (all : List ConfRec) (r : ConfRec) : Bool :=
  match confDeclared r with
  | some d => !all.any fun b => match b with
      | .rill x => x.decl == d
      | _ => false
  | none => false

/-- Why an image of a step is refused: its status, the unit and coordinates named, the record's index; `whole` when the step is
refused as a whole (R56, R58, R343). -/
structure ConfRefusal where
  status : Nat
  unit   : Nat
  coord  : Nat
  record : Nat
  whole  : Bool
  deriving DecidableEq, Repr

/-- A record read from its bits. -/
abbrev ConfRead := BitVec 256 × Except ConfReject ConfRec
def confRead (gauges : Nat) (bits : List (BitVec 256)) : List ConfRead := bits.map fun b => (b, decodeConfRec gauges b.toNat)
/-- The records of an image that can be read. -/
def confOk (rs : List ConfRead) : List ConfRec := rs.filterMap fun x => x.2.toOption

/-- The refusal of a record that names it. -/
def refuseAt (status i : Nat) (w : Nat × Nat) : ConfRefusal := { status := status, unit := w.1, coord := w.2, record := i, whole := false }

/-- The first record of an image that is refused, in ascending order: its type, its words, an earlier record that it clashes with,
something that it names and the image lacks (R56, R58, R59, R98, R213, R324, R343). -/
def confFirst (all : List ConfRec) : List ConfRead → Nat → List ConfRec → Option ConfRefusal
  | [], _, _ => none
  | (b, .error .type) :: _, i, _ => some (refuseAt 0x06 i (rawWhere b.toNat))
  | (b, .error .word) :: _, i, _ => some (refuseAt 0x07 i (rawWhere b.toNat))
  | (_, .ok r) :: t, i, acc =>
    if confClash acc r || confLacks all r then some (refuseAt 0x07 i (confWhere r)) else confFirst all t (i + 1) (r :: acc)

/-- The whole check of a configuration image: its records, then the step as a whole (R58, R59, R343). -/
def confCheck (gauges : Nat) (bits : List (BitVec 256)) : Except ConfRefusal (List ConfRec) :=
  let rs := confRead gauges bits
  let all := confOk rs
  match confFirst all rs 0 [] with
  | some e => .error e
  | none =>
    match all.zipIdx.find? fun x => confUncarried all x.1 with
    | some (r, i) => .error { refuseAt 0x07 i (confWhere r) with whole := true }
    | none => .ok all

/-- The records of a step that stands in a region. -/
def State.slotConf (s : State) (x : StepSlot) : List ConfRec :=
  match Tbl.find s.images x.image with
  | none => []
  | some img =>
    match img.steps[x.idx]? with
    | none => []
    | some st =>
      match confCheck img.gauges.length st.confs with
      | .ok rs => rs
      | .error _ => []

/-! ### Installing (R60, R129) -/

def OutState.done (o : OutState) (on : Bool) : Bool := !on || (o.eosSent && o.latch.isNone)

/-- Whether a cell's configuration has ended: eos is taken and has passed every enabled output (R58, R129). -/
def Cell.isOver (x : Cell) : Bool :=
  (x.word.isNone || (x.ended && x.mem.queue.isEmpty)) && x.result.free &&
    dirs.all fun d => (x.out d).done (x.router.out d).isSome

def Port.empty : Port :=
  { step := 0,
    word := { op := .mov, width := .w32, fmt := .f32, sub := 0, rnd := .rne, sat := .ieee, comm := false, ina := .none, inb := .none,
              inc := .none, pred := .none, bfp := false, bw := 0, bl := 0, index := 0, const := 0, count := 0 },
    router := routerOff, link := Latch.empty, out := none, queue := [], pred := none, held := [], count := 0,
    stopped := false, ended := true, run := none, round := 0, posted := false, tile := Tile.empty, blockE := 0, self := 0,
    opst := OutState.init }

def Region.port (r : Region) (n : Nat) : Port := Tbl.look r.ports n Port.empty
def Region.setPort (r : Region) (n : Nat) (x : Port) : Region := { r with ports := Tbl.put r.ports n x }

/-- A faulted binding of the step that a port leaves keeps its place while elements of it are at the arrays; its holder completes when
the course retires (R126). -/
def Port.keepRun (x : Port) : Option Running :=
  match x.run with
  | some b => if b.faulted && b.outstanding != 0 then some b else none
  | none => none

/-- A port in the free pool. -/
def Port.leave (x : Port) (num : Nat) : Port := { Port.empty with step := num, link := { x.link with taken := [] }, run := x.keepRun }

/-- The step whose configuration a node holds, and whether that has ended. -/
def Region.nodeStep (r : Region) (node : Nat) : Nat := if node < 512 then (r.cell node).step else (r.port (node - 512)).step
def Region.nodeOver (r : Region) (node : Nat) : Bool :=
  if node < 512 then (r.cell node).isOver else (r.port (node - 512)).ended && (r.port (node - 512)).out.isNone

/-- A cell at the start of a step: what stands in its links belongs to the new step (R60, R129). -/
def Cell.start (x : Cell) (step : Nat) (w : Option CellWord) (ro : RouterWord) : Cell :=
  let fresh (l : Latch) : Latch := { l with taken := [] }
  let mem := match w with
    | none => CellMem.init
    | some c => { CellMem.init with lanes := List.replicate (32 / laneBits c.width) none, codes := some (c.rnd, c.sat),
                                    ctr := c.count.toNat % 2 ^ laneBits c.width }
  { Cell.free with
    step := step, word := w, router := ro, linkN := fresh x.linkN, linkE := fresh x.linkE, linkS := fresh x.linkS,
    linkW := fresh x.linkW, mem := mem }

/-- A cell back in the free pool. -/
def Cell.leave (x : Cell) (step : Nat) : Cell := Cell.start x step none routerOff

/-- Walk a window's range, one page at a time: the last page's base and the attributes when the pages are contiguous and agree
(R325). The installation is made once the walk caches hold the tables of its pages (State.walked; log entry 65). -/
def State.walkRange (d : Nat) (asid : BitVec 16) : Nat → Nat → Nat → Option (Nat × Bool × Bool) → State → Option (Nat × Bool × Bool) × State
  | 0, _, _, acc, s => (acc, s)
  | fuel + 1, va, left, acc, s =>
    if left = 0 then (acc, s)
    else
      match (s.walkDown d asid va 4).walkOne d asid va with
      | (.page e, s1) =>
        let pa := e.pa va
        if s1.protectedPa pa then (none, s1)
        else
          let step := if left < 4096 then left else 4096
          match acc with
          | none => State.walkRange d asid fuel (va + 4096) (left - step) (some (pa, e.wr, e.clsW)) s1
          | some (base, wr, cls) =>
            if wr == e.wr && cls == e.clsW && pa == base + 4096 then
              State.walkRange d asid fuel (va + 4096) (left - step) (some (pa, wr, cls)) s1
            else (none, s1)
      | (_, s1) => (none, s1)

/-- Latch one window of a port of a die at installation (R325). -/
def State.latchWindow (s : State) (d : Nat) (asid : BitVec 16) (w : WindowRec) : Window × State :=
  match State.walkRange d asid (w.len / 4096) w.base w.len none s with
  | (some (lastPa, wr, cls), s1) =>
    (if w.wr && !wr then { recd := w, active := false, pbase := 0, wr := false, clsW := false }
      else { recd := w, active := true, pbase := lastPa - (w.len - 4096), wr := wr, clsW := cls }, s1)
  | (none, s1) => ({ recd := w, active := false, pbase := 0, wr := false, clsW := false }, s1)

/-- Latch windows in order. -/
def State.latchWindows (d : Nat) (asid : BitVec 16) : List WindowRec → List Window → State → List Window × State
  | [], acc, s => (acc.reverse, s)
  | w :: t, acc, s => let (x, s1) := s.latchWindow d asid w; State.latchWindows d asid t (x :: acc) s1

/-- Whether the spill window among these is usable, if there is one (R325). -/
def spillOk (ws : List Window) : Bool := ws.all fun w => !w.recd.spill || (w.active && !w.clsW)

/-- Release the contexts of a graph (R271). -/
def State.releaseGraph (s : State) (ctx : Nat) : State :=
  { s with arrays := s.arrays.map fun e => (e.1, { e.2 with ctxs := Tbl.drop e.2.ctxs ctx }) }

/-- The graphs that older steps attached and no binding has met. -/
def PortSide.oldGraphs (x : PortSide) (step : Nat) : List Nat :=
  x.queue.filterMap fun e => match e with
    | .weir _ _ ctx n _ => if n < step then some ctx else none
    | _ => none

/-- The queue of a port whose older steps' gauge attachments have ended (R257). -/
def PortSide.atSplice (x : PortSide) (step : Nat) : List PortEntry :=
  x.queue.filter fun e => match e with
    | .gbind _ n _ => decide (step ≤ n)
    | _ => true

/-- A step whose spill window failed does not start: no other node installs it, handler 0 is suspended, and a node that holds its word
fires no more (R325). -/
def Region.refuseStep (r : Region) (num : Nat) : Region :=
  let h := r.handler 0
  { r.setHandler 0 { h with st := if h.st == .active then .suspended else h.st } with
    steps := r.steps.map fun y => if y.num = num then { y with refused := true } else y
    cells := r.cells.map fun e => (e.1, if e.2.step = num then { e.2 with stopped := true } else e.2)
    ports := r.ports.map fun e => (e.1, if e.2.step = num then { e.2 with stopped := true } else e.2) }

/-- Install a port cell's word of a step: its windows are latched, a weir graph or gauge record attached to its bindings by
the old step ends (R257, R325). -/
def State.installPort (s0 : State) (p n : Nat) (x : StepSlot) (recs : List ConfRec) (w : CellWord) (ro : RouterWord) : State :=
  let mine := recs.filterMap fun b => match b with
    | .window v => if v.port.val = n then some v else none
    | _ => none
  let (ws, s) := State.latchWindows (dieOfPlace p) (s0.region p).asid mine [] s0
  let r := s.region p
  if !spillOk ws then (s.setRegion p (r.refuseStep x.num)).unitFault p .config 2 (coordPort n) 0 0 0 none 0
  else
    let old := r.port n
    let pt := { Port.empty with step := x.num, word := w, router := ro, link := { old.link with taken := [] }, ended := false,
                                 run := old.keepRun }
    let old1 := r.side n
    let cls := match old1.clsNext with
      | some (k, c) => if k = x.num then some c else none
      | none => none
    let clsNext := match old1.clsNext with
      | some (k, c) => if x.num < k then some (k, c) else none
      | none => none
    let side := { old1 with
      windows := ws, latch := none, xlatches := [], grec := none, cls := cls, clsNext := clsNext,
      queue := old1.atSplice x.num }
    s.setRegion p ((r.setPort n pt).setSide n side)

/-- The steps that a node may go on to, in order: spliced, loaded and not refused. -/
def Region.laterSteps (r : Region) (step : Nat) : List StepSlot :=
  r.steps.filter fun x => decide (step < x.num) && decide (x.num ≤ r.stepNo) && x.loaded && !x.refused

/-- The word of a node among a step's records. -/
def findNode (recs : List ConfRec) (node : Nat) : Option ConfRec := recs.find? (fun b => confNode b == some node)

/-- A node whose configuration has ended goes on: to the next step that has a word for it once that step is open, or to the
free pool when later steps have none (R129, R281). -/
def State.advanceIn (s : State) (p node : Nat) : List StepSlot → Option Nat → State
  | [], none => s
  | [], some num =>
    let r := s.region p
    if node < 512 then
      (if (Tbl.find r.cells node).isNone then s else s.setRegion p (r.setCell node ((r.cell node).leave num)))
    else if (Tbl.find r.ports (node - 512)).isNone then s
    else s.setRegion p (r.setPort (node - 512) ((r.port (node - 512)).leave num))
  | x :: t, last =>
    if s.tide < x.openAt then s
    else
      let recs := s.slotConf x
      match findNode recs node with
      | some (.cell _ _ w ro) => s.setRegion p ((s.region p).setCell node (((s.region p).cell node).start x.num w ro))
      | some (.port _ w ro) => s.installPort p (node - 512) x recs w ro
      | _ => s.advanceIn p node t (match last with
          | none => some x.num
          | some _ => some x.num)

def State.advanceNode (s : State) (p node : Nat) : State :=
  let r := s.region p
  if r.nodeOver node then s.advanceIn p node (r.laterSteps (r.nodeStep node)) none else s

/-- After a firing or a move at a cell: if that was its final one, its node goes on. -/
def State.settle (s : State) (p c : Nat) : State := s.advanceNode p c

/-- The nodes that a splice concerns: those that hold a configuration and those that the new step names. The ports come first: they
latch their windows, on which the start of the step rests (R325). -/
def State.spliceNodes (s : State) (p : Nat) : List Nat :=
  let r := s.region p
  let named := (r.laterSteps 0).flatMap fun x => (s.slotConf x).filterMap confNode
  let all := (r.ports.map (fun e => portNode e.1) ++ r.cells.map (·.1) ++ named).eraseDups
  all.filter (fun n => decide (512 ≤ n)) ++ all.filter fun n => decide (n < 512)

/-- Every node of a region that can go on does (R129, R281). -/
def State.advanceAll (s : State) (p : Nat) : State := (s.spliceNodes p).foldl (fun s n => s.advanceNode p n) s

/-- Whether a step that was spliced has torn down: each of its nodes has installed it and ended, and none holds it (R128). -/
def State.tornDown (s : State) (p : Nat) (x : StepSlot) : Bool :=
  let r := s.region p
  ((s.slotConf x).filterMap confNode).all fun n =>
    decide (x.num < r.nodeStep n) || (decide (r.nodeStep n = x.num) && r.nodeOver n)

/-- Whether a pair may still be consumed: teardown discards those of a step that is over (R328). -/
def State.pairLives (s : State) (p : Nat) (x : PairOut) : Bool :=
  (s.region p).steps.any fun y => y.num == x.step && !s.tornDown p y

/-- The fabric of a region moves in these modes: a stopped, halted or draining course's tokens go on; a region that a debugger
holds, that is frozen or that has no course stands still (R429, R435, R459). -/
def Region.moves (r : Region) : Bool :=
  match r.mode with
  | .running => true | .stopped => true | .halted => true | .draining => true
  | .placed => false | .held => false | .frozen => false | .retired => false | .free => false

/-- Whether a cell of a chained successor's configuration waits for handler 0 to start: it contributes to a pool or reports to a gauge
record, which the successor declares only then (R132, R439). -/
def Region.awaitsStart (r : Region) (x : Cell) : Bool :=
  r.succ == some x.step && (match x.word with
    | some w => w.op == .poolc || w.op == .stat || w.op == .qnt || w.op == .cvt
    | none => false)

/-- Whether a node whose only inputs are self or const is told that its step has ended (R182). -/
def Region.quiet (r : Region) (step : Nat) : Bool := decide (step < r.stepNo) || (r.finished && r.succ != some step)

end Sys2Proof.Machine
end

