-- ==== Sys2Proof/Machine/Cells.lean ====
section
/-! DEFINITION. Compute cells: what stands at the inputs, faults, data firings of every operation, eos and marker firings,
and the column function units (R177 to R186, R192 to R221). -/
namespace Sys2Proof.Machine

/-! ### Cuts (R184, R428) -/

/-- Whether markers have been injected into a region for a pre-emption. -/
def State.cutForSave (s : State) (p : Nat) : Bool :=
  match (s.die (dieOfPlace p)).preempt with
  | some x => x.marked.contains p
  | none => false

/-- Whether a cut is open in a region, for a pre-emption or for `snap`. -/
def State.cutOpen (s : State) (p : Nat) : Bool := (s.region p).sif.snap.isSome || s.cutForSave p

/-- Whether markers of an open cut enter a region: it holds the configuration of a single step, which is loaded and which the matrix unit has reached too
(R428). -/
def State.cutReady (s : State) (p : Nat) : Bool :=
  let r := s.region p
  s.cutOpen p && decide ((r.steps.filter fun x => decide (x.num ≤ r.stepNo) && !s.tornDown p x).length ≤ 1) &&
    (r.steps.all fun x => x.loaded || decide (r.stepNo < x.num)) && decide (r.stepNo ≤ r.matrix.step)

/-- A node that has made its marker firing for a pre-emption makes no further firing (R428). -/
def State.cutHolds (s : State) (p : Nat) (x : Cell) : Bool := x.marked && s.cutForSave p

/-! ### Faults of a cell (R103, R181, R183, R218, R422) -/

/-- The pool type that a poolc FMT matches (R217). -/
def poolTypeOfFmt : Fmt → PoolType
  | .i32 => .i32
  | .n32 => .n32
  | _ => .f32

/-- A cell calls Fault and does not fire again; a poolc poisons its lane as a faulted contributor. -/
def State.cellFault (s : State) (p c : Nat) (cause : Cause) (detail sel token : Nat) (tkind : Option Nat) : State :=
  let x := s.cell p c
  let s1 := s.setCell p c { x with stopped := true }
  let s2 := match x.word with
    | some w =>
      if w.op == CellOp.poolc then
        (s1.contribute p (16 + c) x.step (w.index.toNat / 2 ^ 10) (w.index.toNat / 2 ^ 6 % 16) (poolTypeOfFmt w.fmt) 0 (some 3)).2
      else s1
    | none => s1
  s2.unitFault p cause 1 (coordCell c) detail 0 token tkind sel

/-- A fault that names a token. -/
def State.cellFaultToken (s : State) (p c : Nat) (cause : Cause) (sel : Nat) (t : Token) : State :=
  s.cellFault p c cause 0 sel t.payload.toNat (some t.kind.toNat)

/-! ### Inputs (R177, R181) -/

/-- The counted inputs of a word: those whose select is a link, but for a side port. -/
def countedInputs (w : CellWord) : List Nat :=
  [0, 1, 2, 3].filter fun i => (match wordSel w i with
    | .link _ => true
    | _ => false) && !(i == 3 && w.op.hasSide)

/-- The token at an input that its link delivers. -/
def Cell.at_ (x : Cell) (w : CellWord) (i : Nat) : Option Token :=
  match wordSel w i with
  | .link d => x.headOf (.link d) i
  | _ => none

def Cell.takeAt (x : Cell) (w : CellWord) (i : Nat) : Cell :=
  match wordSel w i with
  | .link d => x.takeFrom (.link d) i
  | _ => x

def Cell.takeAll (x : Cell) (w : CellWord) (is : List Nat) : Cell := is.foldl (fun x i => x.takeAt w i) x

/-- Whether a cell's input stream is bfp, so that it takes headers (R181). -/
def takesHeader (w : CellWord) (i : Nat) : Bool :=
  match w.op with
  | .mov => w.fmt == .bfp
  | .sel => w.fmt == .bfp && i ≤ 1
  | .dqn => i == 0
  | _ => false

/-- The fault that a token at a counted input raises, none when the input takes its kind (R181). -/
def inputFault (w : CellWord) (i : Nat) (t : Token) : Option Cause :=
  if isDataToken t then none
  else if t.kind == kHeader then (if takesHeader w i then none else some .kind)
  else if t.kind == kEos || t.kind == kMarker then none
  else if t.kind == kFault then some (Cause.ofCode t.cause.toNat)
  else if t.kind == kPoison then (if w.op == .poolc then none else some .soft)
  else some .kind

/-- The fault that a token at a side port raises (R181). -/
def sideFault (t : Token) : Option Cause :=
  if t.kind == kCtl || t.kind == kEos || t.kind == kMarker then none
  else if t.kind == kPoison then some .soft
  else some .kind

/-- Whether an operand that the operation reads has select 0: its value is open (log entry 11). -/
def opensValue (w : CellWord) : Bool :=
  (w.ina == .none && w.op != .cnt) || (w.op.readsB && w.inb == .none) || (w.op.readsC && w.inc == .none)

/-- What a cell can do. -/
inductive Ready
  /-- Nothing: a condition of a firing does not hold. -/
  | no
  /-- A pending token left, or the cell faulted. -/
  | act (s : State)
  /-- A data firing, with the tokens at a, b, c and PRED. -/
  | fire (s : State) (x : Cell) (w : CellWord) (ts : List Token)

/-- Whether nth-firing breakpoints of a region name a cell (R458). -/
def firingBreak (c n : Nat) (w2 : DWord) : Bool := w2.toNat % 2 ^ 9 == c && w2.toNat / 2 ^ 32 == n

/-- The tokens of a firing: links, self and const; an operand that is read and selects nothing has an open value. -/
def firingToken (s : State) (x : Cell) (w : CellWord) (i : Nat) : Token :=
  match wordSel w i with
  | .link d => (x.headOf (.link d) i).getD (mkToken kData 0)
  | .self => { kind := kData, payload := x.self, cause := 0 }
  | .const => { kind := kData, payload := w.const, cause := 0 }
  | _ => { kind := kData, payload := (Config.freeWord s.fresh).setWidth 32, cause := 0 }

/-- Check the inputs that a data firing of these counted inputs needs. `apart` says that the operation takes its heads one
by one and is exempt from R183. -/
def State.readyAt (s : State) (p c : Nat) (x : Cell) (w : CellWord) (inputs : List Nat) : Ready :=
  let side := if w.op.hasSide then x.at_ w 3 else none
  match side.bind (fun t => (sideFault t).map fun k => (k, t)) with
  | some (k, t) => .act ((s.setCell p c (x.takeAt w 3)).cellFaultToken p c k 5 t)
  | none =>
    match inputs.findSome? (fun i => (x.at_ w i).bind fun t => (inputFault w i t).map fun k => (i, k, t)) with
    | some (i, k, t) => .act ((s.setCell p c (x.takeAt w i)).cellFaultToken p c k (i + 1) t)
    | none =>
      let kinds := inputs.map fun i => (i, (x.at_ w i).map (·.kind))
      let eos := kinds.filter fun k => k.2 == some kEos
      let data := kinds.filter fun k => match k.2 with
        | some n => n != kEos && n != kMarker
        | none => false
      if !eos.isEmpty && !data.isEmpty && w.op != .join then
        let first := (eos.map (·.1)).headD 0
        .act ((s.setCell p c (x.takeAll w (data.map (·.1)))).cellFault p c .ragged 0 (first + 1) 0 none)
      else if data.length = inputs.length then
        .fire (if opensValue w then { s with fresh := s.fresh + 1 } else s) x w ([0, 1, 2, 3].map fun i => firingToken s x w i)
      else .no

/-- The conditions that every firing of a cell shares (R177): a cell of the operation that has not stopped or ended, in a
region that moves, with nothing left to emit and its result latch free; an xfn asks for room in its reply queue instead
(R204). -/
def State.prepare (s : State) (p c : Nat) (op : CellOp) : Ready :=
  let r := s.region p
  let x := r.cell c
  match x.word with
  | none => .no
  | some w =>
    if w.op != op || !r.moves || x.stopped || x.ended || s.cutHolds p x || r.awaitsStart x then .no
    else if !x.mem.queue.isEmpty then (if x.canEmit then .act ((s.setCell p c x.drain).settle p c) else .no)
    else if !x.canEmit && w.op != .xfn then .no
    else if (countedInputs w).isEmpty && w.op != .cnt && r.quiet x.step then .no
    else
      let inputs := if w.op == .sel && w.fmt == .bfp && x.mem.block.isSome then (countedInputs w).filter (· != 2) else countedInputs w
      s.readyAt p c x w inputs

/-- A firing ends: the cell as the operation leaves it. -/
def State.fired (s : State) (p c : Nat) (x : Cell) : State := (s.setCell p c { x with fired := x.fired + 1 }).settle p c

/-- A firing of a cell, unless a breakpoint stops the region in the cycle before it (R458). What is not a firing it lets be. -/
def State.breakFire (s : State) (p c : Nat) (f : State → State) : State :=
  let n := ((s.region p).cell c).fired
  let t := f s
  if ((t.region p).cell c).fired = n then t
  else
    match s.breakAt p 2 (firingBreak c (n + 1)) with
    | (true, s1) => s1
    | (false, s1) => f s1

/-- A firing whose operation is given: how it changes the state and the cell whose tokens are taken. -/
def State.fireWith (s : State) (p c : Nat) (op : CellOp) (f : State → Cell → CellWord → List Token → State) : Out :=
  match s.prepare p c op with
  | .no => s.idle
  | .act s1 => .next s1
  | .fire s1 x w ts => .next (s1.breakFire p c fun s => f s x w ts)

def payloadAt (ts : List Token) (i : Nat) : Nat := ((ts[i]?).map (·.payload.toNat)).getD 0
def kindAt (ts : List Token) (i : Nat) : BitVec 4 := ((ts[i]?).map (·.kind)).getD 0

/-- The payload of the predicate of a word, if it has one. -/
def predOf (w : CellWord) (ts : List Token) : Option Nat :=
  match w.pred with
  | .none => none
  | _ => some (payloadAt ts 3)

/-- Whether a predicate leaves a whole token true: any false lane makes it false (R186). -/
def wholeTrue (w : CellWord) (ts : List Token) : Bool :=
  match predOf w ts with
  | none => true
  | some v => (splitLanes (laneBits w.width) v).all (· != 0)

/-! ### Operations 0x01 to 0x14 and rcpe (R193 to R196, R207) -/

/-- A lane-wise firing: one token from every counted input, one result. -/
def State.lanesFire (p c : Nat) (s : State) (x : Cell) (w : CellWord) (ts : List Token) : State :=
  let r := tokenOp w (payloadAt ts 0) (payloadAt ts 1) (payloadAt ts 2) (predOf w ts)
  (s.raiseFlags p x.step r.2).fired p c ((x.takeAll w (countedInputs w)).push [mkToken kData r.1])

/-- What a bfp token makes of a block: none when it is out of place or malformed (R37). -/
def bfpBlock (w : CellWord) (block : Option Nat) (t : Token) : Option (Option Nat) :=
  if t.kind == kHeader then
    match block, readHeader t.payload.toNat with
    | none, some (l, wd, _) => if l = 4 * 2 ^ w.bl.val ∧ wd = w.bw.val + 2 then some (some (2 ^ w.bl.val)) else none
    | _, _ => none
  else
    match block with
    | none => none
    | some n => some (if n ≤ 1 then none else some (n - 1))

/-- A kind fault of a bfp stream at an input: the token is discarded (R37, R103). -/
def State.bfpFault (s : State) (p c : Nat) (x : Cell) (w : CellWord) (ts : List Token) (i : Nat) : State :=
  (s.setCell p c (x.takeAt w i)).cellFaultToken p c .kind (i + 1) ((ts[i]?).getD (mkToken kData 0))

/-- mov: with FMT 9 headers and data pass unchanged (R195). -/
def State.movFire (p c : Nat) (s : State) (x : Cell) (w : CellWord) (ts : List Token) : State :=
  if w.fmt == .bfp then
    match bfpBlock w x.mem.block ((ts[0]?).getD (mkToken kData 0)) with
    | none => s.bfpFault p c x w ts 0
    | some b =>
      let x1 := x.takeAll w (countedInputs w)
      s.fired p c (Cell.push { x1 with mem := { x1.mem with block := b } }
        [mkToken (if kindAt ts 0 == kHeader then kHeader else kData) (payloadAt ts 0)])
  else s.lanesFire p c x w ts

/-- sel: with FMT 9 the token at c chooses whole blocks, and is taken at the header firing only (R195); a false
lane of the predicate keeps lane a (R186). -/
def State.selFire (p c : Nat) (s : State) (x : Cell) (w : CellWord) (ts : List Token) : State :=
  if w.fmt == .bfp then
    match bfpBlock w x.mem.block ((ts[0]?).getD (mkToken kData 0)), bfpBlock w x.mem.block ((ts[1]?).getD (mkToken kData 0)) with
    | none, _ => s.bfpFault p c x w ts 0
    | some _, none => s.bfpFault p c x w ts 1
    | some b, some b' =>
      if b != b' then s.bfpFault p c x w ts 1
      else
        let head := kindAt ts 0 == kHeader
        let a := if head then payloadAt ts 2 != 0 else x.mem.chosenA
        let x1 := x.takeAll w (if head then countedInputs w else (countedInputs w).filter (· != 2))
        s.fired p c (Cell.push { x1 with mem := { x1.mem with block := b, chosenA := a } }
          [mkToken (if head then kHeader else kData)
            (maskLanes (laneBits w.width) (predOf w ts) (payloadAt ts 0) (if a then payloadAt ts 0 else payloadAt ts 1))])
  else s.lanesFire p c x w ts

/-- CELL_ADD (R193). -/
def execCellAdd (p c : Nat) (s : State) : Out := s.fireWith p c .add (State.lanesFire p c)
/-- CELL_SUB (R193). -/
def execCellSub (p c : Nat) (s : State) : Out := s.fireWith p c .sub (State.lanesFire p c)
/-- CELL_MUL (R193). -/
def execCellMul (p c : Nat) (s : State) : Out := s.fireWith p c .mul (State.lanesFire p c)
/-- CELL_FMA (R193). -/
def execCellFma (p c : Nat) (s : State) : Out := s.fireWith p c .fma (State.lanesFire p c)
/-- CELL_MIN (R193). -/
def execCellMin (p c : Nat) (s : State) : Out := s.fireWith p c .min (State.lanesFire p c)
/-- CELL_MAX (R193). -/
def execCellMax (p c : Nat) (s : State) : Out := s.fireWith p c .max (State.lanesFire p c)
/-- CELL_ABS (R193). -/
def execCellAbs (p c : Nat) (s : State) : Out := s.fireWith p c .abs (State.lanesFire p c)
/-- CELL_NEG (R193). -/
def execCellNeg (p c : Nat) (s : State) : Out := s.fireWith p c .neg (State.lanesFire p c)
/-- CELL_AND (R193). -/
def execCellAnd (p c : Nat) (s : State) : Out := s.fireWith p c .and (State.lanesFire p c)
/-- CELL_OR (R193). -/
def execCellOr (p c : Nat) (s : State) : Out := s.fireWith p c .or (State.lanesFire p c)
/-- CELL_XOR (R193). -/
def execCellXor (p c : Nat) (s : State) : Out := s.fireWith p c .xor (State.lanesFire p c)
/-- CELL_SHL (R193). -/
def execCellShl (p c : Nat) (s : State) : Out := s.fireWith p c .shl (State.lanesFire p c)
/-- CELL_SHR (R193). -/
def execCellShr (p c : Nat) (s : State) : Out := s.fireWith p c .shr (State.lanesFire p c)
/-- CELL_SRA (R193). -/
def execCellSra (p c : Nat) (s : State) : Out := s.fireWith p c .sra (State.lanesFire p c)
/-- CELL_CMP (R194). -/
def execCellCmp (p c : Nat) (s : State) : Out := s.fireWith p c .cmp (State.lanesFire p c)
/-- CELL_SEL (R195). -/
def execCellSel (p c : Nat) (s : State) : Out := s.fireWith p c .sel (State.selFire p c)
/-- CELL_MOV (R195). -/
def execCellMov (p c : Nat) (s : State) : Out := s.fireWith p c .mov (State.movFire p c)
/-- CELL_SCALE (R193). -/
def execCellScale (p c : Nat) (s : State) : Out := s.fireWith p c .scale (State.lanesFire p c)
/-- CELL_POPC (R193). -/
def execCellPopc (p c : Nat) (s : State) : Out := s.fireWith p c .popc (State.lanesFire p c)
/-- CELL_CLZ (R193). -/
def execCellClz (p c : Nat) (s : State) : Out := s.fireWith p c .clz (State.lanesFire p c)

/-- CELL_RCPE (R207). -/
def execCellRcpe (p c : Nat) (s : State) : Out :=
  s.fireWith p c .rcpe fun s x w ts =>
    let r := rcpeValue (payloadAt ts 0)
    (s.raiseFlags p x.step r.2).fired p c ((x.takeAll w (countedInputs w)).push [mkToken kData r.1])

/-! ### Converting cells (R41, R197 to R200) -/

/-- The codes in force after the ctl token at the side port, if one waits; none when it selects a refused code or has a
reserved bit (R41). -/
def sideCodes (x : Cell) (w : CellWord) : Option (Option Token × Rnd × Sat) :=
  let now := x.mem.codes.getD (w.rnd, w.sat)
  match (if w.op.hasSide then x.at_ w 3 else none) with
  | none => some (none, now.1, now.2)
  | some t =>
    if t.kind != kCtl then some (none, now.1, now.2)
    else
      let n := t.payload.toNat
      let rnd := if bit n 5 then rndOf (fld n 0 3) else some now.1
      let sat := if bit n 6 then satOf (fld n 3 2) else some now.2
      match rnd, sat with
      | some m, some k => if n / 2 ^ 7 = 0 ∧ satOkFor w.op w.fmt w.sub.val k = true then some (some t, m, k) else none
      | _, _ => none

/-- At a burst boundary the cell takes a waiting ctl token, or faults on it (R41, R200): the cell after it. -/
def State.atBoundary (s : State) (p c : Nat) (x : Cell) (w : CellWord) (k : Cell → State) : State :=
  match sideCodes x w with
  | none =>
    match x.at_ w 3 with
    | some t => (s.setCell p c (x.takeAt w 3)).cellFaultToken p c .config 5 t
    | none => s
  | some (t, m, st) =>
    let x1 := if t.isSome then x.takeAt w 3 else x
    k { x1 with mem := { x1.mem with codes := some (m, st) } }

/-- Full output tokens from a list of lanes, and the lanes left over. -/
def packTokens (lw : Nat) : Nat → List Nat → List Nat × List Nat
  | 0, es => ([], es)
  | fuel + 1, es =>
    let n := 32 / lw
    if es.length < n then ([], es)
    else
      let (ts, rest) := packTokens lw fuel (es.drop n)
      (joinLanes lw (es.take n) :: ts, rest)

def cvtTarget (w : CellWord) : Fmt := (fmtOf w.sub.val).getD .f32

/-- cvt (R197): each element is converted, and full tokens are emitted. -/
def State.cvtFire (p c : Nat) (s : State) (x : Cell) (w : CellWord) (ts : List Token) : State :=
  let go (x : Cell) : State :=
    let codes := x.mem.codes.getD (w.rnd, w.sat)
    let src := splitLanes (fmtBits w.fmt) (payloadAt ts 0)
    let rs := src.map fun e => convertElem w.fmt (cvtTarget w) codes.1 codes.2 e
    let (out, rest) := packTokens (fmtBits (cvtTarget w)) 8 (x.mem.elems ++ rs.map (·.1))
    let x1 := x.takeAll w (countedInputs w)
    (s.raiseFlags p x.step (rs.foldl (fun f r => f ||| r.2) 0)).fired p c
      (Cell.push { x1 with mem := { x1.mem with elems := rest, boundary := kindAt ts 0 == kLast } } (out.map (mkToken kData)))
  if x.mem.boundary then s.atBoundary p c x w go else go x

/-- Tokens of one block or burst: data, the last one data-last. -/
def burstTokens : List Nat → List Token
  | [] => []
  | [v] => [mkToken kLast v]
  | v :: t => mkToken kData v :: burstTokens t

/-- Groups of n. -/
def groupsOf {α : Type} (n : Nat) : Nat → List α → List (List α)
  | 0, _ => []
  | fuel + 1, l => if l.isEmpty then [] else l.take n :: groupsOf n fuel (l.drop n)

/-- A tile ends: its train is sent when it counted something, and its counts clear (R341). -/
def State.endTile (s : State) (p c : Nat) (x : Cell) (w : CellWord) : Cell × State :=
  let x1 := { x with mem := { x.mem with tile := Tile.empty } }
  if x.mem.tile.words.isEmpty then (x1, s)
  else
    match s.recordOf p (w.index.toNat % 4096) with
    | none => (x1, s)
    | some id => (x1, s.sendTrain p (16 + c) x.step id x.mem.tile.words)

/-- The block that a qnt cell emits from its elements, missing ones +0 (R46, R47, R198). -/
def qntBlockOf (x : Cell) (w : CellWord) : BfpBlock :=
  let l := 4 * 2 ^ w.bl.val
  let es := x.mem.elems ++ List.replicate (l - x.mem.elems.length) 0
  let codes := x.mem.codes.getD (w.rnd, w.sat)
  let f := (floatFmtOf w.fmt).getD fmtF32
  if w.sub.val = 0 then qntBlock f (w.bw.val + 2) codes.1 codes.2 es else qntRecord f (w.bw.val + 2) x.mem.scale codes.1 codes.2 es

/-- Emit a qnt block; by record its saturations are counted into the cell's tile (R42, R341). -/
def State.qntEmit (s : State) (p c : Nat) (x : Cell) (w : CellWord) : Cell × State :=
  let b := qntBlockOf x w
  let l := 4 * 2 ^ w.bl.val
  let toks := mkToken kHeader (headerOf l (w.bw.val + 2) b.e) :: burstTokens ((groupsOf 4 64 b.ms).map packLanes8)
  let s1 := s.raiseFlags p x.step b.flags
  let x1 := { x with mem := { x.mem with elems := [] } }
  let (x2, s2) :=
    if w.sub.val = 0 then (x1, s1)
    else
      let t := x1.mem.tile
      let ws := if b.sats = 0 then t.words else bumpWord t.words 34 b.sats
      let x2 := { x1 with mem := { x1.mem with tile := { words := ws, n := t.n + l } } }
      if 4096 ≤ t.n + l then s1.endTile p c x2 w else (x2, s1)
  (x2.push toks, s2)

/-- qnt (R198, R349): collects a block; by record the scale is latched at its first element. -/
def State.qntFire (p c : Nat) (s : State) (x : Cell) (w : CellWord) (ts : List Token) : State :=
  if w.sub.val = 1 && !s.trainRoom p (16 + c) then s
  else
    let go (x : Cell) : State :=
      let es := x.mem.elems ++ splitLanes (fmtBits w.fmt) (payloadAt ts 0)
      let x1 := x.takeAll w (countedInputs w)
      let x2 := { x1 with mem := { x1.mem with elems := es } }
      if es.length < 4 * 2 ^ w.bl.val then s.fired p c x2
      else let (x3, s1) := s.qntEmit p c x2 w; s1.fired p c x3
    if x.mem.elems.isEmpty then
      s.atBoundary p c x w fun x =>
        let e := match s.recordOf p (w.index.toNat % 4096) with
          | some id => ((s.region p).genOf id).scale.toNat
          | none => 127
        go (if w.sub.val = 1 then { x with mem := { x.mem with scale := e } } else x)
    else go x

/-- dqn (R199): a header, then each data token's mantissas as elements; the last output of a block is data-last. -/
def State.dqnFire (p c : Nat) (s : State) (x : Cell) (w : CellWord) (ts : List Token) : State :=
  let t := (ts[0]?).getD (mkToken kData 0)
  let go (x : Cell) : State :=
    match bfpBlock w x.mem.block t with
    | none => s.bfpFault p c x w ts 0
    | some b =>
      let x1 := x.takeAll w (countedInputs w)
      if t.kind == kHeader then
        s.fired p c { x1 with mem := { x1.mem with block := b, blockE := t.payload.toNat % 256 } }
      else
        let codes := x.mem.codes.getD (w.rnd, w.sat)
        let f := (floatFmtOf w.fmt).getD fmtF32
        let rs := (splitLanes 8 t.payload.toNat).map fun e => dqnElem f (w.bw.val + 2) x.mem.blockE codes.1 codes.2 e
        let lw := fmtBits w.fmt
        let out := (packTokens lw 8 (rs.map (·.1))).1
        let toks := if b.isNone then burstTokens out else out.map (mkToken kData)
        (s.raiseFlags p x.step (rs.foldl (fun f r => f ||| r.2) 0)).fired p c
          (Cell.push { x1 with mem := { x1.mem with block := b } } toks)
  if t.kind == kHeader then s.atBoundary p c x w go else go x

/-- CELL_CVT (R197). -/
def execCellCvt (p c : Nat) (s : State) : Out := s.fireWith p c .cvt (State.cvtFire p c)
/-- CELL_QNT (R198). -/
def execCellQnt (p c : Nat) (s : State) : Out := s.fireWith p c .qnt (State.qntFire p c)
/-- CELL_DQN (R199). -/
def execCellDqn (p c : Nat) (s : State) : Out := s.fireWith p c .dqn (State.dqnFire p c)

/-! ### Folding and generating (R201 to R203) -/

/-- What acc emits: a lane that no true token reached carries zero (R201). -/
def accValue (x : Cell) (w : CellWord) : Nat := joinLanes (laneBits w.width) (x.mem.lanes.map (·.getD 0))

def Cell.accClear (x : Cell) : Cell := { x with mem := { x.mem with lanes := x.mem.lanes.map (fun _ => none), fold := 0 } }

/-- acc (R201). -/
def State.accFire (p c : Nat) (s : State) (x : Cell) (w : CellWord) (ts : List Token) : State :=
  let lw := laneBits w.width
  let as := splitLanes lw (payloadAt ts 0)
  let ps : List Nat := match predOf w ts with
    | none => as.map (fun _ => 1)
    | some v => splitLanes lw v
  let rs : List (Option Nat × Flags) := (List.range as.length).map fun j =>
    let old := (x.mem.lanes.getD j none)
    if ps.getD j 1 = 0 then (old, 0)
    else
      match old with
      | none => (some (as.getD j 0), 0)
      | some r => let t := foldOp w.fmt w.sub.val w.rnd w.sat r (as.getD j 0); (some t.1, t.2)
  let x1 := x.takeAll w (countedInputs w)
  let x2 := { x1 with mem := { x1.mem with lanes := rs.map (·.1), fold := x.mem.fold + 1 } }
  let s1 := s.raiseFlags p x.step (rs.foldl (fun f r => f ||| r.2) 0)
  if w.count.toNat ≠ 0 ∧ x.mem.fold + 1 = w.count.toNat then
    s1.fired p c (x2.accClear.push [mkToken kData (accValue x2 w)])
  else s1.fired p c x2

/-- The two tokens of a run's pair: r is data-last for each 2^BL-th pair (R202). -/
def runTokens (x : Cell) (w : CellWord) (k r : Word) : List Token × Nat :=
  let n := x.mem.pairs + 1
  let last := decide (2 ^ w.bl.val ≤ n)
  ([{ kind := kData, payload := k, cause := 0 }, { kind := if last then kLast else kData, payload := r, cause := 0 }],
    if last then 0 else n)

/-- runacc (R202): keys are compared as patterns. -/
def State.runaccFire (p c : Nat) (s : State) (x : Cell) (w : CellWord) (ts : List Token) : State :=
  let a := BitVec.ofNat 32 (payloadAt ts 0)
  let b := BitVec.ofNat 32 (payloadAt ts 1)
  let x1 := x.takeAll w (countedInputs w)
  match x.mem.run with
  | none => s.fired p c { x1 with mem := { x1.mem with run := some (b, a) } }
  | some (k, r) =>
    if b = k then
      let t := foldOp w.fmt w.sub.val w.rnd w.sat r.toNat a.toNat
      (s.raiseFlags p x.step t.2).fired p c { x1 with mem := { x1.mem with run := some (k, BitVec.ofNat 32 t.1) } }
    else
      let (toks, n) := runTokens x w k r
      s.fired p c (Cell.push { x1 with mem := { x1.mem with run := some (b, a), pairs := n } } toks)

/-- Tokens that a cnt without inputs emits: N times 2^BL (R203). -/
def cntTotal (w : CellWord) : Nat :=
  (if w.const.toNat % 2 ^ 16 = 0 then 65536 else w.const.toNat % 2 ^ 16) * 2 ^ w.bl.val

/-- cnt (R203): without inputs it ends with its eos. -/
def State.cntFire (p c : Nat) (s : State) (x : Cell) (w : CellWord) (_ts : List Token) : State :=
  let lw := laneBits w.width
  let d := signedOf 16 (w.const.toNat / 2 ^ 16)
  let n := 32 / lw
  let v := joinLanes lw ((List.range n).map fun (j : Nat) => wrapInt lw ((x.mem.ctr : Int) + (j : Int) * d))
  let x1 := x.takeAll w (countedInputs w)
  let x2 := { x1 with mem := { x1.mem with ctr := wrapInt lw ((x.mem.ctr : Int) + (n : Int) * d), emitted := x.mem.emitted + 1 } }
  let last := w.ina == .none && decide (cntTotal w ≤ x.mem.emitted + 1)
  s.fired p c (x2.push (mkToken kData v :: (if last then [eosToken] else [])))

/-- CELL_ACC (R201). -/
def execCellAcc (p c : Nat) (s : State) : Out := s.fireWith p c .acc (State.accFire p c)
/-- CELL_RUNACC (R202). -/
def execCellRunacc (p c : Nat) (s : State) : Out := s.fireWith p c .runacc (State.runaccFire p c)
/-- CELL_CNT (R203): a cell without inputs fires until it has emitted N times 2^BL tokens. -/
def execCellCnt (p c : Nat) (s : State) : Out :=
  s.fireWith p c .cnt fun s x w ts =>
    if w.ina == .none && decide (cntTotal w ≤ x.mem.emitted) then s
    else if (countedInputs w).isEmpty && w.ina != .none && (s.region p).quiet x.step then s
    else State.cntFire p c s x w ts

/-! ### Column function units (R204 to R206) -/

/-- The rows of a column after the one granted last, in the order of the round. -/
def rowsAfter (last : Nat) : List Nat := (List.range 16).map fun i => (last + 1 + i) % 16

/-- Entries of an xfn cell's reply queue that are free of replies and of requests on their way. -/
def xfnRoom (x : Cell) : Bool := decide (x.mem.replies.length + x.mem.flight.length < 12)

/-- The cell of a row whose request is granted: its token is taken, and its reply is due 12 cycles later. -/
def State.grant (s : State) (p col : Nat) : List Nat → Out
  | [] => s.idle
  | row :: t =>
    let c := 32 * row + col
    match s.prepare p c .xfn with
    | .no => s.grant p col t
    | .act s1 => .next s1
    | .fire s1 x w ts =>
      if !xfnRoom x then s.grant p col t
      else
        let x1 := x.takeAll w (countedInputs w)
        let fl : InFlight := { due := s.tide + s.cyclesAt p 12, value := BitVec.ofNat 32 (payloadAt ts 0) }
        .next (s1.breakFire p c fun s1 =>
          let s2 := s1.fired p c { x1 with mem := { x1.mem with flight := x1.mem.flight ++ [fl] } }
          let r := s2.region p
          s2.setRegion p { r with columns := Tbl.put r.columns col { last := row } })

/-- XFN_GRANT (R204). -/
def execXfnGrant (p col : Nat) (s : State) : Out :=
  s.grant p col (rowsAfter (Tbl.look (s.region p).columns col Column.init).last)

/-- The head of an xfn cell's reply queue moves to its result latch when that is free. -/
def State.moveReply (s : State) (p c : Nat) (x : Cell) : Out :=
  match x.mem.replies with
  | v :: rest =>
    if (s.region p).moves && x.mem.queue.isEmpty && x.canEmit then
      .next (s.setCell p c (Cell.push { x with mem := { x.mem with replies := rest } } [{ kind := kData, payload := v, cause := 0 }]))
    else s.idle
  | [] => s.idle

/-- The reply of an xfn cell: the function's value, then Sat under the cell's saturation code (R40); its rounding code is
ignored (R205). -/
def xfnReply (w : CellWord) (n : Nat) : Nat × Flags :=
  let v := xfnValue w.sub.val n
  let t := satFloat fmtF32 w.sat v.1
  (t.1, v.2 ||| t.2)

/-- XFN_REPLY (R205): a due reply enters the reply queue, its flags the region's fpflags; the head of the queue moves to the
result latch when that is free. Both go on in a region that a debugger holds (R459). -/
def execXfnReply (p c : Nat) (s : State) : Out :=
  let r := s.region p
  let x := r.cell c
  match x.word with
  | none => s.idle
  | some w =>
    if w.op != .xfn || r.mode == .frozen then s.idle
    else
      match x.mem.flight with
      | f :: rest =>
        if f.due ≤ s.tide then
          let v := xfnReply w f.value.toNat
          let x1 := { x with mem := { x.mem with flight := rest, replies := x.mem.replies ++ [BitVec.ofNat 32 v.1] } }
          .next ((s.raiseFlags p x.step v.2).setCell p c x1)
        else s.moveReply p c x
      | [] => s.moveReply p c x

/-! ### join (R208, R209) -/

/-- The head of a join input: a link's token, self or const. -/
def joinHead (s : State) (x : Cell) (w : CellWord) (i : Nat) : Option Token :=
  match wordSel w i with
  | .link d => x.headOf (.link d) i
  | _ => some (firingToken s x w i)

/-- Whether a head breaks the ascending order of its input. -/
def joinOut (last : Option Word) (t : Token) : Bool :=
  isDataToken t && (match last with
    | some v => decide (t.payload.toNat ≤ v.toNat)
    | none => false)

/-- One firing of join on its two heads. -/
def State.joinFire (s : State) (p c : Nat) (x : Cell) (w : CellWord) (a b : Token) : State :=
  if joinOut x.mem.lastA a then s.cellFaultToken p c .order 1 a
  else if joinOut x.mem.lastB b then s.cellFaultToken p c .order 2 b
  else
    let union := w.sub.val = 1
    let takeA := isDataToken a && (!isDataToken b || decide (a.payload.toNat ≤ b.payload.toNat))
    let takeB := isDataToken b && (!isDataToken a || decide (b.payload.toNat ≤ a.payload.toNat))
    let x1 := if takeA then x.takeAt w 0 else x
    let x2 := if takeB then x1.takeAt w 1 else x1
    let x3 := { x2 with mem := { x2.mem with lastA := if takeA then some a.payload else x.mem.lastA,
                                             lastB := if takeB then some b.payload else x.mem.lastB } }
    if (takeA && takeB) || union then
      s.fired p c (x3.push [{ kind := kData, payload := if takeA then a.payload else b.payload, cause := 0 }])
    else s.fired p c x3

/-- CELL_JOIN (R208, R209). -/
def execCellJoin (p c : Nat) (s : State) : Out :=
  let r := s.region p
  let x := r.cell c
  match x.word with
  | none => s.idle
  | some w =>
    if w.op != .join || !r.moves || x.stopped || x.ended || s.cutHolds p x then s.idle
    else if !x.mem.queue.isEmpty then (if x.canEmit then .next ((s.setCell p c x.drain).settle p c) else s.idle)
    else if !x.canEmit then s.idle
    else
      match [0, 1].findSome? (fun i => (x.at_ w i).bind fun t => (inputFault w i t).map fun k => (i, k, t)) with
      | some (i, k, t) => .next ((s.setCell p c (x.takeAt w i)).cellFaultToken p c k (i + 1) t)
      | none =>
        match joinHead s x w 0, joinHead s x w 1 with
        | some a, some b =>
          if a.kind == kMarker || b.kind == kMarker || (a.kind == kEos && b.kind == kEos)
              || ((countedInputs w).isEmpty && r.quiet x.step) then s.idle
          else
            .next ((if opensValue w then { s with fresh := s.fresh + 1 } else s).breakFire p c fun s => s.joinFire p c x w a b)
        | _, _ => s.idle

/-! ### Reporting cells (R217 to R220) -/

/-- poolc (R217, R218): each true token is one contribution; tokens pass with their own kinds. -/
def State.poolcFire (p c : Nat) (s : State) (x : Cell) (w : CellWord) (ts : List Token) : State :=
  let t := (ts[0]?).getD (mkToken kData 0)
  let bad := t.kind == kPoison || kindAt ts 3 == kPoison
  let pool := w.index.toNat / 2 ^ 10
  let lane := w.index.toNat / 2 ^ 6 % 16
  let x1 := x.takeAll w (countedInputs w)
  let out := if t.kind == kPoison then t else if bad then (ts[3]?).getD t else t
  if !bad && !wholeTrue w ts then s.fired p c (x1.push [out])
  else if s.laneHeld p x.step pool lane then s
  else
    match s.contribute p (16 + c) x.step pool lane (poolTypeOfFmt w.fmt) t.payload (if bad then some 2 else none) with
    | (false, s1) => if bad then s1.fired p c (x1.push [out]) else s1.cellFault p c .pool 0 0 (poolToken 1 0 0) none
    | (true, s1) => s1.fired p c (x1.push [out])

/-- The elements of a token as f32 values. -/
def statElems (w : CellWord) (v : Nat) : List Nat :=
  let f := (floatFmtOf w.fmt).getD fmtF32
  (splitLanes (laneBits w.width) v).map (widenF32 f)

/-- stat (R219, R341): a tap that counts the elements of true tokens. -/
def State.statFire (p c : Nat) (s : State) (x : Cell) (w : CellWord) (ts : List Token) : State :=
  if !s.trainRoom p (16 + c) then s
  else
    let t := (ts[0]?).getD (mkToken kData 0)
    let es := statElems w t.payload.toNat
    let tile := x.mem.tile
    let words := if wholeTrue w ts then es.foldl countElem tile.words else tile.words
    let x1 := x.takeAll w (countedInputs w)
    let x2 := { x1 with mem := { x1.mem with tile := { words := words, n := tile.n + es.length } } }
    let (x3, s1) := if t.kind == kLast || decide (4096 ≤ tile.n + es.length) then s.endTile p c x2 w else (x2, s)
    s1.fired p c (x3.push [t])

/-- nfin (R220): a sticky flag. -/
def State.nfinFire (p c : Nat) (s : State) (x : Cell) (w : CellWord) (ts : List Token) : State :=
  let f := (floatFmtOf w.fmt).getD fmtF32
  let found := wholeTrue w ts && (splitLanes (laneBits w.width) (payloadAt ts 0)).any fun e => !(f.value e).isFinite
  let x1 := x.takeAll w (countedInputs w)
  s.fired p c { x1 with mem := { x1.mem with sticky := x1.mem.sticky || found } }

/-- CELL_POOLC (R217). -/
def execCellPoolc (p c : Nat) (s : State) : Out := s.fireWith p c .poolc (State.poolcFire p c)
/-- CELL_STAT (R219). -/
def execCellStat (p c : Nat) (s : State) : Out := s.fireWith p c .stat (State.statFire p c)
/-- CELL_NFIN (R220). -/
def execCellNfin (p c : Nat) (s : State) : Out := s.fireWith p c .nfin (State.nfinFire p c)

/-! ### eos and marker firings (R182, R184) -/

/-- Whether an operation reports tiles to a gauge record. -/
def reportsTile (w : CellWord) : Bool := w.op == .stat || (w.op == .qnt && w.sub.val == 1)

/-- The results that an operation keeps pending, emitted before eos (R182). -/
def State.flushCell (s : State) (p c : Nat) (x : Cell) (w : CellWord) : Cell × State :=
  match w.op with
  | .acc => if x.mem.fold = 0 then (x, s) else (x.accClear.push [mkToken kData (accValue x w)], s)
  | .runacc =>
    match x.mem.run with
    | some (k, r) => (Cell.push { x with mem := { x.mem with run := none } } (runTokens x w k r).1, s)
    | none => (x, s)
  | .nfin => (x.push [mkToken kData (joinLanes (laneBits w.width) (List.replicate (32 / laneBits w.width) (bitOf x.mem.sticky)))], s)
  | .cvt =>
    if x.mem.elems.isEmpty then (x, s)
    else (Cell.push { x with mem := { x.mem with elems := [] } } [mkToken kData (joinLanes (fmtBits (cvtTarget w)) x.mem.elems)], s)
  | .qnt =>
    let (x1, s1) := if x.mem.elems.isEmpty then (x, s) else s.qntEmit p c x w
    s1.endTile p c x1 w
  | .stat => s.endTile p c x w
  | _ => (x, s)

/-- The conditions of an eos or a marker firing apart from the tokens. -/
def State.quietCell (s : State) (p : Nat) (c : Nat) (x : Cell) (w : CellWord) : Bool :=
  (s.region p).moves && !x.stopped && !x.ended && !s.cutHolds p x && x.mem.queue.isEmpty && x.canEmit &&
    x.mem.replies.isEmpty && x.mem.flight.isEmpty && (!reportsTile w || s.trainRoom p (16 + c))

/-- CELL_EOS_FIRING (R182): eos on every counted input, and on the side port. A cell without counted inputs makes it when its
step ends. -/
def execCellEosFiring (p c : Nat) (s : State) : Out :=
  let r := s.region p
  let x := r.cell c
  match x.word with
  | none => s.idle
  | some w =>
    let inputs := countedInputs w
    let eosAt (i : Nat) : Bool := (x.at_ w i).map (·.kind) == some kEos
    let sideOk := !(w.op.hasSide && w.pred != .none) || eosAt 3 || (match wordSel w 3 with
      | .link _ => false
      | _ => true)
    if !s.quietCell p c x w || !sideOk then s.idle
    else if inputs.isEmpty && !(r.quiet x.step && !(w.op == .cnt && w.ina == .none)) then s.idle
    else if !inputs.all eosAt then s.idle
    else
      let x1 := (x.takeAll w inputs)
      let x2 := if w.op.hasSide then x1.takeAt w 3 else x1
      .next (s.breakFire p c fun s =>
        let (x3, s1) := s.flushCell p c x2 w
        s1.fired p c (x3.push [eosToken]))

/-- CELL_MARKER_FIRING (R184): a marker on every counted input, and on the side port, an eos counting as one. A cell without
counted inputs makes it once a cut is open. -/
def execCellMarkerFiring (p c : Nat) (s : State) : Out :=
  let r := s.region p
  let x := r.cell c
  match x.word with
  | none => s.idle
  | some w =>
    let inputs := countedInputs w ++ (match wordSel w 3 with
      | .link _ => if w.op.hasSide then [3] else []
      | _ => [])
    let kind (i : Nat) : Option (BitVec 4) := (x.at_ w i).map (·.kind)
    if !s.quietCell p c x w || x.marked then s.idle
    else if inputs.isEmpty && !s.cutReady p then s.idle
    else if !inputs.all (fun i => kind i == some kMarker || kind i == some kEos) then s.idle
    else if !inputs.isEmpty && !inputs.any (fun i => kind i == some kMarker) then s.idle
    else
      let x1 := x.takeAll w (inputs.filter fun i => kind i == some kMarker)
      .next (s.breakFire p c fun s =>
        let (x2, s1) := if reportsTile w then s.endTile p c x1 w else (x1, s)
        s1.setCell p c (Cell.push { x2 with marked := true, fired := x2.fired + 1 } [markerToken]))

end Sys2Proof.Machine
end

