-- ==== Sys2Proof/Machine/Routers.lean ====
section
/-! DEFINITION. Router outputs: delivery over a link or an express path, and the operators (R187 to R190). -/
namespace Sys2Proof.Machine

/-! ### Delivery (R178, R188) -/

/-- The token of an output's latch lands at the end of its path, when the latch there is free. -/
def State.land (s : State) (p : Nat) (to_ : Land) (t : Token) : Option State :=
  let r := s.region p
  match to_ with
  | .cell c d =>
    let x := r.cell c
    if (x.link d).free then some (s.setRegion p (r.setCell c (x.setLink d (Latch.put t)))) else none
  | .port n =>
    let x := r.port n
    if x.link.free then some (s.setRegion p (r.setPort n { x with link := Latch.put t })) else none
  | .ma k =>
    if (Tbl.find r.matrix.ma k).isNone then
      some (s.setRegion p { r with matrix := { r.matrix with ma := Tbl.put r.matrix.ma k t } })
    else none
  | .nowhere => none

/-- Deliver what an output's latch holds; with its eos the output has ended (R129). -/
def State.deliverOut (s : State) (p c : Nat) (d : Dir) : State :=
  let x := s.cell p c
  match (x.out d).latch, x.router.out d with
  | some t, some o =>
    match s.land p (landing c d o.hop.val) t with
    | none => s
    | some s1 =>
      let y := s1.cell p c
      (s1.setCell p c (y.setOut d { y.out d with latch := none, eosSent := (y.out d).eosSent || t.kind == kEos })).settle p c
  | _, _ => s

/-! ### One move of an operator (R189, R190) -/

/-- A move: nothing, the cell and the output after it, or a fault with the source that it names. -/
inductive RMove
  | no
  | to (x : Cell) (o : OutState)
  | fault (cause : Cause) (src : Nat) (t : Option Token)

/-- Codes of sources (R98). -/
def srcCode : RSrc → Nat
  | .link d => 1 + dirNo d
  | .result => 5

def isEos (t : Option Token) : Bool := t.map (·.kind) == some kEos
def isMarker (t : Option Token) : Bool := t.map (·.kind) == some kMarker
/-- A token that these operators handle as data: every kind but eos and marker. -/
def isPlain (t : Option Token) : Bool := t.isSome && !isEos t && !isMarker t

/-- A control token is true when its payload is non-zero, and matches when its truth equals SENSE. -/
def ctlMatches (o : RouterOut) (t : Token) : Bool := (t.payload != 0) == o.sense

/-- The fault that a token on CTLS raises; none for data, data-last and header. -/
def ctlFault (t : Token) : Option Cause :=
  if isDataToken t || t.kind == kHeader then none else if t.kind == kPoison then some .soft else some .kind

/-- What an output reads: its cell, its number as a reader, and its state. -/
structure OutCtx where
  x   : Cell
  rd  : Nat
  o   : RouterOut
  st  : OutState

def OutCtx.head (k : OutCtx) (s : RSrc) : Option Token := k.x.headOf s k.rd
def OutCtx.take (k : OutCtx) (ss : List RSrc) : Cell := ss.foldl (fun x s => x.takeFrom s k.rd) k.x
def OutCtx.free (k : OutCtx) : Bool := k.st.latch.isNone
/-- After an eos in the latch the output takes nothing more: what follows belongs to the next step. -/
def OutCtx.closed (k : OutCtx) : Bool := k.st.stopped || k.st.eosSent || isEos k.st.latch

/-- The sources aligned: every one holds eos, or every one a marker. Takes them and emits one (R190). -/
def OutCtx.aligned (k : OutCtx) (ss : List RSrc) (st : OutState) : Option RMove :=
  if ss.all (fun s => isEos (k.head s)) then
    some (if k.free then .to (k.take ss) { st with latch := some eosToken } else .no)
  else if ss.all (fun s => isMarker (k.head s)) then
    some (if k.free then .to (k.take ss) { st with latch := some markerToken } else .no)
  else none

/-- The ragged fault of a source that holds eos while another holds data: the first of the list is named (R190). -/
def OutCtx.ragged (k : OutCtx) (ss : List RSrc) : Option RMove :=
  match ss.find? (fun s => isEos (k.head s)) with
  | some s => if ss.any (fun s => isPlain (k.head s)) then some (.fault .ragged (srcCode s) none) else none
  | none => none

def OutCtx.passMove (k : OutCtx) : RMove :=
  match k.head k.o.src with
  | none => .no
  | some t => if k.free then .to (k.take [k.o.src]) { k.st with latch := some t } else .no

/-- The fault of a token that stands on a CTLS that the operator reads: poison, or a kind that no control token has (R189). -/
def OutCtx.badCtl (k : OutCtx) (c : RSrc) : Option RMove :=
  match k.head c with
  | none => none
  | some t => if t.kind == kEos || t.kind == kMarker then none else (ctlFault t).map fun e => .fault e 0 (some t)

/-- How sources that must be aligned stand: a bad control token faults, eos or markers on all pass, eos against data is ragged;
none when the operator acts on data (R189, R190). -/
def OutCtx.meet (k : OutCtx) (c : RSrc) (ss : List RSrc) (st : OutState) : Option RMove :=
  match k.badCtl c, k.aligned ss st with
  | some m, _ => some m
  | none, some m => some m
  | none, none => k.ragged ss

/-- A marker stands at a source that the operator reads after it has taken its control: it passes aligned with those of the other sources,
and a token on CTLS that no control token can be faults (R189, R190). -/
def OutCtx.awaits (k : OutCtx) (c : RSrc) (ss : List RSrc) : RMove :=
  match k.badCtl c with
  | some m => m
  | none => (k.aligned ss k.st).getD .no

/-- What follows when a control token stands: its fault, or the move for a match or none. -/
def withCtl (k : OutCtx) (c : Option Token) (f : Token → Bool → RMove) : RMove :=
  match c with
  | none => .no
  | some t =>
    match ctlFault t with
    | some e => .fault e 0 (some t)
    | none => f t (ctlMatches k.o t)

def OutCtx.steerMove (k : OutCtx) (c : RSrc) : RMove :=
  let s := k.head k.o.src
  match k.meet c [k.o.src, c] k.st with
  | some m => m
  | none =>
    if isPlain s && isPlain (k.head c) then
      withCtl k (k.head c) fun _ hit =>
        if !hit then .to (k.take [k.o.src, c]) k.st
        else if k.free then .to (k.take [k.o.src, c]) { k.st with latch := s } else .no
    else .no

def OutCtx.mergeMove (k : OutCtx) (a c : RSrc) : RMove :=
  match k.st.ctlTaken with
  | none =>
    match k.aligned [k.o.src, a, c] k.st with
    | some m => m
    | none =>
      if isEos (k.head c) then (k.ragged [k.o.src, a, c]).getD .no
      else if isPlain (k.head c) then
        withCtl k (k.head c) fun t _ => .to (k.take [c]) { k.st with ctlTaken := some t }
      else .no
  | some t =>
    let src := if ctlMatches k.o t then k.o.src else a
    let h := k.head src
    if isEos h then .fault .ragged (srcCode src) none
    else if isPlain h then (if k.free then .to (k.take [src]) { k.st with latch := h, ctlTaken := none } else .no)
    else if isMarker h then k.awaits c [k.o.src, a, c]
    else .no

def OutCtx.carryMove (k : OutCtx) (a c : RSrc) : RMove :=
  let s := k.head k.o.src
  if isEos s || isMarker s then .to (k.take [k.o.src]) k.st
  else if k.st.loop then
    match k.st.ctlTaken with
    | some _ =>
      if isPlain s then (if k.free then .to (k.take [k.o.src]) { k.st with latch := s, ctlTaken := none } else .no) else .no
    | none =>
      let h := k.head c
      if isEos h || isMarker h then .to k.x { k.st with loop := false }
      else withCtl k h fun t hit =>
        .to (k.take [c]) (if hit then { k.st with ctlTaken := some t } else { k.st with loop := false })
  else
    let h := k.head a
    if isPlain h then (if k.free then .to (k.take [a]) { k.st with latch := h, loop := true } else .no)
    else
      match k.aligned [a, c] k.st with
      | some m => m
      | none =>
        match (if h.isSome then k.badCtl c else none) with
        | some m => m
        | none => if isEos h && isPlain (k.head c) then .fault .ragged (srcCode a) none else .no

def OutCtx.repeatMove (k : OutCtx) (c : RSrc) : RMove :=
  let s := k.head k.o.src
  let h := k.head c
  match k.st.held with
  | some t =>
    if isEos h || isMarker h then .to k.x { k.st with held := none }
    else withCtl k h fun _ hit =>
      if !hit then .to (k.take [c]) { k.st with held := none }
      else if k.free then .to (k.take [c]) { k.st with latch := some t } else .no
  | none =>
    match k.meet c [k.o.src, c] k.st with
    | some m => m
    | none => if isPlain s && !isMarker h then .to (k.take [k.o.src]) { k.st with held := s } else .no

/-- Where a drop output stands after a token of SEL. -/
def dropNext (st : DropState) (t : Option Token) : DropState := if t.map (·.kind) == some kLast then .start else st

def OutCtx.dropMove (k : OutCtx) (c : RSrc) : RMove :=
  let s := k.head k.o.src
  match k.st.drop with
  | .start =>
    match k.meet c [k.o.src, c] k.st with
    | some m => m
    | none =>
      if isPlain s && isPlain (k.head c) then
        withCtl k (k.head c) fun _ hit => .to (k.take [c]) { k.st with drop := if hit then .discarding else .passing }
      else .no
  | st =>
    if isEos s then .fault .ragged (srcCode k.o.src) none
    else if isMarker s then k.awaits c [k.o.src, c]
    else if !isPlain s then .no
    else if st == .discarding then .to (k.take [k.o.src]) { k.st with drop := dropNext st s }
    else if k.free then .to (k.take [k.o.src]) { k.st with latch := s, drop := dropNext st s } else .no

def OutCtx.move (k : OutCtx) : RMove :=
  if k.closed then .no
  else
    match k.o.op with
    | .pass => k.passMove
    | .steer c => k.steerMove c
    | .merge a c => k.mergeMove a c
    | .carry a c => k.carryMove a c
    | .repeat c => k.repeatMove c
    | .drop c => k.dropMove c

/-- One event of an output whose operator is the one given: what its latch holds is delivered, the operator makes a move, and
what that placed in the latch is delivered. A fault names the output in SEL and the source in DETAIL, and the output takes
no further token. -/
def State.routerStep (s : State) (p c : Nat) (d : Dir) (mine : ROp → Bool) : Out :=
  if !(s.region p).moves then s.idle
  else
    match (s.cell p c).router.out d with
    | none => s.idle
    | some o =>
      if !mine o.op then s.idle
      else
        let s1 := s.deliverOut p c d
        let x := s1.cell p c
        match x.router.out d with
        | none => .next s1
        | some o1 =>
          match OutCtx.move { x := x, rd := 4 + dirNo d, o := o1, st := x.out d } with
          | .no => .next s1
          | .to x1 o' => .next ((s1.setCell p c (x1.setOut d o')).deliverOut p c d)
          | .fault e src t =>
            let s2 := s1.setCell p c (x.setOut d { x.out d with stopped := true })
            .next (s2.unitFault p e 1 (coordCell c) src 0 ((t.map (·.payload.toNat)).getD 0) (t.map (·.kind.toNat)) (8 + dirNo d))

/-- ROUTER_PASS (R189). -/
def execRouterPass (p c : Nat) (o : Dir) (s : State) : Out :=
  s.routerStep p c o fun op => match op with
    | .pass => true
    | _ => false
/-- ROUTER_STEER (R189). -/
def execRouterSteer (p c : Nat) (o : Dir) (s : State) : Out :=
  s.routerStep p c o fun op => match op with
    | .steer _ => true
    | _ => false
/-- ROUTER_MERGE (R189). -/
def execRouterMerge (p c : Nat) (o : Dir) (s : State) : Out :=
  s.routerStep p c o fun op => match op with
    | .merge _ _ => true
    | _ => false
/-- ROUTER_CARRY (R189). -/
def execRouterCarry (p c : Nat) (o : Dir) (s : State) : Out :=
  s.routerStep p c o fun op => match op with
    | .carry _ _ => true
    | _ => false
/-- ROUTER_REPEAT (R189). -/
def execRouterRepeat (p c : Nat) (o : Dir) (s : State) : Out :=
  s.routerStep p c o fun op => match op with
    | .repeat _ => true
    | _ => false
/-- ROUTER_DROP (R189). -/
def execRouterDrop (p c : Nat) (o : Dir) (s : State) : Out :=
  s.routerStep p c o fun op => match op with
    | .drop _ => true
    | _ => false

end Sys2Proof.Machine
end

