-- ==== Sys2Proof/Machine/Units.lean ====
section
/-! DEFINITION. Accesses that units of a region other than its sequencer make: bytes through the stash or at a home bank, and
waits and advances of handles, each as one action (R250 to R254, R261, R284, R293). -/
namespace Sys2Proof.Machine

/-- How an access of a unit ends: not yet, with a cause (its DETAIL and the address that failed), or with a value. -/
inductive Got (α : Type)
  | wait
  | bad (c : Cause) (detail addr : Nat)
  | ok (v : α)

/-- The pieces of a range of bytes, one per line of 64 bytes. -/
def linePieces : Nat → Nat → Nat → List (Nat × Nat)
  | 0, _, _ => []
  | fuel + 1, va, n =>
    if n = 0 then []
    else
      let m := if n < 64 - va % 64 then n else 64 - va % 64
      (va, m) :: linePieces fuel ((va + m) % 2 ^ 57) (n - m)

def piecesOf (va n : Nat) : List (Nat × Nat) := linePieces (n / 64 + 2) va n

/-- A region's access to a class C page (R284): the page's class is checked as R149 checks it. -/
def State.unitAccess (s : State) (p va : Nat) (need : Need) : Checked × State :=
  match s.accessRegion p va need with
  | (.ok _ true, s1) => (.bad .access 0, s1)
  | x => x

/-- The same in one action (log entry 65). -/
def State.unitNow (s : State) (p va : Nat) (need : Need) : Checked × State :=
  match s.accessNow p va need with
  | (.ok _ true, s1) => (.bad .access 0, s1)
  | x => x

/-- Read pieces in order; `home` reads at the home bank and leaves no copy (R293). -/
def State.readPieces (p : Nat) (home : Bool) : List (Nat × Nat) → List (List Byte) → State → Got (List Byte) × State
  | [], acc, s => (.ok acc.reverse.flatten, s)
  | (va, n) :: t, acc, s =>
    match s.unitAccess p va .read with
    | (.bad c d, s1) => (.bad c d (c.addr va), s1)
    | (.wait, s1) => (.wait, s1)
    | (.ok pa _, s1) =>
      if home && s1.elsewhere pa then
        match s1.farLoad p farUnit pa n with
        | (none, s2) => (.wait, s2)
        | (some (v, bad), s2) => if bad then (.bad .soft 0 va, s2) else State.readPieces p home t (leBytes n v :: acc) s2
      else if home then
        let (v, clk, bad, s2) := s1.homeRead pa n (s1.region p).lclk
        if bad then (.bad .soft 0 va, s2)
        else State.readPieces p home t (leBytes n v :: acc) (s2.setRegion p { s2.region p with lclk := clk })
      else
        match s1.stashRead p va pa n with
        | (none, s2) => (.wait, s2)
        | (some (v, poisoned), s2) =>
          if poisoned then (.bad .soft 0 va, s2) else State.readPieces p home t (leBytes n v :: acc) s2

/-- n bytes from an address. -/
def State.unitRead (s : State) (p : Nat) (home : Bool) (va n : Nat) : Got (List Byte) × State :=
  State.readPieces p home (piecesOf va n) [] s

/-- Check pieces for a write, and own their lines: whether every line is there, with its physical address. `strict` says that
a poisoned line faults (R247). -/
def State.ownPieces (p : Nat) (home strict : Bool) : List (Nat × Nat) → List (Nat × Nat × Nat) → State → Got (List (Nat × Nat × Nat)) × State
  | [], acc, s => (.ok acc.reverse, s)
  | (va, n) :: t, acc, s =>
    match s.unitAccess p va .write with
    | (.bad c d, s1) => (.bad c d (c.addr va), s1)
    | (.wait, s1) => (.wait, s1)
    | (.ok pa _, s1) =>
      if s1.elsewhere pa then
        -- a line of another package is looked at, where a poisoned one faults, and written at its home
        if !strict then State.ownPieces p home strict t ((va, pa, n) :: acc) s1
        else
          match s1.stashRead p va pa 1 with
          | (none, s2) => (.wait, s2)
          | (some (_, poisoned), s2) => if poisoned then (.bad .soft 0 0, s2) else State.ownPieces p home strict t ((va, pa, n) :: acc) s2
      else if home || s1.actsHome p va pa then
        if strict && s1.homePoisoned (lineOf pa) then (.bad .soft 0 0, s1) else State.ownPieces p home strict t ((va, pa, n) :: acc) s1
      else
        match (s1.region p).findLine (lineOf pa) with
        | some l =>
          if !l.owned then (.wait, s1.ask p (lineOf pa) true)
          else if strict && l.poison then (.bad .soft 0 0, s1)
          else State.ownPieces p home strict t ((va, pa, n) :: acc) s1
        | none => (.wait, s1.ask p (lineOf pa) true)

/-- Write the bytes of pieces whose lines are owned, or at their home banks. -/
def State.writePieces (p : Nat) (home : Bool) : List (Nat × Nat × Nat) → List Byte → State → State
  | [], _, s => s
  | (va, pa, n) :: t, bs, s =>
    let v := leValue (bs.take n)
    let s1 := if home && !s.elsewhere pa then
        let (clk, s2) := s.homeWrite pa n v (s.region p).lclk
        s2.setRegion p { s2.region p with lclk := clk }
      else (s.stashWrite p va pa n v).2
    State.writePieces p home t (bs.drop n) s1

/-- Write bytes at an address, all of them or none. -/
def State.unitWrite (s : State) (p : Nat) (home strict : Bool) (va : Nat) (bs : List Byte) : Got Unit × State :=
  match State.ownPieces p home strict (piecesOf va bs.length) [] s with
  | (.wait, s1) => (.wait, s1)
  | (.bad c d a, s1) => (.bad c d a, s1)
  | (.ok ps, s1) => (.ok (), State.writePieces p home ps bs s1)

/-! ### Handles (R250 to R254) -/

/-- A wait, an advance or a read of the counts of a LOC = 1 handle by a unit, at the header's home bank as one action. -/
def State.headerNow (s : State) (p h : Nat) (op : HeaderOp) : Got Handle × State :=
  let decl := (s.region p).handle h
  match s.headerAt p decl .write with
  | (.bad c d, s1) => (.bad c d (c.addr (headerVa decl)), s1)
  | (.wait, s1) => (.wait, s1)
  | (.ok pa _, s2) =>
    let s1 := s2.markHome (lineOf pa)
    let clk := (s1.region p).lclk
    let (w, c, bad, s0) := if op.advances then s1.homeTake pa 8 clk else s1.homeRead pa 8 clk
    let s2 := s0.setRegion p { s0.region p with lclk := c }
    let hclk := Memory.readLE s2.mem (pa + 8) 8
    if bad then (.bad .soft 0 0, s2)
    else if !headerOk decl w (Memory.readLE s2.mem (pa + 16) 48) then (.bad .handle 0 0, s2)
    else
      let cur := headerHandle decl w
      let write (n : Nat) (hn : Handle) (k : Nat) : State :=
        let (t, s3) := s2.homeWrite pa n (headerWordOf hn + k * 2 ^ 64) clk
        s3.setRegion p { s3.region p with lclk := t }
      let s3 := if headerFresh w then write 8 cur 0 else s2
      match cur.act op with
      | .error () => (.bad .handle 0 0, s2)
      | .ok none => (.wait, s3)
      | .ok (some next) =>
        match op with
        | .read => (.ok cur, s2)
        | .waitFree _ => (.ok next, s3)
        | .waitFilled _ =>
          (.ok next, s3.setRegion p { s3.region p with lclk := maxClk (s3.region p).lclk (BitVec.ofNat 64 hclk) })
        | .pop _ => (.ok next, write 8 next 0)
        | .push _ => (.ok next, write 16 next (if hclk < clk.toNat then clk.toNat else hclk))

/-- A wait or an advance of a handle by a unit of the region, as one action (R160, R253). -/
def State.handleNow (s : State) (p h : Nat) (op : HeaderOp) : Got Handle × State :=
  let hd := (s.region p).handle h
  if !hd.decl then (.bad .handle 0 0, s)
  else if hd.loc then s.headerNow p h op
  else
    match hd.act op with
    | .error () => (.bad .handle 0 0, s)
    | .ok none => (.wait, s)
    | .ok (some hd') => (.ok hd', s.setRegion p ((s.region p).setHandle h hd'))

/-- The address of a slot of a handle. -/
def Handle.slotVa (h : Handle) (i : Nat) : Nat := (h.base + i % h.slots * 2 ^ h.lsz) % 2 ^ 57

end Sys2Proof.Machine
end

