-- ==== Sys2Proof/Machine/Matrix.lean ====
section
/-! DEFINITION. The matrix unit: banks, the matrix channel, vectors, the accumulator, drains, steps and markers (R222 to
R249). -/
namespace Sys2Proof

/-- WA, the A block length and the number of ports of an operation (R242), and whether it takes tokens of port ma_k (R228). -/
def MatArgs.wa (m : MatArgs) : Nat := m.waw.val + 2
def MatArgs.blk (m : MatArgs) : Nat := 8 * 2 ^ m.la.val
def MatArgs.np (m : MatArgs) : Nat := m.npm.val + 1
def MatArgs.reads (a : MatArgs) (k : Nat) : Bool := a.asrc && decide (a.port.val ≤ k) && decide (k < a.port.val + a.np)

end Sys2Proof

namespace Sys2Proof.Machine

/-! ### Banks (R223 to R225) -/

def ceilDiv (a b : Nat) : Nat := (a + b - 1) / b
def roundUp (a b : Nat) : Nat := ceilDiv a b * b

/-- Squares of a tile, and the offsets of its planes in an image: mantissas, bitmap, end (R225). -/
def tileSquares (tr tc : Nat) : Nat := tr / 8 * (tc / 8)
def mantPlane (tr tc : Nat) : Nat := roundUp (tileSquares tr tc) 64
def mantEnd (tr tc wb : Nat) : Nat := mantPlane tr tc + tileSquares tr tc * (8 * packField wb)
def tileBytes (tr tc wb : Nat) (bm : Bool) : Nat :=
  if bm then roundUp (mantEnd tr tc wb) 64 + 8 * tileSquares tr tc else mantEnd tr tc wb

/-- A run of mantissas in the packed form of R38. -/
def packedMants (wb n : Nat) (bs : List Byte) : List Int :=
  let v := leValue bs
  (List.range n).map fun j => lowSigned wb (v / 2 ^ (packField wb * j))

/-- The 64 mantissas of square q of an image, and its 64 bits. -/
def imageSquare (d : List Byte) (tr tc wb q : Nat) : List Int :=
  packedMants wb 64 ((d.drop (mantPlane tr tc + q * (8 * packField wb))).take (8 * packField wb))
def imageBits (d : List Byte) (tr tc wb : Nat) (bm : Bool) (q : Nat) : List Bool :=
  if bm then
    let v := leValue ((d.drop (roundUp (mantEnd tr tc wb) 64 + 8 * q)).take 8)
    (List.range 64).map fun j => bit v j
  else List.replicate 64 true

/-- Arrange squares, numbered row-major, as the rows of the tile. -/
def squareRows {α : Type} (tr tc : Nat) (sq : Nat → List α) : List α :=
  (List.range (tr / 8)).flatMap fun a =>
    let band := (List.range (tc / 8)).map fun b => sq (a * (tc / 8) + b)
    (List.range 8).flatMap fun i => band.flatMap fun s => (s.drop (8 * i)).take 8

/-- The bank that an image gives: a weight whose bit is 0 is mantissa 0 (R225). -/
def tileBank (d : List Byte) (tr tc wb : Nat) (pack bm : Bool) (y x : Nat) : Bank :=
  let bits := squareRows tr tc (imageBits d tr tc wb bm)
  let ms := squareRows tr tc (imageSquare d tr tc wb)
  { tr := tr, tc := tc, wb := wb, pack := pack, bm := bm, es := (d.take (tileSquares tr tc)).map (·.toNat),
    ms := List.zipWith (fun m b => if b then m else 0) ms bits, bits := if bm then bits else [], orgY := y, orgX := x }

def Bank.weight (b : Bank) (i c : Nat) : Int := (b.ms[i * b.tc + c]?).getD 0
def Bank.exp (b : Bank) (i c : Nat) : Nat := (b.es[i / 8 * (b.tc / 8) + c / 8]?).getD 0

def Matrix.active (m : Matrix) : Bank := if m.active1 then m.banks.2 else m.banks.1
def Matrix.setShadow (m : Matrix) (b : Bank) : Matrix :=
  { m with banks := if m.active1 then (b, m.banks.2) else (m.banks.1, b) }

/-! ### Operations (R226 to R232) -/

/-- Reduction length, output length and elements per port of a drive over a bank (R226). -/
def Bank.redLen (b : Bank) (col : Bool) : Nat := if col then b.tc else b.tr
def Bank.outLen (b : Bank) (col : Bool) : Nat := if col then b.tr else b.tc
def Bank.epp (b : Bank) (col : Bool) : Nat := if col && b.pack then 64 else 32

/-- The bytes of an A slot and of a bitmap slot (R227, R234). -/
def slotBytes (m : MatArgs) (epp : Nat) : Nat := 128 + m.np * epp * packField m.wa / 8

/-- One output element: the accumulation over the k-blocks in ascending order (R231, R232, R51). -/
def matElement (b : Bank) (col : Bool) (m : MatArgs) (a : List Int) (ea : List Nat) (e c : Nat) : Nat × Flags :=
  let k := if a.length < b.redLen col then a.length else b.redLen col
  (List.range (k / 8)).foldl (fun acc j =>
    let ws := (List.range 8).map fun t => if col then b.weight e (8 * j + t) else b.weight (8 * j + t) e
    let eb := if col then b.exp e (8 * j) else b.exp (8 * j) e
    let r := blockStep acc.1 m.wa ((ea[8 * j / m.blk]?).getD 0) b.wb eb ((a.drop (8 * j)).take 8) ws
    (r.1, acc.2 ||| r.2)) (c, 0)

/-- A vector's results from the accumulator's prior contents. -/
def matVector (b : Bank) (col : Bool) (m : MatArgs) (a : List Int) (ea : List Nat) (prior : Nat → Word) : List Word × Flags :=
  let each := (List.range (b.outLen col)).map fun e =>
    matElement b col m a ea e (if m.zero then 0 else (prior e).toNat)
  (each.map fun x => BitVec.ofNat 32 x.1, each.foldl (fun f x => f ||| x.2) 0)

/-- The prior contents of a vector's rows: the newest vector in flight on them, or the accumulator (R233, R236). -/
def Matrix.prior (m : Matrix) (row e : Nat) : Word :=
  let r := (row + e / 512) % 256
  match m.flight.reverse.findSome? (fun v =>
      let i := (r + 256 - v.row) % 256
      v.vals[512 * i + e % 512]?) with
  | some w => w
  | none => ((Tbl.look m.acc r [])[e % 512]?).getD 0

/-- Write results into the accumulator; elements at and above N of a row are left (R236). -/
def Matrix.store (m : Matrix) (row : Nat) (vals : List Word) : Matrix :=
  let put (acc : Tbl (List Word)) (i : Nat) : Tbl (List Word) :=
    let r := (row + i) % 256
    let old := Tbl.look acc r (List.replicate 512 0)
    let new := (vals.drop (512 * i)).take 512
    Tbl.put acc r (new ++ old.drop new.length)
  { m with acc := (List.range (ceilDiv vals.length 512)).foldl put m.acc }

/-- Rows that a vector uses (R236). -/
def rowsOf (row n : Nat) : List Nat := (List.range (ceilDiv n 512)).map fun i => (row + i) % 256

/-- The poisoned rows after a vector of n results: a row that starts from zero and is written whole is poisoned no more. -/
def Matrix.rowsBad (m : Matrix) (zero : Bool) (row n : Nat) : List Nat :=
  m.accBad.filter fun k => !(zero && ((rowsOf row n).take (n / 512)).contains k)

/-! ### Faults (R247) -/

def maPort (k : Nat) : Nat := 32 + k
def mzPort (k : Nat) : Nat := 48 + k

/-- The operation at the head of the channel that has vectors left, with its place in the channel. -/
def Matrix.current (m : Matrix) : Option (Bool × MatArgs) :=
  (m.channel.find? fun e => e.step == m.step && !e.done && (match e.cmd with
    | .op _ _ => true
    | _ => false)).bind fun e => match e.cmd with
      | .op col a => some (col, a)
      | _ => none

/-- The template of the operation at the head of the channel, which a fault of it without a token carries (R256). -/
def Matrix.headTmpl (m : Matrix) : Nat :=
  ((m.channel.find? fun e => e.step == m.step && !e.done && (match e.cmd with
    | .op _ _ => true
    | _ => false)).map (·.tmpl)).getD 0

/-- The pools and lanes to which an operation that has begun still drains: the one that runs, and those whose vectors or results are
on their way. -/
def Matrix.poolDrains (m : Matrix) : List (Nat × Nat) :=
  let runs := m.channel.filterMap fun e => match e.cmd with
    | .op _ a => if e.step == m.step && e.started && a.dr == Drain.pool then some (a.pool.val, a.lane.val) else none
    | _ => none
  (runs ++ (m.flight.filter fun v => v.op.dr == .pool).map (fun v => (v.op.pool.val, v.op.lane.val)) ++
    (m.drains.filter fun d => d.dr == .pool).map fun d => (d.pool, d.lane)).eraseDups

/-- The unit faults: it takes no token and runs no command until the next splice. A pool drain that was running poisons its
lane (R247, R366, R369, R377). -/
def State.matrixFault (s : State) (p : Nat) (c : Cause) (port detail addr token : Nat) (tkind : Option Nat) : State :=
  let s1 := (s.region p).matrix.poolDrains.foldl (fun s x => (s.contribute p 700 (s.region p).matrix.step x.1 x.2 .f32 0 (some 3)).2) s
  let r := s1.region p
  let s2 := s1.setRegion p { r with matrix := { r.matrix with
    faulted := true, channel := r.matrix.channel.filter (fun e => decide (r.matrix.step < e.step)), slices := [], maskH := none, vec := 0 } }
  s2.unitFault p c 3 (coordPort port) detail addr token tkind 0

def State.matrixFaultToken (s : State) (p : Nat) (c : Cause) (k : Nat) (t : Token) : State :=
  s.matrixFault p c (maPort k) 0 0 t.payload.toNat (some t.kind.toNat)

/-! ### The channel (R239, R243 to R246) -/

def MatCmd.isOp : MatCmd → Bool
  | .op _ _ => true
  | _ => false

/-- The handles that a command of the channel reads or drains to (R244). -/
def MatCmd.names (c : MatCmd) (h : Nat) : Bool :=
  match c with
  | .load h' _ _ _ _ _ _ => h' == h
  | .mask h' _ _ => h' == h
  | .op _ a => (!a.asrc && a.h.val == h) || (a.dr == .stash && a.zh.val == h)
  | _ => false

/-- The unit's origin after an `mload` (R246). -/
def Matrix.walked (m : Matrix) : Matrix :=
  if !m.walk then m
  else
    let x := (m.orgX + 64) % 512
    { m with orgX := x, orgY := if x = 0 then (m.orgY + 64) % 512 else m.orgY }

/-- Whether an earlier operation still holds a handle: a vector or a drain in flight names it. -/
def Matrix.holds (m : Matrix) (h : Nat) : Bool :=
  m.flight.any (fun v => (!v.op.asrc && v.op.h.val == h && !v.advanced) || v.mask == some h || (v.op.dr == .stash && v.op.zh.val == h)) ||
    m.drains.any (fun d => d.dr == .stash && d.zh == h) || m.maskH == some h

/-- Whether the op-end of every operation started so far has passed the macros. -/
def Matrix.opsPassed (m : Matrix) : Bool := m.flight.all (·.advanced)

/-- What the head part of a channel lets happen at once: an `morigin` takes effect, an `mload` is dispatched with its origin, an
`mswap` exchanges the banks (R244). `before` are the commands ahead of the rest. -/
def Matrix.settleFrom : Nat → List MatEntry → List MatEntry → Matrix → Matrix
  | 0, before, rest, m => { m with channel := before ++ rest }
  | _, before, [], m => { m with channel := before }
  | fuel + 1, before, e :: rest, m =>
    let stay (e : MatEntry) (m : Matrix) : Matrix := Matrix.settleFrom fuel (before ++ [e]) rest m
    if e.step != m.step then stay e m
    else
      match e.cmd with
      | .origin walk y x =>
        if before.any (fun b => match b.cmd with
            | .load _ _ _ _ _ _ _ => !b.started
            | _ => false) then stay e m
        else Matrix.settleFrom fuel before rest { m with walk := walk, orgY := y, orgX := x }
      | .load _ _ _ _ _ _ _ =>
        if e.started || before.any (fun b => match b.cmd with
            | .load _ _ _ _ _ _ _ => true
            | .swap => true
            | .origin _ _ _ => true
            | _ => false) then stay e m
        else stay { e with started := true, orgY := m.orgY, orgX := m.orgX } m.walked
      | .swap =>
        if before.any (fun b => match b.cmd with
            | .load _ _ _ _ _ _ _ => true
            | .op _ _ => true
            | .swap => true
            | _ => false) || !m.opsPassed then stay e m
        else Matrix.settleFrom fuel before rest { m with active1 := !m.active1 }
      | _ => stay e m

def Matrix.settle (m : Matrix) : Matrix := Matrix.settleFrom (m.channel.length + 1) [] m.channel m

def State.matrixSettle (s : State) (p : Nat) : State :=
  let r := s.region p
  s.setRegion p { r with matrix := r.matrix.settle }

/-- Whether an earlier command keeps the operation from running: only an `mload` that has been dispatched may stand ahead
of it, and its own bitmap (R242, R244). -/
def opBlocked : List MatEntry → Bool
  | [] => true
  | e :: t =>
    match e.cmd with
    | .op _ _ => false
    | .load _ _ _ _ _ _ _ => if e.started then opBlocked t else true
    | .mask _ _ _ => opBlocked t
    | _ => true

/-! ### Tokens at the feeding ports (R228, R247, R248) -/

/-- The tokens of a whole slice. -/
def sliceTokens (m : MatArgs) (epp : Nat) : Nat := epp / m.blk * (1 + m.blk / 4)

def Matrix.slice (m : Matrix) (k : Nat) : List Token := Tbl.look m.slices k []

/-- Whether a command of the unit's step needs tokens of a port. -/
def Matrix.needsPort (m : Matrix) (k : Nat) : Bool :=
  m.channel.any fun e => e.step == m.step && !e.done && (match e.cmd with
    | .op _ a => a.reads k
    | _ => false)

def State.dropMa (s : State) (p k : Nat) : State :=
  let r := s.region p
  s.setRegion p { r with matrix := { r.matrix with ma := Tbl.drop r.matrix.ma k } }

/-- An eos that no command needs is taken at once (R248). -/
def State.takeMaEos (s : State) (p k : Nat) : State :=
  let s1 := s.dropMa p k
  let r := s1.region p
  let m := r.matrix
  let m1 : Matrix := if m.maWait.contains k then { m with maWait := m.maWait.erase k } else { m with maEos := k :: m.maEos }
  s1.setRegion p { r with matrix := m1 }

/-- A token at a feeding port that the running operation reads. -/
def State.maToken (s : State) (p k : Nat) (a : MatArgs) (epp : Nat) (t : Token) : State :=
  let m := (s.region p).matrix
  let sl := m.slice k
  if sl.length = sliceTokens a epp || t.kind == kMarker then s
  else if t.kind == kEos then s.matrixFault p .ragged (maPort k) 0 0 m.headTmpl none
  else
    let s1 := s.dropMa p k
    let keep : State :=
      let r := s1.region p
      s1.setRegion p { r with matrix := { r.matrix with slices := Tbl.put r.matrix.slices k (sl ++ [t]) } }
    if t.kind == kPoison then s1.matrixFaultToken p .soft k t
    else if t.kind == kFault then s1.matrixFaultToken p (Cause.ofCode t.cause.toNat) k t
    else if sl.length % (1 + a.blk / 4) = 0 then
      match t.kind == kHeader, readHeader t.payload.toNat with
      | true, some (l, w, _) => if l = a.blk ∧ w = a.wa then keep else s1.matrixFaultToken p .kind k t
      | _, _ => s1.matrixFaultToken p .kind k t
    else if isDataToken t then keep
    else s1.matrixFaultToken p .kind k t

/-- Each feeding port in turn. An eos that an earlier step still owes is taken first (R248); tokens are taken only for the operation
at the head of the channel (R228). -/
def State.maPorts (s : State) (p : Nat) : State :=
  (List.range 16).foldl (fun s k =>
    let m := (s.region p).matrix
    match Tbl.find m.ma k with
    | none => s
    | some t =>
      if m.maWait.contains k then (if t.kind == kEos then s.takeMaEos p k else s)
      else
        match m.current with
        | some (col, a) =>
          if a.reads k && !m.faulted then (if opBlocked m.channel then s else s.maToken p k a (m.active.epp col) t)
          else if t.kind == kEos && !m.needsPort k then s.takeMaEos p k else s
        | none =>
          if t.kind == kEos && (!m.faulted || decide (m.step < (s.region p).stepNo)) then s.takeMaEos p k else s) s

/-- The mantissas and exponents of a port's slice. -/
def sliceValues (a : MatArgs) (ts : List Token) : List Int × List Nat :=
  (ts.flatMap fun t => if t.kind == kHeader then [] else
      (List.range 4).map fun j => lowSigned a.wa (t.payload.toNat / 2 ^ (8 * j)),
   ts.filterMap fun t => if t.kind == kHeader then some (t.payload.toNat % 256) else none)

/-! ### Taking a vector (R227, R234, R242) -/

/-- A vector: its elements, the exponents of its blocks, and the port cycles that it needs. -/
structure MatSource where
  a     : List Int
  ea    : List Nat
  tport : Nat

/-- Put the mantissas of a compressed slice at the places whose bit is set (R234). -/
def expandMants : List Bool → List Int → List Int
  | [], _ => []
  | b :: t, ms => if b then (ms.headD 0) :: expandMants t (ms.drop 1) else 0 :: expandMants t ms

/-- The vector of an A slot, with or without a bitmap slot. -/
def slotVector (a : MatArgs) (epp : Nat) (d : List Byte) (bm : Option (List Byte)) : MatSource :=
  let f := packField a.wa
  let ports := (List.range a.np).map fun i =>
    let bs := (d.drop (128 + i * (epp * f / 8))).take (epp * f / 8)
    match bm with
    | none => (packedMants a.wa epp bs, ceilDiv (epp * f) 32)
    | some b =>
      let v := leValue ((b.drop (i * (epp / 8))).take (epp / 8))
      let bits := (List.range epp).map fun j => bit v j
      let n := bits.countP (· == true)
      (expandMants bits (packedMants a.wa n bs), ceilDiv (n * f) 32)
  { a := ports.flatMap (·.1), ea := (d.take (a.np * epp / a.blk)).map (·.toNat),
    tport := ports.foldl (fun n x => if n < x.2 then x.2 else n) 0 }

/-- Read the slot at the consumer index of a handle once one is filled; a fault names ma_P. -/
def State.slotAtC (s : State) (p h n : Nat) : Got (List Byte) × State :=
  match s.handleNow p h (.waitFilled 1) with
  | (.wait, s1) => (.wait, s1)
  | (.bad c d a, s1) => (.bad c d a, s1)
  | (.ok hd, s1) =>
    match s1.unitRead p hd.loc (hd.slotVa hd.c) n with
    | (.bad c d a, s2) => (.bad c d (c.addr a), s2)
    | x => x

/-- The consumer indices of the vectors of an operation whose planes are still entering (R227). -/
def Matrix.taken (m : Matrix) (h : Nat) : Bool := m.flight.any fun v => !v.advanced && ((!v.op.asrc && v.op.h.val == h) || v.mask == some h)

/-- The next vector of an operation. -/
def State.takeVector (s : State) (p : Nat) (a : MatArgs) (epp : Nat) : Got MatSource × State :=
  let m := (s.region p).matrix
  if a.asrc then
    let ks := (List.range a.np).map fun i => a.port.val + i
    if ks.all (fun k => (m.slice k).length == sliceTokens a epp) then
      let vs := ks.map fun k => sliceValues a (m.slice k)
      let r := s.region p
      (.ok { a := vs.flatMap (·.1), ea := vs.flatMap (·.2), tport := epp / 4 + epp / a.blk },
        s.setRegion p { r with matrix := { m with slices := m.slices.filter fun e => !ks.contains e.1 } })
    else (.wait, s)
  else if m.taken a.h.val || m.maskH.any m.taken then (.wait, s)
  else
    match s.slotAtC p a.h.val (slotBytes a epp) with
    | (.wait, s1) => (.wait, s1)
    | (.bad c d x, s1) => (.bad c d x, s1)
    | (.ok d, s1) =>
      match m.maskH with
      | none => (.ok (slotVector a epp d none), s1)
      | some h =>
        match s1.slotAtC p h (a.np * epp / 8) with
        | (.wait, s2) => (.wait, s2)
        | (.bad c e x, s2) => (.bad c e x, s2)
        | (.ok b, s2) => (.ok (slotVector a epp d (some b)), s2)

/-! ### Starting vectors (R229, R238, R242) -/

/-- Cycles that a vector occupies the unit (R229): its A bytes enter at no more than PCAP / 256 of 64 bytes per cycle (R444). -/
def vectorCycles (pcap : Nat) (b : Bank) (col : Bool) (a : MatArgs) (tport : Nat) : Nat :=
  let n := b.outLen col
  let tmac := if b.pack && decide (4 < a.wa) then 2 * a.wa else a.wa
  let tdrain := match a.dr with
    | .none => 0
    | .fabric => ceilDiv (4 * n) 64
    | .stash => ceilDiv (4 * n) 256
    | .pool => n
  let tcap := ceilDiv (4 * a.np * tport * 256) (64 * pcap)
  [tmac, tport, tdrain, tcap].foldl (fun x y => if x < y then y else x) 0

/-- Whether a slot of a handle holds too few bytes (R242). -/
def Region.slotShort (r : Region) (h n : Nat) : Bool := decide (2 ^ (r.handle h).lsz < n)

/-- The step's first operation in a channel is marked as begun. -/
def markStarted (step : Nat) : List MatEntry → List MatEntry
  | [] => []
  | e :: es => if e.cmd.isOp && e.step == step then { e with started := true } :: es else e :: markStarted step es

/-- The operation begins: it binds its bitmap and checks its slots against the active bank. -/
def State.beginOp (s : State) (p : Nat) (col : Bool) (a : MatArgs) : State :=
  let r := s.region p
  let m := r.matrix
  let b := m.active
  let mask := (m.channel.takeWhile fun e => !e.cmd.isOp).findSome? fun e => match e.cmd with
    | .mask h _ _ => if e.step == m.step then some h else none
    | _ => none
  let short := (!a.asrc && r.slotShort a.h.val (slotBytes a (b.epp col))) ||
    (match mask with
      | some h => r.slotShort h (a.np * b.epp col / 8)
      | none => false) ||
    (a.dr == .stash && r.slotShort a.zh.val (4 * b.outLen col))
  let isMask (e : MatEntry) : Bool := match e.cmd with
    | .mask h _ _ => e.step == m.step && some h == mask
    | _ => false
  let ch := markStarted m.step m.channel
  let s1 := s.setRegion p { r with matrix := { m with maskH := mask, channel := ch.eraseP isMask } }
  if short then s1.matrixFault p .matrix (maPort a.port.val) 0 0 m.headTmpl none else s1

/-- A vector enters the macros: its results are formed in order, its handles advance when its planes have entered, and
after the last vector the op-end follows. -/
def State.enterVector (s : State) (p : Nat) (col : Bool) (a : MatArgs) (v : MatSource) : State :=
  let r := s.region p
  let m := r.matrix
  let b := m.active
  let n := b.outLen col
  let row := (a.zbase.toNat + m.vec * ceilDiv n 512) % 256
  let res := matVector b col a v.a v.ea (m.prior row)
  let last := decide (a.slots.toNat ≤ m.vec + 1)
  let tmac := if b.pack && decide (4 < a.wa) then 2 * a.wa else a.wa
  let fl : VecInFlight :=
    { planes := s.tide + s.cyclesAt p tmac, due := s.tide + s.cyclesAt p (tmac + 24), advanced := false, row := row, vals := res.1,
      flags := res.2, op := a, last := last, mask := m.maskH, tmpl := m.headTmpl }
  let ch := if last then m.channel.eraseP (fun e => e.step == m.step && e.cmd.isOp) else m.channel
  s.setRegion p { r with matrix := { m with
    flight := m.flight ++ [fl], vec := if last then 0 else m.vec + 1, channel := ch, maskH := if last then none else m.maskH,
    freeAt := s.tide + s.cyclesAt p (vectorCycles (s.die (dieOfPlace p)).pcap b col a v.tport) } }

/-- Rows that a drain or a vector bound for a drain has still to leave (R238). -/
def Matrix.rowBusy (m : Matrix) (row n : Nat) : Bool :=
  (rowsOf row n).any fun r =>
    m.drains.any (fun d => (rowsOf d.row d.n).contains r) ||
    m.flight.any (fun v => v.op.dr != .none && (rowsOf v.row v.vals.length).contains r)

/-- Whether the unit stands still: a cut holds it, or its region does. -/
def State.matrixHeld (s : State) (p : Nat) : Bool :=
  !(s.region p).moves || ((s.region p).matrix.marked && s.cutForSave p)

/-- The operation at the head of the channel begins before the unit takes a token or a vector for it (R242). -/
def State.beginHead (s : State) (p : Nat) : State :=
  let m := (s.region p).matrix
  match m.current with
  | none => s
  | some (col, a) =>
    if m.faulted || opBlocked m.channel || m.channel.any (fun e => e.step == m.step && e.cmd.isOp && e.started) then s
    else s.beginOp p col a

/-- Start the next vector of the operation at the head of the channel, if it can start. -/
def State.startVector (s : State) (p : Nat) : State :=
  let m := (s.region p).matrix
  match m.current with
  | none => s
  | some (col, a) =>
    -- an open cut of a handle-sourced operation falls at the next vector boundary (R249)
    if m.faulted || opBlocked m.channel || decide (s.tide < m.freeAt) || (!a.asrc && !m.marked && s.cutReady p) then s
    else
      let b := m.active
      if m.rowBusy ((a.zbase.toNat + m.vec * ceilDiv (b.outLen col) 512) % 256) (b.outLen col) then s
      else
        match s.takeVector p a (b.epp col) with
        | (.wait, s1) => s1
        | (.bad c d x, s1) => s1.matrixFault p c (maPort a.port.val) d x m.headTmpl none
        | (.ok v, s1) => s1.enterVector p col a v

/-- MATRIX_VECTOR_START (R227, R228, R242): the unit takes tokens at its feeding ports, and starts a vector once its source
holds the complete vector. -/
def execMatrixVectorStart (p : Nat) (s : State) : Out :=
  if s.matrixHeld p then s.idle
  else .next (((((s.matrixSettle p).beginHead p).maPorts p).startVector p).matrixSettle p)

/-! ### Results and drains (R229, R236 to R238) -/

/-- Whether element e of a drain stands in a poisoned accumulator row. -/
def Matrix.elemBad (m : Matrix) (row e : Nat) : Bool := m.accBad.contains ((row + e / 512) % 256)

/-- A pool drain contributes its results in ascending order (R237); one of a poisoned row poisons the lane (R369). -/
def State.drainPool (s : State) (p : Nat) (d : DrainState) (vals : List Word) : State × Bool :=
  let m := (s.region p).matrix
  (vals.zip (List.range vals.length)).foldl (fun x v =>
    if x.2 then
      let c := x.1.contribute p 700 m.step d.pool d.lane .f32 v.1 (if m.elemBad d.row v.2 then some 2 else none)
      (c.2, c.1)
    else x) (s, true)

/-- The lines of a slot into which results of a poisoned row have been written are poisoned (log entry 62). -/
def State.poisonSlot (s : State) (p : Nat) (home : Bool) (va n : Nat) : State :=
  (piecesOf va n).foldl (fun s x =>
    match s.unitAccess p x.1 .write with
    | (.ok pa _, s1) =>
      if home then s1.markPoison (lineOf pa) true
      else
        let r := s1.region p
        s1.setRegion p { r with stash := r.stash.map fun l => if l.line = lineOf pa then { l with poison := true } else l }
    | (_, s1) => s1) s

/-- The results of a drain, as the accumulator holds them. -/
def Matrix.results (m : Matrix) (d : DrainState) : List Word :=
  (List.range d.n).map fun e => ((Tbl.look m.acc ((d.row + e / 512) % 256) [])[e % 512]?).getD 0

/-- Elements per port of a fabric drain, and how many ports it uses. -/
def drainEpo (n : Nat) : Nat := if 512 < n then 64 else 32
def drainPorts (n : Nat) : Nat := ceilDiv n (drainEpo n)

/-- A port of a fabric drain sends its next element when its latch is free (R237); one of a poisoned row leaves as a poison token (log
entry 62). -/
def Matrix.drainPort (m : Matrix) (d : DrainState) (k : Nat) : DrainState × Matrix :=
  let i := (d.pos[k]?).getD 0
  let left := if d.n < (k + 1) * drainEpo d.n then d.n - k * drainEpo d.n else drainEpo d.n
  if left ≤ i || (Tbl.find m.mz k).isSome || m.owed.any (·.1 == k) then (d, m)
  else
    let v := ((m.results d)[k * drainEpo d.n + i]?).getD 0
    let t : Token := if m.elemBad d.row (k * drainEpo d.n + i) then mkToken kPoison 0x80000000
      else { kind := if i + 1 = left then kLast else kData, payload := v, cause := 0 }
    ({ d with pos := replaceAt d.pos k (i + 1) }, { m with mz := Tbl.put m.mz k t })

def DrainState.isOver (d : DrainState) : Bool := d.n ≤ d.pos.foldl (· + ·) 0

/-- The fabric drains at the front of the queue send what they can: a port sends an earlier vector first. -/
def Matrix.drainFabric : List DrainState → List Nat → Matrix → List DrainState × Matrix
  | [], _, m => ([], m)
  | d :: t, busy, m =>
    if d.dr != .fabric then (d :: t, m)
    else
      let r := (List.range (drainPorts d.n)).foldl (fun x k => if busy.contains k then x else x.2.drainPort x.1 k) (d, m)
      let left := (List.range (drainPorts d.n)).filter fun k =>
        decide ((r.1.pos[k]?).getD 0 < (if d.n < (k + 1) * drainEpo d.n then d.n - k * drainEpo d.n else drainEpo d.n))
      let rest := Matrix.drainFabric t (busy ++ left) r.2
      (if r.1.isOver then rest.1 else r.1 :: rest.1, rest.2)

/-- The drain at the front of the queue, when it goes to the stash or to a pool (R237). -/
def State.drainFront (s : State) (p : Nat) : State :=
  let r := s.region p
  let m := r.matrix
  match m.drains with
  | [] => s
  | d :: t =>
    let vals := m.results d
    let done (s : State) : State :=
      let r := s.region p
      s.setRegion p { r with matrix := { r.matrix with drains := t } }
    match d.dr with
    | .stash =>
      match s.handleNow p d.zh (.waitFree 1) with
      | (.wait, s1) => s1
      | (.bad c e a, s1) => (done s1).matrixFault p c (mzPort 0) e a d.tmpl none
      | (.ok hd, s1) =>
        match s1.unitWrite p hd.loc true (hd.slotVa hd.p) (vals.flatMap fun v => leBytes 4 v.toNat) with
        | (.wait, s2) => s2
        | (.bad c e a, s2) => (done s2).matrixFault p c (mzPort 0) e a d.tmpl none
        | (.ok _, s2) =>
          let s2 := if (rowsOf d.row d.n).any (m.accBad.contains ·) then s2.poisonSlot p hd.loc (hd.slotVa hd.p) (4 * d.n) else s2
          match s2.handleNow p d.zh (.push 1) with
          | (.bad c e a, s3) => (done s3).matrixFault p c (mzPort 0) e a d.tmpl none
          | (_, s3) => done s3
    | .pool =>
      if s.laneHeld p m.step d.pool d.lane then s
      else
      match s.drainPool p d vals with
      | (s1, true) => done s1
      | (s1, false) => (done s1).matrixFault p .pool (mzPort 0) 0 0 (poolToken 1 0 0) none
    | _ => s

/-- Deliver what the mz latches hold: port k drives the south link of cell 15.(2k+1) (R91). Owed tokens follow. -/
def State.deliverMz (s : State) (p : Nat) : State :=
  (List.range 16).foldl (fun s k =>
    let r := s.region p
    let m := r.matrix
    let m1 : Matrix := match Tbl.find m.mz k, m.owed.find? (·.1 == k) with
      | none, some o => { m with mz := Tbl.put m.mz k o.2, owed := m.owed.eraseP (·.1 == k) }
      | _, _ => m
    let s1 := s.setRegion p { r with matrix := m1 }
    match Tbl.find m1.mz k with
    | none => s1
    | some t =>
      match s1.land p (.cell (32 * 15 + 2 * k + 1) .s) t with
      | none => s1
      | some s2 =>
        let r2 := s2.region p
        s2.setRegion p { r2 with matrix := { r2.matrix with mz := Tbl.drop r2.matrix.mz k } }) s

/-- A consumer advance of a handle by the unit (R227). -/
def State.matrixPop (s : State) (p h port tmpl : Nat) : State :=
  match s.handleNow p h (.pop 1) with
  | (.bad c d a, s1) => s1.matrixFault p c (maPort port) d a tmpl none
  | (_, s1) => s1

/-- The oldest vector whose planes have all entered advances the handles it read. -/
def State.advanceVector (s : State) (p : Nat) : State :=
  let r := s.region p
  match r.matrix.flight.find? (fun v => !v.advanced) with
  | none => s
  | some v =>
    if s.tide < v.planes then s
    else
      let mark : List VecInFlight → List VecInFlight := fun l =>
        match l.findIdx? (fun v => !v.advanced) with
        | some i => replaceAt l i { v with advanced := true }
        | none => l
      let s1 := s.setRegion p { r with matrix := { r.matrix with flight := mark r.matrix.flight } }
      let s2 := if v.op.asrc then s1 else s1.matrixPop p v.op.h.val v.op.port.val v.tmpl
      match v.mask with
      | some h => s2.matrixPop p h v.op.port.val v.tmpl
      | none => s2

/-- The oldest vector's results stand in the accumulator, and its drain joins the queue. -/
def State.finishVector (s : State) (p : Nat) : State :=
  let r := s.region p
  match r.matrix.flight with
  | [] => s
  | v :: t =>
    if !v.advanced || decide (s.tide < v.due) then s
    else
      let m := r.matrix.store v.row v.vals
      let n := v.vals.length
      let d : DrainState :=
        { dr := v.op.dr, row := v.row, n := n, pos := List.replicate (drainPorts n) 0, zh := v.op.zh.val, pool := v.op.pool.val,
          lane := v.op.lane.val, tmpl := v.tmpl }
      let m1 := { m with flight := t, accBad := m.rowsBad v.op.zero v.row n, drains := if v.op.dr == .none then m.drains else m.drains ++ [d] }
      (s.setRegion p { r with matrix := m1 }).raiseFlags p m1.step v.flags

/-- Matrix vectors whose bit-planes have begun are accumulated (R429). -/
def State.vectorsEnd (s : State) (p : Nat) : State :=
  let r := s.region p
  let hurry (v : VecInFlight) : VecInFlight := { v with planes := 0, due := 0 }
  let s1 := s.setRegion p { r with matrix := { r.matrix with flight := r.matrix.flight.map hurry } }
  r.matrix.flight.foldl (fun s _ => (s.advanceVector p).finishVector p) s1

/-- At a forced clear only the vectors that have not begun are discarded (R436): those begun are accumulated, and drain to the stash where
a slot is free and to their pools. What drains to the fabric is discarded with its latches. -/
def State.unitEnds (s : State) (p : Nat) : State :=
  let s1 := s.vectorsEnd p
  let r := s1.region p
  let left := r.matrix.drains.filter (·.dr != .fabric)
  left.foldl (fun s _ => s.drainFront p) (s1.setRegion p { r with matrix := { r.matrix with drains := left } })

/-- MATRIX_VECTOR_DONE (R229, R236, R237). A region that a debugger holds still accumulates the vectors begun (R459). -/
def execMatrixVectorDone (p : Nat) (s : State) : Out :=
  if (s.region p).mode == .held then .next ((s.advanceVector p).finishVector p)
  else if !(s.region p).moves then s.idle
  else
    let s1 := (s.advanceVector p).finishVector p
    let r := s1.region p
    let f := Matrix.drainFabric r.matrix.drains [] r.matrix
    let s2 := s1.setRegion p { r with matrix := { f.2 with drains := f.1 } }
    .next (((s2.drainFront p).deliverMz p).matrixSettle p)

/-! ### Loading a bank (R240) -/

/-- Read the image of a tile from the slots of its handle, one slot after another. -/
def State.readTile (p : Nat) (hd : Handle) : List (Nat × Nat) → List (List Byte) → State → Got (List Byte) × State
  | [], acc, s => (.ok acc.reverse.flatten, s)
  | (i, n) :: t, acc, s =>
    match s.unitRead p hd.loc (hd.slotVa (hd.c + i)) n with
    | (.ok d, s1) => State.readTile p hd t (d :: acc) s1
    | (.wait, s1) => (.wait, s1)
    | (.bad c d a, s1) => (.bad c d (c.addr a), s1)

/-- How many bytes of an image of n bytes lie in each slot. -/
def tileSlots (lsz n : Nat) : List (Nat × Nat) :=
  (List.range (ceilDiv n (2 ^ lsz))).map fun i => (i, if n < (i + 1) * 2 ^ lsz then n - i * 2 ^ lsz else 2 ^ lsz)

/-- MLOAD_COMPLETE (R240, R244): a dispatched `mload` waits for its slots and for the earlier commands that name its handle,
reads its image, and the shadow bank holds the tile from the advance on. -/
def execMloadComplete (p : Nat) (s : State) : Out :=
  if s.matrixHeld p then s.idle
  else
    let s0 := s.matrixSettle p
    let m := (s0.region p).matrix
    let i := (m.channel.findIdx? fun e => e.step == m.step && e.started && (match e.cmd with
      | .load _ _ _ _ _ _ _ => true
      | _ => false)).getD m.channel.length
    match m.channel[i]? with
    | some { cmd := .load h slots bm pack wb tr tc, step := _, tmpl := tm, started := _, done := _, orgY := y, orgX := x } =>
      if m.faulted || (m.channel.take i).any (fun e => e.cmd.names h) || m.holds h then .next s0
      else
        match s0.handleNow p h (.waitFilled slots) with
        | (.wait, s1) => .next s1
        | (.bad c d a, s1) => .next (s1.matrixFault p c (maPort 0) d a tm none)
        | (.ok hd, s1) =>
          match State.readTile p hd (tileSlots hd.lsz (tileBytes tr tc wb bm)) [] s1 with
          | (.wait, s2) => .next s2
          | (.bad c d a, s2) => .next (s2.matrixFault p c (maPort 0) d a tm none)
          | (.ok bs, s2) =>
            match s2.handleNow p h (.pop slots) with
            | (.bad c d a, s3) => .next (s3.matrixFault p c (maPort 0) d a tm none)
            | (.wait, s3) => .next s3
            | (.ok _, s3) =>
              let r := s3.region p
              let m1 := r.matrix.setShadow (tileBank bs tr tc wb pack bm y x)
              .next ((s3.setRegion p { r with matrix := { m1 with channel := removeAt m1.channel i } }).matrixSettle p)
    | _ => .next s0

/-! ### Steps (R224, R248) -/

/-- The mz ports whose link a node of a configuration reads, and the ma ports that one drives. -/
def confReadsMz (recs : List ConfRec) : List Nat :=
  (List.range 16).filter fun k => recs.any fun b => match b with
    | .cell row col w ro =>
      row.val == 15 && col.val == 2 * k + 1 &&
        ((match w with
          | some w => [0, 1, 2, 3].any fun i => wordSel w i == .link .s
          | none => false) ||
         dirs.any fun d => match ro.out d with
          | some o => o.sources.contains (.link .s)
          | none => false)
    | _ => false
def confDrivesMa (recs : List ConfRec) : List Nat :=
  (List.range 16).filter fun k => recs.any fun b => match b with
    | .cell row col _ ro =>
      col.val == 2 * k && dirs.any fun d => match ro.out d with
        | some o => landing (32 * row.val + col.val) d o.hop.val == .ma k
        | none => false
    | _ => false

/-- Reset at the start of a course or a step (R224): the origin position and the walk mode stay (R246). -/
def Matrix.startStep (m : Matrix) (step : Nat) : Matrix :=
  { Matrix.reset with
    step := step, channel := m.channel, walk := m.walk, orgY := m.orgY, orgX := m.orgX, mz := m.mz, ma := m.ma,
    owed := m.owed, maWait := m.maWait, marked := m.marked, freeAt := m.freeAt }

/-- Whether every matrix command of the unit's step has completed and its drains are done (R248). -/
def Region.matrixIdle (r : Region) : Bool :=
  let m := r.matrix
  !m.channel.any (fun e => decide (e.step ≤ m.step)) && m.flight.isEmpty && m.drains.isEmpty &&
    !r.cmdQ.any (fun q => decide (q.step ≤ m.step) && (match decodeStream q.bits.toNat with
      | .ok (.mload _ _ _ _ _ _ _) => true
      | .ok .mswap => true
      | .ok (.mrow _) => true
      | .ok (.mcol _) => true
      | .ok (.moriginFixed _ _) => true
      | .ok (.moriginWalk _ _) => true
      | .ok (.mmask _ _ _) => true
      | _ => false))

/-- Whether the unit has a step to pass to: the next one, or the end of the course (R248, R435). -/
def Region.matrixMayPass (r : Region) : Bool := decide (r.matrix.step < r.stepNo) || (r.finished && r.succ.isNone && r.matrix.step == r.stepNo)

/-- MATRIX_STEP_PASS (R248): at `done` the unit passes too, and its resources are left as a step's end leaves them. -/
def execMatrixStepPass (p : Nat) (s : State) : Out :=
  let r := s.region p
  let m := r.matrix
  if !r.moves || !r.matrixMayPass || !r.matrixIdle then s.idle
  else
    let recs := match r.steps.find? (fun x => x.num == m.step) with
      | some x => s.slotConf x
      | none => []
    let wait := (confDrivesMa recs).filter fun k => !m.maEos.contains k
    let m1 := (m.startStep (m.step + 1))
    let m2 := { m1 with owed := m1.owed ++ (confReadsMz recs).map (fun k => (k, eosToken)), maWait := m1.maWait ++ wait }
    .next (((s.setRegion p { r with matrix := m2 }).deliverMz p).matrixSettle p)

/-! ### Markers (R249) -/

/-- MATRIX_MARKER_FIRING (R249): at a vector boundary of the running operation, with a marker at each of its feeding ports, the
unit takes the markers and sends one on each mz port of the operation's fabric drain. A marker at a port that no command
needs is taken as it arrives. -/
def execMatrixMarkerFiring (p : Nat) (s : State) : Out :=
  let r := s.region p
  let m := r.matrix
  if !r.moves then s.idle
  else
    let loose := (List.range 16).filter fun k => (Tbl.find m.ma k).map (·.kind) == some kMarker && !m.needsPort k
    let m0 := { m with ma := m.ma.filter fun e => !loose.contains e.1 }
    match m0.current with
    | none => .next (s.setRegion p { r with matrix := m0 })
    | some (col, a) =>
      let ks := if a.asrc then (List.range a.np).map fun i => a.port.val + i else []
      let ready := ks.all fun k =>
        (Tbl.find m0.ma k).map (·.kind) == some kMarker && (m0.slice k).isEmpty
      if !s.cutReady p || m0.marked || !ready || !m0.flight.isEmpty || !m0.drains.isEmpty then .next (s.setRegion p { r with matrix := m0 })
      else
        let out := if a.dr == .fabric then (List.range (drainPorts (m0.active.outLen col))).map fun k => (k, markerToken) else []
        let m1 := { m0 with ma := m0.ma.filter (fun e => !ks.contains e.1), owed := m0.owed ++ out, marked := true }
        .next ((s.setRegion p { r with matrix := m1 }).deliverMz p)

end Sys2Proof.Machine
end

