-- ==== Sys2Proof/Machine/Course.lean ====
section
/-! DEFINITION. Steps of a course: loading configurations, splices, `next`, `goto`, `done` and claims (R59, R64, R65, R120,
R128 to R131, R164 to R167, R281, R427). -/
namespace Sys2Proof.Machine

/-! ### The configuration store (R59, R128) -/

/-- The step that follows under R65: the same step with the next iteration, SUCC, or none when the course ends. -/
def State.following (s : State) (p : Nat) : Option (Nat × Word) :=
  let r := s.region p
  match (s.imageOf r).bind (fun img => img.steps[r.cc.toNat]?) with
  | none => none
  | some st =>
    if st.loop && decide (r.ic.toNat + 1 < r.icend.toNat) then some (r.cc.toNat, r.ic + 1)
    else if st.term then none
    else some (st.succ, r.ic)

/-- The slot that holds, or will hold, the configuration of the next step of a region. -/
def Region.nextSlot (r : Region) : Option StepSlot := r.steps.find? (·.num == r.stepNo + 1)

def Region.putSlot (r : Region) (x : StepSlot) : Region := { r with steps := r.steps.filter (·.num != x.num) ++ [x] }

/-- The sluice begins to load a step's image into the free slot, in place of another that it had loaded there. -/
def Region.wantSlot (r : Region) (idx : Nat) : Region :=
  match r.nextSlot with
  | some x =>
    if x.idx = idx && x.image = r.image then r
    else r.putSlot { num := r.stepNo + 1, image := r.image, idx := idx, loaded := false, refused := false, openAt := 0 }
  | none => r.putSlot { num := r.stepNo + 1, image := r.image, idx := idx, loaded := false, refused := false, openAt := 0 }

/-- The step that a region will most likely splice next is loaded when a step starts (R128). -/
def State.preload (s : State) (p : Nat) : State :=
  match s.following p with
  | some (idx, _) => s.setRegion p ((s.region p).wantSlot idx)
  | none => s

/-- The check of a step's image as a region loads it (R59). -/
def State.slotCheck (s : State) (x : StepSlot) : Except ConfRefusal (List ConfRec) :=
  match Tbl.find s.images x.image with
  | none => .ok []
  | some img =>
    match img.steps[x.idx]? with
    | none => .ok []
    | some st => confCheck img.gauges.length st.confs

/-! ### Splices (R128 to R131, R281) -/

/-- Steps that have torn down leave the store, once the matrix unit has passed them too. -/
def State.pruneSteps (s : State) (p : Nat) : State :=
  let r := s.region p
  let left := r.steps.filter fun x => decide (r.stepNo ≤ x.num) || decide (r.matrix.step ≤ x.num) || !s.tornDown p x
  s.setRegion p { r with steps := left }

/-- The spliced steps of a region that have not torn down. -/
def State.stepsHeld (s : State) (p : Nat) : Nat :=
  let r := s.region p
  (r.steps.filter fun x => decide (x.num ≤ r.stepNo) && !s.tornDown p x).length

/-- The adder nodes that a step installs (R343). -/
def rillOf (num : Nat) (recs : List ConfRec) (t : Tbl RillNode) : Tbl RillNode :=
  recs.foldl (fun t b => match b with
    | .rill x => Tbl.put t (rillKey num x.node.val) { grec := x, step := num, train := none, expiry := 0 }
    | _ => t) t

/-- Handler 0 starts at word 0 of the region's step; a breakpoint on the step stops the region (R458). -/
def State.startStep (s : State) (p : Nat) : State :=
  let r := s.region p
  let h := r.handler 0
  let r1 := r.setHandler 0 { h with decl := true, hen := true, st := .active, ia := 0, wait := .none, latch := none }
  let s1 := s.setRegion p r1
  if r.comps.any (fun e => e.2.kind == 4 && e.2.w2.toNat % 16 == r.cc.toNat) then s1.setRegion p (s1.region p).hold else s1

/-- Whether a pre-emption takes this splice as a region's splice point (R426, R427). -/
def State.splicePoint (s : State) (p : Nat) : Bool :=
  match (s.die (dieOfPlace p)).preempt with
  | some x => x.inst == (s.region p).inst && !x.marked.contains p && x.splTo != 0 && decide (s.tide ≤ x.start + x.splTo)
  | none => false

/-- A region at the splice point of a pre-emption: it has gone on to a step that is not installed (R427). -/
def Region.atSplice (r : Region) : Bool := decide (1 ≤ r.stepNo) && !r.finished && !r.steps.any (·.num == r.stepNo)

/-- The port of a binding command. -/
def bindPort : Instr → Option Nat
  | .bindr b => some b.port.val
  | .bindw b => some b.port.val
  | .bindg b _ _ => some b.port.val
  | .binds b _ => some b.port.val
  | .bindc b _ _ => some b.port.val
  | .bindf _ port _ _ _ => some port.val
  | _ => none

/-- The bindings (none) and the weir graphs that a region's script has issued for a port and that wait, oldest first. -/
def Region.waitingAt (r : Region) (n : Nat) : List (Option Nat) :=
  ((r.side n).queue.filterMap fun e => match e with
    | .bind _ => some none
    | .weir _ _ c _ _ => some (some c)
    | _ => none) ++
  r.cmdQ.filterMap fun q => match decodeStream q.bits.toNat with
    | .ok (.weir _ port _ _ _) => if port.val = n then some (some q.ctx) else none
    | .ok i => if bindPort i = some n then some none else none
    | .error _ => none

/-- Weir graphs for which no binding has been issued end at a splice (R257). -/
def State.dropLoose (s : State) (p : Nat) : State :=
  let r := s.region p
  let loose := (List.range 64).flatMap fun n => ((r.waitingAt n).reverse.takeWhile (·.isSome)).filterMap id
  let sides := r.sides.map fun e => (e.1, { e.2 with queue := e.2.queue.filter fun x => match x with
    | .weir _ _ c _ _ => !loose.contains c
    | _ => true })
  let cmdQ := r.cmdQ.filter fun q => q.ctx == 0 || !loose.contains q.ctx
  loose.foldl (fun s c => s.releaseGraph c) (s.setRegion p { r with sides := sides, cmdQ := cmdQ })

/-- Step idx splices with iteration ic: its configuration follows the last tokens of the old one, and handler 0 starts at its
word 0. Handler k executes it; where that is handler 0, at the splice point of a pre-emption, the configuration is not installed, and
handler 0 stops (R426, R427). -/
def State.splice (s : State) (p k idx : Nat) (ic : Word) : State :=
  let s := s.dropLoose p
  let r := s.region p
  let num := r.stepNo + 1
  let openAt := match r.sif.atime with
    | some t => 8000 * t.toNat
    | none => 0
  let steps := r.steps.map fun x => if x.num = num then { x with openAt := openAt } else x
  let r1 := { r with cc := BitVec.ofNat 4 idx, ic := ic, stepNo := num, steps := steps }
  if k == 0 && s.splicePoint p then
    let h := r1.handler 0
    let r2 := r1.setHandler 0 { h with st := .stopped, ia := 0, wait := .none, latch := none }
    s.setRegion p { r2 with steps := r2.steps.filter (·.num != num) }
  else
    let recs := match steps.find? (·.num == num) with
      | some x => s.slotConf x
      | none => []
    -- at step start the row granted last counts as 15 (R204)
    let r2 := { r1 with sif := { r1.sif with atime := none }, rill := rillOf num recs r1.rill, columns := [] }
    (((((s.setRegion p r2).startStep p).advanceAll p).preload p).pruneSteps p)

/-- Whether an `atime` still waits in the command queue (R281). -/
def Region.atimeQueued (r : Region) : Bool :=
  r.cmdQ.any fun q => match decodeStream q.bits.toNat with
    | .ok (.atime _) => true
    | _ => false

/-- A `next` asks for a splice to a step: it stalls while an `atime` is queued, a cut is open, the image is not
loaded or three steps stand; a refused step faults. -/
def State.spliceWord (s : State) (idx : Nat) (ic : Word) : Out :=
  let p := s.cur.1
  let r := s.mine
  if r.atimeQueued || s.cutOpen p || r.atSplice then s.stall
  else
    match r.nextSlot with
    | none => (s.setRegion p (r.wantSlot idx)).stall
    | some x =>
      if x.idx ≠ idx ∨ x.image ≠ r.image then (s.setRegion p (r.wantSlot idx)).stall
      else if !x.loaded then s.stall
      else if x.refused then s.raise .config 0 0
      else if 3 ≤ s.stepsHeld p then s.stall
      else .next (s.splice p 0 idx ic)

/-- NEXT (R65, R164): illegal in a handler other than 0. -/
def execNext (s : State) : Out :=
  let p := s.cur.1
  if s.cur.2 ≠ 0 then s.raiseIllegal
  else
    match s.following p with
    | some (idx, ic) => s.spliceWord idx ic
    | none => if s.mine.atimeQueued || s.cutOpen p then s.stall else .next (s.startDone p false)

/-- What a `goto` discards: handler 0's position, stalled word and suspension (R166), and the spilled elements of the present steps
(R336). Another handler goes on at the following word. -/
def State.gotoFrom (s : State) (p k : Nat) : State :=
  let s1 := s.orphan p (some 0) false
  let r := (s1.region p).dropSpills
  s1.setRegion p (if k = 0 then r else r.advance k)

/-- GOTO (R166): one action. The step splices at once, and handler 0 starts in it once the image is loaded; a step that the region
refuses faults, and nothing changes (R59). The word stalls while an `atime` is queued, a cut is open or three steps stand. -/
def execGoto (t : BitVec 4) (s : State) : Out :=
  let p := s.cur.1
  let r := s.mine
  let n := match s.imageOf r with
    | some img => img.steps.length
    | none => 0
  if n ≤ t.toNat then s.raise .stepBound 0 0
  else if r.atimeQueued || s.cutOpen p || r.atSplice then s.stall
  else
    let s1 := s.setRegion p (r.wantSlot t.toNat)
    match (s1.region p).nextSlot.map s1.slotCheck with
    | some (.error _) => s1.raise .config 0 0
    | _ => if 3 ≤ s.stepsHeld p then s.stall else .next ((s1.gotoFrom p s.cur.2).splice p s.cur.2 t.toNat r.ic)

/-- DONE (R167, R435). -/
def execDone (s : State) : Out := .next (s.startDone s.cur.1 false)

/-! ### Loading and starting -/

/-- The launch whose index splices into an index of a launch, if one is chained there (R132). -/
def Die.successorOf (x : Die) (u i : Nat) : Option Nat :=
  match (Tbl.find x.launches u).bind (·.link) with
  | none => none
  | some v =>
    match Tbl.find x.launches v with
    | some l => if !l.isOver && l.chain.contains i then some v else none
    | none => none

/-- The configuration of a chained successor's ENTRY step follows the last tokens of a region that has executed `done` (R129, R132,
R439). One that its check refuses is reported when the successor starts. The placement claims are made in slot order: the region of a
slot whose claim will find no work installs no word of it (R117). -/
def State.chainSplice (s : State) (p : Nat) : State :=
  let r := s.region p
  let x := s.die (dieOfPlace p)
  match (x.successorOf r.launch r.instIdx).bind (Tbl.find x.launches) with
  | none => s
  | some l =>
    match Tbl.find s.images l.recd.image with
    | none => s
    | some img =>
      if shapeElastic l.recd.shape && decide (l.recd.iters ≤ r.slot * l.recd.chunk) then s
      else
      let num := r.stepNo + 1
      let slot : StepSlot := { num := num, image := l.recd.image, idx := img.entry, loaded := true, refused := false, openAt := 0 }
      match s.slotCheck slot with
      | .error _ => s
      | .ok _ => (s.setRegion p { r.putSlot slot with stepNo := num, succ := some num, succFlags := 0, columns := [] }).advanceAll p

/-- Whether a region that has executed `done` may take the configuration of its chained successor: three steps at most stand in it. -/
def State.chainReady (s : State) (p : Nat) : Bool :=
  let r := s.region p
  r.mode == .draining && r.stage == 2 && r.succ.isNone && decide (1 ≤ r.stepNo) && decide (s.stepsHeld p < 3) &&
    ((s.die (dieOfPlace p)).successorOf r.launch r.instIdx).isSome


/-- A course's pool and handle declarations are installed at its start (R72, R73, R132). -/
def State.declareAll (s : State) (p : Nat) : State :=
  match s.imageOf (s.region p) with
  | none => s
  | some img => img.pools.foldl (fun s x => s.declareFromImage p x.1 x.2) s

/-- The ENTRY step of a region starts: its declarations, its configuration, handler 0 (R117). A region resumed at a splice point
starts step cc (R427, R433). -/
def State.startEntry (s : State) (p : Nat) : State :=
  let r := s.region p
  let s1 :=
    if r.stepNo = 0 then (s.setRegion p { r.setMode .running with matrix := { r.matrix.startStep 1 with channel := [] } }).declareAll p
    else s.setRegion p (r.setMode .running)
  match (s1.region p).steps.find? (·.num == r.stepNo + 1) with
  | some x => if x.refused then s1 else s1.splice p 0 x.idx (s1.region p).ic
  | none => s1

/-- The image declarations of a course whose homes are in other packages are sent there before its first step (R356). -/
def State.askHomes (s : State) (p : Nat) : State :=
  match s.imageOf (s.region p) with
  | some img => if (s.region p).stepNo = 0 then img.pools.foldl (fun s x => s.askHome p x.1 x.2) s else s
  | none => s

/-- Whether a region of an instance that waits to start has its ENTRY image, and the answers of those homes. -/
def State.entryReady (s : State) (p : Nat) : Bool :=
  let r := s.region p
  r.modeUnder != .placed || (r.steps.any (fun x => x.num == r.stepNo + 1 && x.loaded) && !s.declWaits p)

/-- The regions of an instance start together once each has its ENTRY image (R117). -/
def State.startTogether (s : State) (p : Nat) : State :=
  match Tbl.find (s.die (dieOfPlace p)).insts (s.region p).inst with
  | none => s
  | some i =>
    let here := i.places.filter fun q => !i.retired.contains q
    if here.all s.entryReady then
      here.foldl (fun s q => if (s.region q).modeUnder == .placed then s.startEntry q else s) s
    else s

/-- A region that waits to start goes on once a home in another package has answered it. -/
def State.startsWaiting (s : State) (p : Nat) : State :=
  if (s.region p).modeUnder == .placed then (fun t : State => { t with agenda := .issue p :: t.agenda }) (s.startTogether p) else s

/-- CONFIG_IMAGE_LOADED (R59, R128, R132): a region has loaded the image of a step and checked it; a refused word enters the
configuration fault naming its node. -/
def execConfigImageLoaded (p : Nat) (s : State) : Out :=
  let r := s.region p
  if s.chainReady p then .next (s.chainSplice p)
  else
  match r.steps.find? (fun x => !x.loaded) with
  | none => s.idle
  | some x =>
    if r.modeUnder != .placed && !r.moves then s.idle
    else
      let (s1, refused) := match s.slotCheck x with
        | .ok _ => (s, false)
        | .error e => (s.unitFault p .config e.unit e.coord 0 0 0 none 0, true)
      let r1 := s1.region p
      let steps := r1.steps.map fun y => if y.num = x.num then { y with loaded := true, refused := refused } else y
      let s2 := s1.setRegion p { r1 with steps := steps }
      let s3 := if (s2.region p).modeUnder == .placed then (s2.askHomes p).startTogether p
        else if x.num ≤ (s2.region p).stepNo then s2.advanceAll p
        else s2
      .next { s3 with agenda := .issue p :: s3.agenda }

/-- ATIME_RELEASE (R281): the tide has reached the value that a splice was armed with; nodes install and handler 0 starts. -/
def execAtimeRelease (p : Nat) (s : State) : Out :=
  let r := s.region p
  if r.steps.any (fun x => decide (x.num ≤ r.stepNo) && x.openAt != 0 && decide (x.openAt ≤ s.tide)) then
    let steps := r.steps.map fun x => if x.openAt ≤ s.tide then { x with openAt := 0 } else x
    let r1 := { r with steps := steps }
    let s1 := (s.setRegion p r1).advanceAll p
    .next { s1 with agenda := .issue p :: s1.agenda }
  else s.idle

/-! ### Claims (R120, R121, R165) -/

/-- What a claim makes of the cursor: the cursor, ic and icend after it, and n. -/
def claimResult (old total chunk ic : Nat) (placing : Bool) : Nat × Nat × Nat × Nat :=
  if total ≤ old then
    if placing then (old, total, total, 0) else (old, ic, (ic + 1) % 2 ^ 32, 0)
  else
    let e := if old + chunk < total then old + chunk else total
    let ic' := if placing then old else old - 1
    (e, ic', e, e - old)

/-- A claim of a region at its instance's cursor, as one action. -/
def State.claim (s : State) (p : Nat) (placing : Bool) : Nat × State :=
  let r := s.region p
  let d := s.die (dieOfPlace p)
  match Tbl.find d.insts r.inst, Tbl.find d.launches r.launch with
  | some i, some l =>
    let (c, ic, icend, n) := claimResult i.cursor.toNat l.recd.iters l.recd.chunk r.ic.toNat placing
    let s1 := s.setDie (dieOfPlace p) { d with insts := Tbl.put d.insts r.inst { i with cursor := BitVec.ofNat 64 c } }
    (n, s1.setRegion p { r with ic := BitVec.ofNat 32 ic, icend := BitVec.ofNat 32 icend })
  | _, _ => (0, s)

/-- CLAIM (R165): a course without ELASTIC gets 0; otherwise the cursor's home serves the claim. -/
def execClaim (rd : Reg) (s : State) : Out :=
  if s.cur.2 ≠ 0 then s.raiseIllegal
  else if !s.mine.elastic then s.writes rd 0
  else
    match s.waitOf with
    | .answered v _ _ => s.writes rd v
    | .faulted _ _ => s.writes rd 0
    | .posted => s.stall
    | .room _ => s.stall
    | .none => s.postAndWait none (.claim s.cur.1 s.cur.2)

/-- CLAIM_AT_CURSOR (R120, R121). -/
def execClaimAtCursor (m : Nat) (s : State) : Out :=
  match s.ready m with
  | some (.claim p k) =>
    let (n, s1) := (s.unpost m).claim p false
    .next (s1.answer (.handler p k) (BitVec.ofNat 64 n) 0 0 none)
  | _ => s.idle

end Sys2Proof.Machine
end

