-- ==== Sys2Proof/Machine/Streams.lean ====
section
/-! DEFINITION. Stream commands: forming and checking them at `issue`, the command queue, and what each command does when it
leaves it (R70, R71, R89 to R92, R162, R239 to R245, R255 to R276, R281, R295, R299). -/
namespace Sys2Proof.Machine

/-! ### Patterns (R258) -/

/-- The used dimensions of a descriptor, lowest first; none when the counts break their order. -/
def usedDims : List (Nat × Int) → Option (List (Nat × Int))
  | [] => some []
  | (c, st) :: t =>
    if c = 0 then (if st = 0 && t.all (fun d => d.1 == 0 && d.2 == 0) then some [] else none)
    else if st % 4 ≠ 0 then none
    else (usedDims t).map ((c, st) :: ·)

/-- A descriptor from its 32 bytes, as a number. -/
def patternOf (n : Nat) : Option Pattern :=
  let dims := (List.range 4).map fun k => (fld n (64 + 16 * k) 16, signedOf 32 (fld n (128 + 32 * k) 32))
  if fld n 57 7 ≠ 0 ∨ fld n 0 57 % 4 ≠ 0 ∨ fld n 64 16 = 0 then none
  else (usedDims dims).map fun d => { counts := d.map (·.1), strides := d.map (·.2), xbase := fld n 0 57 }

/-- E of a pattern. -/
def Pattern.count (x : Pattern) : Nat := x.counts.foldl (· * ·) 1

/-- off(n): index 0 varies fastest. -/
def offFrom : List Nat → List Int → Nat → Int
  | c :: cs, st :: sts, n => (n % c : Nat) * st + offFrom cs sts (n / c)
  | _, _, _ => 0
def Pattern.off (x : Pattern) (n : Nat) : Int := offFrom x.counts x.strides n

/-- The least and the greatest offset. -/
def Pattern.lo (x : Pattern) : Int :=
  (List.zipWith (fun (c : Nat) (st : Int) => if st < 0 then ((c - 1 : Nat) : Int) * st else 0) x.counts x.strides).foldl (· + ·) 0
def Pattern.hi (x : Pattern) : Int :=
  (List.zipWith (fun (c : Nat) (st : Int) => if st < 0 then 0 else ((c - 1 : Nat) : Int) * st) x.counts x.strides).foldl (· + ·) 0

def Pattern.empty : Pattern := { counts := [], strides := [], xbase := 0 }

/-- Read descriptor d of the constant pool of a region's image. -/
def State.readPattern (s : State) (p d : Nat) : Option Pattern :=
  match s.imageOf (s.region p) with
  | none => none
  | some img =>
    if img.cpoolLen < 32 * d + 32 then none
    else
      match (s.accessNow p (img.cpoolVa + 32 * d) .read).1 with
      | .ok pa _ => patternOf (Memory.readLE s.mem pa 32)
      | _ => none

/-- The pattern descriptor that a command names. -/
def patternNo : Instr → Option Nat
  | .bindr b => some b.desc.toNat
  | .bindw b => some b.desc.toNat
  | .bindg b _ _ => some b.desc.toNat
  | .binds b _ => some b.desc.toNat
  | .bindc b _ _ => some b.desc.toNat
  | _ => none

/-- The walk to the descriptor that a command names, one level in one action (R322): whether it goes on. -/
def State.patternWalk (s : State) (p : Nat) (i : Instr) : Bool × State :=
  match s.imageOf (s.region p), patternNo i with
  | some img, some d =>
    match s.accessRegion p (img.cpoolVa + 32 * d) .read with
    | (.wait, s1) => (true, s1)
    | (_, s1) => (false, s1)
  | _, _ => (false, s)

/-! ### Bindings and their ports (R211, R262) -/

/-- The side of a mov port cell: it reads memory when its INA is 0. -/
def movReads (w : CellWord) : Bool := w.ina == .none

/-- Whether a binding's second base is zero where it is unused: no index stream in memory and no exponent plane (R258). -/
def xbaseOk (k : BindKind) (w : CellWord) (x : Pattern) : Bool :=
  x.xbase == 0 || (match k with
    | .gather .mem _ => true
    | .scatter _ => true
    | .gather _ _ => false
    | _ => w.fmt == .bfp)

/-- Whether a binding's elements make whole blocks of a bfp stream that it reads (R263). -/
def blocksOk (reads : Bool) (w : CellWord) (n : Nat) : Bool := !(reads && w.fmt == .bfp) || decide (n % 2 ^ w.bl.val = 0)

/-- Whether a port cell's word can carry a binding. -/
def BindKind.fits (k : BindKind) (w : CellWord) : Bool :=
  let mr := w.op == .mov && movReads w
  let mw := w.op == .mov && !movReads w
  match k with
  | .read => w.op == .mld || mr
  | .write => w.op == .mst || w.op == .mamo || mw
  | .gather src _ => w.op == .mld || (mr && src == .mem)
  | .scatter _ => w.op == .mst || w.op == .mamo
  | .compress _ => w.op == .mld || mr
  | .expand => w.op == .mst || mw
  | .fifo out => if out then w.op == .mst || mw else w.op == .mld || mr

def BindKind.reads : BindKind → Bool
  | .read => true
  | .gather _ _ => true
  | .compress _ => true
  | .fifo out => !out
  | _ => false

/-- The word that a region's newest step gives a port (R256, R262). -/
def State.stepPort (s : State) (p n : Nat) : Option CellWord :=
  let r := s.region p
  match r.steps.find? (·.num == r.stepNo) with
  | none => none
  | some x =>
    match findNode (s.slotConf x) (portNode n) with
    | some (.port _ w _) => some w
    | _ => none

/-! ### Checks at issue (R71, R92, R239 to R245, R256 to R282) -/

/-- Whether [lo, hi) lies within a footprint. -/
def FootRange.covers (f : FootRange) (lo hi : Int) : Bool := decide ((f.base : Int) ≤ lo) && decide (hi ≤ ((f.base + f.len : Nat) : Int))

/-- The handle, slot count and address checks of a binding (R260): its reach, or none. -/
def Region.bindReach (r : Region) (b : BindArgs) (x : Pattern) : Option (Int × Int) :=
  let fb : Int := b.base.toNat
  let hd := r.handle b.h.val
  let ring : Int × Int := (hd.base, ((hd.base + hd.slots * 2 ^ hd.lsz : Nat) : Int))
  let within (n : Nat) : Bool := decide (0 ≤ fb + x.lo) && decide (fb + x.hi + 4 ≤ ((n * 2 ^ hd.lsz : Nat) : Int))
  match b.gate with
  | .none => if b.base.toNat % 4 = 0 && decide (b.base.toNat < 2 ^ 57) then some (fb + x.lo, fb + x.hi + 4) else none
  | .slot => if hd.decl && within 1 then some ring else none
  | _ => if hd.decl && decide (b.slots.toNat ≤ hd.slots) && within b.slots.toNat then some ring else none

/-- The footprint that a binding names covers its reach and allows its writes (R76, R260). -/
def State.footOk (s : State) (p : Nat) (b : BindArgs) (reads : Bool) (reach : Option (Int × Int)) : Bool :=
  if !b.fv then true
  else
    match (s.imageOf (s.region p)).bind (fun img => Tbl.find img.foots b.foot.toNat) with
    | none => false
    | some f =>
      (match reach with
        | none => true
        | some (lo, hi) => f.covers lo hi) && (reads || decide (f.acc / 2 % 2 = 1))

/-- Whether a binding other than `bindf` passes its checks. -/
def State.bindOk (s : State) (p : Nat) (b : BindArgs) (k : BindKind) : Bool :=
  match s.stepPort p b.port.val, s.readPattern p b.desc.toNat with
  | some w, some x =>
    k.fits w && blocksOk k.reads w x.count && xbaseOk k w x &&
    (match (s.region p).bindReach b x with
      | none => false
      | some reach =>
        let index : Option (Int × Int) := some (x.xbase + x.lo, x.xbase + x.hi + 4)
        match k with
        | .gather src _ => s.footOk p b true (if src == .mem then index else none)
        | .scatter _ => s.footOk p b false index
        | _ => s.footOk p b k.reads (some reach))
  | _, _ => false

/-- Whether a record is one of the image's gauge declarations (R272, R279). -/
def State.declaresRecord (s : State) (p id : Nat) : Bool :=
  match s.imageOf (s.region p) with
  | some img => img.gauges.contains id
  | none => false

def State.declaresFoot (s : State) (p f : Nat) : Bool :=
  match s.imageOf (s.region p) with
  | some img => (Tbl.find img.foots f).isSome
  | none => false

/-- SLOTS and HANDLE of a matrix command (R239). -/
def Region.slotsOk (r : Region) (h slots : Nat) : Bool := (r.handle h).decl && decide (slots ≤ (r.handle h).slots)

def Region.matOk (r : Region) (m : MatArgs) : Bool :=
  (m.asrc || r.slotsOk m.h.val m.slots.toNat) &&
    (m.dr != .stash || ((r.handle m.zh.val).decl && !(r.handle m.zh.val).loc))

/-- The checks of a command against the image's declarations, the handles and the port's configuration. What its own bits decide
has been checked by decoding. -/
def State.commandOk (s : State) (p : Nat) (i : Instr) : Bool :=
  let r := s.region p
  match i with
  | .bindr b => s.bindOk p b .read
  | .bindw b => s.bindOk p b .write
  | .bindg b src sh => s.bindOk p b (.gather src sh.toNat)
  | .binds b sh => s.bindOk p b (.scatter sh.toNat)
  | .bindc b sel out => s.bindOk p b (if out then .expand else .compress sel)
  | .bindf h port slots _ out =>
    (r.handle h.val).decl && (r.handle h.val).loc &&
      (match s.stepPort p port.val with
        | some w => BindKind.fits (.fifo out) w && blocksOk (!out) w (slots.toNat * (2 ^ (r.handle h.val).lsz / 4))
        | none => false)
  | .weir _ _ _ nrec _ => decide (1 ≤ nrec.toNat) && decide (nrec.toNat ≤ 8)
  | .relatch _ _ _ _ _ => r.sys
  | .snap save _ _ => save != 0 && decide (save.toNat % 4096 = 0) && decide (save.toNat < 2 ^ 57)
  | .seal id _ _ => s.declaresRecord p id.toNat
  | .gbind _ id => s.declaresRecord p id.toNat
  | .msgBind mp _ => match s.stepPort p mp.toNat with
    | some w => w.op == .msgout
    | none => false
  | .card _ _ nf f0 f1 _ =>
    (nf == 0 || s.declaresFoot p f0.toNat) && (nf != 2 || s.declaresFoot p f1.toNat)
  | .ctl port _ => match s.stepPort p port.val with
    | some w => w.op == .mld || (w.op == .mov && movReads w)
    | none => false
  | .mload h slots bm _ wbw tcols trows =>
    r.slotsOk h.val slots.toNat &&
      decide (tileBytes (8 * (trows.toNat + 1)) (8 * (tcols.toNat + 1)) (wbw.toNat + 2) bm ≤ slots.toNat * 2 ^ (r.handle h.val).lsz)
  | .mrow m => r.matOk m
  | .mcol m => r.matOk m
  | .mmask h _ slots => r.slotsOk h.val slots.toNat
  | _ => true

/-! ### Bitmaps waiting for their operation (R243) -/

def isMatrix : Instr → Bool
  | .mload _ _ _ _ _ _ _ => true
  | .mswap => true
  | .mrow _ => true
  | .mcol _ => true
  | .moriginFixed _ _ => true
  | .moriginWalk _ _ => true
  | .mmask _ _ _ => true
  | _ => false

/-- The matrix command of a queue entry. -/
def QueuedCmd.matrix (q : QueuedCmd) : Option Instr :=
  match decodeStream q.bits.toNat with
  | .ok i => if isMatrix i then some i else none
  | .error _ => none

/-- Port and slots of the bitmap that the matrix command issued last binds, when that was an `mmask`: in the command queue, or
at the end of the channel. -/
def Region.pendingMask (r : Region) : Option (Nat × Nat) :=
  let last : Option Instr := (r.cmdQ.filterMap (·.matrix)).getLast?
  match last with
  | some (Instr.mmask _ port slots) => some (port.toNat, slots.toNat)
  | some _ => none
  | none =>
    match r.matrix.channel.getLast? with
    | some { cmd := .mask _ port slots, step := _, tmpl := _, started := _, done := _, orgY := _, orgX := _ } => some (port, slots)
    | _ => none

/-- Remove the last element that a test holds for. -/
def dropLastWhere {α : Type} (f : α → Bool) (l : List α) : List α := (l.reverse.eraseP f).reverse

/-- The `mmask` issued last is discarded wherever it stands. -/
def Region.dropMask (r : Region) : Region :=
  if r.cmdQ.any (fun q => q.matrix.isSome) then { r with cmdQ := dropLastWhere (fun q => q.matrix.isSome) r.cmdQ }
  else { r with matrix := { r.matrix with channel := r.matrix.channel.dropLast } }

/-- The opcodes of the matrix commands (R240 to R245). -/
def matrixOpcode (op : Nat) : Bool := decide (0x30 ≤ op) && decide (op ≤ 0x35)

/-- Whether a matrix command may follow a bitmap. -/
def maskFits (i : Instr) (port slots : Nat) : Bool :=
  match i with
  | .mrow m => !m.asrc && m.port.val == port && m.slots.toNat == slots
  | .mcol m => !m.asrc && m.port.val == port && m.slots.toNat == slots
  | _ => false

/-! ### Weir graphs (R271, R295, R296, R299) -/

/-- Word i of a graph image. -/
def graphRecord (img : List Byte) (i : Nat) : Nat := leValue ((img.drop (32 * i)).take 32)

def isRmw (o : CellOp) : Bool := o == .rmwFadd || o == .rmwIadd || o == .rmwFmax

/-- The nodes of a graph, or the lowest node that is refused. -/
def graphNodes (gauges n : Nat) (img : List Byte) : Except Nat (List CellWord) :=
  let nodes := (List.range n).map fun i => decodeWeirNode gauges i (graphRecord img i)
  let bad (i : Nat) : Bool := match (nodes[i]?).getD none with
    | none => true
    | some w =>
      ((isRmw w.op || w.op == .pack) && i + 1 != n) || (w.op == .unpack && i != 0) ||
        (isRmw w.op && nodes.any fun x => match x with
          | some y => y.op == .pack || y.op == .unpack
          | none => false)
  match (List.range n).find? bad with
  | some i => .error i
  | none => .ok (nodes.filterMap id)

/-- The arrays that a mask names (R271). -/
def arraysOf (mask : Nat) : List Nat := (List.range 16).filter fun k => mask = 0 || bit mask k

/-- A graph's context at an array, fresh for a binding of region p. -/
def WeirCtx.fresh (nodes : List CellWord) (p : Nat) : WeirCtx :=
  { nodes := nodes, p := p, selfs := List.replicate nodes.length 0, counts := List.replicate nodes.length 0, tiles := [],
    limit := List.replicate nodes.length 0, dead := [], part := none }

/-- The pool instances that the poolc nodes of a graph name (R360). -/
def Region.graphKeys (r : Region) (nodes : List CellWord) : List PoolKey :=
  nodes.filterMap fun w => if w.op == .poolc then (r.pool (w.index.toNat / 2 ^ 10)).map (·.key) else none

/-- The basin rows of an array once each instance has one (R360). -/
def addRows (keys rows : List PoolKey) : List PoolKey := rows ++ (keys.eraseDups.filter fun k => !rows.contains k)

/-- How loading a graph ends. -/
inductive Loaded
  | wait (s : State)
  | command (s : State)
  | bad (s : State) (c : Cause) (detail addr : Nat)
  | ok (s : State) (ctx : Nat)

/-- Every named array loads and checks the graph into a free stream context, or none does. -/
def State.loadGraph (s : State) (p mask nrec va : Nat) : Loaded :=
  let ks := arraysOf mask
  if va % 64 ≠ 0 ∨ 2 ^ 57 ≤ va then .bad s .access 0 va
  else
    match s.unitRead p true va (32 * nrec) with
    | (.wait, s1) => .wait s1
    | (.bad c d a, s1) => .bad s1 c d a
    | (.ok img, s1) =>
      let gauges := match s.imageOf (s.region p) with
        | some im => im.gauges.length
        | none => 0
      match graphNodes gauges nrec img with
      | .error i => .command (s1.weirFault p (ks.headD 0) i .config 0)
      | .ok nodes =>
        let keys := (s1.region p).graphKeys nodes
        let full (k : Nat) : Bool :=
          let a := s1.array k
          decide (32 ≤ a.ctxs.length) || decide (512 < (addRows keys a.rows).length)
        if ks.any full then .wait s1
        else
          let ctx := s1.arrays.foldl (fun n e => if n < Tbl.nextKey e.2.ctxs then Tbl.nextKey e.2.ctxs else n) 1
          .ok (ks.foldl (fun s k =>
            let a := s.array k
            s.setArray k { a with ctxs := Tbl.put a.ctxs ctx (WeirCtx.fresh nodes p), rows := addRows keys a.rows }) s1) ctx

/-! ### `issue` (R71, R162) -/

/-- Replace a bit field of a command. -/
def patch (c lsb wid v : Nat) : Nat := c - fld c lsb wid * 2 ^ lsb + v % 2 ^ wid * 2 ^ lsb

/-- One patch of a template; none when the value does not fit. -/
def applyPatch (c lsb wid v : Nat) : Option Nat :=
  if wid = 0 then some c else if wid < 64 ∧ 2 ^ wid ≤ v then none else some (patch c lsb wid v)

/-- The command that a template forms from ga and gb. -/
def formCommand (t : Template) (ga gb : Nat) : Option Nat :=
  (applyPatch t.cmd.toNat t.alsb t.awid ga).bind fun c => applyPatch c t.blsb t.bwid gb

/-- The footprint by which a binding is a holder (R125). -/
def holderFoot : Instr → Option Nat
  | .bindr b => if b.fv then some b.foot.toNat else none
  | .bindw b => if b.fv then some b.foot.toNat else none
  | .bindg b _ _ => if b.fv then some b.foot.toNat else none
  | .binds b _ => if b.fv then some b.foot.toNat else none
  | .bindc b _ _ => if b.fv then some b.foot.toNat else none
  | _ => none

/-- A holder's number: one for each holder that a region posts. -/
def Region.holdId (p : Nat) (r : Region) : Nat := 1024 * (r.bindSeq + 1) + p

/-- A holder of a region, a binding or the job of an active message, goes to its die's admission stage; those that one source sends
arrive in order (R125). -/
def State.postHolder (s : State) (p : Nat) (src : Option Nat) (job : Bool) (fs : List FootRange) (clk : DWord) : Nat × State :=
  let r := s.region p
  let id := r.holdId p
  let s1 := s.setRegion p { r with bindSeq := r.bindSeq + 1 }
  (id, s1.post src (.holder (dieOfPlace p)
    { id := id, asid := r.asid, foots := fs, edges := [], admitted := false, dropped := false, job := job, since := s.tide, clk := clk, p := p }))

/-- Whether a command posts an active message, whose job may be a holder. -/
def postsJob : Instr → Bool
  | .msg _ _ => true
  | .card _ _ _ _ _ _ => true
  | _ => false

/-- Post the holders of queued bindings in the order of issue: one behind a command whose job has not been posted waits for it. -/
def State.postFrom (p : Nat) (done : List QueuedCmd) : List QueuedCmd → State → State
  | [], s => s.setRegion p { s.region p with cmdQ := done.reverse }
  | q :: t, s =>
    match decodeStream q.bits.toNat with
    | .error _ => State.postFrom p (q :: done) t s
    | .ok i =>
      if postsJob i then s.setRegion p { s.region p with cmdQ := done.reverse ++ q :: t }
      else if q.hold.isSome then State.postFrom p (q :: done) t s
      else
        match (holderFoot i).bind (fun f => (s.imageOf (s.region p)).bind fun img => Tbl.find img.foots f) with
        | none => State.postFrom p (q :: done) t s
        | some f =>
          let (id, s1) := s.postHolder p (keyHold p) false [f] q.lclk
          State.postFrom p ({ q with hold := some id } :: done) t s1

/-- The holders of the bindings that a region's sequencer has issued go to admission in the order of issue (R125). -/
def State.postQueued (s : State) (p : Nat) : State := State.postFrom p [] (s.region p).cmdQ s

/-- Place a checked command at the tail of the command queue. -/
def State.enqueue (s : State) (p c t ctx : Nat) : State :=
  let r := s.region p
  let q : QueuedCmd := { bits := BitVec.ofNat 128 c, tmpl := t, step := r.stepNo, lclk := r.lclk, ctx := ctx, hold := none }
  (s.setRegion p { r with cmdQ := r.cmdQ ++ [q] }).postQueued p

/-- ISSUE (R71, R162): forms, checks and queues a stream command. -/
def execIssue (ga gb : Reg) (t : BitVec 16) (s : State) : Out :=
  let p := s.cur.1
  let r := s.mine
  match ((s.imageOf r).bind fun img => img.tmpls[t.toNat]?).bind (fun x => formCommand x (r.get ga).toNat (r.get gb).toNat) with
  | none => s.raiseCommand t.toNat
  | some c =>
    match decodeStream c with
    | .error _ =>
      let masked := r.pendingMask.isSome && matrixOpcode (fld c 120 8)
      State.raiseCommand (if masked then s.setRegion p r.dropMask else s) t.toNat
    | .ok i =>
      let clash : Bool := match r.pendingMask with
        | some (port, slots) => isMatrix i && !maskFits i port slots
        | none => false
      if clash then State.raiseCommand (s.setRegion p r.dropMask) t.toNat
      else if (s.patternWalk p i).1 then State.stall (s.patternWalk p i).2
      else if !s.commandOk p i then s.raiseCommand t.toNat
      else if 16 ≤ r.cmdQ.length then s.stall
      else
        match i with
        | .weir _ _ mask nrec image =>
          (match s.loadGraph p mask.toNat nrec.toNat image.toNat with
            | .wait s1 => s1.stall
            | .command s1 => s1.raiseCommand t.toNat
            | .bad s1 cause d a => s1.raise cause d a
            | .ok s1 ctx =>
              let s2 := s1.enqueue p c t.toNat ctx
              s2.complete s2.mine)
        | _ =>
          let s1 := (s.patternWalk p i).2.enqueue p c t.toNat 0
          s1.complete s1.mine

/-! ### Leaving the command queue (R255) -/

/-- The command at the head of the queue leaves it. -/
def State.popCommand (s : State) (p : Nat) : State :=
  let r := s.region p
  s.setRegion p { r with cmdQ := r.cmdQ.drop 1, sif := { r.sif with posted := false, answer := none, bad := none, phase := none } }

/-- The head of the command queue of the current region. -/
def State.headCmd (s : State) : Option QueuedCmd := s.mine.cmdQ.head?

/-- A command goes to its port's queue of 8 entries. -/
def State.toPort (s : State) (n : Nat) (f : QueuedCmd → Region → PortEntry × Region) : Out :=
  let p := s.cur.1
  match s.headCmd with
  | none => s.idle
  | some q =>
    let r := s.mine
    if 8 ≤ (r.side n).queue.length then s.stall
    else
      let s1 := s.popCommand p
      let (e, r1) := f q (s1.region p)
      .next (s1.setRegion p (r1.setSide n { r1.side n with queue := (r1.side n).queue ++ [e] }))

/-- A binding goes to its port's queue. It is live until it completes (R126, R163). -/
def State.bindTo (s : State) (b : BindArgs) (k : BindKind) : Out :=
  let x := (s.readPattern s.cur.1 b.desc.toNat).getD Pattern.empty
  s.toPort b.port.val fun q r =>
    let seq := r.bindSeq + 1
    (.bind
      { kind := k, h := b.h.val, slots := b.slots.toNat, foot := if b.fv then some b.foot.toNat else none, gate := b.gate,
        ends := b.ends, base := b.base.toNat, pat := x, tmpl := q.tmpl, step := q.step, seq := seq, hold := q.hold, lclk := q.lclk,
        ackWord := if k.reads then none else r.sif.ackWord },
      { r with bindSeq := seq, live := r.live ++ [(seq, if b.gate == .none then 16 else b.h.val)] })

/-- BINDR (R259 to R261). -/
def execBindr (b : BindArgs) (s : State) : Out := s.bindTo b .read
/-- BINDW (R259 to R261). -/
def execBindw (b : BindArgs) (s : State) : Out := s.bindTo b .write
/-- BINDG (R266). -/
def execBindg (b : BindArgs) (src : IdxSrc) (sh : BitVec 2) (s : State) : Out := s.bindTo b (.gather src sh.toNat)
/-- BINDS (R267). -/
def execBinds (b : BindArgs) (sh : BitVec 2) (s : State) : Out := s.bindTo b (.scatter sh.toNat)
/-- BINDC (R268). -/
def execBindc (b : BindArgs) (sel out : Bool) (s : State) : Out := s.bindTo b (if out then .expand else .compress sel)

/-- BINDF (R269): whole slots of a LOC = 1 handle, with no descriptor. -/
def execBindf (h : Fin 16) (port : EdgePort) (slots : BitVec 14) (ends out : Bool) (s : State) : Out :=
  s.toPort port.val fun q r =>
    let seq := r.bindSeq + 1
    let n := 2 ^ (r.handle h.val).lsz / 4
    (.bind
      { kind := .fifo out, h := h.val, slots := slots.toNat, foot := none, gate := .slot, ends := ends, base := 0,
        pat := { counts := [n], strides := [4], xbase := 0 }, tmpl := q.tmpl, step := q.step, seq := seq, hold := none,
        lclk := q.lclk, ackWord := if out then r.sif.ackWord else none },
      { r with bindSeq := seq, live := r.live ++ [(seq, h.val)] })

/-- WEIR (R271): the attachment waits in the port's queue for the next binding. -/
def execWeir (h : Fin 16) (port : EdgePort) (mask _nrec : BitVec 16) (_image : BitVec 64) (s : State) : Out :=
  s.toPort port.val fun q r => (.weir h.val mask.toNat q.ctx q.step q.tmpl, r)

/-- A gauge attachment goes to its port; one of a step that the port has left has ended with it (R257). -/
def State.toGauge (s : State) (n : Nat) (rec_ : Option Nat) : Out :=
  let p := s.cur.1
  match s.headCmd with
  | none => s.idle
  | some q =>
    if q.step < (s.mine.port n).step then .next (s.popCommand p) else s.toPort n fun q r => (.gbind rec_ q.step q.tmpl, r)

/-- GBIND (R272). -/
def execGbind (port : EdgePort) (rid : BitVec 20) (s : State) : Out := s.toGauge port.val (some rid.toNat)
/-- GBIND_DETACH (R272). -/
def execGbindDetach (port : EdgePort) (s : State) : Out := s.toGauge port.val none
/-- CTL (R273). -/
def execCtl (port : EdgePort) (payload : Word) (s : State) : Out := s.toPort port.val fun q r => (.ctl payload q.step q.tmpl, r)

/-- METER (R274): the limit holds from now on. -/
def execMeter (port : EdgePort) (rate : BitVec 9) (s : State) : Out :=
  let p := s.cur.1
  let s1 := s.popCommand p
  let r := s1.region p
  .next (s1.setRegion p (r.setSide port.val { r.side port.val with rate := rate.toNat, moved := [] }))

/-- ATIME (R281): a value already past has no effect. -/
def execAtime (t : BitVec 64) (s : State) : Out :=
  let p := s.cur.1
  let s1 := s.popCommand p
  let r := s1.region p
  .next (s1.setRegion p { r with sif := { r.sif with atime := if t.toNat ≤ s.tideNow.toNat then none else some t } })

/-- SEAL (R279). -/
def execSeal (rid : BitVec 20) (rv : Bool) (rch : BitVec 8) (s : State) : Out :=
  let p := s.cur.1
  match s.headCmd with
  | none => s.idle
  | some q => .next ((s.popCommand p).startSeal p rid.toNat q.tmpl (if rv then some rch.toNat else none))

/-! ### Barriers (R275) -/

/-- A fault of a command after it has left the queue: it names the region (R256). -/
def State.streamFault (s : State) (p : Nat) (c : Cause) (detail addr tmpl : Nat) : State :=
  s.unitFault p c 4 0 detail addr tmpl none 0

/-- The command at the head faults and leaves the queue. -/
def State.failCommand (s : State) (c : Cause) (detail addr : Nat) : State :=
  let p := s.cur.1
  let t := match s.headCmd with
    | some q => q.tmpl
    | none => 0
  ((s.popCommand p).streamFault p c detail addr t).postQueued p

/-- BARRIER_FENCE (R275). -/
def execBarrierFence (s : State) : Out := if s.mine.live.isEmpty then .next (s.popCommand s.cur.1) else s.stall

/-- The stream interface sends a barrier action and waits. -/
def State.streamPost (s : State) (b : Body) : Out :=
  let p := s.cur.1
  let r := s.mine
  State.stall ((s.setRegion p { r with sif := { r.sif with posted := true, answer := none } }).post (keyMem p) b)

/-- The arrival of a barrier command: after every earlier binding, with every dirty line written back. -/
def State.barrierSend (s : State) (bar : BitVec 57) : Out :=
  let p := s.cur.1
  if !s.mine.live.isEmpty then s.stall
  else
    match s.accessConduct p bar.toNat 16 .write with
    | (.bad c d, s1) => .next (s1.failCommand c d (c.addr bar.toNat))
    | (.wait, s1) => s1.stall
    | (.ok pa _, s1) =>
      if !s1.mine.clean then (s1.writeBackAll p).stall else s1.streamPost (.arrive (.stream p) pa s1.mine.lclk)

/-- The wait of a barrier command. -/
def State.barrierTest (s : State) (bar : BitVec 57) (phase : Nat) : Out :=
  let p := s.cur.1
  match s.accessConduct p bar.toNat 16 .read with
  | (.bad c d, s1) => .next (s1.failCommand c d (c.addr bar.toNat))
  | (.wait, s1) => s1.stall
  | (.ok pa _, s1) => s1.streamPost (.await (.stream p) pa phase s1.mine.lclk)

/-- The clock that an answer brings. -/
def State.streamAcquire (s : State) (clk : DWord) : State :=
  let r := s.mine
  s.setRegion s.cur.1 { r with lclk := maxClk r.lclk clk }

/-- BARRIER_ARRIVE (R275). -/
def execBarrierArrive (bar : BitVec 57) (s : State) : Out :=
  let f := s.mine.sif
  match f.bad, f.answer with
  | some c, _ => .next (s.failCommand (Cause.ofCode c) 0 0)
  | none, some (_, clk) => .next ((s.streamAcquire clk).popCommand s.cur.1)
  | none, none => if f.posted then s.stall else s.barrierSend bar

/-- BARRIER_ARRIVE_WAIT (R275): it waits out the phase that its arrival recorded. -/
def execBarrierArriveWait (bar : BitVec 57) (s : State) : Out :=
  let p := s.cur.1
  let f := s.mine.sif
  match f.bad, f.answer with
  | some c, _ => .next (s.failCommand (Cause.ofCode c) 0 0)
  | none, some (v, clk) =>
    let s1 := s.streamAcquire clk
    if f.phase.isSome then .next (s1.popCommand p)
    else
      let r := s1.mine
      (s1.setRegion p { r with sif := { r.sif with phase := some (v.setWidth 32), answer := none } }).barrierTest bar (low32 v)
  | none, none =>
    if f.posted then s.stall
    else
      match f.phase with
      | some v => s.barrierTest bar v.toNat
      | none => s.barrierSend bar

/-- BARRIER_WAIT (R275). -/
def execBarrierWait (bar : BitVec 57) (phase : BitVec 32) (s : State) : Out :=
  let f := s.mine.sif
  match f.bad, f.answer with
  | some c, _ => .next (s.failCommand (Cause.ofCode c) 0 0)
  | none, some (_, clk) => .next ((s.streamAcquire clk).popCommand s.cur.1)
  | none, none => if f.posted then s.stall else s.barrierTest bar phase.toNat

/-! ### Synchronisation words (R276, R305 to R307) -/

def syncCnt (w : Nat) : Nat := w % 2 ^ 24
def syncTgt (w : Nat) : Nat := w / 2 ^ 24 % 2 ^ 24
def syncGen (w : Nat) : Nat := w / 2 ^ 48 % 2 ^ 16
def syncWord (gen tgt cnt : Nat) : Nat := gen % 2 ^ 16 * 2 ^ 48 + tgt % 2 ^ 24 * 2 ^ 24 + cnt % 2 ^ 24

/-- The test that ends every rise and every acknowledgement (R307). -/
def syncTest (gen tgt cnt : Nat) : Nat :=
  if tgt ≠ 0 ∧ tgt ≤ cnt then syncWord (gen + 1) 0 (cnt - tgt) else syncWord gen tgt cnt

/-- A synchronisation action at the word's home: CNT and TGT rise by units of 4 bytes, as one action under a carried clock.
The word is unchanged, and the cause given, when a field would overflow or its line is marked poisoned, be it by the copy that its owner
gives back (R310). -/
def State.syncAct (s : State) (p va pa cnt tgt : Nat) (clk : DWord) : Option Cause × State :=
  let (w, c, bad, s1) := (s.markHome (lineOf pa)).homeTake pa 8 clk
  let n := syncCnt w + cnt
  let t := syncTgt w + tgt
  if bad then (some .soft, s1)
  else if 2 ^ 24 ≤ n ∨ 2 ^ 24 ≤ t then (some .sync, s1)
  else
    let after := syncTest (syncGen w) t n
    let s2 := (s1.homeWrite pa 8 after c).2
    (none, s2.trace p 2 (s2.region p).placeId [after] (fun x => x.obj.toNat == va))

/-- SYNCW (R276, R306): the target rises before the next command is taken; a failure leaves no word armed. -/
def execSyncw (word : BitVec 64) (n : BitVec 32) (s : State) : Out :=
  let p := s.cur.1
  let va := word.toNat
  let arm (s : State) (w : Option (Nat × Nat)) : State :=
    let r := s.region p
    s.setRegion p { r with sif := { r.sif with ackWord := w } }
  if s.mine.sif.posted then s.stall else
  match s.unitAccess p va .write with
  | (.bad c d, s1) => .next (arm (s1.failCommand c d va) none)
  | (.wait, s1) => s1.stall
  | (.ok pa _, s1) =>
    match s1.mine.sif.bad, s1.mine.sif.answer with
    | some c, _ => .next (arm (s1.failCommand (Cause.ofCode c) 0 (if c == Cause.soft.code then va else 0)) none)
    | none, some _ => .next (arm (s1.popCommand p) (some (va, pa)))
    | none, none =>
    if s1.elsewhere pa then
      let r := s1.mine
      ((s1.setRegion p { r with sif := { r.sif with posted := true, answer := none } }).askMemory pa p noHandler (.home (.stream p) pa false)
        (.sync 0 (n.toNat / 4)) r.lclk).stall
    else
    match s1.syncAct p va pa 0 (n.toNat / 4) s1.mine.lclk with
    | (some c, s2) => .next (arm (s2.failCommand c 0 (if c == .soft then va else 0)) none)
    | (none, s2) => .next (arm (s2.popCommand p) (some (va, pa)))

/-! ### The matrix channel (R239) -/

/-- A matrix command passes to the channel of 8 commands; a unit that has faulted discards what its step sends (R247). -/
def State.toChannel (s : State) (c : MatCmd) : Out :=
  let p := s.cur.1
  match s.headCmd with
  | none => s.idle
  | some q =>
    let m := s.mine.matrix
    if 8 ≤ m.channel.length then s.stall
    else
      let s1 := s.popCommand p
      if m.faulted && decide (q.step ≤ m.step) then .next s1
      else
        let r := s1.region p
        let e : MatEntry := { cmd := c, step := q.step, tmpl := q.tmpl, started := false, done := false, orgY := 0, orgX := 0 }
        .next (State.matrixSettle (s1.setRegion p { r with matrix := { r.matrix with channel := r.matrix.channel ++ [e] } }) p)

/-- MLOAD (R240). -/
def execMload (h : Fin 16) (slots : BitVec 14) (bm pack : Bool) (wbw : BitVec 3) (tcols trows : BitVec 7) (s : State) : Out :=
  s.toChannel (.load h.val slots.toNat bm pack (wbw.toNat + 2) (8 * (trows.toNat + 1)) (8 * (tcols.toNat + 1)))
/-- MSWAP (R241). -/
def execMswap (s : State) : Out := s.toChannel .swap
/-- MROW (R242). -/
def execMrow (m : MatArgs) (s : State) : Out := s.toChannel (.op false m)
/-- MCOL (R242). -/
def execMcol (m : MatArgs) (s : State) : Out := s.toChannel (.op true m)
/-- MORIGIN_FIXED (R245). -/
def execMoriginFixed (y x : BitVec 6) (s : State) : Out := s.toChannel (.origin false (8 * y.toNat) (8 * x.toNat))
/-- MORIGIN_WALK (R245). -/
def execMoriginWalk (y x : BitVec 6) (s : State) : Out := s.toChannel (.origin true (8 * y.toNat) (8 * x.toNat))
/-- MMASK (R243). -/
def execMmask (h : Fin 16) (port : BitVec 4) (slots : BitVec 14) (s : State) : Out :=
  s.toChannel (.mask h.val port.toNat slots.toNat)

end Sys2Proof.Machine
end

