-- ==== Sys2Proof/Machine/Weir.lean ====
section
/-! DEFINITION. The weir arrays: graphs on elements, the update pipeline, rmw operations, synchronisation words
(R271, R276, R295 to R307). -/
namespace Sys2Proof.Machine

/-! ### Faults of a port (R126, R256, R264, R418) -/

/-- The binding that runs at a port becomes a faulted holder, which moves no further element (R126). -/
def Port.holderFaults (x : Port) : Port := { x with run := x.run.map fun b => { b with faulted := true } }

/-- A fault that names a port. One without a token carries the template of the binding that runs there (R256). -/
def State.portFault (s : State) (p n : Nat) (c : Cause) (detail addr token : Nat) (tkind : Option Nat) (sel : Nat) : State :=
  let r := s.region p
  let token := match tkind, (r.port n).run with
    | none, some b => b.b.tmpl
    | _, _ => token
  (s.setRegion p (r.setPort n (r.port n).holderFaults)).unitFault p c 2 (coordPort n) detail addr token tkind sel

/-- A binding at a port of a step after an element of it has come back: with its last one a faulted binding of an earlier step is gone. -/
def Running.elementBack (step : Nat) (b : Running) : Option Running :=
  if b.faulted ∧ b.b.step < step ∧ b.outstanding ≤ 1 then none else some { b with outstanding := b.outstanding - 1 }

/-- An element of a port that was sent to an array has been performed, or refused there. -/
def State.elementDone (s : State) (p n : Nat) : State :=
  let r := s.region p
  let x := r.port n
  s.setRegion p (r.setPort n { x with run := x.run.bind (Running.elementBack x.step) })

/-! ### Graphs (R296 to R304) -/

def State.weirCtx (s : State) (k ctx : Nat) : Option WeirCtx := Tbl.find (s.array k).ctxs ctx
def State.setWeirCtx (s : State) (k ctx : Nat) (c : WeirCtx) : State :=
  let a := s.array k
  s.setArray k { a with ctxs := Tbl.put a.ctxs ctx c }

/-- The source of an input of node i (R296): `x` is the stream element, `vals` the results of the nodes so far. -/
def weirSource (w : CellWord) (c : WeirCtx) (i : Nat) (x : Word) (vals : List Word) : InSel → Word
  | .stream => x
  | .self => c.selfs.getD i 0
  | .const => w.const
  | .node j => vals.getD j.val 0
  | _ => 0

/-- The unit number of a graph's node in the trains that its array sends. -/
def weirUnit (ctx i : Nat) : Nat := 2 ^ 20 + 16 * ctx + i

/-- Whether a reporting node of a graph may count at an array: it holds two trains, and they have left only when their record's home has
taken them (R341). -/
def State.weirRoom (s : State) (k ctx i : Nat) : Bool :=
  decide ((s.net.filter fun m => match m.body with
    | .train none u _ _ _ => m.src == keyArray k && u == weirUnit ctx i
    | _ => false).length < 2)

/-- Whether every reporting node of a graph may count at an array. -/
def State.ctxRoom (s : State) (k ctx : Nat) : Bool :=
  match s.weirCtx k ctx with
  | none => true
  | some c => c.nodes.zipIdx.all fun e => (e.1.op != .gauge && e.1.op != .clipb) || s.weirRoom k ctx e.2

/-- A tile of a weir node ends: its train is sent when it counted something (R303, R341). -/
def State.endWeirTile (s : State) (k ctx i : Nat) : State :=
  match s.weirCtx k ctx with
  | none => s
  | some c =>
    match Tbl.find c.tiles i, c.nodes[i]? with
    | some t, some w =>
      let s1 := s.setWeirCtx k ctx { c with tiles := Tbl.drop c.tiles i }
      if t.words.isEmpty then s1
      else
        match s.recordOf c.p (w.index.toNat % 4096) with
        | none => s1
        | some id => s1.post (keyArray k) (.train none (weirUnit ctx i) id (((s.region c.p).genOf id).gen.toNat % 256) t.words)
    | _, _ => s

/-- Every tile of a graph at an array ends. -/
def State.endCtxTiles (s : State) (k ctx : Nat) : State :=
  match s.weirCtx k ctx with
  | none => s
  | some c => (List.range c.nodes.length).foldl (fun s i => s.endWeirTile k ctx i) s

/-- Every tile of a graph ends, at every array: its binding's elements have ended, or its port passes a marker (R303, R341). -/
def State.endGraphTiles (s : State) (ctx : Nat) : State :=
  if ctx = 0 then s else (s.arrays.map (·.1)).foldl (fun s k => s.endCtxTiles k ctx) s

/-- The elements of a graph's binding have ended: tiles end and the contexts are released (R271, R303). -/
def State.endGraph (s : State) (ctx : Nat) : State := if ctx = 0 then s else (s.endGraphTiles ctx).releaseGraph ctx

/-- Whether the tiles of a graph may end at every array. -/
def State.graphRoom (s : State) (ctx : Nat) : Bool := ctx == 0 || s.arrays.all fun e => s.ctxRoom e.1 ctx

/-- A tap has seen a token of so many lanes: its burst and its tile are counted (R303, R341). One that has faulted counts nothing. -/
def State.tapSeen (s : State) (k ctx i : Nat) (w : CellWord) (lanes : Nat) (words : List Nat → List Nat) : State :=
  match s.weirCtx k ctx with
  | none => s
  | some c =>
    if c.dead.contains i then s
    else
    let t := Tbl.look c.tiles i Tile.empty
    let b := c.counts.getD i 0 + 1
    let full := decide (2 ^ w.bl.val ≤ b)
    let t1 : Tile := { words := words t.words, n := t.n + lanes }
    let s1 := s.setWeirCtx k ctx { c with tiles := Tbl.put c.tiles i t1, counts := replaceAt c.counts i (if full then 0 else b) }
    if full || decide (4096 ≤ t1.n) then s1.endWeirTile k ctx i else s1

/-- The clipping limit in a lane's format (R302). -/
def clipLimit (f : FloatFmt) (l : Nat) : Nat := if f = fmtF32 then l else (floatToFloat fmtF32 f .rtz .ieee l).1

/-- clipb of one lane: the lane, whether the clamp changed it, and its flags. A NaN passes unchanged (R302), a signalling one
with NV (R27); a limit of either zero clamps to zero. -/
def clipLane (f : FloatFmt) (limit x : Nat) : Nat × Bool × Flags :=
  let m := x % signUnit f
  let l := limit % signUnit f
  match f.value x with
  | .nan s => (x, false, flagIf s flagNV)
  | _ => if l < m then (x - m + l, true, flagSAT) else (x, false, 0)

/-- clipb (R302): the limit is latched at the start of a burst. -/
def State.weirClip (s : State) (k ctx i : Nat) (w : CellWord) (a : Word) : Word × State :=
  match s.weirCtx k ctx with
  | none => (a, s)
  | some c =>
    let f := (floatFmtOf w.fmt).getD fmtF32
    let clip := match s.recordOf c.p (w.index.toNat % 4096) with
      | some id => (s.record id).clip.toNat
      | none => 0
    let l := if c.counts.getD i 0 = 0 then clipLimit f clip else c.limit.getD i 0
    let s1 := s.setWeirCtx k ctx { c with limit := replaceAt c.limit i l }
    let rs := (splitLanes (laneBits w.width) a.toNat).map (clipLane f l)
    let n := rs.countP (·.2.1)
    let s2 := s1.tapSeen k ctx i w rs.length fun ws => if n = 0 then ws else bumpWord ws 34 n
    (BitVec.ofNat 32 (joinLanes (laneBits w.width) (rs.map (·.1))), s2.raiseFlags c.p 0 (rs.foldl (fun g r => g ||| r.2.2) 0))

/-- poolc of a graph (R218, R299, R359): it contributes through the place of its array; `bad` is the cause of a poison token, of which
it raises no fault. -/
def State.weirPool (s : State) (k ctx i : Nat) (w : CellWord) (a : Word) (on : Bool) (bad : Option Nat) (clk : DWord) : State :=
  match s.weirCtx k ctx with
  | none => s
  | some c =>
    if !on || c.dead.contains i then s
    else
      match s.contributeAt c.p (800 + k) (256 + k) 0 (w.index.toNat / 2 ^ 10) (w.index.toNat / 2 ^ 6 % 16) (poolTypeOfFmt w.fmt) a bad clk with
      | (true, s1) => s1
      | (false, s1) => if bad.isSome then s1 else (s1.setWeirCtx k ctx { c with dead := i :: c.dead }).weirFault c.p k i .pool (poolToken 1 0 0)

/-- The result of one node on its operands (R193 to R197, R207, R302 to R304). An operand that is read and selects nothing has an
open value (log entry 11). -/
def State.weirNode (s : State) (k ctx i : Nat) (w : CellWord) (a b d : Word) (pred : Option Nat) (clk : DWord) : Word × State :=
  match s.weirCtx k ctx with
  | none => (a, s)
  | some c =>
    match w.op with
    | .cvt =>
      let dst := cvtTarget w
      let rs := (splitLanes (laneBits w.width) a.toNat).map (convertElem w.fmt dst w.rnd w.sat)
      (BitVec.ofNat 32 (joinLanes (laneBits w.width) (rs.map (·.1))), s.raiseFlags c.p 0 (rs.foldl (fun f r => f ||| r.2) 0))
    | .rcpe => let r := rcpeValue a.toNat; (BitVec.ofNat 32 r.1, s.raiseFlags c.p 0 r.2)
    | .poolc => (a, s.weirPool k ctx i w a ((pred.getD 1) != 0) none clk)
    | .clipb => s.weirClip k ctx i w a
    | .gauge =>
      let es := statElems w a.toNat
      (a, s.tapSeen k ctx i w es.length (es.foldl countElem))
    | .pack => (a, s)
    | .unpack => (a, s)
    | .rmwFadd => (a, s)
    | .rmwIadd => (a, s)
    | .rmwFmax => (a, s)
    | _ => let r := tokenOp w a.toNat b.toNat d.toNat pred; (BitVec.ofNat 32 r.1, s.raiseFlags c.p 0 r.2)

/-- Evaluate nodes in ascending index on one element (R296): the results so far, and the state. -/
def State.weirNodes (k ctx : Nat) (x : Word) (clk : DWord) : List (CellWord × Nat) → List Word → State → List Word × State
  | [], vals, s => (vals, s)
  | (w, i) :: t, vals, s =>
    match s.weirCtx k ctx with
    | none => (vals, s)
    | some c =>
      let src := weirSource w c i x vals
      let s0 := if opensValue w then { s with fresh := s.fresh + 1 } else s
      let op (sel : InSel) (read : Bool) : Word :=
        if read && sel == .none then (Config.freeWord s.fresh).setWidth 32 else src sel
      let pred : Option Nat := if w.pred == .none then none else some (src w.pred).toNat
      let (v, s1) := s0.weirNode k ctx i w (op w.ina true) (op w.inb w.op.readsB) (op w.inc w.op.readsC) pred clk
      let s2 := match s1.weirCtx k ctx with
        | some c1 => s1.setWeirCtx k ctx { c1 with selfs := replaceAt c1.selfs i v }
        | none => s1
      State.weirNodes k ctx x clk t (vals ++ [v]) s2

/-- The result of the graph's highest node on one element. -/
def State.weirElement (s : State) (k ctx : Nat) (x : Word) (clk : DWord) : Word × State :=
  match s.weirCtx k ctx with
  | none => (x, s)
  | some c => let (vs, s1) := State.weirNodes k ctx x clk (c.nodes.zipIdx) [] s; (vs.getLast?.getD x, s1)

/-- Whether an input of a node is poison, given which nodes' results are: the stream element is (R296). -/
def poisonSource (ps : List Bool) : InSel → Bool
  | .stream => true
  | .node j => ps.getD j.val false
  | _ => false

/-- The first input of a node that carries poison, numbered as SEL numbers it (R418); 0 where none does. -/
def poisonInput (ps : List Bool) (w : CellWord) : Nat :=
  let src := poisonSource ps
  if src w.ina then 1 else if w.op.readsB && src w.inb then 2 else if w.op.readsC && src w.inc then 3 else if src w.pred then 4 else 0

/-- The inputs at which a poison stream element reaches the nodes of a graph: every node that reads it passes it on (R181, R296). -/
def poisonPath : List CellWord → List Bool → List Nat
  | [], _ => []
  | w :: t, ps => poisonInput ps w :: poisonPath t (ps ++ [poisonInput ps w != 0])

/-- A reporting node takes a poison token: it faults, sends no train for its tile and counts no more (R181, R354). -/
def State.tapPoison (s : State) (k ctx i sel : Nat) (t : Token) : State :=
  match s.weirCtx k ctx with
  | none => s
  | some c =>
    if c.dead.contains i then s
    else
      (s.setWeirCtx k ctx { c with dead := i :: c.dead, tiles := Tbl.drop c.tiles i }).faultAt c.p (256 + k) .soft 6 (coordWeir i k) 0 0
        t.payload.toNat (some t.kind.toNat) sel

/-- A poison token passes a graph: a poolc poisons its lane, a reporting node faults (R218, R354, R369). -/
def State.weirPoison (s : State) (k ctx : Nat) (t : Token) (clk : DWord) : State :=
  match s.weirCtx k ctx with
  | none => s
  | some c =>
    ((c.nodes.zip (poisonPath c.nodes [])).zipIdx).foldl (fun s e =>
      if e.1.2 = 0 then s
      else
        match e.1.1.op with
        | .poolc => s.weirPool k ctx e.2 e.1.1 0 true (some 2) clk
        | .gauge => s.tapPoison k ctx e.2 e.1.2 t
        | .clipb => s.tapPoison k ctx e.2 e.1.2 t
        | _ => s) s

/-- Whether a poison stream element stops a reporting node of a graph. -/
def WeirCtx.poisonStops (c : WeirCtx) : Bool :=
  (c.nodes.zip (poisonPath c.nodes [])).any fun e => e.2 != 0 && (e.1.op == .gauge || e.1.op == .clipb)

/-- The element's binding becomes a faulted holder where a reporting node of its graph has stopped (R126). -/
def State.holderStops (s : State) (p n k ctx : Nat) : State :=
  match s.weirCtx k ctx with
  | none => s
  | some c => if c.poisonStops then s.setRegion p ((s.region p).setPort n ((s.region p).port n).holderFaults) else s

/-- The mantissas of lane-form tokens, four lanes of eight bits each, as integers of width w. -/
def laneMants (w : Nat) (vs : List Word) : List Int := vs.flatMap fun v => (splitLanes 8 v.toNat).map (lowSigned w)

/-- Lane-form tokens of four mantissas each (R304). -/
def mantTokens : Nat → List Int → List Word
  | 0, _ => []
  | fuel + 1, ms => if ms.isEmpty then [] else BitVec.ofNat 32 (packLanes8 (ms.take 4)) :: mantTokens fuel (ms.drop 4)

/-- Port tokens of one element under pack and unpack (R297). -/
def packRatio (w : Nat) : Nat := if w = 2 then 4 else if w ≤ 4 then 2 else 1

def WeirCtx.top (c : WeirCtx) : Option CellWord := c.nodes.getLast?
def WeirCtx.topIs (c : WeirCtx) (f : CellOp → Bool) : Bool := (c.top.map fun w => f w.op) == some true
def WeirCtx.unpacks (c : WeirCtx) : Bool := (c.nodes[0]?.map fun w => w.op == .unpack) == some true
def WeirCtx.packs (c : WeirCtx) : Bool := c.topIs (· == .pack)
/-- Port tokens of one element of a graph's binding. -/
def WeirCtx.ratio (c : WeirCtx) : Nat :=
  match (if c.packs then c.top else if c.unpacks then c.nodes[0]? else none) with
  | some w => packRatio (w.bw.val + 2)
  | none => 1

/-- The stream elements of one element that is read: four mantissas each under unpack (R297). -/
def State.weirTokens (s : State) (k ctx : Nat) (v : Word) : List Word :=
  match s.weirCtx k ctx with
  | none => [v]
  | some c =>
    match (if c.unpacks then c.nodes[0]? else none) with
    | some w => mantTokens 4 (unpackElem (w.bw.val + 2) v.toNat)
    | none => [v]

/-- The value that one element writes, from the graph's results on its tokens (R297). -/
def State.weirPacked (s : State) (k ctx : Nat) (ys : List Word) : Word :=
  match (s.weirCtx k ctx).bind fun c => if c.packs then c.top else none with
  | some w => BitVec.ofNat 32 (packElem (w.bw.val + 2) (laneMants (w.bw.val + 2) ys))
  | none => ys.headD 0

/-- Evaluate a graph on the next token of the element at its array: all the results once it was the last. The tokens of one element
are taken one by one, so that each finds room for the trains it may end (R341). -/
def State.weirNext (s : State) (k ctx : Nat) (xs : List Word) (clk : DWord) : Option (List Word) × State :=
  match s.weirCtx k ctx with
  | none => (some xs, s)
  | some c =>
    let q := c.part.getD (xs, [])
    match q.1 with
    | [] => (some q.2, s.setWeirCtx k ctx { c with part := none })
    | x :: rest =>
      let r := s.weirElement k ctx x clk
      let ys := q.2 ++ [r.1]
      let keep (o : Option (List Word × List Word)) : State :=
        match r.2.weirCtx k ctx with
        | none => r.2
        | some c1 => r.2.setWeirCtx k ctx { c1 with part := o }
      if rest.isEmpty then (some ys, keep none) else (none, keep (some (rest, ys)))

/-- Whether the element at an array is in the middle of its tokens. -/
def State.weirBegun (s : State) (k ctx : Nat) : Bool := ((s.weirCtx k ctx).bind (·.part)).isSome

/-! ### Elements at an array (R297, R300) -/

/-- A token that a port emits after it reads: marked data-last by the burst count, which runs on across bindings (R263). -/
def Port.mark (x : Port) (t : Token) : Port :=
  if !isDataToken t then { x with queue := x.queue ++ [t] }
  else
    let n := x.count + 1
    let full := decide (2 ^ x.word.bl.val ≤ n)
    { x with queue := x.queue ++ [{ t with kind := if full then kLast else kData }], count := if full then 0 else n,
             self := if full then 0 else t.payload }

/-- The payload of a poison token of an address (R423). -/
def poisonToken (pa : Nat) : Token := mkToken kPoison (pa / 64 % 2 ^ 31)

/-- What a compress emits for the tokens of element i: non-zero ones, or the coordinate of each (R268). -/
def compressTokens (coords : Bool) (i : Nat) (ts : List Token) : List Token :=
  ts.filterMap fun t =>
    if !isDataToken t then some t else if t.payload = 0 then none else if coords then some (mkToken kData i) else some t

/-- Take one pair of a physical address out of the first port that has it on its way. -/
def consumePair (pa : Nat) : Tbl PortSide → Tbl PortSide
  | [] => []
  | e :: t => if e.2.pairs.any (·.pa == pa) then (e.1, { e.2 with pairs := e.2.pairs.eraseP (·.pa == pa) }) :: t else e :: consumePair pa t

/-- A pair that an xlat cell of the region emitted has been consumed, and its access performed (R328). -/
def Region.pairConsumed (r : Region) (pa : Nat) : Region := { r with sides := consumePair pa r.sides }

/-- Whether a binding gathers by pairs. -/
def Binding.byPairs (b : Binding) : Bool :=
  match b.kind with
  | .gather .pa _ => true
  | _ => false

/-- The read of a pair by a port has been performed at its array, or refused there. -/
def State.pairRead (s : State) (p n pa : Nat) : State :=
  let r := s.region p
  if (((r.port n).run.map fun b => b.b.byPairs) == some true) then s.setRegion p (r.pairConsumed pa) else s

/-- A home answers another package. -/
def State.answersAway (s : State) (p : Nat) (v : Nat) (clk : DWord) (bad : Option Cause) : State :=
  s.emitTo (awayPkg p) 0 (.answer (awayNo p) v clk 0 (bad.map (·.code)))

/-- What a read of element i brings back to its port. -/
def State.portGets (s : State) (p n i : Nat) (ts : List Token) : State :=
  let r := s.region p
  let y := r.port n
  let out := match y.run with
    | some b => (match b.b.kind with
      | .compress coords => compressTokens coords i ts
      | _ => ts)
    | none => ts
  let x := out.foldl Port.mark y
  s.setRegion p (r.setPort n { x with posted := false })

/-- Whether an element before this one, to the same address, is still on its way through the update pipeline. -/
def State.updatePending (s : State) (pa : Nat) : Bool :=
  s.net.any fun m => match m.body with
    | .rmw _ _ _ _ _ a _ _ _ _ => decide (pa / 4 = a / 4)
    | _ => false

/-- A fault of an element at its array: no access is made, and it names the port (R271, R308, R310). -/
def State.elementFault (s : State) (p n : Nat) (rd : Bool) (c : Cause) (va : Nat) : State :=
  let r := s.region p
  let s1 := if rd then s.setRegion p (r.setPort n { r.port n with posted := false }) else s.elementDone p n
  s1.portFault p n c 0 (c.addr va) 0 none 0

/-- An element of a write that has been performed is acknowledged when the binding is armed (R276, R307). -/
def State.acknowledge (s : State) (p : Nat) (ack : Option (Nat × Nat)) (bytes : Nat) (clk : DWord) : State :=
  match ack with
  | none => s
  | some (va, pa) => s.post none (.ack p va pa bytes clk)

/-- An element of another package's port is performed at the array that homes it, and answered (R283, R310). -/
def State.awayElement (s : State) (m p pa : Nat) (vs : List Word) (clk : DWord) (rd : Bool) : State :=
  let s0 := s.unpost m
  if rd then s0.answersAway p (Memory.readLE s.mem pa 4) clk (if s.homePoisoned (lineOf pa) then some .soft else none)
  else { s0 with mem := Memory.writeLE s.mem pa 4 (vs.headD 0).toNat }.answersAway p 0 clk none

/-- WEIR_GRAPH_ELEMENT (R271, R296, R297, R300): an element reaches the array that homes it, and waits there while a reporting node of its
graph holds two trains (R341). -/
def execWeirGraphElement (m : Nat) (s : State) : Out :=
  match s.ready m with
  | some (.weirElem p n k ctx pa va i vs ack clk rd again) =>
    if s.updatePending pa || !s.ctxRoom k ctx then s.idle
    else if isAway p then .next (s.awayElement m p pa vs clk rd)
    else
      let s0 := if rd then (s.unpost m).pairRead p n pa else s.unpost m
      if ctx ≠ 0 ∧ (pkgOf pa ≠ s.well.pkg ∨ (s.weirCtx k ctx).isNone) then .next (s0.elementFault p n rd .access va)
      else
        let top : Option CellOp := (s.weirCtx k ctx).bind fun c => c.top.map (·.op)
        if rd then
          if s.homePoisoned (lineOf pa) && !s.weirBegun k ctx then
            let r := match s.weirCtx k ctx with
              | some c => c.ratio
              | none => 1
            .next (((s0.weirPoison k ctx (poisonToken pa) clk).holderStops p n k ctx).portGets p n i (List.replicate r (poisonToken pa)))
          else
            match s.weirNext k ctx (s.weirTokens k ctx (BitVec.ofNat 32 (Memory.readLE s.mem pa 4))) clk with
            | (none, s1) => .next s1
            | (some ys, s1) =>
              .next (((s1.unpost m).pairRead p n pa).portGets p n i (ys.map fun y => { kind := kData, payload := y, cause := 0 }))
        else
          match s.weirNext k ctx vs clk with
          | (none, s1) => .next s1
          | (some ys, s1) =>
            let s2 := s1.unpost m
            let v := s2.weirPacked k ctx ys
            match top with
            | some op =>
              if isRmw op then
                (if pa % 4 ≠ 0 then .next (s0.elementFault p n false .alignment va)
                  else .next (s2.post (keyArray (16 + k)) (.rmw op p n k va pa v ack clk again)))
              else
                .next (({ s2 with mem := Memory.writeLE s2.mem pa 4 v.toNat }.elementDone p n).acknowledge p ack 4 clk)
            | none => .next (({ s2 with mem := Memory.writeLE s2.mem pa 4 v.toNat }.elementDone p n).acknowledge p ack 4 clk)
  | _ => s.idle

/-! ### rmw (R301, R310) -/

/-- What an rmw operation makes of the word (R301). -/
def rmwApply (op : CellOp) (old v : Nat) : Nat × Flags :=
  match op with
  | .rmwFadd => fAdd fmtF32 .rne .ieee old v
  | .rmwFmax => fMax fmtF32 old v
  | _ => ((old + v) % 2 ^ 32, 0)

/-- An update is performed, as one action: the word, its flags, its trace with the array, the old and the new word and the mark of a replay
(R481), its acknowledgement. One of a poisoned line faults at
the port, and neither updates nor acknowledges. -/
def State.performRmw (s : State) (op : CellOp) (p n k va pa : Nat) (v : Word) (ack : Option (Nat × Nat)) (clk : DWord) (again : Bool) : State :=
  if s.homePoisoned (lineOf pa) then s.elementFault p n false .soft 0
  else
    let old := Memory.readLE s.mem pa 4
    let r := rmwApply op old v.toNat
    let s1 := { s with mem := Memory.writeLE s.mem pa 4 r.1 }
    let s2 := (s1.raiseFlags p 0 r.2).elementDone p n
    (s2.trace p 1 (256 + k) [k, old, r.1, bitOf again] fun t => decide (t.obj.toNat ≤ va) && decide (va < t.obj.toNat + t.len.toNat)).acknowledge p ack 4 clk

/-- The rmw events: the oldest update of an array that carries the operation. -/
def State.rmwEvent (s : State) (m : Nat) (mine : CellOp) : Out :=
  match s.ready m with
  | some (.rmw op p n k va pa v ack clk again) =>
    if op == mine then .next ((s.unpost m).performRmw op p n k va pa v ack clk again) else s.idle
  | _ => s.idle

/-- RMW_FADD (R301). -/
def execRmwFadd (m : Nat) (s : State) : Out := s.rmwEvent m .rmwFadd
/-- RMW_IADD (R301). -/
def execRmwIadd (m : Nat) (s : State) : Out := s.rmwEvent m .rmwIadd
/-- RMW_FMAX (R301). -/
def execRmwFmax (m : Nat) (s : State) : Out := s.rmwEvent m .rmwFmax

/-- SYNCW_ACK (R307): an acknowledgement at the word's home. One that would carry CNT too far, or that meets a poisoned line,
enters a fault of the issuing region, and the word is unchanged. -/
def execSyncwAck (m : Nat) (s : State) : Out :=
  match s.ready m with
  | some (.ack p va pa bytes clk) =>
    let s0 := s.unpost m
    if s.elsewhere pa then .next (s0.askMemory pa p noHandler .ack (.sync (bytes / 4) 0) clk) else
    match s0.syncAct p va pa (bytes / 4) 0 clk with
    | (none, s1) => .next s1
    | (some c, s1) => .next (s1.streamFault p c 0 0 0)
  | _ => s.idle

end Sys2Proof.Machine
end

