-- ==== Sys2Proof/Machine/Inbox.lean ====
section
/-! DEFINITION. Active messages: what posts them, the inboxes, replies to handlers (R122 to R125, R175, R277, R278, R383). -/
namespace Sys2Proof.Machine

/-! ### Posting (R123, R125) -/

/-- Messages that stand in an inbox, or are on their way to it. -/
def State.inboxCount (s : State) (d : Nat) (c : EngClass) : Nat :=
  let x := s.die d
  let there := match c with
    | .copy => x.copyIn.length
    | .weir => x.weirIn.length
    | .cascade => s.well.inbox.length
    | .sluice => x.inbox.length
  there + (s.net.filter fun m => match m.body with
    | .engine e => e.cls == c && (c == .cascade || e.die == d)
    | _ => false).length

/-- An inbox holds 64 messages. -/
def State.inboxRoom (s : State) (p : Nat) (c : EngClass) : Bool := decide (s.inboxCount (dieOfPlace p) c < 64)

/-- Post a message of a region. One whose card names declared footprints is a holder from now on; `src` orders it among those of
the sequencer or of the cell that posts it (R125). -/
def State.postEngine (s : State) (p : Nat) (src : Option Nat) (c : EngClass) (words : List DWord) (latch : Option Nat) : State :=
  let n := msgNfp (words.headD 0)
  let fs := s.cardFoots p words
  let (hold, s1) :=
    if n ≠ 0 ∧ fs.length = n then let x := s.postHolder p src true fs (s.region p).lclk; (some x.1, x.2) else (none, s)
  let r := s1.region p
  s1.post (keyEngine p) (.engine
    { cls := c, words := words, p := p, die := dieOfPlace p, asid := r.asid, sys := r.sys, clk := r.lclk, latch := latch, wid := r.wid, foots := fs,
      carded := n != 0, hold := hold, pools := [] })

/-- ENGINE_REPLY_ARRIVE (R175): a reply enters the latch of the handler that waits for it. -/
def execEngineReplyArrive (m : Nat) (s : State) : Out :=
  match s.ready m with
  | some (.reply p k _ status clk) =>
    let s0 := s.unpost m
    let r := s0.region p
    let h := r.handler k
    if h.wait == .posted then
      let s1 := s0.setRegion p (r.setHandler k { h with latch := some status, wait := .answered (BitVec.ofNat 64 status) clk 0 })
      .next { s1 with agenda := .issue p :: s1.agenda }
    else .next s0
  | _ => s.idle

/-! ### The coprocessor form (R175) -/

/-- The words of a `cop`: NFP 0, NOP 2, the word's own address as TAG, and no reply address. -/
def State.copWords (s : State) (ra rb : Reg) (op : BitVec 4) : List DWord :=
  [msgWord0 op.toNat 0 2 s.here, 0, s.mine.get ra, s.mine.get rb]

/-- COP (R175): posts a message without reply. -/
def execCop (ra rb : Reg) (cls : EngClass) (op : BitVec 4) (s : State) : Out :=
  let p := s.cur.1
  if !s.inboxRoom p cls then s.stall
  else
    let s1 := s.postEngine p (keyHold p) cls (s.copWords ra rb op) none
    s1.complete s1.mine

/-- COP_R (R175): posts a message and waits for its reply; taking the reply is an acquire (R291). -/
def execCopR (rd ra rb : Reg) (cls : EngClass) (op : BitVec 4) (s : State) : Out :=
  let p := s.cur.1
  match s.waitOf with
  | .answered v clk _ =>
    let r := s.mine.set rd v
    let h := r.handler s.cur.2
    s.complete { r.setHandler s.cur.2 { h with latch := none } with lclk := maxClk r.lclk clk }
  | .faulted _ _ => s.stall
  | .posted => s.stall
  | .room _ => s.stall
  | .none =>
    if !s.inboxRoom p cls then s.stall
    else ((s.postEngine p (keyHold p) cls (s.copWords ra rb op) (some s.cur.2)).setWait .posted).stall

/-! ### The stream commands (R277, R278) -/

/-- Read 8-byte words as conduct loads would (R149): none while a line is on its way, `bad` on a fault. -/
def State.readWords (p : Nat) : Nat → Nat → List DWord → State → Got (List DWord) × State
  | 0, _, acc, s => (.ok acc.reverse, s)
  | n + 1, va, acc, s =>
    match s.accessConduct p va 8 .read with
    | (.bad c d, s1) => (.bad c d va, s1)
    | (.wait, s1) => (.wait, s1)
    | (.ok pa _, s1) =>
      match s1.stashRead p va pa 8 with
      | (none, s2) => (.wait, s2)
      | (some (v, poisoned), s2) =>
        if poisoned then (.bad .soft 0 va, s2) else State.readWords p n ((va + 8) % 2 ^ 57) (BitVec.ofNat 64 v :: acc) s2

/-- MSG (R277): the stream interface reads a message and posts it; a length or an access that fails is a message fault. -/
def execMsg (cls : EngClass) (addr : BitVec 64) (s : State) : Out :=
  let p := s.cur.1
  let va := addr.toNat % 2 ^ 57
  match State.readWords p 1 va [] s with
  | (.wait, s1) => s1.stall
  | (.bad _ _ _, s1) => .next (s1.failCommand .message 0 0)
  | (.ok w, s1) =>
    let n := msgLength (w.headD 0)
    if n < 3 ∨ 12 < n then .next (s1.failCommand .message 0 0)
    else
      match State.readWords p n va [] s1 with
      | (.wait, s2) => s2.stall
      | (.bad _ _ _, s2) => .next (s2.failCommand .message 0 0)
      | (.ok ws, s2) => if s2.inboxRoom p cls then .next (((s2.popCommand p).postEngine p (keyHold p) cls ws none).postQueued p) else s2.stall

/-- MSG_BIND (R277): messages that a port assembles go to an inbox from now on. The binding holds from the step that issued it, whose
word the port may have yet to install, until the port leaves that step. -/
def execMsgBind (mport : BitVec 6) (cls : EngClass) (s : State) : Out :=
  let p := s.cur.1
  match s.headCmd with
  | none => s.idle
  | some q =>
    let s1 := s.popCommand p
    let r := s1.region p
    let n := mport.toNat
    let at_ := (r.port n).step
    .next (s1.setRegion p (r.setSide n
      (if at_ < q.step then { r.side n with clsNext := some (q.step, cls) }
       else if at_ = q.step then { r.side n with cls := some cls }
       else r.side n)))

/-- CARD (R278): a message built from the command itself; its TAG is the template index. -/
def execCard (cls : EngClass) (op : BitVec 4) (nf : BitVec 2) (foot0 foot1 : BitVec 8) (opnd : BitVec 64) (s : State) : Out :=
  let p := s.cur.1
  match s.headCmd with
  | none => s.idle
  | some q =>
    if !s.inboxRoom p cls then s.stall
    else
      let card : DWord := BitVec.ofNat 64 (foot0.toNat * 256 + (if nf.toNat = 2 then foot1.toNat * 2 ^ 24 else 0))
      let ws := [msgWord0 op.toNat nf.toNat 1 q.tmpl, 0, opnd] ++ (if nf.toNat = 0 then [] else [card])
      .next (((s.popCommand p).postEngine p (keyHold p) cls ws none).postQueued p)

end Sys2Proof.Machine
end

