-- ==== Sys2Proof/Machine/PortAccess.lean ====
section
/-! DEFINITION. What ports share: emission, meters, inputs, translation of their accesses, elements, the spillway (R210 to R215,
R258 to R274, R324 to R327, R331 to R336, R340, R341). -/
namespace Sys2Proof.Machine

/-! ### The link that a port drives (R210, R263, R274) -/

/-- The cell and the link of it at the end of a port's output; its router word may give the path an express hop. -/
def Port.target (x : Port) (n : Nat) : Nat × Dir :=
  let hop := match x.router.out (portDir n) with
    | some o => o.hop.val
    | none => 0
  if n < 16 then (32 * n + hop, .w) else (32 * (n - 16) + 31 - hop, .e)

/-- Whether the port's output toward its neighbour selects the result (R212). -/
def Port.selectsResult (x : Port) (n : Nat) : Bool :=
  match x.router.out (portDir n) with
  | some o => o.src == .result
  | none => false

/-- A read-side port cell: mld, or mov without an input (R211). -/
def portReads (w : CellWord) : Bool := w.op == .mld || (w.op == .mov && movReads w)
/-- A read-side port cell that takes tokens from its link. -/
def Port.fed (x : Port) : Bool := portReads x.word && !(countedInputs x.word).isEmpty

def State.port (s : State) (p n : Nat) : Port := (s.region p).port n
def State.setPort (s : State) (p n : Nat) (x : Port) : State := s.setRegion p ((s.region p).setPort n x)
def State.side (s : State) (p n : Nat) : PortSide := (s.region p).side n
def State.setSide (s : State) (p n : Nat) (x : PortSide) : State := s.setRegion p ((s.region p).setSide n x)

/-- Moves of the last 256 cycles. -/
def recentMoves (now span : Nat) (l : List Nat) : List Nat := l.filter fun t => decide (now < t + span)
/-- The tokens that a port may move in 256 cycles: min(RATE, PCAP), a RATE of 0 read as 256 (R274, R444). -/
def State.rateOf (s : State) (p n : Nat) : Nat :=
  let rate := (s.side p n).rate
  let cap := (s.die (dieOfPlace p)).pcap
  let r := if rate = 0 then 256 else rate
  if r < cap then r else cap
/-- Whether a port's meter lets it move a token now. -/
def State.meterOk (s : State) (p n : Nat) : Bool :=
  decide ((recentMoves s.tide (s.cyclesAt p 256) (s.side p n).moved).length < s.rateOf p n)
/-- A port moves a token, which its meter counts. -/
def State.metered (s : State) (p n : Nat) : State :=
  let x := s.side p n
  s.setSide p n { x with moved := recentMoves s.tide (s.cyclesAt p 256) x.moved ++ [s.tide] }

/-- What the output latch of a port holds lands in its neighbour's link latch. -/
def State.portDeliver (s : State) (p n : Nat) : State :=
  let r := s.region p
  let x := r.port n
  match x.out with
  | none => s
  | some t =>
    let (c, d) := x.target n
    let y := r.cell c
    if (y.link d).free then
      (s.setRegion p ((r.setCell c (y.setLink d (Latch.put t))).setPort n { x with out := none })).advanceNode p (portNode n)
    else s

/-- Whether a snapshot's marker is still to be injected at a read port: once the region holds a single step (R428). -/
def State.injects (s : State) (p n : Nat) : Bool :=
  let x := s.port p n
  s.cutReady p && !(s.side p n).marker && portReads x.word && !x.ended && x.step == (s.region p).stepNo

/-- The router operator at a port's output, none where the output passes its result on (R189). -/
def Port.operator (x : Port) (n : Nat) : Option RouterOut :=
  match x.router.out (portDir n) with
  | some o => if o.op == .pass then none else some o
  | none => none

/-- Whether a marker may pass a port: what its binding has sent to the arrays has reached them, and the tiles that the marker ends may be
sent (R341). -/
def State.portClear (s : State) (p n : Nat) : Bool :=
  let x := s.port p n
  !x.posted && (x.tile.words.isEmpty || s.trainRoom p (600 + n)) && (match x.run with
    | some b => b.outstanding == 0 && s.graphRoom (match b.ctx with
        | some (c, _) => c
        | none => 0)
    | none => true)

/-- The tiles of the graph of a port's binding end as a marker passes (R341). -/
def State.portCutTiles (s : State) (p n : Nat) : State :=
  match (s.port p n).run.bind (·.ctx) with
  | some (c, _) => s.endGraphTiles c
  | none => s

/-- The readers of a port's link: the port cell by its operand and PRED, which take tokens in turn (R212), and its output where its
router word names the link (R176). -/
def Port.linkReaders (x : Port) (n : Nat) : List Nat :=
  (if (countedInputs x.word).isEmpty then [] else [0]) ++ (match x.router.out (portDir n) with
    | some o => if o.sources.contains (.link (portDir n)) then [4 + dirNo (portDir n)] else []
    | none => [])

/-- The port cell takes the token on its link; the latch frees when every reader has. -/
def Port.takeLink (x : Port) (n : Nat) : Port := { x with link := x.link.take (x.linkReaders n) 0 }

/-- A port as a cell whose one output the operator of its router word drives: its result is the oldest token that it is to
emit. -/
def Port.asCell (x : Port) (n : Nat) : Cell :=
  let w : CellWord := { x.word with ina := if (countedInputs x.word).isEmpty then .none else .link (portDir n), inb := .none,
                                    inc := .none, pred := .none }
  Cell.setLink { Cell.free with word := some w, router := x.router, result := match x.queue with
    | [] => Latch.empty
    | t :: _ => Latch.put t } (portDir n) x.link

/-- An eos that a port emits is its final firing: its link must hold eos too where the port takes tokens from it (R129, R263). -/
def Port.mayEnd (x : Port) : Bool := !x.fed || (x.link.head 0).map (·.kind) == some kEos

/-- A port's output holds a token of its queue or its operator; with an eos the port has ended, and the eos on its link is taken. -/
def Port.placed (x : Port) (n : Nat) (t : Token) : Port :=
  let eos := t.kind == kEos
  let y := if eos && x.fed then x.takeLink n else x
  { y with out := some t, ended := x.ended || eos, count := if eos then 0 else x.count, self := if eos then 0 else x.self }

/-- One move of the operator at a port's output (R189, R190). -/
def State.portOperate (s : State) (p n : Nat) (o : RouterOut) : State :=
  let x := s.port p n
  let d := portDir n
  if (x.queue.head?.map (·.kind)) == some kEos && !x.mayEnd then s
  else
    match OutCtx.move { x := x.asCell n, rd := 4 + dirNo d, o := o, st := { x.opst with latch := none } } with
    | .no => s
    | .to y st =>
      let x1 := { x with link := y.link d, queue := if y.result.free then x.queue.drop 1 else x.queue, opst := { st with latch := none } }
      s.setPort p n (match st.latch with
        | some t => x1.placed n t
        | none => x1)
    | .fault e src t =>
      (s.setPort p n { x with opst := { x.opst with stopped := true } }).unitFault p e 2 (coordPort n) src 0
        ((t.map (·.payload.toNat)).getD 0) (t.map (·.kind.toNat)) (8 + dirNo d)

/-- The next token of a port moves to its output latch, by the operator of its output where it has one: a marker first while a cut is
open; after it, in a cut for a pre-emption, nothing more (R129, R263, R274, R280, R428). -/
def State.portMove (s : State) (p n : Nat) : State :=
  let x := s.port p n
  let reads := portReads x.word
  if x.out.isSome || (reads && !s.meterOk p n) then s
  else
    let s1 :=
      if s.injects p n then
        if !s.portClear p n then s else
        let s0 := (s.portCutTiles p n).setSide p n { s.side p n with marker := true }
        match x.operator n with
        | none => s0.setPort p n { x with out := some markerToken }
        | some _ => s0.setPort p n { x with queue := markerToken :: x.queue }
      else if s.cutForSave p && (s.side p n).marker && reads && (x.queue.head?.map (·.kind)) != some kMarker then s
      else
        match x.operator n, x.queue with
        | some o, _ => s.portOperate p n o
        | none, [] => s
        | none, t :: rest => if t.kind == kEos && !x.mayEnd then s else s.setPort p n (Port.placed { x with queue := rest } n t)
    if reads && (s1.port p n).out.isSome then s1.metered p n else s1

/-- Emission: one delivery, one move, one delivery. -/
def State.portOut (s : State) (p n : Nat) : State := ((s.portDeliver p n).portMove p n).portDeliver p n

/-! ### gbind counts (R272, R340, R341) -/

/-- The tile of a write port ends. -/
def State.endPortTile (s : State) (p n : Nat) : State :=
  let x := s.port p n
  let s1 := s.setPort p n { x with tile := Tile.empty }
  match (s.side p n).grec with
  | none => s1
  | some id => if x.tile.words.isEmpty then s1 else s1.sendTrain p (600 + n) x.step id x.tile.words

/-- The tile of a write port ends with the last element of its binding (R341). -/
def State.tileAtLast (s : State) (p n : Nat) : State :=
  match (s.port p n).run with
  | some b =>
    let groups := if b.b.gate == .slot then b.b.slots else 1
    if b.b.pat.count ≤ b.n && groups ≤ b.group + 1 then s.endPortTile p n else s
  | none => s

/-- The count words after a bfp lane of a block of exponent e. -/
def countBfp (w e : Nat) (ws : List Nat) (lane : Nat) : List Nat :=
  let m := lowSigned w lane
  if e = 255 then bumpWord ws 35 1 else if e = 0 ∨ m = 0 then bumpWord (bumpWord ws 33 1) 32 0
  else countElem ws (dqnElem fmtF32 w e .rne .ieee lane).1

/-- The elements that a port writes are counted into its record; those that a false predicate passes over count towards the tile's end
alone. -/
def State.portCount (s : State) (p n : Nat) (vs : List Word) (on : Bool := true) : State :=
  if (s.side p n).grec.isNone then s
  else
    let x := s.port p n
    let w := x.word
    let (words, k) :=
      if w.fmt == .bfp then
        let ls := vs.flatMap fun v => splitLanes 8 v.toNat
        (ls.foldl (countBfp (w.bw.val + 2) x.blockE) x.tile.words, ls.length)
      else
        let es := vs.flatMap fun v => statElems w v.toNat
        (es.foldl countElem x.tile.words, es.length)
    let s1 := s.setPort p n { x with tile := { words := if on then words else x.tile.words, n := x.tile.n + k } }
    if 4096 ≤ x.tile.n + k then s1.endPortTile p n else s1

/-- A port under `gbind` moves no element while both of its trains are full. -/
def State.countRoom (s : State) (p n : Nat) : Bool := (s.side p n).grec.isNone || s.trainRoom p (600 + n)

/-! ### Inputs of a port cell (R181, R212, R264) -/

/-- The fault that a token on the port's link raises. -/
def portTokenFault (header : Bool) (t : Token) : Option Cause :=
  if isDataToken t then none
  else if t.kind == kHeader then (if header then none else some .kind)
  else if t.kind == kEos || t.kind == kMarker then none
  else if t.kind == kFault then some (Cause.ofCode t.cause.toNat)
  else if t.kind == kPoison then some .soft
  else some .kind

/-- The token on the link is taken, and the port cell faults on it and does not fire again. -/
def State.portRejects (s : State) (p n : Nat) (c : Cause) (t : Token) (sel : Nat) : State :=
  let x := s.port p n
  (s.setPort p n { x.takeLink n with stopped := true }).portFault p n c 0 0 t.payload.toNat (some t.kind.toNat) sel

/-- A write-side port cell, or one that translates or posts messages: a meter limits what it takes (R211, R214, R216, R274, R444). What
limits a read side is what it emits. -/
def portWrites (w : CellWord) : Bool :=
  w.op == .mst || w.op == .mamo || w.op == .xlat || w.op == .msgout || (w.op == .mov && !movReads w)
/-- The token that a port may take from its link: none while the meter of a write side holds it back. -/
def State.portHead (s : State) (p n : Nat) : Option Token :=
  let x := s.port p n
  if (countedInputs x.word).isEmpty || (portWrites x.word && !s.meterOk p n) then none else x.link.head 0
/-- The port takes the token on its link. -/
def State.portTakes (s : State) (p n : Nat) : State :=
  let x := s.port p n
  let s1 := s.setPort p n (x.takeLink n)
  if portWrites x.word then s1.metered p n else s1

/-- What operand a of a port cell gives without a token: const, self, or an open value where it selects nothing (R179; log entry
11). -/
def State.portConst (s : State) (p n : Nat) : Option (Token × State) :=
  let x := s.port p n
  match x.word.ina with
  | .const => some (mkToken kData x.word.const.toNat, s)
  | .self => some (mkToken kData x.self.toNat, s)
  | .none => some (mkToken kData ((Config.freeWord s.fresh).setWidth 32).toNat, { s with fresh := s.fresh + 1 })
  | _ => none

/-- A write-side port cell ends: a mamo that emits its results places eos first (R129, R182). -/
def State.portEnds (s : State) (p n : Nat) : State :=
  let x := s.port p n
  if x.word.op == .mamo && x.selectsResult n then s.setPort p n { x with queue := x.queue ++ [eosToken] }
  else (s.setPort p n { x with ended := true }).advanceNode p (portNode n)

/-- The final firing of a write-side port cell: it takes eos (R129, R264), once its record has room for a train (R341). -/
def State.portFinal (s : State) (p n : Nat) : State :=
  if !s.countRoom p n then s else ((s.portTakes p n).endPortTile p n).portEnds p n

/-- A port cell that has placed eos takes nothing more under this word. -/
def Port.closing (x : Port) : Bool := x.ended || x.queue.any (·.kind == kEos) || (x.out.map (·.kind)) == some kEos

/-- A write-side port takes a marker while a cut is open (R280, R428); one that a cut has left behind goes. -/
def State.portMarker (s : State) (p n : Nat) : State :=
  if s.cutForSave p && (s.side p n).marker then s
  else if !s.cutOpen p || (s.side p n).marker then s.portTakes p n
  else if !s.portClear p n || !s.countRoom p n then s
  else
    let s1 := ((s.portTakes p n).endPortTile p n).portCutTiles p n
    let x := s1.port p n
    let s2 := s1.setSide p n { s1.side p n with marker := true }
    if x.word.op == .xlat || (x.word.op == .mamo && x.selectsResult n) then s2.setPort p n { x with queue := x.queue ++ [markerToken] }
    else s2

/-! ### Translation (R322, R326) -/

inductive PortAt
  | ok (pa : Nat) (clsW : Bool)
  | fault (detail : Nat)
  | bad (c : Cause) (detail : Nat)
  | wait

/-- Whether an active window, no spill window, holds an address. -/
def Window.holds (w : Window) (va : Nat) : Bool :=
  w.active && !w.recd.spill && decide (w.recd.base ≤ va) && decide (va < w.recd.base + w.recd.len)
def Window.serves (w : Window) (va : Nat) (need : Need) : Bool :=
  w.holds va &&
    (match need with
      | .read => w.recd.rd
      | .write => w.recd.wr && w.wr)

/-- The checks of R322 on a translated address. -/
def State.checkPa (s : State) (pa : Nat) (clsW : Bool) : PortAt :=
  if s.protectedPa pa then .bad .permission 0 else if !paOk pa then .bad .access 0 else .ok pa clsW

/-- Whether the latches of a die's ports may load a page: none of a range that a relatch has named, while a region TLB may still hold what
an unmap has withdrawn (R328 to R330; log entry 65). -/
def Die.mayLatch (x : Die) (e : PageEntry) : Bool := !x.noLatch.any fun r => r.1 == e.asid && e.meets r.2.1 r.2.2

/-- The page latch takes a page. -/
def State.latchPage (s : State) (p n : Nat) (e : PageEntry) : State :=
  if (s.die (dieOfPlace p)).mayLatch e then s.setSide p n { s.side p n with latch := some e } else s

/-- A translated page of a port's access, checked (R322). -/
def State.portPage (s : State) (e : PageEntry) (va : Nat) (need : Need) : PortAt :=
  match s.checkPage e va need with
  | .ok pa c => .ok pa c
  | .bad c d => .bad c d
  | .wait => .wait

/-- The order of R326: a window, the page latch, the region TLB, a walk. -/
def State.portTranslate (s : State) (p n va : Nat) (need : Need) : PortAt × State :=
  let x := s.side p n
  let asid := (s.region p).asid
  match x.windows.find? (·.serves va need), x.latch.filter (·.holds asid va) with
  | some w, _ => (s.checkPa (w.pbase + (va - w.recd.base)) w.clsW, s)
  | none, some e => (s.portPage e va need, s)
  | none, none =>
    match s.translateRegion p asid va with
    | (.page e, s1) => (s1.portPage e va need, s1.latchPage p n e)
    | (.fault reason level, s1) => (.fault (transDetail reason level), s1)
    | (.poison _, s1) => (.bad .soft 0, s1)
    | (.table _, s1) => (.wait, s1)

/-- How the bytes that a port reads beside its elements come: an index or an exponent byte (R263, R266). -/
inductive PortBytes
  | ok (bs : List Byte)
  | wait
  | fault (detail va : Nat)
  | bad (c : Cause) (detail va : Nat)

/-- Read them piece by piece: translated as the elements are, in the stash (R284, R326). -/
def State.portBytes (p n : Nat) : List (Nat × Nat) → List (List Byte) → State → PortBytes × State
  | [], acc, s => (.ok acc.reverse.flatten, s)
  | (va, k) :: t, acc, s =>
    match s.portTranslate p n va .read with
    | (.wait, s1) => (.wait, s1)
    | (.fault d, s1) => (.fault d va, s1)
    | (.bad c d, s1) => (.bad c d va, s1)
    | (.ok _ true, s1) => (.bad .access 0 va, s1)
    | (.ok pa false, s1) =>
      match s1.stashRead p va pa k (100 + n) with
      | (none, s2) => (.wait, s2)
      | (some (v, poisoned), s2) => if poisoned then (.bad .soft 0 va, s2) else State.portBytes p n t (leBytes k v :: acc) s2

/-! ### Physical-address pairs (R214, R215, R327) -/

/-- The two payloads of a pair: PA[31:0], and PA[51:32] with WR, CW and CHK. -/
def pairPa (lo hi : Word) : Nat := lo.toNat + hi.toNat % 2 ^ 20 * 2 ^ 32
def pairWr (hi : Word) : Bool := bit hi.toNat 20
def pairCw (hi : Word) : Bool := bit hi.toNat 21
def pairChk (hi : Word) : BitVec 10 := BitVec.ofNat 10 (hi.toNat / 2 ^ 22)
def State.chkOf (s : State) (pa : Nat) (wr cw : Bool) (asid : BitVec 16) : BitVec 10 :=
  Config.chk (BitVec.ofNat 46 (pa / 64)) wr cw asid s.fw.starts

/-- Whether a table of a level gives a physical address class W by a leaf that it or a table below it holds (R319 to R321): it goes
through the entries that the table's bytes list. -/
def State.tableClassW (s : State) (pa : Nat) : Nat → Nat → Bool
  | 0, _ => false
  | level + 1, table =>
    s.mem.any fun c =>
      let j := (c.1 - table) / 8
      let e := s.tableEntry table j
      let head := s.tableEntry table (16 * (j / 16))
      decide (table ≤ c.1) && decide (c.1 < table + 4096) && c.1 % 8 == 0 && entryBit e 0
        && !entryMalformed e (level + 1) (j % 16 == 0)
        && (if entryBit e 1 then s.tableClassW pa level (entryBase e)
            else
              let log := if level == 0 && entryBit e 4 then 16 else levelShift (level + 1)
              entryBit e 3 && decide (entryBase e ≤ pa) && decide (pa < entryBase e + 2 ^ log)
                && (level != 0 || j % 16 == 0 || !(entryBit head 0 && entryBit head 4)))

/-- Whether a translation that the region holds says that a physical page is class W. -/
def Region.heldClassW (r : Region) (pa : Nat) : Bool :=
  let hit (e : PageEntry) : Bool := e.clsW && decide (e.pbase ≤ pa) && decide (pa < e.pbase + 2 ^ e.log)
  r.tlb.any hit || r.sides.any fun e => e.2.xlatches.any hit || (match e.2.latch with
    | some l => hit l
    | none => false) || e.2.windows.any fun w =>
      w.active && w.clsW && decide (w.pbase ≤ pa) && decide (pa < w.pbase + w.recd.len)

/-- Whether a physical page is class W for a region's ASID (R215, R284): its table says so, or a translation that the region still
holds. -/
def State.classWPage (s : State) (p pa : Nat) : Bool :=
  (s.region p).heldClassW pa || s.tableClassW pa 5 (s.asidOf (s.region p).asid.toNat).root

/-- A port that reads takes a pair: it checks it, with no further translation (R215, R327). -/
def State.pairAt (s : State) (p : Nat) (lo hi : Word) : PortAt :=
  let pa := pairPa lo hi
  if pairChk hi != s.chkOf pa (pairWr hi) (pairCw hi) (s.region p).asid || (!pairCw hi && s.classWPage p pa) then
    .bad .permission 0
  else s.checkPa pa (pairCw hi)

/-! ### Elements of a binding (R260 to R268) -/

def Binding.gated (b : Binding) : Bool := b.gate != .none
def Binding.need (b : Binding) : Nat := if b.gate == .slot then 1 else b.slots
def Binding.groups (b : Binding) : Nat := if b.gate == .slot then b.slots else 1
def Running.ratio (x : Running) : Nat := match x.ctx with
  | some (_, k) => k
  | none => 1
def Running.ctxNo (x : Running) : Nat := match x.ctx with
  | some (c, _) => c
  | none => 0

/-- The address of element n of a binding that names none by index (R260). -/
def Region.elementVa (r : Region) (x : Running) : Nat :=
  let b := x.b
  let off : Int := (b.base : Int) + b.pat.off x.n
  if !b.gated then (off % (2 ^ 57 : Nat)).toNat
  else
    let h := r.handle b.h
    let ring : Nat := h.slots * 2 ^ h.lsz
    (h.base + (((x.idx.getD 0 * 2 ^ h.lsz : Nat) + off) % (ring : Int)).toNat) % 2 ^ 57

/-- The address that an index names (R266). -/
def Running.indexedVa (x : Running) (shift i : Nat) : Nat := (x.b.base + i * 2 ^ (shift + 2)) % 2 ^ 57

/-- Whether a data address lies in the binding's footprint, if it names one (R266). -/
def State.inFoot (s : State) (p : Nat) (b : Binding) (va : Nat) : Bool :=
  match b.foot with
  | none => true
  | some f =>
    match (s.imageOf (s.region p)).bind fun img => Tbl.find img.foots f with
    | none => false
    | some x => decide (x.base ≤ va) && decide (va + 4 ≤ x.base + x.len)

/-- Whether the ring of a binding lies at the cistern (R251, R261). -/
def Region.ringAtHome (r : Region) (b : Binding) : Bool := b.gated && (r.handle b.h).loc

/-- The class of the page that an element reaches, against what the binding and its port allow (R212, R271, R284): rings are
class C. -/
def Port.classOk (x : Port) (b : Running) (clsW : Bool) : Bool :=
  if clsW then !b.b.gated && x.word.op != .mamo else b.ctx.isNone

/-- Whether an element of a port is on its way to another package, or its answer back. -/
def State.portAway (s : State) (p n : Nat) : Bool :=
  s.net.any fun m => match m.body with
    | .sent q _ _ (.element k _ _ _ _ _) => q == p && k == n
    | .sent q _ _ (.update k _) => q == p && k == n
    | _ => false

/-- An element of a port leaves for a home in another package (R283): of a class W page it goes to the array there. -/
def State.sendElement (s : State) (p n i va pa : Nat) (clsW : Bool) (b : Running) (v : Option Word) (ack : Option (Nat × Nat)) : State :=
  let op : AwayOp := if clsW then .element v else match v with
    | some x => .write 4 x.toNat false
    | none => .read 4
  s.askMemory pa p noHandler (.element n va pa i v.isNone ack) op (if clsW then b.b.lclk else (s.region p).lclk)

/-- Read element i of a binding at a translated address: its tokens reach the port, or go to an array and come back (R261, R310). -/
def State.portRead (s : State) (p n i va pa : Nat) (clsW : Bool) (b : Running) : Got Unit × State :=
  let r := s.region p
  let x := r.port n
  if !x.classOk b clsW then (.bad .access 0 va, s)
  else if s.elsewhere pa && (!clsW || b.ctx.isNone) then
    (.ok (), (s.setPort p n { x with posted := true }).sendElement p n i va pa clsW b none none)
  else if clsW then
    (.ok (), (s.setPort p n { x with posted := true }).post (keyPort p n)
      (.weirElem p n (arrayOf pa) b.ctxNo pa va i [] none b.b.lclk true false))
  else if r.ringAtHome b.b then
    let (v, clk, bad, s1) := (s.markHome (lineOf pa)).homeRead pa 4 r.lclk
    let r1 := s1.region p
    (.ok (), (s1.setRegion p { r1 with lclk := clk }).portGets p n i [if bad then poisonToken pa else mkToken kData v])
  else
    match s.stashRead p va pa 4 with
    | (none, s1) => (.wait, s1)
    | (some (v, bad), s1) => (.ok (), s1.portGets p n i [if bad then poisonToken pa else mkToken kData v])

/-- The operation of a mamo port (R150, R212). -/
def mamoOp (sub : Nat) : AtomOp :=
  match sub with
  | 0 => .add | 1 => .and | 2 => .or | 3 => .xor | 4 => .min | 5 => .max | 6 => .minn | 7 => .maxn | 8 => .swap | _ => .fadd

/-- One atomic of a mamo port: the region's own copy is written back first, and the home performs it (R152, R212). -/
def State.mamoAt (s : State) (p n va pa : Nat) (v : Word) : Got Unit × State :=
  let w := (s.port p n).word
  if va % 4 ≠ 0 then (.bad .alignment 0 va, s)
  else
    let s0 := (s.writeBackLine p (lineOf pa)).flushLine (lineOf pa)
    match s0.atomicAtHome (mamoOp w.sub.val) false pa (v.setWidth 64) (s0.region p).lclk with
    | (none, s1) => (.bad .soft 0 0, s1)
    | (some (old, clk, f), s1) =>
      let r := s1.region p
      let s2 := s1.setRegion p { r with lclk := maxClk r.lclk clk, fpflags := r.fpflags ||| f }
      let x := s2.port p n
      (.ok (), if x.selectsResult n then s2.setPort p n (x.mark (mkToken kData old)) else s2)

/-- Elements of a binding that may be on their way to the arrays at once; a model's bound on the port's back-pressure. -/
def portWindow : Nat := 16

/-- A word of a line has been written by a binding: one that has written the whole line has left no byte of its old contents, nor
their poison mark (R285, R310). -/
def Running.fills (b : Running) (pa : Nat) : Running :=
  { b with lines := insertSorted (lineOf pa) b.lines,
           fill := Tbl.put b.fill (lineOf pa) (Tbl.look b.fill (lineOf pa) 0 ||| BitVec.ofNat 16 (2 ^ (pa % 64 / 4))) }

/-- Whether a binding will write the whole line of an address (R285): its pattern names each word of it, at the element that it stands
at or a later one, and no index or predicate may pass one over. -/
def State.writesWhole (s : State) (p n : Nat) (b : Running) (va : Nat) : Bool :=
  let direct := match b.b.kind with
    | .write => true | .expand => true | .fifo _ => true | _ => false
  direct && (s.port p n).word.pred == .none && (List.range 16).all fun k =>
    (List.range (b.b.pat.count - b.n)).any fun i => (s.region p).elementVa { b with n := b.n + i } == va / 64 * 64 + 4 * k

/-- One element of a write binding leaves for a home in another package: a word, or an atomic of a mamo port, whose region drops its own copy of the
line first. -/
def State.portWriteAway (s : State) (p n i va pa : Nat) (clsW : Bool) (b : Running) (vs : List Word) : Got Unit × State :=
  let x := s.port p n
  let y := { x with run := x.run.map fun b => { b with outstanding := b.outstanding + 1 } }
  let s1 := s.setRegion p (((s.region p).dropStash (lineOf pa)).setPort n y)
  if x.word.op == .mamo then
    if va % 4 ≠ 0 then (.bad .alignment 0 va, s)
    else
      (.ok (), (s1.askMemory pa p noHandler (.update n va) (.atomic (mamoOp x.word.sub.val) false ((vs.headD 0).setWidth 64))
        (s.region p).lclk).portCount p n vs)
  else (.ok (), (s1.sendElement p n i va pa clsW b (some (vs.headD 0)) (if clsW then b.b.ackWord else none)).portCount p n vs)

/-- Write element i of a binding at a translated address from its port tokens (R261, R264). What it writes in class C, or to another package,
waits for what it has sent to the homes before, as does what follows an element to another package, so that its elements are performed in
order (R382). -/
def State.portWrite (s : State) (p n i va pa : Nat) (clsW : Bool) (b : Running) (vs : List Word) (again : Bool := false) : Got Unit × State :=
  let r := s.region p
  let x := r.port n
  if !x.classOk b clsW then (.bad .access 0 va, s)
  else if (!clsW || s.elsewhere pa || s.portAway p n) && b.outstanding != 0 then (.wait, s)
  else if s.elsewhere pa && (!clsW || b.ctx.isNone) then s.portWriteAway p n i va pa clsW b vs
  else if x.word.op == .mamo then
    match s.mamoAt p n va pa (vs.headD 0) with
    | (.ok (), s1) => (.ok (), s1.portCount p n vs)
    | g => g
  else if clsW then
    if portWindow ≤ b.outstanding then (.wait, s)
    else
      let y := { x with run := x.run.map fun b => { b with outstanding := b.outstanding + 1 } }
      (.ok (), ((s.setPort p n y).post (keyPort p n)
        (.weirElem p n (arrayOf pa) b.ctxNo pa va i vs b.b.ackWord b.b.lclk false again)).portCount p n vs)
  else if r.ringAtHome b.b then
    let (clk, s1) := (s.markHome (lineOf pa)).homeWrite pa 4 (vs.headD 0).toNat r.lclk
    let r1 := s1.region p
    (.ok (), (s1.setRegion p { r1 with lclk := clk }).portCount p n vs)
  else
    match s.stashWrite p va pa 4 (vs.headD 0).toNat (s.writesWhole p n b va) with
    | (false, s1) => (.wait, s1)
    | (true, s1) =>
      let y := s1.port p n
      let b1 := b.fills pa
      let full := Tbl.look b1.fill (lineOf pa) 0 == BitVec.allOnes 16
      let b2 := if full then { b1 with fill := Tbl.drop b1.fill (lineOf pa) } else b1
      let s2 := s1.setPort p n { y with run := y.run.map fun _ => b2 }
      let s3 := if full then s2.setRegion p ((s2.region p).cleanCopy (lineOf pa)) else s2
      (.ok (), s3.portCount p n vs)

/-! ### The spillway (R331 to R335) -/

/-- The numbers of a chain in a port's word: predecessor, own and successor (R97, R213). -/
def chainNumbers (w : CellWord) : Nat × Nat × Nat :=
  if w.op == .mld || w.op == .mst || w.op == .mamo then
    (w.count.toNat / 2 ^ 16 % 2 ^ 8, w.count.toNat / 2 ^ 8 % 2 ^ 8, w.count.toNat % 2 ^ 8)
  else (0, 0, 0)

/-- A cell as a step of its region configures it: installed, or still to come (R129). -/
def State.cellOfStep (s : State) (p c step : Nat) : Cell :=
  let y := s.cell p c
  if y.step = step then y
  else
    match ((s.region p).steps.find? fun x => x.num == step).bind fun x => (s.slotConf x).findSome? fun b => match b with
      | .cell row col w ro => if 32 * row.val + col.val = c then some (w, ro) else none
      | _ => none with
    | some (w, ro) => { Cell.free with step := step, word := w, router := ro }
    | none => { Cell.free with step := step }

/-- Whether the one reader that the link which a port drives has in the port's step accepts elements out of order (R221, R331). -/
def State.readerAccepts (s : State) (p n : Nat) : Bool :=
  let (c, d) := neighbourOf n
  let x := s.port p n
  let y := s.cellOfStep p c x.step
  match y.word with
  | none => false
  | some w =>
    x.target n == (c, d) && w.comm && (match y.readers (.link d) with
        | [i] => decide (i < 3)
        | _ => false) &&
      (if w.op == .poolc then (y.readers .result).isEmpty else w.op == .acc && w.count == 0)

/-- Whether a port diverts an element of its binding that takes a translation fault. -/
def State.diverts (s : State) (p n : Nat) (b : Running) : Bool :=
  let w := (s.port p n).word
  let kindOk := match b.b.kind with
    | .compress _ => false | .expand => false | .fifo _ => false | _ => true
  kindOk && (chainNumbers w).2.1 == 0 && w.op != .mamo &&
    (if b.b.kind.reads then w.op == .mld && s.readerAccepts p n
      else (match b.ctx with
        | none => false
        | some (c, _) => s.arrays.any fun e => match Tbl.find e.2.ctxs c with
            | some g => g.topIs isRmw && (g.top.map (·.comm)) == some true
            | none => false))

/-- The spill window of a port, if it has one. -/
def PortSide.spillWindow (x : PortSide) : Option Window := x.windows.find? (·.recd.spill)
def Window.entries (w : Window) : Nat := w.recd.len / 16
def PortSide.spillRoom (x : PortSide) : Bool :=
  decide (x.spill.queue.length < 64) || (match x.spillWindow with
    | some w => decide (x.spill.count < w.entries)
    | none => false)
def Spillway.isEmpty (x : Spillway) : Bool := x.queue.isEmpty && x.count == 0

/-- A spill access that cannot be performed stops the region (R144, R335). -/
def State.spillFault (s : State) (p n : Nat) : State := (s.portFault p n .spillway 0 0 0 none 0).stopRegion p

/-- The physical address of ring entry i, none when the window has been made inactive. -/
def PortSide.ringPa (x : PortSide) (i : Nat) : Option (Nat × Nat) :=
  match x.spillWindow with
  | none => none
  | some w => if w.active then some (w.recd.base + 16 * (i % w.entries), w.pbase + 16 * (i % w.entries)) else none

/-- The oldest ring entry moves to the queue when that has room. -/
def State.spillRefill (s : State) (p n : Nat) : Got Unit × State :=
  let x := s.side p n
  if x.spill.count = 0 ∨ 64 ≤ x.spill.queue.length then (.ok (), s)
  else
    match x.ringPa x.spill.head with
    | none => (.bad .spillway 0 0, s)
    | some (va, pa) =>
      match s.stashRead p va pa 16 with
      | (none, s1) => (.wait, s1)
      | (some (v, poisoned), s1) =>
        if poisoned then (.bad .spillway 0 0, s1)
        else
          let y := s1.side p n
          let ack := match (s1.port p n).run with
            | some b => b.b.ackWord
            | none => none
          let e : Spilled := { va := v % 2 ^ 57, payload := BitVec.ofNat 32 (v / 2 ^ 64), n := v / 2 ^ 96 % 2 ^ 32, ack := ack }
          (.ok (), s1.setSide p n { y with spill := { y.spill with
            queue := y.spill.queue ++ [e], head := y.spill.head + 1, count := y.spill.count - 1 } })

/-- An element enters the spillway: the queue of 64 entries, or the ring behind it. -/
def State.spillPlace (s : State) (p n : Nat) (e : Spilled) : Got Unit × State :=
  let x := s.side p n
  if x.spill.queue.length < 64 && x.spill.count == 0 then
    let since := if x.spill.queue.isEmpty then s.tide else x.spill.since
    (.ok (), s.setSide p n { x with spill := { x.spill with
      queue := x.spill.queue ++ [e], since := since, retryAt := if x.spill.queue.isEmpty then 0 else x.spill.retryAt } })
  else
    match x.ringPa (x.spill.head + x.spill.count) with
    | none => (.bad .spillway 0 0, s)
    | some (va, pa) =>
      let poisoned := match (s.region p).findLine (lineOf pa) with
        | some l => l.poison
        | none => false
      if poisoned then (.bad .spillway 0 0, s)
      else
        match s.stashWrite p va pa 16 (e.va + e.payload.toNat * 2 ^ 64 + e.n % 2 ^ 32 * 2 ^ 96) with
        | (false, s1) => (.wait, s1)
        | (true, s1) =>
          let y := s1.side p n
          (.ok (), s1.setSide p n { y with spill := { y.spill with count := y.spill.count + 1 } })

/-- An element is diverted: an entry of the ring moves into a free slot of the queue first, so that neither is passed (R334, R335). -/
def State.spillPut (s : State) (p n : Nat) (e : Spilled) : Got Unit × State :=
  match s.spillRefill p n with
  | (.ok (), s1) => s1.spillPlace p n e
  | x => x

/-- Whether the elements of a port that do not translate are discarded: a `goto` or `done` has ended the step that it holds (R336). -/
def Region.dropsSpills (r : Region) (n : Nat) : Bool := decide ((r.port n).step ≤ r.dropTo) && r.dropTo != 0

end Sys2Proof.Machine
end

