-- ==== Sys2Proof/Machine/Ports.lean ====
section
/-! DEFINITION. The events of the ports: bindings that start, move their elements and complete, eos, mamo, xlat, msgout, the
spillway, stalls and relatches (R126, R210 to R216, R255 to R274, R282, R324 to R336). -/
namespace Sys2Proof.Machine

/-! ### The head of a port queue (R255, R257, R271 to R273) -/

/-- What stands at the head of a port queue: nothing that can start, a ctl token, a binding with its attachments, or a command
that meets an attachment it may not. `rest` is the queue after it. -/
inductive PortHead
  | none
  | ctl (payload : Word) (step tmpl : Nat) (rest : List PortEntry)
  | start (b : Binding) (grec : Option (Option Nat)) (graph : Option (Nat × Nat)) (rest : List PortEntry)
  | bad (tmpl : Nat) (ctxs : List Nat) (rest : List PortEntry)

/-- Follow a queue from its head: attachments wait for the binding behind them; a ctl between leaves on its own. -/
def scanQueue : List PortEntry → List PortEntry → Option (Option Nat) → Option (Nat × Nat) → PortHead
  | [], _, _, _ => .none
  | .bind b :: t, _, g, w => .start b g w (.bind b :: t)
  | .gbind r step tmpl :: t, seen, _, w =>
    match w with
    | some (_, c) => .bad tmpl [c] (seen ++ t)
    | Option.none => scanQueue t (seen ++ [.gbind r step tmpl]) (some r) w
  | .weir h mask ctx step tmpl :: t, seen, g, w =>
    match w with
    | some (_, c) => .bad tmpl [c, ctx] (seen ++ t)
    | Option.none => scanQueue t (seen ++ [.weir h mask ctx step tmpl]) g (some (h, ctx))
  | .ctl v step tmpl :: t, seen, _, w =>
    match w with
    | some (_, c) => .bad tmpl [c] (seen ++ t)
    | Option.none => .ctl v step tmpl (seen ++ t)

/-- A binding leaves the queue and the region's live bindings: it has completed, or never was one (R126, R163). -/
def State.dropBinding (s : State) (p n : Nat) (b : Binding) : State :=
  let r := s.region p
  let side := r.side n
  let q := side.queue.filter fun e => match e with
    | .bind x => x.seq != b.seq
    | _ => true
  let s1 := s.setRegion p { r.setSide n { side with queue := q } with live := r.live.filter (·.1 != b.seq) }
  let s2 := match b.hold with
    | some id => s1.completeHolder (dieOfPlace p) id (s1.region p).lclk
    | none => s1
  { s2 with agenda := .issue p :: s2.agenda }

/-- A command that fails at its port enters a command fault naming the port (R256). -/
def State.portCommandFault (s : State) (p n tmpl : Nat) : State := s.unitFault p .command 2 (coordPort n) 0 0 tmpl none 0

/-- The array contexts of a graph, by any of its arrays. -/
def State.graphOf (s : State) (ctx : Nat) : Option WeirCtx := s.arrays.findSome? fun e => Tbl.find e.2.ctxs ctx

/-- Whether a binding may run under a port's word with its attachments (R256, R262, R271, R341). -/
def State.bindingFits (s : State) (p n : Nat) (b : Binding) (grec : Option Nat) (graph : Option (Nat × Nat)) : Bool :=
  let w := (s.port p n).word
  b.kind.fits w && blocksOk b.kind.reads w (match b.kind with
      | .fifo _ => b.pat.count * b.groups
      | _ => b.pat.count) && xbaseOk b.kind w b.pat && !(grec.isSome && (floatFmtOf w.fmt).isNone && w.fmt != .bfp) &&
    (match graph with
      | none => true
      | some (h, c) =>
        h == b.h && (match s.graphOf c with
          | none => true
          | some g => if b.kind.reads then !g.packs && !g.topIs isRmw else !g.unpacks))

/-- A binding starts at its port with its attachments, which leave their entries. One that the port's word refuses becomes a faulted
holder, which completes when its course retires (R126, R256, R421); so does one that meets a port cell that has stopped (R264). -/
def State.startBinding (s : State) (p n : Nat) (b : Binding) (g : Option (Option Nat)) (graph : Option (Nat × Nat))
    (rest : List PortEntry) : State :=
  let side := s.side p n
  let grec := g.getD side.grec
  let s1 := s.setSide p n { side with queue := rest, grec := grec }
  if !s.bindingFits p n b grec graph then
    let s2 := match graph with
      | some (_, c) => s1.releaseGraph c
      | none => s1
    (s2.setSide p n { s2.side p n with queue := rest.drop 1 }).portCommandFault p n b.tmpl
  else
    let ctx : Option (Nat × Nat) := graph.map fun x => (x.2, match s.graphOf x.2 with
      | some c => c.ratio
      | none => 1)
    let x := s1.port p n
    let b0 : Running :=
      { b := b, group := 0, n := 0, idx := none, elem := none, pair := [], blocks := 0, left := 0, ctx := ctx, lines := [],
        outstanding := 0, fill := [], faulted := x.stopped }
    s1.setPort p n { x with run := some b0 }

/-- The next entry of a port queue starts. Entries of a later step wait for its word (R130), and a binding that meets an ended
port cell waits too (R263). -/
def State.portStart (s : State) (p n : Nat) : State :=
  let x := s.port p n
  if x.closing then s
  else
    match scanQueue (s.side p n).queue [] none none with
    | .none => s
    | .bad tmpl ctxs rest =>
      let keep (e : PortEntry) : Bool := match e with
        | .weir _ _ c _ _ => !ctxs.contains c
        | _ => true
      ctxs.foldl (fun s c => s.releaseGraph c)
        ((s.setSide p n { s.side p n with queue := rest.filter keep }).portCommandFault p n tmpl)
    | .ctl v step tmpl rest =>
      if x.step < step then s
      else if !portReads x.word then (s.setSide p n { s.side p n with queue := rest }).portCommandFault p n tmpl
      else if x.out.isNone && x.queue.isEmpty && !(s.cutForSave p && (s.side p n).marker) && s.meterOk p n then
        let s1 := s.setSide p n { s.side p n with queue := rest }
        let t := mkToken kCtl v.toNat
        if (x.operator n).isSome then s1.setPort p n { x with queue := [t] }
        else (s1.setPort p n { x with out := some t }).metered p n
      else s
    | .start b g graph rest => if x.step < b.step then s else s.startBinding p n b g graph rest

/-! ### Running a binding (R261) -/

/-- The binding of a port ends as a faulted holder. -/
def State.portBad (s : State) (p n : Nat) (c : Cause) (detail addr : Nat) : State := s.portFault p n c detail addr 0 none 0

/-- Change the running binding of a port. -/
def State.setRun (s : State) (p n : Nat) (f : Running → Running) : State :=
  let x := s.port p n
  s.setPort p n { x with run := x.run.map f }

/-- A group starts: the wait on the handle, and the index that it latches. -/
def State.portGroup (s : State) (p n : Nat) (b : Running) : State :=
  if !b.b.gated then s.setRun p n fun b => { b with idx := some 0 }
  else
    match s.handleNow p b.b.h (if b.b.kind.reads then .waitFilled b.b.need else .waitFree b.b.need) with
    | (.wait, s1) => s1
    | (.bad c d a, s1) => s1.portBad p n c d a
    | (.ok h, s1) => s1.setRun p n fun b => { b with idx := some (if b.b.kind.reads then h.c else h.p) }

/-- Nothing of a port's binding is on its way, set aside or stalled, and every token that it read has been emitted (R261). -/
def State.portQuiet (s : State) (p n : Nat) (b : Running) : Bool :=
  let side := s.side p n
  !(s.port p n).posted && b.outstanding == 0 && (side.spill.isEmpty || (s.region p).dropsSpills n) && side.stallVa.isNone &&
    (!b.b.kind.reads || (s.port p n).queue.isEmpty)

/-- The advance of a handle by a binding (R253, R254). -/
def State.portAdvance (s : State) (p n : Nat) (b : Running) (k : Nat) : Bool × State :=
  match s.handleNow p b.b.h (if b.b.kind.reads then .pop k else .push k) with
  | (.wait, s1) => (false, s1)
  | (.bad c d a, s1) => (false, s1.portBad p n c d a)
  | (.ok _, s1) => (true, s1)

/-- A group of a binding gated per slot ends: it advances by one, and the next group waits. -/
def State.portNextGroup (s : State) (p n : Nat) (b : Running) : State :=
  if !s.portQuiet p n b then s
  else
    match s.portAdvance p n b 1 with
    | (false, s1) => s1
    | (true, s1) => s1.setRun p n fun b => { b with group := b.group + 1, n := 0, idx := none }

/-- The pattern goes on by one position: the tokens of the element are used up, and its turn in a chain is taken. -/
def State.portNext (s : State) (p n : Nat) : State :=
  let x := s.port p n
  (s.setPort p n { x with
    pred := none, round := x.round + 1,
    run := x.run.map fun b => { b with n := b.n + 1, elem := none, pair := [], left := b.left - b.ratio } }).tileAtLast p n

/-- The members of a port's chain: port, predecessor, own and successor numbers. -/
def State.chainMates (s : State) (p : Nat) (x : Port) : List (Nat × Nat × Nat × Nat) :=
  match (s.region p).steps.find? (·.num == x.step) with
  | none => []
  | some y => (s.slotConf y).filterMap fun c => match c with
    | .port m w _ =>
      let k := chainNumbers w
      if k.2.1 != 0 && w.index == x.word.index then some (m.val, k.1, k.2.1, k.2.2) else none
    | _ => none

/-- The accesses of a port's chain rounds that have been performed: one of class W counts once it reaches its array (R213). -/
def State.roundsDone (s : State) (p n : Nat) : Nat :=
  (s.port p n).round - s.net.countP fun m => match m.body with
    | .weirElem q k _ _ _ _ _ _ _ _ _ _ => q == p && k == n
    | .sent q _ _ (.element k _ _ _ _ _) => q == p && k == n
    | .sent q _ _ (.update k _) => q == p && k == n
    | _ => false

/-- Whether it is a port's turn in its chain: round k of a member follows that of its predecessor, and round k + 1 of the head that
of the tail (R213). A member that has ended no longer takes part. -/
def State.chainTurn (s : State) (p n : Nat) : Bool :=
  let x := s.port p n
  let (pred, own, _) := chainNumbers x.word
  if own = 0 then true
  else
    let past (m : Nat) (ok : Nat → Bool) : Bool :=
      let y := s.port p m
      if y.step < x.step then false else x.step < y.step || y.ended || ok (s.roundsDone p m)
    (s.chainMates p x).all fun (m, _, o, succ) =>
      if pred ≠ 0 then o != pred || past m (fun k => decide (x.round < k))
      else succ != 0 || m == n || past m (fun k => decide (x.round ≤ k))

/-- Whether a predicate lets an element be accessed: any false lane makes the whole token false (R186); mov has lane a either
way. -/
def portTrue (w : CellWord) (pred : Option Token) : Bool :=
  match pred with
  | none => true
  | some t => w.op == .mov || (splitLanes (laneBits w.width) t.payload.toNat).all (· != 0)

/-- What a port still has to take, or that all is there. -/
inductive Inputs
  | ready
  | state (s : State)

/-- The predicate token of an element (R212): from the link, const or self. A port without a predicate needs none. -/
def State.portPred (s : State) (p n : Nat) (ragged : State → State) : Inputs :=
  let x := s.port p n
  let fix (v : Word) : Inputs := .state (s.setPort p n { x with pred := some { kind := kData, payload := v, cause := 0 } })
  if x.pred.isSome then .ready
  else
    match x.word.pred with
    | .none => .ready
    | .const => fix x.word.const
    | .self => fix x.self
    | _ =>
      match s.portHead p n with
      | none => .state s
      | some t =>
        match portTokenFault false t with
        | some c => .state (s.portRejects p n c t 4)
        | none =>
          if t.kind == kMarker then .state (s.portMarker p n)
          else if t.kind == kEos then .state (if !s.countRoom p n then s else ragged (s.portBad p n .ragged 0 0))
          else
            let s1 := s.portTakes p n
            .state (s1.setPort p n { s1.port p n with pred := some t })

/-- The translation fault word of a port (R332): it carries the element's token, or the template of its binding (R256). -/
def State.missWord (s : State) (p n va detail : Nat) (t : Option Token) : State :=
  let token := match t, (s.port p n).run with
    | some x, _ => x.payload.toNat
    | none, some b => b.b.tmpl
    | none, none => 0
  s.unitFault p .translation 2 (coordPort n) detail va token (t.map (·.kind.toNat)) 0

/-- A port stalls in order at an address (R331, R332): it tries again once in every 1,024 cycles. One that drains from a `goto` or `done`
ends its binding at once (R435). -/
def State.portStalls (s : State) (p n va detail : Nat) (t : Option Token) : State :=
  if (s.region p).dropsSpills n then
    let s1 := s.missWord p n va detail t
    s1.setPort p n (s1.port p n).holderFaults
  else (s.setSide p n { s.side p n with stallVa := some va, stallAt := s.tide + s.cyclesAt p 1024 }).missWord p n va detail t

/-- The page of an element does not translate: the port diverts it or stalls in order (R331, R332, R335, R336). -/
def State.portMisses (s : State) (p n va detail : Nat) (b : Running) (vs : List Token) : State :=
  let side := s.side p n
  let word (s : State) : State := s.missWord p n va detail vs.head?
  if (s.region p).dropsSpills n && s.diverts p n b then
    -- the first entry stands for those that are discarded, and none is performed (R336)
    (if side.spill.isEmpty then
      word (s.setSide p n { side with spill := { side.spill with queue := [{ va := va, payload := 0, n := b.n, ack := none }] } })
    else s).portNext p n
  else if s.diverts p n b && side.spillRoom then
    let e : Spilled := { va := va, payload := (vs.head?.map (·.payload)).getD 0, n := b.n, ack := b.b.ackWord }
    match s.spillPut p n e with
    | (.wait, s1) => s1
    | (.bad _ _ _, s1) => s1.spillFault p n
    | (.ok (), s1) => (if side.spill.isEmpty then word s1 else s1).portNext p n
  else s.portStalls p n va detail vs.head?

/-- An access of an element has ended: wait, a fault that names the port, or the pattern goes on. -/
def State.portAfter (p n va : Nat) : Got Unit × State → State
  | (.wait, s) => s
  | (.bad c d _, s) => s.portBad p n c d (c.addr va)
  | (.ok (), s) => s.portNext p n

/-- An index that a binding reads from memory (R266, R267): it is translated as the elements are (R326), and a failure names the port, is never diverted
and never stalls. -/
def State.portIndex (s : State) (p n : Nat) (b : Running) : State :=
  let va := (((b.b.pat.xbase : Int) + b.b.pat.off b.n) % (2 ^ 57 : Nat)).toNat
  match State.portBytes p n (piecesOf va 4) [] s with
  | (.wait, s1) => s1
  | (.fault d a, s1) => s1.portBad p n .translation d a
  | (.bad c d a, s1) => s1.portBad p n c d (c.addr a)
  | (.ok bs, s1) => s1.setRun p n fun b => { b with elem := some (leValue bs) }

/-! ### The read side (R263) -/

/-- A header before each block of a bfp stream: its E is the byte at XBASE + b (R263), at which the port stalls when it does not translate
(R326, R331). -/
def State.portHeader (s : State) (p n : Nat) (b : Running) : State :=
  let w := (s.port p n).word
  match State.portBytes p n [((b.b.pat.xbase + b.blocks) % 2 ^ 57, 1)] [] s with
  | (.wait, s1) => s1
  | (.fault d a, s1) => s1.portStalls p n a d none
  | (.bad c d a, s1) => s1.portBad p n c d (c.addr a)
  | (.ok bs, s1) =>
    let x := s1.port p n
    let h := mkToken kHeader (headerOf (4 * 2 ^ w.bl.val) (w.bw.val + 2) (leValue bs))
    s1.setPort p n { x with queue := x.queue ++ [h],
                            run := x.run.map fun b => { b with blocks := b.blocks + 1, left := 2 ^ w.bl.val } }

/-- A token joins those of the current element. -/
def State.portPairs (s : State) (p n : Nat) (t : Token) : State := s.setRun p n fun b => { b with pair := b.pair ++ [t] }

/-- Take the index token, or the two tokens of a pair, that a gather needs (R179, R266). -/
def State.portTakeIndex (s : State) (p n : Nat) : State :=
  match s.portConst p n, s.portHead p n with
  | some (t, s1), _ => s1.portPairs p n t
  | none, none => s
  | none, some t =>
    match portTokenFault false t with
    | some c => s.portRejects p n c t 1
    | none =>
      if t.kind == kMarker then s.portMarker p n
      else if t.kind == kEos then s.portFault p n .ragged 0 0 0 none 1
      else (s.portTakes p n).portPairs p n t

/-- Tokens that a gather takes for each element. -/
def indexTokens : BindKind → Nat
  | .gather .fab _ => 1
  | .gather .pa _ => 2
  | _ => 0

/-- Read the element at an address (R261, R326). -/
def State.portReadVa (s : State) (p n va : Nat) (b : Running) : State :=
  match s.portTranslate p n va .read with
  | (.wait, s1) => s1
  | (.fault d, s1) => s1.portMisses p n va d b []
  | (.bad c d, s1) => s1.portBad p n c d (c.addr va)
  | (.ok pa cls, s1) => State.portAfter p n va (s1.portRead p n b.n va pa cls b)

/-- Read the element that an index names. -/
def State.portReadIndexed (s : State) (p n shift i : Nat) (b : Running) : State :=
  let va := b.indexedVa shift i
  if s.inFoot p b.b va then s.portReadVa p n va b else s.portBad p n .permission 0 va

/-- One element of a read-side binding, once its predicate and index tokens are there. -/
def State.portReadElement (s : State) (p n : Nat) (b : Running) : State :=
  let x := s.port p n
  if x.word.fmt == .bfp && b.left == 0 then s.portHeader p n b
  else if !portTrue x.word x.pred then s.portNext p n
  else
    match b.b.kind with
    | .gather .mem shift =>
      match b.elem with
      | none => s.portIndex p n b
      | some i => s.portReadIndexed p n shift i b
    | .gather .fab shift => s.portReadIndexed p n shift (payloadAt b.pair 0) b
    | .gather .pa _ =>
      let lo := BitVec.ofNat 32 (payloadAt b.pair 0)
      let hi := BitVec.ofNat 32 (payloadAt b.pair 1)
      match s.pairAt p lo hi with
      | .ok pa cls =>
        match s.portRead p n b.n 0 pa cls b with
        | (.wait, s1) => s1
        | (.bad c d _, s1) => (s1.setRegion p ((s1.region p).pairConsumed pa)).portBad p n c d 0
        | (.ok (), s1) => (if cls then s1 else s1.setRegion p ((s1.region p).pairConsumed pa)).portNext p n
      | .bad c d => (s.setRegion p ((s.region p).pairConsumed (pairPa lo hi))).portBad p n c d 0
      | .fault _ => s
      | .wait => s
    | _ => s.portReadVa p n ((s.region p).elementVa b) b

/-- Tokens read ahead of emission that a read port holds; a model's bound on the port's back-pressure. -/
def portAhead : Nat := 16

/-- One step of a read-side binding. -/
def State.portReadStep (s : State) (p n : Nat) (b : Running) : State :=
  let x := s.port p n
  if b.b.pat.count ≤ b.n then (if b.group + 1 < b.b.groups then s.portNextGroup p n b else s)
  else if x.posted || decide (portAhead ≤ x.queue.length) || !s.chainTurn p n then s
  else if s.cutForSave p && (s.side p n).marker && !x.fed then s
  else
    match s.portPred p n id with
    | .state s1 => s1
    | .ready => if b.pair.length < indexTokens b.b.kind then s.portTakeIndex p n else s.portReadElement p n b

/-- The conditions under which a port's binding moves: it has been admitted, nothing of it has failed, the port is not stalled and
no relatch token stands at it (R125, R328, R332). -/
def State.mayRun (s : State) (p n : Nat) (b : Running) : Bool :=
  !b.faulted && !(s.port p n).stopped && (s.side p n).stallVa.isNone && !(s.side p n).relatch &&
    (s.die (dieOfPlace p)).holdOf b.b.hold == .admitted

/-- PORT_EMIT_TOKEN (R263): a read port emits what it holds, starts the next entry of its queue, or moves its binding on. -/
def execPortEmitToken (p n : Nat) (s : State) : Out :=
  if !(s.region p).moves || !portReads (s.port p n).word then s.idle
  else
    let s1 := s.portOut p n
    let x := s1.port p n
    if !portReads x.word then .next s1
    else
      match x.run with
      | none =>
        if x.fed && (s1.portHead p n).map (·.kind) == some kMarker then .next (s1.portMarker p n)
        else .next (s1.portStart p n)
      | some b =>
        if !s1.mayRun p n b then .next s1
        else if b.idx.isNone then .next (s1.portGroup p n b)
        else .next ((s1.portReadStep p n b).portOut p n)

/-! ### The write side (R264, R268) -/

/-- A header on a write port (R37, R264): its E is written at XBASE + b. -/
def State.portTakeHeader (s : State) (p n : Nat) (b : Running) (t : Token) : State :=
  let w := (s.port p n).word
  match readHeader t.payload.toNat with
  | none => s.portRejects p n .kind t 1
  | some (l, wd, e) =>
    if b.left ≠ 0 ∨ l ≠ 4 * 2 ^ w.bl.val ∨ wd ≠ w.bw.val + 2 then s.portRejects p n .kind t 1
    else
      let va := (b.b.pat.xbase + b.blocks) % 2 ^ 57
      match s.portTranslate p n va .write with
      | (.wait, s1) => s1
      | (.fault d, s1) => s1.portStalls p n va d (some t)
      | (.bad c d, s1) => (s1.portTakes p n).portBad p n c d (c.addr va)
      | (.ok _ true, s1) => (s1.portTakes p n).portBad p n .access 0 va
      | (.ok pa false, s1) =>
        match s1.stashWrite p va pa 1 e with
        | (false, s2) => s2
        | (true, s2) =>
          let s3 := s2.portTakes p n
          let x := s3.port p n
          s3.setPort p n { x with blockE := e, run := x.run.map fun b => { b with blocks := b.blocks + 1, left := 2 ^ w.bl.val } }

/-- Tokens that one element takes on the write side. -/
def Running.tokens (b : Running) : Nat :=
  match b.b.kind with
  | .expand => 2
  | _ => b.ratio

/-- Write the value of the current element at an address. -/
def State.portWriteVa (s : State) (p n va : Nat) (b : Running) (vs : List Token) : State :=
  match s.portTranslate p n va .write with
  | (.wait, s1) => s1
  | (.fault d, s1) => s1.portMisses p n va d b vs
  | (.bad c d, s1) => s1.portBad p n c d (c.addr va)
  | (.ok pa cls, s1) => State.portAfter p n va (s1.portWrite p n b.n va pa cls b (vs.map (·.payload)))

/-- One element of a write-side binding, once its tokens are there. -/
def State.portWriteElement (s : State) (p n : Nat) (b : Running) : State :=
  let x := s.port p n
  if !s.countRoom p n then s
  else if !portTrue x.word x.pred then (s.portCount p n (b.pair.map (·.payload)) false).portNext p n
  else
    match b.b.kind with
    | .scatter shift =>
      match b.elem with
      | none => s.portIndex p n b
      | some i =>
        let va := b.indexedVa shift i
        if s.inFoot p b.b va then s.portWriteVa p n va b b.pair else s.portBad p n .permission 0 va
    | _ => s.portWriteVa p n ((s.region p).elementVa b) b b.pair

/-- A zero of an expand has been written: the access is one of its chain's rounds, and the pair taken stays (R213, R268). -/
def State.portZero (s : State) (p n : Nat) : State :=
  let x := s.port p n
  (s.setPort p n { x with round := x.round + 1, run := x.run.map fun b => { b with n := b.n + 1 } }).tileAtLast p n

/-- A write of an expand (R268): zero at every position before the coordinate taken, then the value at it, which a false predicate
passes over (R212); zeros to the end once eos has come. -/
def State.expandElement (s : State) (p n : Nat) (b : Running) (coord : Option Nat) : State :=
  if !s.countRoom p n then s
  else if coord == some b.n && !portTrue (s.port p n).word (s.port p n).pred then
    (s.portCount p n ((b.pair.drop 1).map (·.payload)) false).portNext p n
  else
    let va := (s.region p).elementVa b
    match s.portTranslate p n va .write with
    | (.wait, s1) => s1
    | (.fault d, s1) => s1.portMisses p n va d b []
    | (.bad c d, s1) => s1.portBad p n c d (c.addr va)
    | (.ok pa cls, s1) =>
      let last := coord == some b.n
      let v : Word := if last then ((b.pair[1]?).map (·.payload)).getD 0 else 0
      match s1.portWrite p n b.n va pa cls b [v] with
      | (.ok (), s2) => if last then s2.portNext p n else s2.portZero p n
      | g => State.portAfter p n va g

/-- Take one token of an element from the link (R264); a const or self operand takes none (R179). The coordinate of an expand must be
greater than the one before and below E (R268). -/
def State.portTakeData (s : State) (p n : Nat) (b : Running) : State :=
  let x := s.port p n
  let put (s1 : State) (t : Token) : State :=
    if b.b.kind == .expand && b.pair.isEmpty && (decide (t.payload.toNat < b.n) || decide (b.b.pat.count ≤ t.payload.toNat)) then
      s1.portFault p n .coordinate 0 0 t.payload.toNat (some t.kind.toNat) 1
    else s1.portPairs p n t
  match s.portConst p n, s.portHead p n with
  | some (t, s1), _ => put s1 t
  | none, none => s
  | none, some t =>
    match portTokenFault (x.word.fmt == .bfp) t with
    | some c => s.portRejects p n c t 1
    | none =>
      if t.kind == kHeader then s.portTakeHeader p n b t
      else if x.word.fmt == .bfp && b.left == 0 then s.portRejects p n .kind t 1
      else put (s.portTakes p n) t

/-- eos on a write port whose binding still has elements: an expand fills what is left with zeros, a coordinate without its value
counting for nothing; for any other the stream is ragged, and the eos is taken as the final firing (R264, R268). -/
def State.portEos (s : State) (p n : Nat) (b : Running) : State :=
  match b.b.kind with
  | .expand =>
    if b.idx.isNone then s.portGroup p n b
    else if b.b.pat.count ≤ b.n then s.portNextGroup p n b
    else if b.pair.isEmpty then (if s.chainTurn p n then s.expandElement p n b none else s)
    else s.setRun p n fun b => { b with pair := [] }
  | _ => if !s.countRoom p n then s else (s.portFault p n .ragged 0 0 0 none 1).portFinal p n

/-- One step of a write-side binding. -/
def State.portWriteStep (s : State) (p n : Nat) (b : Running) : State :=
  let left := decide (b.n < b.b.pat.count) || decide (b.group + 1 < b.b.groups)
  let head := (s.portHead p n).map (·.kind)
  if left && head == some kEos && b.pair.length < b.tokens then s.portEos p n b
  else if b.idx.isNone then s.portGroup p n b
  else if b.b.pat.count ≤ b.n then (if left then s.portNextGroup p n b else s)
  else if !s.chainTurn p n then s
  else if b.pair.length < b.tokens then
    (if s.cutForSave p && (s.side p n).marker then s
      else if head == some kMarker then s.portMarker p n
      else if b.pair.isEmpty && head != some kHeader then
        (match s.portPred p n (fun s => s.portFinal p n) with
          | .state s1 => s1
          | .ready => s.portTakeData p n b)
      else s.portTakeData p n b)
  else
    match b.b.kind with
    | .expand => s.expandElement p n b (some (payloadAt b.pair 0))
    | _ => s.portWriteElement p n b

/-- What a write-side port does when no binding runs: it starts the next entry of its queue, or takes eos or a marker (R264). A port
cell without counted inputs ends with its step. -/
def State.portIdle (s : State) (p n : Nat) : State :=
  let x := s.port p n
  let s1 := s.portStart p n
  if (s1.port p n).run.isSome || x.stopped || x.closing then s1
  else
    match (s.portHead p n).map (·.kind) with
    | some k => if k == kEos then s1.portFinal p n else if k == kMarker then s1.portMarker p n else s1
    | none =>
      if (countedInputs x.word).isEmpty && (s.region p).quiet x.step && (s.side p n).queue.isEmpty then
        if !s1.countRoom p n then s1 else (s1.endPortTile p n).portEnds p n
      else s1

/-- One event of a write-side port. -/
def State.portWriteEvent (s : State) (p n : Nat) (mine : CellWord → Bool) : Out :=
  if !(s.region p).moves || !mine (s.port p n).word then s.idle
  else
    let s1 := s.portOut p n
    let x := s1.port p n
    if !mine x.word then .next s1
    -- a firing of mamo needs its result latch free (R177)
    else if x.word.op == .mamo && x.selectsResult n && !x.queue.isEmpty then .next s1
    else
      match x.run with
      | none => .next (s1.portIdle p n)
      | some b => if s1.mayRun p n b then .next ((s1.portWriteStep p n b).portOut p n) else .next s1

/-- PORT_TAKE_TOKEN (R264): a write port of mst or mov. -/
def execPortTakeToken (p n : Nat) (s : State) : Out :=
  s.portWriteEvent p n fun w => w.op == .mst || (w.op == .mov && !movReads w)
/-- MAMO_ACCESS (R212): a mamo port. -/
def execMamoAccess (p n : Nat) (s : State) : Out := s.portWriteEvent p n fun w => w.op == .mamo

/-! ### The end of a binding (R126, R261, R385) -/

/-- Write back stash lines that a binding wrote; each stays leased (R126, R287; log entry 17). -/
def State.writeBackLines (s : State) (p : Nat) (lines : List Nat) : State :=
  let r := s.region p
  let mine (l : StashLine) : Bool := l.dirty && lines.contains l.line
  let out := r.stash.filter mine
  let r' := { r with stash := r.stash.map (fun l => if mine l then { l with dirty := false, owned := false } else l),
                     wbOut := r.wbOut + out.length }
  (out.reverse).foldl (fun s l => s.post (keyMem p) (.writeBack p l)) (s.setRegion p r')

/-- Whether no line of a list is dirty or on its way home. -/
def State.linesHome (s : State) (p : Nat) (lines : List Nat) : Bool :=
  let r := s.region p
  lines.isEmpty || (r.wbOut == 0 && !r.stash.any fun l => l.dirty && lines.contains l.line)

/-- BINDING_COMPLETE (R126, R261, R385): every element has been read or has reached its home; the handle advances, the graph is
released, the holder completes with the region's clock, and a read side with ENDS emits eos. -/
def execBindingComplete (p n : Nat) (s : State) : Out :=
  let x := s.port p n
  match x.run with
  | none => s.idle
  | some b =>
    if !(s.region p).moves || b.faulted || x.stopped || b.idx.isNone || decide (b.n < b.b.pat.count)
        || decide (b.group + 1 < b.b.groups) || !b.pair.isEmpty || !s.portQuiet p n b || !s.portClear p n then s.idle
    else if !s.linesHome p b.lines then .next (s.writeBackLines p b.lines)
    else
      let k := match b.b.gate with
        | .slot => 1 | .whole => b.b.slots | _ => 0
      let (ok, s1) := if k = 0 then (true, s) else s.portAdvance p n b k
      if !ok then .next s1
      else
        let s0 := ((s1.endGraph b.ctxNo).endPortTile p n).dropBinding p n b.b
        let s2 := if (s0.region p).dropsSpills n then s0.setSide p n { s0.side p n with spill := Spillway.empty } else s0
        let y := s2.port p n
        let q := if b.b.ends then y.queue ++ [eosToken] else y.queue
        .next (s2.setPort p n { y with run := none, queue := q })

/-! ### xlat and msgout (R214 to R216) -/

/-- The translation of an xlat cell: its four latches, its windows, the region TLB, a walk (R214, R316, R327): where it leads, and whether
the ASID may write there. -/
def State.xlatPage (s : State) (p n va : Nat) : PortAt × Bool × State :=
  let side := s.side p n
  let asid := (s.region p).asid
  let check (s : State) (pa : Nat) (wr cls : Bool) : PortAt × Bool × State :=
    (if s.protectedPa pa then .bad .permission 0 else .ok pa cls, wr, s)
  match cacheFind side.xlatches asid va, side.windows.find? (·.holds va) with
  | some e, _ => check s (e.pa va) e.wr e.clsW
  | none, some w => check s (w.pbase + (va - w.recd.base)) w.wr w.clsW
  | none, none =>
    match s.translateRegion p asid va with
    | (.page e, s1) =>
      let x := s1.side p n
      check (if (s1.die (dieOfPlace p)).mayLatch e then s1.setSide p n { x with xlatches := cacheAdd x.xlatches 4 e } else s1) (e.pa va) e.wr e.clsW
    | (.fault r l, s1) => (.fault (transDetail r l), false, s1)
    | (.poison _, s1) => (.bad .soft 0, false, s1)
    | (.table _, s1) => (.wait, false, s1)

/-- The tokens of a pair. -/
def pairTokens (pa : Nat) (wr cw : Bool) (chk : BitVec 10) : List Token :=
  [mkToken kData (pa % 2 ^ 32),
   mkToken kLast (pa / 2 ^ 32 % 2 ^ 20 + (if wr then 2 ^ 20 else 0) + (if cw then 2 ^ 21 else 0) + chk.toNat * 2 ^ 22)]

/-- Translate the pair that an xlat cell has taken. A poisoned table line faults at the port (R322). -/
def State.xlatPair (s : State) (p n : Nat) (lo hi : Word) : State :=
  let va := lo.toNat + hi.toNat % 2 ^ 25 * 2 ^ 32
  let emit (s : State) (ts : List Token) : State :=
    let x := s.port p n
    let self := match ts.getLast? with
      | some t => if t.kind == kLast then 0 else t.payload
      | none => x.self
    s.setPort p n { x with held := [], queue := x.queue ++ ts, self := self }
  let bad : Token := { kind := kFault, payload := lo, cause := BitVec.ofNat 8 Cause.translation.code }
  if hi.toNat / 2 ^ 25 ≠ 0 then emit s [bad]
  else
    match s.xlatPage p n va with
    | (.ok pa cls, wr, s1) =>
      let side := s1.side p n
      emit (s1.setSide p n { side with pairs := { step := (s1.port p n).step, va := va, pa := pa } :: side.pairs })
        (pairTokens pa wr cls (s1.chkOf pa wr cls (s1.region p).asid))
    | (.bad .soft _, _, s1) =>
      let x := s1.port p n
      (s1.setPort p n { x with held := [], stopped := true }).portFault p n .soft 0 0 0 none 0
    | (.wait, _, s1) => s1
    | (_, _, s1) => emit s1 [bad]

/-- The pair that an xlat cell holds, once it is whole, is translated; it stays while its walk goes on. -/
def State.xlatGo (s : State) (p n : Nat) : State :=
  match (s.port p n).held with
  | a :: t :: _ => (s.xlatPair p n a.payload t.payload).portOut p n
  | _ => s

/-- A token of a pair reaches an xlat cell and is held. -/
def State.xlatTakes (s : State) (p n : Nat) (t : Token) : State :=
  let x := s.port p n
  (s.setPort p n { x with held := x.held ++ [t] }).xlatGo p n

/-- XLAT_TRANSLATE (R214). -/
def execXlatTranslate (p n : Nat) (s : State) : Out :=
  if !(s.region p).moves || (s.port p n).word.op != .xlat then s.idle
  else
    let s1 := s.portOut p n
    let x := s1.port p n
    if x.word.op != .xlat || x.stopped || x.closing || !x.queue.isEmpty || (s1.side p n).relatch then .next s1
    else if 2 ≤ x.held.length then .next (s1.xlatGo p n)
    else
      match s1.portConst p n, s1.portHead p n with
      | some (t, s2), _ => .next (if (s.region p).quiet x.step then s1.setPort p n { x with queue := [eosToken] } else s2.xlatTakes p n t)
      | none, none => .next s1
      | none, some t =>
        match portTokenFault false t with
        | some c => .next (s1.portRejects p n c t 1)
        | none =>
          if t.kind == kEos then
            let s2 := s1.portTakes p n
            .next ((s2.setPort p n { s2.port p n with held := [], queue := [eosToken] }).portOut p n)
          else if t.kind == kMarker then .next ((s1.portMarker p n).portOut p n)
          else .next ((s1.portTakes p n).xlatTakes p n t)

/-- Message words from tokens: word i from tokens 2i and 2i + 1. -/
def wordsOfTokens : List Token → List DWord
  | a :: b :: t => BitVec.ofNat 64 (a.payload.toNat + b.payload.toNat * 2 ^ 32) :: wordsOfTokens t
  | _ => []

/-- MSGOUT_POST (R216): a msgout port collects a burst and posts it, once its port is bound and the inbox has room. -/
def execMsgoutPost (p n : Nat) (s : State) : Out :=
  let x := s.port p n
  if !(s.region p).moves || x.word.op != .msgout || x.stopped || x.ended then s.idle
  else if (x.held.getLast?.map (·.kind)) == some kLast then
    let k := x.held.length
    if k % 2 = 1 ∨ k < 6 ∨ 24 < k then
      .next ((s.setPort p n { x with held := [], stopped := true }).portFault p n .message 0 0 0 none 0)
    else
      match (s.side p n).cls with
      | none => s.idle
      | some c =>
        if s.inboxRoom p c then .next ((s.setPort p n { x with held := [] }).postEngine p (keyOut p n) c (wordsOfTokens x.held) none) else s.idle
  else
    match s.portConst p n, s.portHead p n with
    | some (t, s1), _ =>
      if (s.region p).quiet x.step then .next ((s.setPort p n { x with ended := true }).advanceNode p (portNode n))
      else if 24 < x.held.length then s.idle
      else .next (s1.setPort p n { x with held := x.held ++ [t] })
    | none, none => s.idle
    | none, some t =>
      match portTokenFault false t with
      | some c => .next (s.portRejects p n c t 1)
      | none =>
        if t.kind == kEos then .next ((s.setPort p n { x with held := [] }).portFinal p n)
        else if t.kind == kMarker then .next (s.portMarker p n)
        else if 24 < x.held.length && t.kind != kLast then .next (s.portTakes p n)
        else
          let s1 := s.portTakes p n
          .next (s1.setPort p n { s1.port p n with held := x.held ++ [t] })

/-! ### Retries (R333) -/

/-- Whether another element of a port's binding is ready. -/
def State.portReady (s : State) (p n : Nat) (b : Running) : Bool :=
  (s.side p n).stallVa.isNone && decide (b.n < b.b.pat.count) &&
    ((portReads (s.port p n).word && !(s.port p n).fed) || (s.portHead p n).isSome || !b.pair.isEmpty)

/-- Perform a spilled element at its address. -/
def State.replayAt (s : State) (p n pa : Nat) (cls : Bool) (b : Running) (e : Spilled) : Got Unit × State :=
  if b.b.kind.reads then s.portRead p n e.n e.va pa cls b
  else if !s.countRoom p n then (.wait, s)
  else s.portWrite p n e.n e.va pa cls b [e.payload] true

/-- SPILLWAY_RETRY (R333, R334): the spillway's queue is refilled from its ring, or its head is retried when that is due; a retry that
fails leaves the entry where it stands. -/
def execSpillwayRetry (p n : Nat) (s : State) : Out :=
  let side := s.side p n
  match (s.port p n).run with
  | none => s.idle
  | some b =>
    if !(s.region p).moves || b.faulted || (s.port p n).posted || side.relatch || (s.region p).dropsSpills n then s.idle
    else if side.spill.count ≠ 0 ∧ side.spill.queue.length < 64 then
      match s.spillRefill p n with
      | (.bad _ _ _, s1) => .next (s1.spillFault p n)
      | (_, s1) => .next s1
    else
      match side.spill.queue with
      | [] => s.idle
      | e :: rest =>
        let due := if side.spill.retryAt = 0 then decide (side.spill.since + s.cyclesAt p 1024 ≤ s.tide) || !s.portReady p n b
          else decide (side.spill.retryAt ≤ s.tide)
        if !due then s.idle
        else
          match s.portTranslate p n e.va (if b.b.kind.reads then .read else .write) with
          | (.wait, s1) => .next s1
          | (.fault _, s1) =>
            let x := s1.side p n
            .next (s1.setSide p n { x with spill := { x.spill with retryAt := s.tide + s.cyclesAt p 1024 } })
          | (.bad c d, s1) => .next (s1.portBad p n c d (c.addr e.va))
          | (.ok pa cls, s1) =>
            match s1.replayAt p n pa cls b e with
            | (.wait, s2) => .next s2
            | (.bad c d _, s2) => .next (s2.portBad p n c d (c.addr e.va))
            | (.ok (), s2) =>
              let x := s2.side p n
              .next (s2.setSide p n { x with spill := { x.spill with queue := rest, since := s.tide, retryAt := 0 } })

/-- STALLED_PORT_RETRY (R333): once in every 1,024 cycles the element at which a port stalls walks afresh; when it translates it is
performed. -/
def execStalledPortRetry (p n : Nat) (s : State) : Out :=
  let side := s.side p n
  match (s.port p n).run, side.stallVa with
  | some b, some va =>
    if !(s.region p).moves || b.faulted || side.relatch || decide (s.tide < side.stallAt) then s.idle
    else
      match s.portTranslate p n va (if b.b.kind.reads then .read else .write) with
      | (.wait, s1) => .next s1
      | (.fault _, s1) => .next (s1.setSide p n { s1.side p n with stallAt := side.stallAt + s.cyclesAt p 1024 })
      | (_, s1) =>
        let s2 := s1.setSide p n { s1.side p n with stallVa := none }
        if b.b.kind.reads then .next (s2.portReadStep p n b) else .next (s2.portWriteStep p n b)
  | _, _ => s.idle

/-! ### Relatches (R282, R328) -/

/-- Whether a port acts on a relatch token: it is a configured port cell, other than msgout, or an xlat cell that has ended while pairs of
it may still stand in the fabric. -/
def Port.relatches (x : Port) : Bool := (!x.ended || x.word.op == .xlat) && x.word.op != .msgout

/-- The latches of a port after a relatch of a range: none holds a page of it (R328). -/
def PortSide.relatched (x : PortSide) (base size : Nat) : PortSide :=
  { x with
    windows := x.windows.map fun w => if rangesMeet w.recd.base w.recd.len base size then { w with active := false } else w,
    latch := match x.latch with
      | some e => if e.meets base size then none else some e
      | none => none,
    xlatches := x.xlatches.filter fun e => !e.meets base size }

/-- The token of a relatch has emerged from a port; the word is sent when it has emerged from every one (R282). -/
def State.relatchEmerges (s : State) (p n : Nat) : State :=
  let d := dieOfPlace p
  let s1 := s.setSide p n { s.side p n with relatch := false }
  let x := s1.die d
  match x.relatch with
  | none => s1
  | some op =>
    let left := op.left.filter (· != 32 * p + n)
    if !left.isEmpty then s1.setDie d { x with relatch := some { op with left := left } }
    else
      let s2 := s1.setDie d { x with relatch := none }
      match op.ch with
      | none => s2
      | some ch => s2.post (keyChan op.p) (.chanWord op.p 4 d ch (BitVec.ofNat 64 op.base) (s2.region op.p).lclk (s2.region op.p).asid)

/-- Whether a pair of a virtual address in a range, emitted by the xlat at a port, is still to be consumed (R328; log entry 48). -/
def State.pairsLeft (s : State) (p n base size : Nat) : Bool :=
  (s.side p n).pairs.any fun x => decide (base ≤ x.va) && decide (x.va < base + size) && s.pairLives p x

/-- Whether a relatch token enters a port: one of a region that stands on the die, and of a saved one an xlat with pairs still to be
consumed. -/
def State.relatchEnters (s : State) (p n base size : Nat) : Bool :=
  let x := s.port p n
  x.relatches && (decide (p < 256) || (x.word.op == .xlat && s.pairsLeft p n base size))

/-- The command RELATCH (R282): a token enters every port of every region of the die under the ASID, and from then on no latch of the
die loads a page of the range before an invalidation (R330). One relatch runs on a die at a time. -/
def execRelatch (asid : BitVec 16) (base : BitVec 57) (log : BitVec 6) (rv : Bool) (rch : BitVec 8) (s : State) : Out :=
  let p := s.cur.1
  let d := dieOfPlace p
  let x := s.die d
  if x.relatch.isSome then s.stall
  else
    let size := 2 ^ (log.toNat + 12)
    let s0 := s.popCommand p
    let held := (asid, base.toNat, size)
    let y := s0.die d
    let s1 := s0.setDie d { y with noLatch := if y.noLatch.contains held then y.noLatch else held :: y.noLatch }
    let targets : List (Nat × Nat) := (s1.regions.filter fun e => dieOfPlace e.1 == d && e.2.asid == asid && e.2.modeUnder != .free).flatMap
      fun e => (e.2.ports.filter fun q => s1.relatchEnters e.1 q.1 base.toNat size).map fun q => (e.1, q.1)
    let ch := if rv then some rch.toNat else none
    if targets.isEmpty then
      match ch with
      | none => .next s1
      | some c => .next (s1.post (keyChan p) (.chanWord p 4 d c (base.setWidth 64) (s1.region p).lclk (s1.region p).asid))
    else
      let op : RelatchOp := { asid := asid, base := base.toNat, log := log.toNat, left := targets.map fun t => 32 * t.1 + t.2, p := p, ch := ch }
      .next (targets.foldl (fun s t => s.setSide t.1 t.2 { s.side t.1 t.2 with relatch := true }) (s1.setDie d { s1.die d with relatch := some op }))

/-- RELATCH_TOKEN_AT_PORT (R328): the port drops what it has latched of the range; the token emerges once every access translated
before it has been performed, or for xlat once every pair in the range has been consumed. -/
def execRelatchTokenAtPort (p n : Nat) (s : State) : Out :=
  let side := s.side p n
  match (s.die (dieOfPlace p)).relatch with
  | none => s.idle
  | some op =>
    if !side.relatch then s.idle
    else
      let size := 2 ^ (op.log + 12)
      let s1 := s.setSide p n (side.relatched op.base size)
      let x := s1.port p n
      let out := match x.run with
        | some b => b.outstanding
        | none => 0
      if x.posted || out != 0 || s1.pairsLeft p n op.base size then .next s1 else .next (s1.relatchEmerges p n)

end Sys2Proof.Machine
end

