-- ==== Sys2Proof/Machine/Engines.lean ====
section
/-! DEFINITION. The inboxes of the engines, the copy engines, weir jobs and record jobs (R122 to R127, R311 to R315, R337 to R339,
R350, R353). -/
namespace Sys2Proof.Machine

/-! ### Arrival (R122, R124, R311, R314, R353, R401) -/

/-- The numbers of operands that a job takes: none for a reserved opcode. -/
def opcodeNops (c : EngClass) (opc : Nat) : List Nat :=
  match c with
  | .copy => if opc = 1 then [1, 2] else if opc = 2 then [3] else if opc = 3 then [2] else []
  | .weir => if opc = 5 ∨ opc = 8 ∨ opc = 9 ∨ opc = 10 then [2] else []
  | .cascade => if opc = 1 then [2] else if 2 ≤ opc ∧ opc ≤ 4 then [1, 2] else if opc = 5 ∨ opc = 6 then [3] else []
  | .sluice => if opc = 1 then [1, 2] else []

/-- The checks that every engine makes of a message. -/
def EngMsg.wellFormed (m : EngMsg) : Bool :=
  let w0 := m.words.headD 0
  let nfp := msgNfp w0
  let entries := 4 * ((nfp + 3) / 4)
  replyWordOk (m.words.getD 1 0) && decide (3 ≤ m.words.length) && decide (m.words.length = msgLength w0) &&
    decide (w0.toNat / 2 ^ 52 % 16 = 0) && decide (w0.toNat / 2 ^ 32 % 2 ^ 12 = 0) && decide (nfp ≤ 8) && decide (m.nop ≤ 8) &&
    ((List.range entries).all fun i => if i < nfp then decide (cardEntry m.words i % 256 = 0) else decide (cardEntry m.words i = 0)) &&
    decide (m.foots.length = nfp) && (opcodeNops m.cls m.opc).contains m.nop

/-- A message that is refused: an engine-fault reply of status 0x01, or the fault file of the sender's region (R124). -/
def State.refuseMessage (s : State) (d : Nat) (m : EngMsg) : State := s.replyNow d m 0x01 m.clk

/-- A message that is taken stands in the inbox of its class. -/
def State.enterInbox (s : State) (d : Nat) (m : EngMsg) : State :=
  let x := s.die d
  match m.cls with
  | .copy => s.setDie d { x with copyIn := x.copyIn ++ [m] }
  | .weir => s.setDie d { x with weirIn := x.weirIn ++ [m] }
  | .sluice => s.setDie d { x with inbox := x.inbox ++ [m] }
  | .cascade => { s with well := { s.well with inbox := s.well.inbox ++ [m] } }

/-- ENGINE_MESSAGE_ARRIVE (R122, R124): a message reaches the inbox of its class, and is refused there or waits for its admission. -/
def execEngineMessageArrive (m : Nat) (s : State) : Out :=
  match s.ready m with
  | some (.engine e) =>
    let s0 := s.unpost m
    if !e.wellFormed then .next (s0.refuseMessage e.die e)
    else if (s0.die e.die).holdOf e.hold == .dropped then .next (s0.endDropped e.die e)
    else .next ((s0.enterInbox e.die e).giveJobs e.die)
  | _ => s.idle

/-! ### Jobs -/

/-- Whether a card allows an access; a job without a card is checked against no footprint (R76). -/
def EngMsg.covers (m : EngMsg) (va n : Nat) (write : Bool) : Bool :=
  !m.carded || m.foots.any fun f =>
    decide (f.base ≤ va) && decide (va + n ≤ f.base + f.len) && bit f.acc (if write then 1 else 0)

/-- The status of a failure (R315). -/
def statusOf (c : Cause) : Nat :=
  match c with
  | .translation => 0x04 | .permission => 0x05 | .soft => 0x08 | _ => 0x06

/-- What a word of a job does: it is done under a clock with the value read, it waits, or it fails. -/
inductive Word4
  | done (v : Nat) (clk : DWord)
  | wait
  | bad (status : Nat)

/-- Read n bytes of a job at a home in another package (R283): it waits for the answer. -/
def State.engFar (s : State) (j : Job) (pa : Nat) (op : AwayOp) : Word4 × State :=
  match s.farFound noRegion j.who pa op with
  | some (v, c, bad) => (if bad.isSome then .bad 0x08 else .done v (maxClk j.clk c), s)
  | none => (.wait, s.farAsk noRegion j.who pa op j.clk)

/-- Read a word of a job (R313). -/
def State.jobRead (s : State) (d : Nat) (j : Job) (va : Nat) : Word4 × State :=
  if !j.msg.covers va 4 false then (.bad 0x03, s)
  else
    match s.engAt d j.msg.asid va .read with
    | (.bad c, s1) => (.bad (statusOf c), s1)
    | (.at pa clsW, s1) =>
      if hostBit pa then (.done (Memory.readLE s1.mem pa 4) j.clk, s1)
      else if s1.elsewhere pa then s1.engFar j pa (if clsW then .element none else .read 4)
      else if clsW then
        if s1.updatePending pa then (.wait, s1)
        else if s1.homePoisoned (lineOf pa) then (.bad 0x08, s1)
        else (.done (Memory.readLE s1.mem pa 4) j.clk, s1)
      else
        match s1.engRead pa 4 j.clk with
        | (none, s2) => (.bad 0x08, s2)
        | (some (v, c), s2) => (.done v c, s2)

/-- Write a word of a class W page through the update pipeline of its array, with no graph (R284, R300). -/
def State.weirWord (s : State) (pa v : Nat) (clk : DWord) : Word4 × State :=
  if s.updatePending pa then (.wait, s)
  else if s.homePoisoned (lineOf pa) then (.bad 0x08, s)
  else (.done 0 clk, { s with mem := Memory.writeLE s.mem pa 4 v })

/-- Write a word of a copy or fill job (R313). -/
def State.jobWrite (s : State) (d : Nat) (j : Job) (va v : Nat) (clk : DWord) : Word4 × State :=
  if !j.msg.covers va 4 true then (.bad 0x03, s)
  else
    match s.engAt d j.msg.asid va .write with
    | (.bad c, s1) => (.bad (statusOf c), s1)
    | (.at pa clsW, s1) =>
      if hostBit pa then (.done 0 clk, { s1 with mem := Memory.writeLE s1.mem pa 4 v })
      else if s1.elsewhere pa then
        (.done 0 clk, s1.engPut j pa (if clsW then .element (some (BitVec.ofNat 32 v)) else .write 4 v true) clk)
      else if clsW then s1.weirWord pa v clk
      else
        match s1.engWrite pa 4 v clk with
        | (none, s2) => (.bad 0x08, s2)
        | (some c, s2) => (.done 0 c, s2)

/-- The largest address of the virtual address space, and the field of an operand above it. -/
def vaTop : Nat := 2 ^ 57

/-! ### The copy engines (R311 to R313) -/

/-- The queue of a copy engine. -/
def Die.engineQueue (d : Die) (e : Nat) : List Job := Tbl.look d.copyEng e []
def Die.setEngineQueue (d : Die) (e : Nat) (q : List Job) : Die := { d with copyEng := Tbl.put d.copyEng e q }

/-- Replace the job at the head of a copy engine. -/
def State.setCopyJob (s : State) (d e : Nat) (j : Job) : State :=
  let x := s.die d
  s.setDie d (x.setEngineQueue e (j :: (x.engineQueue e).drop 1))

/-- The job at the head of a copy engine ends with a status: its reply is sent and its holder completes, or the engine holds the reply
until its channel has room (R126, R170). -/
def State.endCopy (s : State) (d e : Nat) (j : Job) (status : Nat) : State :=
  match s.engEnd j status 0x08 with
  | none => s.setCopyJob d e { j with reply := some status }
  | some (st, clk, s0) =>
  match s0.reply d j.msg st clk with
  | .full => s0.setCopyJob d e { j with reply := some st, clk := clk }
  | .sent s1 =>
    let x := s1.die d
    let s2 := s1.setDie d (x.setEngineQueue e ((x.engineQueue e).drop 1))
    let s3 := match j.msg.hold with
      | some id => s2.completeHolder d id clk
      | none => s2
    s3.giveJobs d

/-- The range checks of a copy or a fill (R313). `src` is none for a fill. -/
def rangesBad (src : Option Nat) (dst len : Nat) : Bool :=
  decide (len = 0) || decide (len % 4 ≠ 0) || decide (dst % 4 ≠ 0) || decide (vaTop ≤ dst + len - 1) ||
    (match src with
      | none => false
      | some a => decide (a % 4 ≠ 0) || decide (vaTop ≤ a + len - 1) || (decide (a < dst + len) && decide (dst < a + len)))

/-- A copy descriptor (R312): source, destination and length, or a reserved bit set. -/
def copyDescriptor (n : Nat) : Option (Nat × Nat × Nat) :=
  if fld n 160 96 ≠ 0 ∨ fld n 121 7 ≠ 0 ∨ fld n 57 7 ≠ 0 then none else some (fld n 0 57, fld n 64 57, fld n 128 32)

/-- The job at the head of an engine begins with its operands, or ends. -/
def State.startCopy (s : State) (d e : Nat) (j : Job) (src : Option Nat) (dst len : Nat) : State :=
  if rangesBad src dst len then s.endCopy d e j 0x02
  else s.setCopyJob d e { j with args := some (src.getD 0, dst, len) }

/-- The operands of COPY: a descriptor, read once at its home under the job clock (R312). -/
def State.readDescriptor (s : State) (d e : Nat) (j : Job) : State :=
  let va := j.msg.opnd 0
  if va / vaTop ≠ 0 ∨ (j.msg.nop = 2 ∧ j.msg.opnd 1 ≠ 0) then s.endCopy d e j 0x01
  else if va % 32 ≠ 0 then s.endCopy d e j 0x02
  else
    match s.engAt d j.msg.asid va .read with
    | (.bad c, s1) => s1.endCopy d e j (statusOf c)
    | (.at pa clsW, s1) =>
      if clsW || hostBit pa then s1.endCopy d e j 0x06
      else if s1.elsewhere pa then
        match s1.engFar j pa (.read 32) with
        | (.wait, s2) => s2
        | (.bad st, s2) => s2.endCopy d e j st
        | (.done v c, s2) =>
          match copyDescriptor v with
          | none => s2.endCopy d e { j with clk := c } 0x01
          | some (src, dst, len) => (s2.engUsed j).startCopy d e { j with clk := c } (some src) dst len
      else
        match s1.engRead pa 32 j.clk with
        | (none, s2) => s2.endCopy d e j 0x08
        | (some (v, c), s2) =>
          match copyDescriptor v with
          | none => s2.endCopy d e { j with clk := c } 0x01
          | some (src, dst, len) => s2.startCopy d e { j with clk := c } (some src) dst len

/-- Read the next source word, or the word that fills. -/
def State.sourceWord (s : State) (d : Nat) (j : Job) (src : Nat) : Word4 × State :=
  if j.msg.opc = 3 then (.done (j.msg.opnd 1 % 2 ^ 32) j.clk, s) else s.jobRead d j (src + 4 * j.pos)

/-- The next word of the job at the head of an engine, or its end. -/
def State.copyWord (s : State) (d e : Nat) (j : Job) (src dst len : Nat) : State :=
  if len ≤ 4 * j.pos then s.endCopy d e j 0x00
  else
    match s.sourceWord d j src with
    | (.wait, s1) => s1
    | (.bad st, s1) => s1.endCopy d e j st
    | (.done v c, s1) =>
      match s1.jobWrite d j (dst + 4 * j.pos) v c with
      | (.wait, s2) => s2
      | (.bad st, s2) => s2.endCopy d e { j with clk := c } st
      | (.done _ c2, s2) => (s2.engUsed j).setCopyJob d e { j with clk := c2, pos := j.pos + 1 }

/-- One step of the job at the head of a copy engine, when it is of an opcode. -/
def State.copyStep (s : State) (d e opc : Nat) (operands : Job → State) : Out :=
  match ((s.die d).engineQueue e).head? with
  | none => s.idle
  | some j =>
    if j.msg.opc ≠ opc then s.idle
    else
      match j.reply, j.args with
      | some st, _ => .next (s.endCopy d e j st)
      | none, none => .next (operands j)
      | none, some (src, dst, len) => .next (s.copyWord d e j src dst len)

/-- COPY (R311 to R313). -/
def execCopy (d e : Nat) (s : State) : Out := s.copyStep d e 1 fun j => s.readDescriptor d e j

/-- COPYI (R311, R313). -/
def execCopyi (d e : Nat) (s : State) : Out :=
  s.copyStep d e 2 fun j =>
    let m := j.msg
    if m.opnd 0 / vaTop ≠ 0 ∨ m.opnd 1 / vaTop ≠ 0 ∨ m.opnd 2 / 2 ^ 32 ≠ 0 then s.endCopy d e j 0x01
    else s.startCopy d e j (some (m.opnd 0)) (m.opnd 1) (m.opnd 2)

/-- FILL (R311, R313). -/
def execFill (d e : Nat) (s : State) : Out :=
  s.copyStep d e 3 fun j =>
    let m := j.msg
    if m.opnd 0 / vaTop ≠ 0 then s.endCopy d e j 0x01 else s.startCopy d e j none (m.opnd 0) (m.opnd 1 / 2 ^ 32)

/-! ### Weir jobs (R314) -/

/-- Replace the weir job at a position. -/
def State.setWeirJob (s : State) (d i : Nat) (j : Job) : State :=
  let x := s.die d
  s.setDie d { x with weirJobs := replaceAt x.weirJobs i j }

/-- A job holds its reply until the channel has room, behind the jobs that have held theirs longer (R170). -/
def State.holdWeirJob (s : State) (d i : Nat) (j : Job) (status : Nat) : State :=
  let x := s.die d
  if j.reply.isSome then s else s.setDie d { x with weirJobs := removeAt x.weirJobs i ++ [{ j with reply := some status }] }

/-- Whether a reply for a channel waits behind another: one that is held goes after those before it, another after all of them. -/
def State.weirReplyWaits (s : State) (d i : Nat) (j : Job) : Bool :=
  let js := (s.die d).weirJobs
  j.msg.toChannel && (if j.reply.isSome then js.take i else js).any (·.reply.isSome)

/-- A weir job ends with a status. -/
def State.endWeirJob (s : State) (d i : Nat) (j : Job) (status : Nat) : State :=
  match (if s.weirReplyWaits d i j then none else s.engEnd j status 0x08) with
  | none => s.holdWeirJob d i j status
  | some (st, clk, s0) =>
    match s0.reply d j.msg st clk with
    | .full => s.holdWeirJob d i j status
    | .sent s1 =>
      let x := s1.die d
      let s2 := s1.setDie d { x with weirJobs := removeAt x.weirJobs i }
      match j.msg.hold with
      | some id => s2.completeHolder d id clk
      | none => s2

/-- One step of a weir job of an opcode; one that holds its reply tries again to send it. -/
def State.weirJob (s : State) (d i opc : Nat) (f : Job → State) : Out :=
  match (s.die d).weirJobs[i]? with
  | none => s.idle
  | some j =>
    if j.msg.opc ≠ opc then s.idle
    else
      match j.reply with
      | some st => .next (s.endWeirJob d i j st)
      | none => .next (f j)

/-- WSET (R314): each word is translated as it is reached; a class C page ends the job. -/
def execWset (d i : Nat) (s : State) : Out :=
  s.weirJob d i 5 fun j =>
    let va := j.msg.opnd 0
    let v := j.msg.opnd 1 % 2 ^ 32
    let len := j.msg.opnd 1 / 2 ^ 32
    if va / vaTop ≠ 0 then s.endWeirJob d i j 0x01
    else if rangesBad none va len then s.endWeirJob d i j 0x02
    else if len ≤ 4 * j.pos then s.endWeirJob d i j 0x00
    else
      let a := va + 4 * j.pos
      if !j.msg.covers a 4 true then s.endWeirJob d i j 0x03
      else
        match s.engAt d j.msg.asid a .write with
        | (.bad c, s1) => s1.endWeirJob d i j (statusOf c)
        | (.at pa clsW, s1) =>
          if !clsW || hostBit pa then s1.endWeirJob d i j 0x06
          else
            match s1.weirWord pa v j.clk with
            | (.wait, s2) => s2
            | (.bad st, s2) => s2.endWeirJob d i j st
            | (.done _ _, s2) => s2.setWeirJob d i { j with pos := j.pos + 1 }

/-! ### Record jobs (R338, R339, R350, R353, R354) -/

/-- A half of a record as a number of 160 bytes. -/
def halfValue (h : List Nat) : Nat := ((halfWords h).reverse).foldl (fun n w => n * 2 ^ 32 + w % 2 ^ 32) 0

/-- A record's entry (R338), as a number of 256 bytes. -/
def GaugeRec.entry (g : GaugeRec) : Nat :=
  halfValue g.sealed + g.gen.toNat * 2 ^ 1280 + g.scale.toNat * 2 ^ 1312 + g.clip.toNat * 2 ^ 1344 + g.satth.toNat * 2 ^ 1376 +
    g.margin.toNat * 2 ^ 1408 + g.autoSeal.toNat * 2 ^ 1416 + g.clearLive.toNat * 2 ^ 1417 + g.rsc.toNat * 2 ^ 1418 +
    g.psn.toNat * 2 ^ 1419 + g.asid.toNat * 2 ^ 1440 + g.sealTide.toNat * 2 ^ 1472

/-- What GREAD writes: the entry, then the live half, then zeros. -/
def GaugeRec.image512 (g : GaugeRec) : List Byte := leBytes 512 (g.entry + halfValue g.live * 2 ^ 2048)

/-- Whether an f32 pattern is finite and non-negative. -/
def clipOk (v : Nat) : Bool := decide (v / 2 ^ 23 % 256 ≠ 255) && (decide (v / 2 ^ 31 = 0) || decide (v % 2 ^ 31 = 0))

/-- The checks of a record job that come before its access: its status, or the record. -/
def State.recordCheck (s : State) (m : EngMsg) (reserved : Bool) (clip : Nat) : Except Nat GaugeRec :=
  let g := s.record (m.opnd 0 % 2 ^ 20)
  if reserved then .error 0x01
  else if !g.alloc || g.asid != m.asid || !clipOk clip then .error 0x07
  else if g.psn then .error 0x08
  else .ok g

/-- Translate the eight lines of GREAD's buffer. -/
def State.bufferLines (d : Nat) (asid : BitVec 16) : List Nat → List Nat → State → Except Nat (List Nat) × State
  | [], acc, s => (.ok acc.reverse, s)
  | va :: t, acc, s =>
    match s.engAt d asid va .write with
    | (.bad c, s1) => (.error (statusOf c), s1)
    | (.at pa clsW, s1) => if clsW || hostBit pa then (.error 0x06, s1) else State.bufferLines d asid t (pa :: acc) s1

/-- Write whole lines at their homes under a job clock (R292). -/
def State.writeLines (s : State) (j : Job) (pas : List Nat) (bs : List Byte) (clk : DWord) : DWord × State :=
  let (_, c, s1) := pas.foldl (fun (a : Nat × DWord × State) pa =>
    let (t, s1) := a.2.2.engLine j pa 64 (leValue ((bs.drop (64 * a.1)).take 64)) a.2.1
    (a.1 + 1, t, s1)) (0, clk, s)
  (c, s1)

/-- GREAD (R353): the entry and the live half go to a buffer of 512 bytes. -/
def execGread (d i : Nat) (s : State) : Out :=
  s.weirJob d i 8 fun j =>
    let m := j.msg
    let va := m.opnd 1
    match s.recordCheck m (decide (m.opnd 0 / 2 ^ 20 ≠ 0) || decide (va / vaTop ≠ 0)) 0 with
    | .error st => s.endWeirJob d i j st
    | .ok g =>
      if va % 64 ≠ 0 then s.endWeirJob d i j 0x02
      else if !m.covers va 512 true then s.endWeirJob d i j 0x03
      else
        match State.bufferLines d m.asid ((List.range 8).map fun k => (va + 64 * k) % vaTop) [] s with
        | (.error st, s1) => s1.endWeirJob d i j st
        | (.ok pas, s1) =>
          let (c, s2) := s1.writeLines j pas g.image512 j.clk
          s2.endWeirJob d i { j with clk := c } 0x00

/-- GPOL (R350, R353): the policy and the clipping limit, at every array of the package, before the reply. -/
def execGpol (d i : Nat) (s : State) : Out :=
  s.weirJob d i 9 fun j =>
    let a := j.msg.opnd 0
    let b := j.msg.opnd 1
    match s.recordCheck j.msg (decide (a / 2 ^ 30 ≠ 0)) (b / 2 ^ 32) with
    | .error st => s.endWeirJob d i j st
    | .ok g =>
      let g1 := { g with margin := BitVec.ofNat 8 (a / 2 ^ 20), autoSeal := bit a 28, clearLive := bit a 29,
                         satth := BitVec.ofNat 32 b, clip := BitVec.ofNat 32 (b / 2 ^ 32) }
      (s.setRecord (a % 2 ^ 20) g1).endWeirJob d i j 0x00

/-- GCLR (R353): the live half and RSC. -/
def execGclr (d i : Nat) (s : State) : Out :=
  s.weirJob d i 10 fun j =>
    match s.recordCheck j.msg (decide (j.msg.opnd 0 / 2 ^ 20 ≠ 0) || decide (j.msg.opnd 1 ≠ 0)) 0 with
    | .error st => s.endWeirJob d i j st
    | .ok g => (s.setRecord (j.msg.opnd 0 % 2 ^ 20) { g with live := [], rsc := false }).endWeirJob d i j 0x00

end Sys2Proof.Machine
end

