-- ==== Sys2Proof/Machine/Sluice.lean ====
section
/-! DEFINITION. The sluice: launch records and queues, the pending table, service order, placement (R105 to R121, R132, R133, R424,
R433, R439 to R444). -/
namespace Sys2Proof.Machine

/-! ### Launch records (R105, R106) -/

/-- A launch record from its 128 bytes, as a number. -/
def launchRecOf (n : Nat) : LaunchRec :=
  { tag := BitVec.ofNat 64 (n / 2 ^ 704),
    args := (List.range 4).map fun k => BitVec.ofNat 64 (n / 2 ^ (448 + 64 * k)),
    irq := bit n 447, vec := fld n 432 11, group := fld n 384 16, compl := fld n 320 64, chunk := fld n 288 32, iters := fld n 256 32,
    asid := BitVec.ofNat 16 (fld n 240 16), ninst := fld n 228 12 + 1, pri := fld n 226 2, sys := bit n 225, link := bit n 224,
    dommask := fld n 216 8, place := fld n 208 8, reach := fld n 196 12, shape := fld n 128 64, widBase := BitVec.ofNat 64 (fld n 64 64),
    job := fld n 32 32, image := fld n 0 32 }

/-- Whether a reserved field of a record is non-zero. -/
def launchReserved (n : Nat) : Bool :=
  decide (fld n 768 256 ≠ 0) || decide (fld n 443 4 ≠ 0) || decide (fld n 400 32 ≠ 0) || decide (fld n 192 4 ≠ 0)

/-- The rules of a shape (R66). -/
def shapeOk (shape : Nat) : Bool :=
  let ws := (List.range 6).map fun k => fieldWidth shape (k + 1)
  let n := shapeFields shape
  decide (shape / 2 ^ 49 = 0) && (ws.drop n).all (· == 0) && decide (ws.foldl (· + ·) 0 ≤ 64) && decide (fieldWidth shape 1 ≤ 32) &&
    (n != 0 || !shapeElastic shape)

/-- The wid of the region of slot q in the course i of a launch (R116), as an unbounded number. -/
def LaunchRec.widOf (f : LaunchRec) (i q : Nat) : Nat :=
  f.widBase.toNat + (i * 2 ^ fieldWidth f.shape 2 + q) * 2 ^ fieldWidth f.shape 1

/-- R116 and R117: the wid fits, and ITERS, TOTAL and CHUNK lie in their limits. -/
def LaunchRec.widOk (f : LaunchRec) (area : Nat) : Bool :=
  let w1 := fieldWidth f.shape 1
  let w2 := fieldWidth f.shape 2
  let top := if 2 ^ w1 < 2 ^ 32 - 1 then 2 ^ w1 else 2 ^ 32 - 1
  decide (f.widBase.toNat % 2 ^ (w1 + w2) = 0) && decide (area ≤ 2 ^ w2) && decide (f.widOf (f.ninst - 1) (area - 1) < 2 ^ 64) &&
    (shapeFields f.shape != 0 || (decide (f.ninst = 1) && decide (f.iters = 1))) && decide (1 ≤ f.iters) && decide (f.iters ≤ top) &&
    (if shapeElastic f.shape then decide (1 ≤ f.chunk) && decide (f.chunk ≤ f.iters) else decide (f.chunk = 0))

/-- The reach code of level k. -/
def reachCode (reach k : Nat) : Nat := reach / 2 ^ (3 * (k - 3)) % 8

/-- R118 and R398: the reach codes. -/
def State.reachOk (s : State) (f : LaunchRec) : Bool :=
  let n := shapeFields f.shape
  let used := ([3, 4, 5, 6].filter fun k => decide (k ≤ n)).map (reachCode f.reach)
  let free := ([3, 4, 5, 6].filter fun k => decide (n < k)).map (reachCode f.reach)
  let rec rising : List Nat → Bool
    | [] => true
    | [_] => true
    | a :: b :: t => decide (a ≤ b) && rising (b :: t)
  used.all (fun c => decide (c ≤ 3)) && free.all (· == 0) && rising used &&
    (!used.contains 3 || (decide (f.group < 1024) && bit (Tbl.look s.well.groups f.group 0).toNat s.well.pkg))

/-- The regions of a span at an origin, in slot order; none when it leaves the grid (R115, R116). -/
def rectAt (origin w h : Nat) : Option (List Nat) :=
  let ox := origin % 8
  let oy := origin / 8
  if ox + w ≤ 8 ∧ oy + h ≤ 8 then
    some ((List.range h).flatMap fun y => (List.range w).map fun x => 8 * (oy + y) + ox + x)
  else none

/-- The checks of R106, in ascending order of status: 0 when a record passes. `prev` is the record before it of its source; `n` its
128 bytes; `ssys` and `sasid` describe the course that sent it, none for a record of a queue. -/
def State.launchStatus (s : State) (d n : Nat) (src : Nat) (sender : Option (BitVec 16 × Bool)) (prev : Option Launch) : Nat :=
  let f := launchRecOf n
  let x := s.die d
  if launchReserved n ∨ (64 ≤ f.place ∧ f.place ≤ 254) ∨ f.compl % 32 ≠ 0 then 0x01
  else if !shapeOk f.shape then 0x02
  else
    match Tbl.find s.images f.image with
    | none => 0x03
    | some img =>
      if img.asid != f.asid then 0x03
      else if f.place ≠ 255 ∧ (rectAt f.place img.spanW img.spanH).isNone then 0x04
      else if !f.widOk (img.spanW * img.spanH) then 0x05
      else if (s.asidOf f.asid.toNat).st != .live then 0x06
      else if (match sender with
          | none => f.sys && !(x.queue src).priv
          | some (asid, sys) => !sys && (f.asid != asid || f.sys)) then 0x07
      else if f.dommask = 0 ∨ ((List.range 8).any fun j => bit f.dommask j && !(x.domain j).en) then 0x08
      else if !s.reachOk f then 0x09
      else if f.link && (match prev with
          | none => true
          | some l =>
            l.recd.ninst != f.ninst || l.recd.asid != f.asid || (match Tbl.find s.images l.recd.image with
              | none => true
              | some im => im.spanW != img.spanW || im.spanH != img.spanH)) then 0x0C
      else 0

/-! ### Service order (R113) -/

/-- The weight of a source: a queue, or the inbox. -/
def Die.weightOf (x : Die) (src : Nat) : Nat :=
  let w := if src < 32 then (x.queue src).weight else x.inbw
  if w = 0 then 1 else w

def Die.servedOf (x : Die) (cls src : Nat) : Nat := Tbl.look x.served (64 * cls + src) 0

/-- Launches by arrival. -/
def insertArrival (e : Nat × Launch) : List (Nat × Launch) → List (Nat × Launch)
  | [] => [e]
  | f :: t => if e.2.arrived < f.2.arrived then e :: f :: t else f :: insertArrival e t

/-- Launches of a class that still have something to place, by arrival. -/
def Die.waiting (x : Die) (cls : Nat) : List (Nat × Launch) :=
  (x.launches.filter fun e => !e.2.isOver && !e.2.todo.isEmpty && e.2.cls == cls).foldl (fun l e => insertArrival e l) []

/-- What is left of a source's share of the round that its class is in: nothing once the round has passed the source. -/
def Die.creditOf (x : Die) (cls src : Nat) : Nat :=
  if src < Tbl.look x.turn cls 33 then 0 else Tbl.look x.credit (64 * cls + src) 0 - x.servedOf cls src

/-- The round of a class goes on to the first source, from the one that it stands at, that has a launch waiting and a share left.
When there is none, the next round begins, with the weights that stand then; with nothing waiting there is no round. -/
def Die.turnOf (x : Die) (cls : Nat) : Die :=
  let srcs := (x.waiting cls).map (·.2.src)
  let least (l : List Nat) : Nat := l.foldl (fun a b => if b < a then b else a) 33
  let out (t : Tbl Nat) : Tbl Nat := t.filter fun e => e.1 / 64 != cls
  match srcs.filter fun k => decide (0 < x.creditOf cls k) with
  | k :: ks => { x with turn := Tbl.put x.turn cls (least (k :: ks)) }
  | [] =>
    if srcs.isEmpty then { x with served := out x.served, credit := out x.credit, turn := Tbl.drop x.turn cls }
    else
      { x with
        served := out x.served
        credit := (List.range 33).foldl (fun t k => Tbl.put t (64 * cls + k) (x.weightOf k)) (out x.credit)
        turn := Tbl.put x.turn cls (least srcs) }

/-- The rounds of every class, after the launches that wait have changed. -/
def Die.turns (x : Die) : Die := [0, 1, 2, 3].foldl Die.turnOf x

/-- The rest of a round: each source in ascending number is served up to its credit; then further rounds. -/
def Die.rounds (x : Die) : Nat → (Nat → Nat) → List (Nat × Launch) → List (Nat × Launch)
  | 0, _, _ => []
  | _, _, [] => []
  | fuel + 1, credit, ls =>
    let srcs := List.range 33
    let of (k : Nat) : List (Nat × Launch) := ls.filter fun e => e.2.src == k
    let out := srcs.flatMap fun k => (of k).take (credit k)
    let left := ls.filter fun e => !out.any fun f => f.1 == e.1
    out ++ Die.rounds x fuel (fun k => x.weightOf k) left

/-- The order in which the sluice serves its launches. -/
def Die.order (x : Die) : List (Nat × Launch) :=
  [3, 2, 1, 0].flatMap fun c =>
    let ls := x.waiting c
    x.rounds (ls.length + 1) (x.creditOf c) ls

/-! ### Completion records (R105, R107, R439, R446) -/

/-- The 32 bytes of a completion record. -/
def completionRecord (tag : DWord) (status ndone : Nat) (tide : DWord) (detail : Nat) : Nat :=
  tag.toNat + status % 256 * 2 ^ 64 + ndone % 2 ^ 16 * 2 ^ 72 + tide.toNat * 2 ^ 128 + detail % 2 ^ 64 * 2 ^ 192

/-- Write a completion record at a physical address: host memory, or its home. DESIGN CHOICE (log entry 61): the record of a launch that is
refused for a misaligned COMPL is still written, at that address. -/
def State.completionAt (s : State) (pa v : Nat) : State :=
  if hostBit pa then { s with mem := Memory.writeLE s.mem pa 32 v }
  else if s.elsewhere pa then s.askMemory pa noRegion noHandler (.store (lineOf pa)) (.write 32 v false) 0
  else (s.homeWrite pa 32 v 0).2

/-- The completion record of a launch: at a physical address for a queue, at an address of the sender's space for a course; one
that the course may not write is not written. The interrupt follows it. DESIGN CHOICE (log entry 61): with COMPL 0 no record is written
and IRQ still raises the vector. -/
def State.completion (s : State) (d : Nat) (f : LaunchRec) (src : Nat) (sasid : BitVec 16) (status ndone detail : Nat) : State :=
  let v := completionRecord f.tag status ndone s.tideNow detail
  let s1 :=
    if f.compl = 0 then s
    else if src < 32 then s.completionAt f.compl v
    else
      match s.engAt d sasid (f.compl % 2 ^ 57) .write with
      | (.bad _, s1) => s1
      | (.at pa clsW, s1) =>
        if f.compl / 2 ^ 57 ≠ 0 || clsW || hostBit pa then s1
        else if s1.elsewhere pa then s1.askMemory pa noRegion noHandler (.store (lineOf pa)) (.write 32 v true) 0
        else (s1.engWrite pa 32 v 0).2
  if f.irq && src < 32 then { s1 with fw := { s1.fw with msix := s1.fw.msix ++ [f.vec] } } else s1

/-- A launch that is over is kept while it is the record that a LINK record may follow. -/
def Die.pruneLaunches (x : Die) : Die :=
  let last (u : Nat) : Bool := x.queues.any (fun q => q.2.last == some u) || x.inboxLast.any fun e => e.2 == u
  { x with launches := x.launches.filter fun e => !e.2.isOver || last e.1 }

/-- The end of a launch: its completion record, once. -/
def State.completeLaunch (s : State) (d u status detail : Nat) : State :=
  match Tbl.find (s.die d).launches u with
  | none => s
  | some l =>
    let s1 := s.completion d l.recd l.src l.sasid status l.done detail
    let x := s1.die d
    s1.setDie d { x with launches := Tbl.adjust x.launches u fun l => { l with isOver := true, todo := [], chain := [] } }.pruneLaunches.turns

/-! ### The pending table (R109, R111, R112, R132, R133) -/

/-- A launch stands in the pending table until every one of its placements has been made. -/
def Launch.pending (l : Launch) : Bool := !l.isOver && !(l.todo.isEmpty && l.chain.isEmpty)

/-- PEND (R110). -/
def Die.pend (x : Die) : Nat := x.launches.countP fun e => e.2.pending
/-- Room of the pending table (R112). -/
def Die.pendRoom (x : Die) : Bool := decide (x.pend < 4096)

/-- The record that a LINK record of a source follows. -/
def Die.prevOf (x : Die) (src sender : Nat) : Option Launch :=
  (if src < 32 then (x.queue src).last else Tbl.find x.inboxLast sender).bind (Tbl.find x.launches)

def Die.setLast (x : Die) (src sender u : Nat) : Die :=
  if src < 32 then x.setQueue src { x.queue src with last := some u } else { x with inboxLast := Tbl.put x.inboxLast sender u }

/-- The class that a priority gives after a time of waiting (R113). -/
def effectiveClass (pri waited : Nat) : Nat :=
  if pri = 3 then 3 else if 2 ≤ pri + waited / micros 50 then 2 else pri + waited / micros 50

/-- The sluice takes a record into its pending table, or refuses it (R106). -/
def State.takeRecord (s : State) (d n src sender : Nat) (from_ : Option (BitVec 16 × Bool)) : State :=
  let f := launchRecOf n
  let x := s.die d
  let prev := x.prevOf src sender
  let sasid := match from_ with
    | some a => a.1
    | none => 0
  let st := s.launchStatus d n src from_ prev
  if st ≠ 0 then s.completion d f src sasid st 0 0
  else
    let u := Tbl.nextKey x.launches
    let prevId := if src < 32 then (x.queue src).last else Tbl.find x.inboxLast sender
    let all := List.range f.ninst
    let chain := match prev with
      | some l =>
        let begun (i : Nat) : Bool := x.insts.any fun e => some e.2.launch == prevId && e.2.index == i && !e.2.retired.isEmpty
        if f.link && !l.isOver then all.filter fun i => !l.gone.contains i && !begun i else []
      | none => []
    let l : Launch :=
      { recd := f, src := src, sender := sender, sasid := sasid, arrived := s.tide, cls := effectiveClass f.pri 0, since := none,
        anchored := false, todo := all.filter fun i => !chain.contains i, chain := chain, gone := [], done := 0, faulted := none,
        link := none, resume := none, isOver := false }
    let t := match prevId with
      | some k => if chain.isEmpty then x.launches else Tbl.adjust x.launches k fun l => { l with link := some u }
      | none => x.launches
    s.setDie d (Die.pruneLaunches (Die.setLast { x with launches := Tbl.put t u l } src sender u)).turns

/-- SLUICE_TAKE_RECORD (R109): record HEAD of a ring, as the sluice finds it. DESIGN CHOICE (log entry 61): a record on a poisoned line is
read as plain data. -/
def execSluiceTakeRecord (d q : Nat) (s : State) : Out :=
  let x := s.die d
  let k := x.queue q
  if !k.en || k.err || k.head == k.tail || !x.pendRoom || decide (32 ≤ q) then s.idle
  else
    let a := k.qbase * 128 + 128 * (k.head.toNat % 2 ^ k.logsz)
    let s1 := if k.loc then s else (s.recallNow (lineOf a) false).recallNow (lineOf a + 1) false
    let n := Memory.readLE s1.mem (if k.loc then hostPa a else a) 128
    let y := s1.die d
    .next ((s1.setDie d (y.setQueue q { k with head := k.head + 1 })).takeRecord d n q 0 none)

/-- The job of a sluice message ends with a status. The word of a reply whose channel is full waits at the inbox. -/
def State.endInbox (s : State) (d : Nat) (m : EngMsg) (status : Nat) (clk : DWord) : State := s.replyNow d m status clk

/-- Read the two lines of a launch record under the sender's ASID (R111): an error is a status, or that another package has still to answer. -/
def State.readLaunch (s : State) (d : Nat) (m : EngMsg) (va : Nat) (clk : DWord) : Except (Option Nat) (Nat × DWord) × State :=
  let bad (st : Nat) : Except (Option Nat) (Nat × DWord) := .error (some st)
  if va % 128 ≠ 0 ∨ vaTop ≤ va then (bad 0x02, s)
  else if !m.covers va 128 false then (bad 0x03, s)
  else
    match s.engAt d m.asid va .read with
    | (.bad c, s1) => (bad (statusOf c), s1)
    | (.at pa clsW, s1) =>
      if clsW || hostBit pa then (bad 0x06, s1)
      else if s1.elsewhere pa then
        let j : Job := { msg := m, clk := clk, args := none, pos := 0, reply := none }
        match s1.engFar j pa (.read 64) with
        | (.wait, s2) => (.error none, s2)
        | (.bad st, s2) => (bad st, s2.engUsed j)
        | (.done lo c, s2) =>
          match s2.engFar { j with clk := c } (pa + 64) (.read 64) with
          | (.wait, s3) => (.error none, s3)
          | (.bad st, s3) => (bad st, s3.engUsed j)
          | (.done hi c2, s3) => (.ok (lo + hi * 2 ^ 512, c2), s3.engUsed j)
      else
        match s1.engRead pa 64 clk with
        | (none, s2) => (bad 0x08, s2)
        | (some (lo, c), s2) =>
          match s2.engRead (pa + 64) 64 c with
          | (none, s3) => (bad 0x08, s3)
          | (some (hi, c2), s3) => (.ok (lo + hi * 2 ^ 512, c2), s3)

/-- SLUICE_INBOX_LAUNCH (R111): the first admitted message of the sluice inbox. -/
def execSluiceInboxLaunch (d : Nat) (s : State) : Out :=
  let x := s.die d
  match x.inbox.find? (fun m => x.holdOf m.hold == .admitted) with
  | none => s.idle
  | some m =>
    if !x.pendRoom then s.idle
    else
      let s1 := s.setDie d { x with inbox := x.inbox.erase m }
      let clk := (x.jobOf m).clk
      match s1.readLaunch d m (m.opnd 0) clk with
      | (.error none, s2) => .next (s2.setDie d { s2.die d with inbox := x.inbox })
      | (.error (some st), s2) => .next (s2.endInbox d m st clk)
      | (.ok (n, c), s2) => .next ((s2.takeRecord d n 32 m.p (some (m.asid, m.sys))).endInbox d m 0x00 c)

/-! ### Registers (R108 to R110, R424, R440) -/

/-- The records of a queue that no placement has been made of are refused (R108). -/
def State.cancelQueue (s : State) (d q : Nat) : State :=
  let x := s.die d
  let mine (l : Launch) : Bool := l.src == q && l.pending && l.resume.isNone && decide (l.todo.length + l.chain.length = l.recd.ninst)
  let us := (x.launches.filter fun e => mine e.2).map (·.1)
  us.foldl (fun s u =>
    let y := s.die d
    let unlink (l : Launch) : Launch := if l.link == some u then { l with link := none } else l
    let z : Die := { y with launches := y.launches.map fun (e : Nat × Launch) => (e.1, unlink e.2) }
    (s.setDie d z).completeLaunch d u 0x0A 0) s

/-- A write to offset 0x08 of a queue. -/
def State.queueConfig (s : State) (d q : Nat) (v : DWord) : State :=
  let x := s.die d
  let k := x.queue q
  let n := v.toNat
  let en := bit n 31
  let weight := fld n 20 4
  let logsz := fld n 16 4
  if k.en && en then s.setDie d (x.setQueue q { k with weight := if weight = 0 then k.weight else weight })
  else
    let k1 := { k with en := false, loc := bit n 29, weight := weight, logsz := logsz }
    if k.en then (s.setDie d (x.setQueue q k1)).cancelQueue d q
    else if !en then s.setDie d (x.setQueue q k1)
    else if weight = 0 ∨ logsz < 4 ∨ 12 < logsz ∨ n / 2 ^ 32 ≠ 0 ∨ fld n 24 5 ≠ 0 ∨ fld n 1 15 ≠ 0 then
      s.setDie d (x.setQueue q { k1 with err := true })
    else s.setDie d (Die.pruneLaunches (x.setQueue q { k1 with en := true, err := false, head := 0, tail := 0, last := none }))

/-- QUEUE_ENABLE (R108): a write to offset 0x08 that sets EN. -/
def execQueueEnable (d q : Nat) (v : BitVec 64) (s : State) : Out :=
  if !((s.die d).queue q).en && bit v.toNat 31 && decide (q < 32) then .next (s.queueConfig d q v) else s.idle
/-- QUEUE_DISABLE (R108): a write to offset 0x08 that clears EN. -/
def execQueueDisable (d q : Nat) (v : BitVec 64) (s : State) : Out :=
  if ((s.die d).queue q).en && !bit v.toNat 31 then .next (s.queueConfig d q v) else s.idle
/-- QUEUE_REGISTER_WRITE (R108): offset 0x00, ignored while EN = 1, and a write to offset 0x08 that leaves EN as it is. -/
def execQueueRegisterWrite (d q off : Nat) (v : BitVec 64) (s : State) : Out :=
  let x := s.die d
  let k := x.queue q
  if 32 ≤ q then s.idle
  else if off = 0x00 then
    .next (if k.en then s else s.setDie d (x.setQueue q { k with qbase := fld v.toNat 7 45 }))
  else if off = 0x08 && k.en == bit v.toNat 31 then .next (s.queueConfig d q v)
  else s.idle
/-- TAIL_DOORBELL (R108, R109): ignored while the queue is not served; one that posts too much stops it. -/
def execTailDoorbell (d q : Nat) (v : BitVec 32) (s : State) : Out :=
  let x := s.die d
  let k := x.queue q
  if !k.en || k.err || decide (32 ≤ q) then s.idle
  else if 2 ^ k.logsz < (v - k.head).toNat then .next (s.setDie d (x.setQueue q { k with err := true }))
  else .next (s.setDie d (x.setQueue q { k with tail := v }))

/-- REGISTER_WRITE (R110, R424, R440): a sluice register with no behaviour of its own. Read-only fields and other offsets keep what they
hold; SAVEBASE and SAVEN are root firmware's. -/
def execRegisterWrite (d off : Nat) (v : BitVec 64) (s : State) : Out :=
  let x := s.die d
  let w : Word := v.setWidth 32
  let y : Die :=
    if off = 0x0000 then { x with inbw := v.toNat % 16 }
    else if off = 0x0008 then { x with stallMax := w }
    else if off = 0x0010 then { x with admwd := w }
    else if off = 0x0020 then { x with snapTo := w }
    else if off = 0x0028 then { x with splTo := w }
    else if off = 0x0038 then { x with autop := bit v.toNat 16 }
    else if off = 0x0050 then { x with retTo := w }
    else if off = 0x0058 then { x with gateDly := w }
    else if off = 0x0060 then (if 1 ≤ v.toNat % 2 ^ 9 ∧ v.toNat % 2 ^ 9 ≤ 256 then { x with pcap := v.toNat % 2 ^ 9 } else x)
    else x
  .next (s.setDie d y)

/-! ### Aging and anchoring (R113, R114) -/

/-- EFFECTIVE_CLASS_AGING (R113). -/
def execEffectiveClassAging (d u : Nat) (s : State) : Out :=
  let x := s.die d
  match Tbl.find x.launches u with
  | none => s.idle
  | some l =>
    let c := effectiveClass l.recd.pri (s.tide - l.arrived)
    if l.pending && l.cls != c then .next (s.setDie d { x with launches := Tbl.put x.launches u { l with cls := c } }.turns) else s.idle

/-- LAUNCH_ANCHOR (R114): a launch passed over for longer than STALLMAX is anchored. -/
def execLaunchAnchor (d u : Nat) (s : State) : Out :=
  let x := s.die d
  match Tbl.find x.launches u with
  | none => s.idle
  | some l =>
    match l.since with
    | none => s.idle
    | some t =>
      if !l.anchored && decide (t + micros x.stallMax.toNat < s.tide) then
        .next (s.setDie d { x with launches := Tbl.put x.launches u { l with anchored := true } })
      else s.idle

/-! ### Domains and rectangles (R115, R433, R441 to R443) -/

/-- The cluster of a region: clusters are numbered row by row, four in a row. -/
def clusterOf (n : Nat) : Nat := 4 * (n / 16) + n % 8 / 2

def State.regionFree (s : State) (d n : Nat) : Bool := (s.region (64 * d + n)).modeUnder == .free

/-- Whether two records are of one launch: records of equal JOBID and ASID are (R119). -/
def Die.sameLaunch (x : Die) (u v : Nat) : Bool :=
  u == v || (match Tbl.find x.launches u, Tbl.find x.launches v with
    | some a, some b => a.recd.job == b.recd.job && a.recd.asid == b.recd.asid
    | _, _ => false)

/-- Whether region p may not hold placement `i` of a record, because a saved or resumed region of another instance of its launch carries
the identity p (R433). -/
def State.identityTaken (s : State) (d u i p : Nat) : Bool :=
  let x := s.die d
  x.insts.any fun e =>
    x.sameLaunch e.2.launch u && !(e.2.launch == u && e.2.index == i) &&
      (e.2.saved.any (fun r => r.place == p) ||
        e.2.places.any fun q => q != p && (s.region q).modeUnder != .free && (s.region q).inst == e.1 && (s.region q).placeId == p)

/-- The launch whose placements an entry of the pending table makes: its own, or that of the instance it resumes. -/
def Die.launchOf (x : Die) (u : Nat) (l : Launch) : Nat :=
  match l.resume.bind (Tbl.find x.insts) with
  | some i => i.launch
  | none => u

/-- The first rectangle that takes the next placement of a launch, when `avail` says which regions count as free. -/
def State.firstFit (s : State) (d u : Nat) (l : Launch) (avail : Nat → Bool) : Option (Nat × List Nat) :=
  let x := s.die d
  match Tbl.find s.images l.recd.image with
  | none => none
  | some img =>
    let i := l.todo.headD 0
    let own := x.launchOf u l
    let ok (cells : List Nat) (o : Nat) : Option (Nat × List Nat) :=
      match rectAt o img.spanW img.spanH with
      | none => none
      | some rect => if rect.all (fun n => cells.contains n && avail n && !s.identityTaken d own i (64 * d + n)) then some (o, rect) else none
    (List.range 8).findSome? fun j =>
      if bit l.recd.dommask j then
        let cells := (x.domain j).regions
        (if l.recd.place = 255 then List.range 64 else [l.recd.place]).findSome? (ok cells)
      else none

/-! ### Placement (R115 to R120, R132, R347, R448) -/

/-- The gauge copies of a region at placement (R347). -/
def State.gaugeCopies (s : State) (img : Image) : Tbl GenCopy :=
  img.gauges.foldl (fun t id => Tbl.put t id { gen := (s.record id).gen, scale := (s.record id).scale }) []

/-- What a region keeps across courses: its lease clock, its stash and TLB, its position of the stationary walk (R288, R445). -/
def Region.cleared (r : Region) : Region :=
  { Region.free with
    lclk := r.lclk, stash := r.stash, wbOut := r.wbOut, asked := r.asked, tlb := r.tlb, stampNo := r.stampNo,
    matrix := { Matrix.reset with walk := r.matrix.walk, orgY := r.matrix.orgY, orgX := r.matrix.orgX } }

/-- The fabric in which a chained successor's configuration stands already, as that of its first step (R132). -/
def Region.passFabric (old new : Region) : Region :=
  match old.succ with
  | none => new
  | some _ =>
    { new with
      cells := old.cells.map fun e => (e.1, { e.2 with step := 1 })
      ports := old.ports.map fun e => (e.1, { e.2 with step := 1 })
      fpflags := old.succFlags, sides := old.sides, columns := old.columns, matrix := { new.matrix with ma := old.matrix.ma } }

/-- A region as placement `i` of a launch leaves it at slot q (R62, R63, R73, R105, R116, R117). -/
def State.placedRegion (s : State) (d u iid : Nat) (l : Launch) (img : Image) (origin i q p : Nat) : Region :=
  let f := l.recd
  let r := (s.region p).cleared
  let regs := (List.range 4).foldl (fun (v : Vector DWord 32) k => v.set! (k + 1) (f.args.getD k 0)) r.regs
  let elastic := shapeElastic f.shape
  let handlers := img.handlers.foldl (fun t h =>
    Tbl.put t h.idx { Handler.undeclared with decl := true, off := h.off, pri := h.pri, hen := h.en }) []
  (s.region p).passFabric { r with
    mode := .placed, inst := iid, launch := u, image := f.image, sys := f.sys, job := f.job, instIdx := i, placeId := p,
    origin := 64 * d + origin, spanW := img.spanW, spanH := img.spanH, group := f.group, reach := f.reach, elastic := elastic, regs := regs,
    cc := BitVec.ofNat 4 img.entry, ic := 0, icend := BitVec.ofNat 32 f.iters, widBase := BitVec.ofNat 64 (f.widOf i q),
    shape := f.shape, slot := q, asid := f.asid, lclk := maxClk r.lclk (s.die d).hclk, handlers := handlers, handles := img.handles,
    gens := s.gaugeCopies img,
    steps := [{ num := 1, image := f.image, idx := img.entry, loaded := false, refused := false, openAt := 0 }],
    inherit := (s.region p).inherit }

/-- A region whose placement claim found no work retires at once through stages 4 to 6 (R117). -/
def State.retireAtOnce (s : State) (p : Nat) : State :=
  let r := s.region p
  s.setRegion p { r with mode := .draining, stage := 4, doneAt := s.tide, finished := true, steps := [], handlers := [] }

/-- The placement claims of a rectangle, in slot order (R117, R120). -/
def State.placementClaims (s : State) (ps : List Nat) : State :=
  ps.foldl (fun s p =>
    let (n, s1) := s.claim p true
    if n = 0 then s1.retireAtOnce p else s1) s

/-- Place index i of a launch on a rectangle of regions. A region that begins has declared no pool yet. -/
def State.placeAt (s : State) (d u i origin : Nat) (rect : List Nat) : State :=
  let x := s.die d
  match Tbl.find x.launches u with
  | none => s
  | some l =>
    match Tbl.find s.images l.recd.image with
    | none => s
    | some img =>
      let ps := rect.map (64 * d + ·)
      let iid := Tbl.nextKey x.insts
      let stamp := x.insts.foldl (fun n e => if n ≤ e.2.stamp then e.2.stamp + 1 else n) 0
      let inst : Instance :=
        { launch := u, index := i, places := ps, cursor := 0, retired := [], failed := false, stamp := stamp, saved := [] }
      let s1 := s.setDie d { x with insts := Tbl.put x.insts iid inst }
      let s2 : State := { s1 with basins := s1.basins.map fun b => { b with had := b.had.filter fun p => !ps.contains p } }
      let s3 := (ps.zip (List.range ps.length)).foldl
        (fun s e => s.setRegion e.1 (s.placedRegion d u iid l img origin i e.2 e.1)) s2
      if shapeElastic l.recd.shape then s3.placementClaims ps else s3

/-! ### Power at placement (R441, R442) -/

/-- The clusters of a rectangle. -/
def clustersOf (rect : List Nat) : List Nat := (rect.map clusterOf).eraseDups

/-- A placement wakes the gated clusters of its rectangle: false while one of them is not on. -/
def State.wakeClusters (s : State) (d : Nat) (rect : List Nat) : Bool × State :=
  let x := s.die d
  let cs := clustersOf rect
  let wake (c : Cluster) : Cluster := match c.power with
    | .gated => { c with power := .leaving (s.tide + micros 5) }
    | _ => c
  let y := cs.foldl (fun (y : Die) c => y.setCluster c (wake (y.cluster c))) x
  (cs.all fun c => (x.cluster c).power == .on, s.setDie d y)

/-! ### Serving (R113 to R115) -/

/-- The launches that may be placed while some are anchored. -/
def Die.allowed (x : Die) : List (Nat × Launch) :=
  let o := x.order
  let top := o.foldl (fun (t : Option Nat) e => if e.2.anchored then (match t with
    | some c => if c < e.2.cls then some e.2.cls else t
    | none => some e.2.cls) else t) none
  match top with
  | none => o
  | some c => o.filter fun e => decide (c < e.2.cls) || (e.2.anchored && e.2.cls == c)

/-- The first launch of the order whose next placement fits, the launches tried before it, and its rectangle. -/
def State.nextPlacement (s : State) (d : Nat) : List (Nat × Launch) → List Nat → Option (Nat × Launch × List Nat × Nat × List Nat)
  | [], _ => none
  | (u, l) :: t, tried =>
    match s.firstFit d u l (s.regionFree d) with
    | some (o, rect) => some (u, l, tried, o, rect)
    | none => State.nextPlacement s d t (tried ++ [u])

/-- A launch whose placements have all been made counts as served. -/
def Die.countServed (x : Die) (cls src : Nat) : Die :=
  { x with served := Tbl.put x.served (64 * cls + src) (x.servedOf cls src + 1) }

/-- The bookkeeping of a placement: launches before it in the order have been passed over. -/
def State.markPlaced (s : State) (d u : Nat) (tried : List Nat) : State :=
  let x := s.die d
  let pass (e : Nat × Launch) : Nat × Launch :=
    if e.1 = u then (e.1, { e.2 with since := none, anchored := false, todo := e.2.todo.drop 1 })
    else if tried.contains e.1 && e.2.since.isNone then (e.1, { e.2 with since := some s.tide })
    else e
  let y : Die := { x with launches := x.launches.map pass }
  match Tbl.find y.launches u with
  | some l => s.setDie d (if l.todo.isEmpty then y.countServed l.cls l.src else y).turns
  | none => s.setDie d y

/-- PLACE_INSTANCE (R113 to R115): the next launch in the order that can be placed. A placement on a gated cluster waits for it. -/
def execPlaceInstance (d : Nat) (s : State) : Out :=
  match s.nextPlacement d (s.die d).allowed [] with
  | none => s.idle
  | some (u, l, tried, o, rect) =>
    match s.wakeClusters d rect with
    | (false, s1) => .next s1
    | (true, s1) => if l.resume.isSome then s.idle else .next ((s1.markPlaced d u tried).placeAt d u (l.todo.headD 0) o rect)

end Sys2Proof.Machine
end

