-- ==== Sys2Proof/Machine/Waiting.lean ====
section
/-! DEFINITION. When a pre-emption starts, and when it is over (R424 to R426, R433). -/
namespace Sys2Proof.Machine

/-! ### Starting a pre-emption (R424, R425) -/

/-- BUSY (R424). -/
def Die.busy (x : Die) : Bool := x.preempt.isSome || x.preqWait.isSome

/-- SFREE (R424). -/
def Die.sfree (x : Die) : Nat := x.saveN - x.slotsUsed.length

/-- The regions of an entry of the table of instances that still hold its course. -/
def State.heldPlaces (s : State) (iid : Nat) (i : Instance) : List Nat :=
  i.places.filter fun q => !i.retired.contains q || ((s.region q).modeUnder == .retired && (s.region q).inst == iid)

/-- A placed instance: none of its regions is saved. -/
def Instance.placed (i : Instance) : Bool := i.saved.isEmpty && i.places.any (· < 256)

/-- A pre-emption starts now, or waits for save slots. -/
def State.startPreempt (s : State) (d iid : Nat) (i : Instance) : State :=
  let x := s.die d
  if x.sfree < (s.heldPlaces iid i).length then s.setDie d { x with preqWait := some iid }
  else
    let p : Preempt :=
      { inst := iid, start := s.tide, splTo := micros x.splTo.toNat, snapTo := micros x.snapTo.toNat, marked := [] }
    s.setDie d { x with preempt := some p, preqWait := none }

/-- A pre-emption that waits for save slots starts once they are free; it is dropped when its instance has retired. -/
def State.startWaiting (s : State) (d : Nat) : State :=
  let x := s.die d
  match x.preempt, x.preqWait with
  | none, some iid =>
    match Tbl.find x.insts iid with
    | some i => if (s.heldPlaces iid i).length ≤ x.sfree then s.startPreempt d iid i else s
    | none => s.setDie d { x with preqWait := none }
  | _, _ => s

/-- The launch of an entry of the table of instances. -/
def Die.launchRecOf (x : Die) (i : Instance) : Option Launch := Tbl.find x.launches i.launch

/-! ### The end of a pre-emption (R426, R432, R433) -/

/-- The number in an entry's places of a region that has retired and freed its place. -/
def goneKey (q : Nat) : Nat := 2 ^ 29 + q

/-- The places of an instance that is saved, and of those the retired ones. -/
def Instance.offPlaces (i : Instance) : Instance :=
  let ps := (i.places.zip (List.range i.places.length)).map fun e => (e.1, if savedBase ≤ e.1 then e.1 else goneKey e.2)
  { i with places := ps.map (·.2), retired := (ps.filter fun e => i.retired.contains e.1).map (·.2) }

/-- A pre-empted instance enters the pending table again, as a launch of one with its original arrival time. -/
def Die.requeue (x : Die) (iid : Nat) (i : Instance) : Die :=
  match x.launchRecOf i with
  | none => x
  | some l =>
    let again : Launch :=
      { l with cls := effectiveClass l.recd.pri 0, since := none, anchored := false, todo := [i.index], chain := [], gone := [], done := 0,
               faulted := none, link := none, resume := some iid, isOver := false }
    { x with launches := Tbl.put x.launches (Tbl.nextKey x.launches) again }.turns

/-- BUSY clears once every region of the instance is saved. -/
def State.preemptOver (s : State) (d : Nat) : State :=
  let x := s.die d
  match x.preempt with
  | none => s.startWaiting d
  | some w =>
    match Tbl.find x.insts w.inst with
    | none => (s.setDie d { x with preempt := none }).startWaiting d
    | some i =>
      if (s.heldPlaces w.inst i).all fun q => decide (savedBase ≤ q) then
        let j := i.offPlaces
        let y : Die := { x with preempt := none, insts := Tbl.put x.insts w.inst j }
        (s.setDie d (y.requeue w.inst j)).startWaiting d
      else s

end Sys2Proof.Machine
end

