-- ==== Sys2Proof/Machine/Retire.lean ====
section
/-! DEFINITION. Retiring a region: drain, clear, write-back, release, notify; chained successors (R132, R379, R435 to R439). -/
namespace Sys2Proof.Machine

/-! ### The end of the drain (R435 stages 2 and 3, R436) -/

/-- Whether a port's queue holds a binding or a token still to be sent. -/
def PortSide.busy (x : PortSide) : Bool :=
  x.queue.any fun e => match e with
    | .bind _ => true
    | .ctl _ _ _ => true
    | _ => false

/-- Whether a draining region has drained: every node has ended, every binding completed, the matrix channel is empty. Nodes that hold
the configuration of a chained successor do not count. -/
def State.drained (s : State) (p : Nat) : Bool :=
  let r := s.region p
  let m := r.matrix
  r.cmdQ.isEmpty && (r.steps.all fun x => decide (r.stepNo < x.num) || r.succ == some x.num || s.tornDown p x) &&
    (r.cells.all fun e => e.2.isOver || r.succ == some e.2.step) &&
    (r.ports.all fun e => r.nodeOver (portNode e.1) || r.succ == some e.2.step) &&
    (r.ports.all fun e => match e.2.run with
      | some b => b.faulted && b.outstanding == 0
      | none => true) &&
    (r.sides.all fun e => !e.2.busy) && m.channel.isEmpty && m.flight.isEmpty && m.drains.isEmpty && m.owed.isEmpty &&
    r.sif.snap.isNone && (r.stepNo == 0 || !r.matrixMayPass)

/-- What a port leaves when its region clears: its binding and those that never ran complete, attachments and a relatch token go
(R126, R282). -/
def State.clearPort (s : State) (p n : Nat) : State :=
  let side := s.side p n
  let ctxs := side.queue.filterMap fun e => match e with
    | .weir _ _ c _ _ => some c
    | _ => none
  let binds := side.queue.filterMap fun e => match e with
    | .bind b => some b
    | _ => none
  let run := (s.port p n).run
  let s1 := ctxs.foldl (fun s c => s.releaseGraph c) s
  let s2 := match run with
    | some b => (s1.endGraph b.ctxNo).dropBinding p n b.b
    | none => s1
  let s3 := binds.foldl (fun s b => s.dropBinding p n b) s2
  if side.relatch then s3.relatchEmerges p n else s3

/-- Elements that the ports of a region have sent and no array has reached are dropped (R436). -/
def State.dropElements (s : State) (p : Nat) : State :=
  { s with net := s.net.filter fun m => match m.body with
      | .weirElem q _ _ _ _ _ _ _ _ _ _ _ => q != p
      | _ => true }

/-- The graphs that a region has loaded and no binding of it runs are released. -/
def State.dropGraphs (s : State) (p : Nat) : State :=
  { s with arrays := s.arrays.map fun e => (e.1, { e.2 with ctxs := e.2.ctxs.filter fun c => c.2.p != p }) }

/-- Stages 3 and 4: the fabric clears but for the nodes that hold a chained successor's configuration, trains held at the region's nodes go on, gathers that have not begun end, every dirty line is written back, handles are
released. -/
def State.clearRegion (s : State) (p : Nat) : State :=
  let ns := ((s.region p).ports.map (·.1) ++ (s.region p).sides.map (·.1)).eraseDups
  let s1 := (((ns.foldl (fun s n => s.clearPort p n) s).completeBindings p).dropGraphs p).dropGathers p
  let s2 := (s1.region p).rill.foldl (fun s e => s.nodeFlush p e.1) s1
  let r := s2.region p
  let m := r.matrix
  let next (k : Nat) : Bool := r.succ == some k
  let r1 := { r with
    cells := r.cells.filter (fun e => next e.2.step), ports := (r.ports.filter (fun e => next e.2.step)).map (fun e => (e.1, { e.2 with run := none })),
    sides := (r.sides.filter fun e => next (r.port e.1).step).map fun e =>
      (e.1, { PortSide.init with
        windows := e.2.windows, latch := e.2.latch, xlatches := e.2.xlatches,
        pairs := e.2.pairs.filter fun x => next x.step }),
    columns := if r.succ.isSome then r.columns else [], live := [], cmdQ := [], steps := r.steps.filter (fun x => next x.num),
    handles := [], stage := 4,
    matrix := { Matrix.reset with walk := m.walk, orgY := m.orgY, orgX := m.orgX, ma := if r.succ.isSome then m.ma else [] },
    stash := r.stash.map fun l => { l with pinned := false } }
  (s2.setRegion p r1).writeBackAll p

/-! ### Release (R379, R438) -/

/-- A region's non-empty and poisoned lanes of instances that others still hold are parked. -/
def State.parkLanes (s : State) (p : Nat) : State :=
  let r := s.region p
  let held (key : PoolKey) : Bool := !s.homeHere key || s.basins.any fun b => b.key == key && b.refs.any (· != p)
  let slots := (List.range 16).map (s.slotOf r.placeId)
  let mine (key : PoolKey) : Bool := key.job == r.job && key.asid == r.asid.toNat
  let park (l : Lane) : Lane := if slots.contains l.slot && mine l.key && held l.key && (l.v || l.p) then { l with parked := true } else l
  { s with lanes := s.lanes.map park }

/-- The release of an instance when the last region that declared it retires. The final settle of one whose binding holds several
packages has been made before, and one within this package is made here. -/
def State.releaseInstance (s : State) (p : Nat) (b : HomeBasin) : State :=
  let r := s.region p
  let settled : Option (Bool × State) := match b.ending with
    | some bad => some (bad, s)
    | none => ((s.setBasin { b with gath := none }).gatherAll true b.key (s.lanes.length + 2)).map fun x => (x.1.2.2.2.isSome, x.2)
  match settled with
  | none => s.endPool b none
  | some (bad, s1) =>
    if !b.decl.settle then s.endPool b none
    else if bad then (s1.markFaulted (dieOfPlace p) r.launch r.instIdx).endPool b none
    else
      let v := match s1.basin b.key with
        | some x => x.value
        | none => b.value
      s1.endPool b (some v)

/-- The instances homed here that a region is the last to hold. -/
def State.lastHeld (s : State) (p : Nat) : List HomeBasin :=
  s.basins.filter fun b => s.homeHere b.key && b.refs.contains p && b.refs.all (· == p)

/-- The pools of a region are released (R438). -/
def State.releasePools (s : State) (p : Nat) : State :=
  let s1 := s.parkLanes p
  let s2 : State := { s1 with basins := s1.basins.map fun b => { b with refs := b.refs.filter (· != p) } }
  (s1.lastHeld p).foldl (fun s b => s.releaseInstance p { b with refs := [] }) s2

/-! ### Release across packages (R378, R379, R438) -/

/-- The instances of a region whose home is in another package. -/
def State.heldAway (s : State) (p : Nat) : List HomeBasin := s.basins.filter fun b => !s.homeHere b.key && b.refs.contains p

/-- The instances whose final settle takes lanes of other packages, and is still to be made. -/
def State.toSettle (s : State) (p : Nat) : List HomeBasin :=
  (s.lastHeld p).filter fun b => b.key.spread && b.decl.settle && b.ending.isNone

/-- Before its release a region tells the homes in other packages, and starts the settling gathers that take lanes of other packages. -/
def State.askReleases (s : State) (p : Nat) : State :=
  let r := s.region p
  let s1 := s.parkLanes p
  let s2 := (s.heldAway p).foldl (fun s b =>
    (s.setBasin { b with refs := b.refs.filter (· != p) }).sendAway (s.homePkg b.key) p noHandler (.release b.key)
      fun tag => .poolRelease tag r.placeId b.key) s1
  (s.toSettle p).foldl (fun s b => s.post none (.gather p settleHandler b.key false true)) s2

/-- A region of another package releases an instance that is homed here. -/
def State.releaseAsked (s : State) (src tag place : Nat) (key : PoolKey) : State :=
  match s.basin key with
  | none => s.emitTo src 3 (.poolReleased tag false)
  | some b =>
    let b1 := { b with refs := b.refs.filter (· != awayTag src place) }
    let s1 := s.setBasin b1
    if !b1.refs.isEmpty then s1.emitTo src 3 (.poolReleased tag false)
    else if b.decl.settle then s1.post none (.gather (awayTag src tag) settleHandler key false true)
    else s1.finishAway src tag b1 false

/-- The home has released an instance for a region: poison ends the region's instance with 0x0B. -/
def State.releaseAnswered (s : State) (p : Nat) (bad : Bool) : State :=
  let r := s.region p
  if bad then s.markFaulted (dieOfPlace p) r.launch r.instIdx else s

/-- The channel subscriptions of a region end (R142), and its sender's record is no longer one that a LINK record may follow. -/
def Die.unsubscribe (x : Die) (p : Nat) : Die :=
  { x with chans := x.chans.map fun e => (e.1, match e.2.sub with
              | some (q, _) => if q = p then { e.2 with sub := none } else e.2
              | none => e.2),
           inboxLast := Tbl.drop x.inboxLast p }

/-- Words on their way to a channel no longer belong to a region of the sender's course. -/
def State.orphanWords (s : State) (p : Nat) : State :=
  { s with net := s.net.map fun m => match m.body with
      | .chanWord q u d ch v clk asid => if q = p then { m with body := .chanWord noRegion u d ch v clk asid } else m
      | _ => m }

/-! ### Notify (R435 stage 6, R439) -/

/-- A region becomes free; its cluster's idle time begins. -/
def State.freeRegion (s : State) (p : Nat) : State :=
  if 256 ≤ p then
    let x := s.die (dieOfPlace p)
    { s.setDie (dieOfPlace p) { x with slotsUsed := x.slotsUsed.filter (· != p % 4096) } with regions := Tbl.drop s.regions p }
  else
  let d := dieOfPlace p
  let s1 := s.setRegion p (s.region p).cleared
  let x := s1.die d
  let c := clusterOf (p % 64)
  s1.setDie d (x.setCluster c { x.cluster c with freeFrom := s.tide })

/-- The attachment of an entry of the table of instances ends with it. -/
def State.dropAttach (s : State) (d iid : Nat) : State :=
  let left : Tbl Attachment := s.attach.map fun e => (e.1, { e.2 with insts := e.2.insts.filter (· != (d, iid)) })
  { s with attach := left.filter fun e => !e.2.insts.isEmpty }

/-- Every region of an index has retired: it is counted, and its launch ends when all have been. A chained successor takes the entry
over. -/
def State.countInstance (s : State) (d iid : Nat) (inst : Instance) : State :=
  let x := s.die d
  let u := inst.launch
  let next := x.successorOf u inst.index
  let insts := match next with
    | some v => Tbl.put x.insts iid { inst with launch := v }
    | none => Tbl.drop x.insts iid
  let launches := Tbl.adjust x.launches u fun l =>
    { l with gone := inst.index :: l.gone, done := if inst.failed then l.done else l.done + 1 }
  let s0 := s.setDie d { x with insts := insts, launches := launches }
  let s1 := if next.isSome then s0 else s0.dropAttach d iid
  match Tbl.find launches u with
  | none => s1
  | some l =>
    if l.gone.length < l.recd.ninst then s1
    else
      match l.faulted with
      | some i => s1.completeLaunch d u 0x0B i
      | none => s1.completeLaunch d u 0x00 0

/-- Stages 5 and 6 of a region. -/
def State.retire (s : State) (p : Nat) : State :=
  let d := dieOfPlace p
  let r := s.region p
  let s1 := (s.releasePools p).orphan p none true
  let s2 := s1.orphanWords p
  let s3 := if (s2.region p).lateFault then s2.markFaulted d r.launch r.instIdx else s2
  let s4 := s3.setDie d ((s3.die d).unsubscribe p)
  let s5 :=
    if ((s4.die d).successorOf r.launch r.instIdx).isSome then
      let r1 := s4.region p
      s4.setRegion p { r1.setMode .retired with
        handlers := [], handles := [], gens := [], faults := [], rill := [], pools := [],
        inherit := r1.inherit.filter (·.launch == r1.launch) }
    else s4.freeRegion p
  let x := s5.die d
  match Tbl.find x.insts r.inst with
  | none => s5
  | some inst =>
    let inst1 := { inst with retired := p :: inst.retired }
    let s6 := s5.setDie d { x with insts := Tbl.put x.insts r.inst inst1 }
    (if inst1.retired.length < inst1.places.length then s6 else s6.countInstance d r.inst inst1).preemptOver d

/-- Whether something that the region sent is still on its way to a pool, a rill node or the sluice: stage 5 waits for it. -/
def State.inFlight (s : State) (p : Nat) : Bool :=
  s.net.any fun m => match m.body with
    | .poolCon _ _ _ _ _ _ _ _ => match m.src with
      | some k => k == 8 * p + 2 || (decide (2 ^ 24 + 2048 * p ≤ k) && decide (k < 2 ^ 24 + 2048 * p + 2048))
      | none => false
    | .poolDecl q _ _ _ _ => q == p
    | .gather q _ _ _ _ => q == p
    | .sent q _ _ (.decl _ _) => q == p
    | .sent q _ _ (.release _) => q == p
    | .sent q _ _ (.element _ _ _ _ _ _) => q == p
    | .sent q _ _ (.update _ _) => q == p
    | .sent q _ _ (.store _) => q == p
    | .sent q _ _ (.line _) => q == p
    | .sent q _ _ .ack => q == p
    | .train (some (q, _)) _ _ _ _ => q == p
    | .rmw _ q _ _ _ _ _ _ _ _ => q == p
    | .weirElem q _ _ _ _ _ _ _ _ _ _ _ => q == p
    | .claim q _ => q == p
    | _ => false

/-- Whether a node of a region still holds a train, which goes on to the root when its window ends (R344, R484): one that reached it after the
nodes were flushed. -/
def State.trainsHeld (s : State) (p : Nat) : Bool :=
  (s.region p).rill.any fun e => e.2.train.isSome && (s.recordOf p e.2.grec.decl).isSome

/-- RETIRE_CLEAR (R435): a drained region clears and writes back; once its lines are home it is released. -/
def execRetireClear (p : Nat) (s : State) : Out :=
  let r := s.region p
  if r.mode != .draining then s.idle
  else if r.stage = 2 then (if s.drained p then .next (s.clearRegion p) else s.idle)
  else if r.wbOut = 0 && !s.inFlight p && !s.trainsHeld p then
    .next (if (s.heldAway p).isEmpty && (s.toSettle p).isEmpty then s.retire p else s.askReleases p)
  else s.idle

/-- FORCED_CLEAR (R436): RETTO has passed since `done`. -/
def execForcedClear (p : Nat) (s : State) : Out :=
  let r := s.region p
  let d := dieOfPlace p
  let x := s.die d
  if r.mode == .draining && r.stage == 2 && x.retTo != 0 && decide (r.doneAt + micros x.retTo.toNat ≤ s.tide) then
    .next ((((s.setDie d { x with fclr := x.fclr + 1 }).dropElements p).unitEnds p).clearRegion p)
  else s.idle

/-! ### Chained successors (R132, R438, R439) -/

/-- Whether a region still waits for an instance that its successor inherits from. -/
def State.inheritWaits (s : State) (p : Nat) : Bool := s.basins.any fun b => b.decl.settle && b.had.contains p

/-- SUCCESSOR_START (R439): once every region of the predecessor's index has retired and what it inherits has been released, the
successor's index is placed in the same rectangle. Regions whose successor was cancelled become free. -/
def execSuccessorStart (p : Nat) (s : State) : Out :=
  let d := dieOfPlace p
  let r := s.region p
  let x := s.die d
  if r.mode != .retired then s.idle
  else
    match Tbl.find x.insts r.inst with
    | none => .next (s.freeRegion p)
    | some inst =>
      if inst.retired.length < inst.places.length || (x.preempt.map (·.inst)) == some r.inst then s.idle
      else
        match Tbl.find x.launches inst.launch with
        | none => .next ((s.setDie d { x with insts := Tbl.drop x.insts r.inst }).freeRegion p)
        | some l =>
          if l.isOver || !l.chain.contains inst.index then .next ((s.setDie d { x with insts := Tbl.drop x.insts r.inst }).freeRegion p)
          else if inst.places.any fun q => s.inheritWaits q then s.idle
          else
            let y : Die := { x with
              insts := Tbl.drop x.insts r.inst,
              launches := Tbl.put x.launches inst.launch { l with chain := l.chain.filter (· != inst.index) } }
            .next (((s.setDie d y).dropAttach d r.inst).placeAt d inst.launch inst.index (inst.places.headD 0 % 64) (inst.places.map (· % 64)))

end Sys2Proof.Machine
end

