-- ==== Sys2Proof/Machine/Moving.lean ====
section
/-! DEFINITION. Saving a region and putting it back: what is addressed to it follows it, what must end before a save, the save record
(R357, R427 to R433). -/
namespace Sys2Proof.Machine

/-! ### Addresses of a course (R431, R433) -/

/-- Take b for a place a. -/
def swapPlace (a b p : Nat) : Nat := if p = a then b else p

/-- The source key of an ordered message of a place: of its sequencer, of one of its units, of a msgout port. -/
def swapKey (a b k : Nat) : Nat :=
  if k / 8 = a then 8 * b + k % 8
  else if 2 ^ 24 ≤ k ∧ k < 2 ^ 26 ∧ (k - 2 ^ 24) / 2048 = a then 2 ^ 24 + 2048 * b + k % 2048
  else if 2 ^ 28 ≤ k ∧ (k - 2 ^ 28) / 64 = a then 2 ^ 28 + 64 * b + k % 64
  else k

def Asker.moved (f : Nat → Nat) : Asker → Asker
  | .handler p k => .handler (f p) k
  | .stream p => .stream (f p)

def EngMsg.moved (f : Nat → Nat) (m : EngMsg) : EngMsg := { m with p := f m.p }
def Job.moved (f : Nat → Nat) (j : Job) : Job := { j with msg := j.msg.moved f }
def Holder.moved (f : Nat → Nat) (h : Holder) : Holder := { h with p := f h.p }

/-- A message after its sender or addressee has moved. Requests and write-backs belong to a place, not to the course in it. -/
def Body.moved (f : Nat → Nat) : Body → Body
  | .atomic w op wide pa v clk => .atomic (w.moved f) op wide pa v clk
  | .atomicReply w old clk fl bad => .atomicReply (w.moved f) old clk fl bad
  | .waitv w pa gen clk => .waitv (w.moved f) pa gen clk
  | .waitvArmed w pa gen clk => .waitvArmed (w.moved f) pa gen clk
  | .arrive w pa clk => .arrive (w.moved f) pa clk
  | .await w pa ph clk => .await (w.moved f) pa ph clk
  | .header w h pa op clk => .header (w.moved f) h pa op clk
  | .claim p k => .claim (f p) k
  | .chanWord p u d ch v clk asid => .chanWord (f p) u d ch v clk asid
  | .poolDecl p k key decl fr => .poolDecl (f p) k key decl fr
  | .gather p k key c st => .gather (f p) k key c st
  | .sent p k tag (.home w pa monitor) => .sent (f p) k tag (.home (w.moved f) pa monitor)
  | .sent p k tag w => .sent (f p) k tag w
  | .farGot p who pa op v clk bad => .farGot (f p) who pa op v clk bad
  | .completion p k v fl clk bad c => .completion (f p) k v fl clk bad c
  | .engine m => .engine (m.moved f)
  | .heldReply d m st clk => .heldReply d (m.moved f) st clk
  | .reply p k tag st clk => .reply (f p) k tag st clk
  | .holder d h => .holder d (h.moved f)
  | .weirElem p n ar ctx pa va i vs sw clk rd re => .weirElem (f p) n ar ctx pa va i vs sw clk rd re
  | .rmw op p n ar va pa v sw clk re => .rmw op (f p) n ar va pa v sw clk re
  | .ack p va pa bytes clk => .ack (f p) va pa bytes clk
  | .train to_ who id g ws => .train (to_.map fun x => (f x.1, x.2)) who id g ws
  | .sealMark (some p) j => .sealMark (some (f p)) j
  | .sealMark none w => .sealMark none (w / 2 ^ 40 * 2 ^ 40 + f (w % 2 ^ 40))
  | .genWord p id gen sc op => .genWord (f p) id gen sc op
  | .rescale p id => .rescale (f p) id
  | b => b

def Die.moved (f : Nat → Nat) (x : Die) : Die :=
  { x with
    inboxLast := x.inboxLast.foldl (fun t e => Tbl.put t (f e.1) e.2) [],
    launches := x.launches.map fun e => (e.1, { e.2 with sender := if e.2.src = 32 then f e.2.sender else e.2.sender }),
    inbox := x.inbox.map (EngMsg.moved f), copyIn := x.copyIn.map (EngMsg.moved f), weirIn := x.weirIn.map (EngMsg.moved f),
    copyEng := x.copyEng.map fun e => (e.1, e.2.map (Job.moved f)), weirJobs := x.weirJobs.map (Job.moved f),
    holders := x.holders.map fun e => (e.1, e.2.moved f), arrivals := x.arrivals.map (Holder.moved f),
    chans := x.chans.map fun e => (e.1, { e.2 with sub := e.2.sub.map fun q => (f q.1, q.2) }),
    relatch := x.relatch.map fun op => { op with p := f op.p, left := op.left.map fun k => 32 * f (k / 32) + k % 32 } }

def Wellhead.moved (f : Nat → Nat) (w : Wellhead) : Wellhead :=
  { w with
    inbox := w.inbox.map (EngMsg.moved f), jobs := w.jobs.map fun e => (e.1, e.2.moved f),
    roce := w.roce.map fun e => (e.1, e.2.moved f), replays := w.replays.map fun e => (e.1, { e.2 with job := e.2.job.moved f }) }

def SealOp.moved (f : Nat → Nat) (x : SealOp) : SealOp := { x with p := f x.p, marks := x.marks.map f, gens := x.gens.map f }

/-- The course of place a is addressed by b from now on. -/
def State.readdress (s : State) (a b : Nat) : State :=
  let f := swapPlace a b
  { s with
    net := s.net.map fun m => { src := m.src.map (swapKey a b), body := m.body.moved f },
    dies := s.dies.map fun e => (e.1, e.2.moved f),
    well := s.well.moved f,
    seals := s.seals.map fun e => (e.1, e.2.moved f),
    basins := s.basins.map fun x => { x with refs := x.refs.map f, had := x.had.map f },
    arrays := s.arrays.map fun e => (e.1, { e.2 with ctxs := e.2.ctxs.map fun c => (c.1, { c.2 with p := f c.2.p }) }) }

/-! ### What ends before a save (R429, R431) -/

/-- Whether what another package is to answer is an access that must be performed before a save. -/
def Sent.isAccess : Sent → Bool
  | .line _ => true
  | .home _ _ monitor => !monitor
  | .element _ _ _ _ _ _ => true
  | .update _ _ => true
  | .store _ => true
  | .ack => true
  | .unit _ _ _ => true
  | _ => false

/-- Whether a message is an access of a region that memory, a pool, a weir pipeline or admission has still to perform. -/
def Msg.accesses (m : Msg) (p : Nat) : Bool :=
  m.src == keyMem p || m.src == keyReply p || m.src == keyPool p || m.src == keyHold p ||
    (match m.body with
      | .ack q _ _ _ _ => q == p
      | .sent q _ _ w => q == p && w.isAccess
      | .atomicReply w _ _ _ _ => w.place == p
      | .loadReply q _ _ _ _ _ => q == p
      | .ownReply q _ _ _ _ _ => q == p
      | _ => false)

/-- Whether a message waits at its source for a home that is saved (R357, R431). -/
def State.waitsAway (s : State) (m : Msg) : Bool :=
  match m.body.pool with
  | some key => s.homeAway key
  | none => false

/-- Whether everything that a region has sent to memory has been performed. -/
def State.settled (s : State) (p : Nat) : Bool :=
  let r := s.region p
  r.wbOut == 0 && r.asked.isEmpty && !{ s with net := s.net.filter fun m => !s.waitsAway m }.inFlight p &&
    !s.net.any (fun m => m.accesses p && !s.waitsAway m) && r.stash.all (fun l => !l.dirty) && r.storeDue.isNone &&
    r.ports.all fun e => !e.2.posted && (match e.2.run with
      | some b => b.outstanding == 0
      | none => true)

/-- The handlers and the stream interface of a region that wait at a monitor are released: their words are evaluated again later. -/
def State.releaseMonitors (s : State) (p : Nat) : State :=
  let who (m : Msg) : Option Asker := match m.src, m.body with
    | none, .waitvArmed w _ _ _ => some w
    | none, .await w _ _ _ => some w
    | none, .header w _ _ _ _ => some w
    | none, .sent _ _ _ (.home w _ true) => some w
    | _, _ => none
  let mine := (s.net.filterMap who).filter fun w => w.place == p
  let r := s.region p
  let hs : Tbl Handler := r.handlers.map fun e => (e.1, if mine.contains (.handler p e.1) then { e.2 with wait := .none } else e.2)
  let sif : StreamIf := if mine.contains (.stream p) then { r.sif with posted := false } else r.sif
  let s1 := s.setRegion p { r with handlers := hs, sif := sif }
  { s1 with net := s1.net.filter fun m => (who m).map (·.place) != some p }

/-! ### Markers (R428, R434) -/

/-- A latch that holds nothing, a marker or eos. -/
def latchClosed (t : Option Token) : Bool :=
  match t with
  | none => true
  | some t => t.kind == kMarker || t.kind == kEos

def dropMarker (t : Option Token) : Option Token :=
  match t with
  | some t => if isMarker t then none else some t
  | none => none
def Latch.noMarker (l : Latch) : Latch := if (dropMarker l.tok).isNone then Latch.empty else l
def OutState.noMarker (o : OutState) : OutState := { o with latch := dropMarker o.latch, ctlTaken := dropMarker o.ctlTaken }

def Cell.noMarker (x : Cell) : Cell :=
  { x with
    linkN := x.linkN.noMarker, linkE := x.linkE.noMarker, linkS := x.linkS.noMarker, linkW := x.linkW.noMarker,
    result := x.result.noMarker, outN := x.outN.noMarker, outE := x.outE.noMarker, outS := x.outS.noMarker, outW := x.outW.noMarker,
    marked := false, mem := { x.mem with queue := x.mem.queue.filter fun t => !isMarker t } }

def Port.noMarker (x : Port) : Port :=
  { x with link := x.link.noMarker, out := dropMarker x.out, queue := x.queue.filter fun t => !isMarker t }

def Matrix.noMarker (m : Matrix) : Matrix :=
  { m with mz := m.mz.filter (fun e => !isMarker e.2), ma := m.ma.filter (fun e => !isMarker e.2),
           owed := m.owed.filter (fun e => !isMarker e.2), marked := false }

/-- A cut leaves no marker behind, and its nodes may make another marker firing. -/
def Region.noMarkers (r : Region) : Region :=
  { r with
    cells := r.cells.map fun e => (e.1, e.2.noMarker), ports := r.ports.map fun e => (e.1, e.2.noMarker),
    sides := r.sides.map fun e => (e.1, { e.2 with marker := false }), matrix := r.matrix.noMarker }

/-! ### Whether a cut has closed (R428, R249) -/

def Cell.latchesClosed (x : Cell) : Bool :=
  latchClosed x.linkN.tok && latchClosed x.linkE.tok && latchClosed x.linkS.tok && latchClosed x.linkW.tok &&
    latchClosed x.result.tok && latchClosed x.outN.latch && latchClosed x.outE.latch && latchClosed x.outS.latch &&
    latchClosed x.outW.latch && x.mem.queue.all (fun t => latchClosed (some t))

/-- Every node has made its final or its marker firing, every write port has taken a marker or has no binding, and the matrix unit has
made its marker firing or holds no operation. -/
def Region.marksTaken (r : Region) : Bool :=
  let m := r.matrix
  let portOk (e : Nat × Port) : Bool :=
    (r.side e.1).marker || e.2.ended || (!portReads e.2.word && e.2.word.op != .xlat && e.2.run.isNone)
  r.cells.all (fun e => e.2.isOver || e.2.marked || e.2.ended || e.2.word.isNone) && r.ports.all portOk &&
    (m.marked || (m.current.isNone && m.flight.isEmpty && m.drains.isEmpty))

/-- At closure every latch holds nothing, a marker or eos. -/
def Region.latchesClosed (r : Region) : Bool :=
  r.cells.all (fun e => e.2.latchesClosed) && r.ports.all (fun e => latchClosed e.2.link.tok && latchClosed e.2.out) &&
    r.matrix.mz.all (fun e => latchClosed (some e.2)) && r.matrix.ma.all (fun e => latchClosed (some e.2)) &&
    r.matrix.owed.all (fun e => latchClosed (some e.2)) && r.matrix.flight.isEmpty && r.matrix.drains.isEmpty

/-! ### A freeze completes what has begun (R205, R229, R429) -/

/-- Granted column function requests enter their reply queues. -/
def State.grantsArrive (s : State) (p : Nat) : State :=
  (s.region p).cells.foldl (fun s e =>
    let x := s.cell p e.1
    match x.word with
    | none => s
    | some w =>
      let vs := x.mem.flight.map fun f => xfnReply w f.value.toNat
      let s1 := vs.foldl (fun s v => s.raiseFlags p x.step v.2) s
      s1.setCell p e.1 { x with mem := { x.mem with flight := [], replies := x.mem.replies ++ vs.map fun v => BitVec.ofNat 32 v.1 } }) s

/-! ### The save record (R430) -/

/-- The steps that a save holds: those of the fabric, not the image loaded ahead of them (R128, R430). -/
def Region.stepsSaved (r : Region) : Nat :=
  let n := r.steps.countP fun x => x.loaded && decide (x.num ≤ r.stepNo)
  if n = 0 then 1 else if 3 < n then 3 else n

/-- The header of a save. -/
def saveHeader (r : Region) (tide : DWord) (form : Nat) (valid : Bool) : Nat :=
  0x45564153 + (if valid then 2 ^ 32 else 0) + (if form = 0 then 0 else 2 ^ 33) + form % 4 * 2 ^ 34 +
    r.stepsSaved % 16 * 2 ^ 36 + r.cc.toNat * 2 ^ 240 + r.slot % 64 * 2 ^ 244 + r.placeId % 1024 * 2 ^ 250 +
    r.instIdx % 4096 * 2 ^ 260 + r.asid.toNat * 2 ^ 272 + r.job % 2 ^ 32 * 2 ^ 288 + r.ic.toNat * 2 ^ 320 + r.icend.toNat * 2 ^ 352 +
    r.wid.toNat * 2 ^ 384 + tide.toNat * 2 ^ 448

/-- The bytes of a save: to 0x8_0000, and with the matrix unit's state to 0x1A_0000. -/
def saveLength (form : Nat) : Nat := if form = 0 then 0x80000 else 0x1A0000

/-- The bytes of a save behind its header, which have no layout that a program may rely on (log entry 7). -/
def saveBody (fresh form : Nat) : List Byte := (List.range (saveLength form - 64)).map fun k => Config.saveByte fresh (k + 64)

/-- Write a save at a physical address of the save slots. -/
def State.writeSave (s : State) (pa : Nat) (r : Region) (form : Nat) : State :=
  let m1 := Memory.writeLE s.mem pa 64 (saveHeader r s.tideNow form true)
  { s with mem := Memory.writeBytes m1 (pa + 64) (saveBody s.fresh form), fresh := s.fresh + 1 }

/-- The region's state in the device's own layout (log entry 7). -/
def Region.saved (r : Region) : Region :=
  { r with mode := .frozen, stash := [], wbOut := 0, asked := [], tlb := [] }

/-! ### Splice points (R427) -/

/-- A region at a splice point waits for step cc again: it is installed afresh when the region resumes. -/
def Region.unspliced (r : Region) : Region :=
  if r.atSplice then
    let x : StepSlot := { num := r.stepNo, image := r.image, idx := r.cc.toNat, loaded := false, refused := false, openAt := 0 }
    { r with stepNo := r.stepNo - 1, steps := r.steps.filter (fun y => decide (y.num < r.stepNo)) ++ [x] }
  else r

/-- The fabric of a step that has torn down: the port queues, meters and spillways stay (R255, R427). -/
def Region.tornDown (r : Region) : Region :=
  let m := r.matrix
  { r with
    cells := [], ports := r.ports.map (fun e => (e.1, (e.2.leave (r.stepNo - 1)).noMarker)), columns := [], rill := [], steps := [],
    matrix := { Matrix.reset with step := r.stepNo, channel := m.channel, walk := m.walk, orgY := m.orgY, orgX := m.orgX } }

/-! ### Saving and resuming one region -/

/-- The lowest free save slot of a die (R430). -/
def Die.freeSlot (x : Die) : Option Nat := (List.range x.saveN).find? fun k => !x.slotsUsed.contains k

/-- Replace a place in an entry of the sluice's table of instances. -/
def Instance.moved (i : Instance) (a b : Nat) : Instance :=
  { i with places := i.places.map (swapPlace a b), retired := i.retired.map (swapPlace a b) }

/-- A relatch token that stands at a port of a region emerges as the region is saved, since its windows are latched afresh; one at an
xlat whose pairs are saved with the region stays (R328). -/
def State.relatchesEmerge (s : State) (p : Nat) : State :=
  (s.region p).sides.foldl (fun s e => match (s.die (dieOfPlace p)).relatch with
    | none => s
    | some op => if e.2.relatch && !s.pairsLeft p e.1 op.base (2 ^ (op.log + 12)) then s.relatchEmerges p e.1 else s) s

/-- Save a region in a form (0 splice point, 1 cut, 2 freeze) and free it. -/
def State.saveRegion (s : State) (p form : Nat) : State :=
  let d := dieOfPlace p
  match (s.die d).freeSlot with
  | none => s
  | some slot =>
    let key := savedKey d slot
    let s0 := (s.region p).rill.foldl (fun s e => s.nodeFlush p e.1) s
    let s1 := (s0.relatchesEmerge p).releaseMonitors p
    let r0 := s1.region p
    let kept := if r0.modeUnder == .frozen then (if r0.mode == .held then (.held, r0.kept.1) else r0.kept) else (r0.mode, r0.before)
    let kept1 : RegionMode × RegionMode :=
      if r0.atSplice then (if kept.1 == .held then (.held, .placed) else (.placed, kept.2)) else kept
    let r1 := { r0.noMarkers with kept := kept1 }
    let r2 := (if form = 0 && r1.mode != .retired then r1.tornDown else r1).unspliced
    let s2 := (s1.readdress p key).setRegion key r2.saved
    let x := s2.die d
    let entry : SavedRegion := { q := r2.slot, place := r2.placeId, form := form, slot := slot }
    let s3 := s2.setDie d { x with
      insts := Tbl.adjust x.insts r2.inst fun i => { i.moved p key with saved := i.saved ++ [entry] },
      slotsUsed := insertSorted slot x.slotsUsed }
    (s3.writeSave (x.saveBase + slot * 2 ^ 21) r2 form).freeRegion p

/-- The windows that the resume of a region latches afresh (R325, R433). -/
def State.relatchSides (d : Nat) (asid : BitVec 16) : Tbl PortSide → Tbl PortSide → State → Tbl PortSide × State
  | [], acc, s => (acc.reverse, s)
  | (n, x) :: t, acc, s =>
    let (ws, s1) := State.latchWindows d asid (x.windows.map (·.recd)) [] s
    State.relatchSides d asid t ((n, { x with windows := ws, latch := none, xlatches := [] }) :: acc) s1

/-- A spill window that fails to latch raises the configuration fault of its port. -/
def State.checkSpills (s : State) (p : Nat) : State :=
  (s.region p).sides.foldl (fun s e => if spillOk e.2.windows then s else s.unitFault p .config 2 (coordPort e.1) 0 0 0 none 0) s

/-- Put a saved region back at a place: the stash, the translations and, after a splice point, the origin of the walk are the
place's own. -/
def State.restoreRegion (s0 : State) (e : SavedRegion) (key p : Nat) : State :=
  let r := s0.region key
  let (sides, s) := State.relatchSides (dieOfPlace p) r.asid r.sides [] s0
  let here := s.region p
  let matrix := if e.form = 0 then { r.matrix with walk := here.matrix.walk, orgY := here.matrix.orgY, orgX := here.matrix.orgX }
    else r.matrix
  let r1 := { r with
    mode := r.kept.1, before := r.kept.2, stash := here.stash, wbOut := here.wbOut, asked := here.asked, tlb := here.tlb,
    stampNo := here.stampNo, lclk := maxClk (maxClk r.lclk here.lclk) (s.die (dieOfPlace p)).hclk, matrix := matrix,
    sides := sides }
  let s1 := s.readdress key p
  let s2 : State := { s1 with regions := Tbl.drop s1.regions key }
  let s3 := (s2.setRegion p r1).checkSpills p
  { s3 with agenda := .issue p :: s3.agenda }

end Sys2Proof.Machine
end

