-- ==== Sys2Proof/Machine/Preempt.lean ====
section
/-! DEFINITION. Pre-emption, `snap` and resume (R280, R340, R357, R424 to R434). -/
namespace Sys2Proof.Machine

/-! ### Requests (R425) -/

/-- PREEMPT_REQUEST (R424, R425): a write to PREQ. It also finds that a pre-emption that waited may start. -/
def execPreemptRequest (d : Nat) (v : BitVec 64) (s : State) : Out :=
  let x := s.die d
  let n := v.toNat
  let named (e : Nat × Instance) : Bool := e.2.placed && e.2.index == fld n 48 12 && (match x.launchRecOf e.2 with
    | some l => l.recd.job == fld n 0 32 && l.recd.asid.toNat == fld n 32 16 && !l.recd.sys
    | none => false)
  if x.busy || fld n 60 4 != 0 then s.idle
  else
    match x.insts.find? named with
    | some (iid, i) => .next (s.startPreempt d iid i)
    | none => s.idle

/-- The instances that a pre-emption for an anchored launch of class 3 takes, of a rectangle. -/
def State.inTheWay (s : State) (d : Nat) (rect : List Nat) : List (Nat × Instance) :=
  let x := s.die d
  x.insts.filter fun e => e.2.placed && rect.any fun n =>
    (s.region (64 * d + n)).modeUnder != .free && (s.region (64 * d + n)).inst == e.1

/-- Whether a region is free, or held by an instance of effective class below 3 that may be pre-empted. -/
def State.couldFree (s : State) (d n : Nat) : Bool :=
  let x := s.die d
  let r := s.region (64 * d + n)
  r.modeUnder == .free || (match (Tbl.find x.insts r.inst).bind x.launchRecOf with
    | some l => decide (l.cls < 3) && !l.recd.sys
    | none => false)

/-- AUTO_PREEMPT (R425): the instance placed last of those in the way of an anchored launch of class 3. -/
def execAutoPreempt (d : Nat) (s : State) : Out :=
  let x := s.die d
  if !x.autop || x.busy then s.idle
  else
    match x.order.find? fun e => e.2.anchored && e.2.cls == 3 with
    | none => s.idle
    | some (u, l) =>
      match s.firstFit d u l (s.couldFree d) with
      | none => s.idle
      | some (_, rect) =>
        let newest := (s.inTheWay d rect).foldl (fun (b : Option (Nat × Instance)) e => match b with
          | none => some e
          | some f => if f.2.stamp < e.2.stamp then some e else some f) none
        match newest with
        | none => s.idle
        | some (iid, i) => .next (s.startPreempt d iid i)

/-! ### A save that fails (R432) -/

/-- Discard one saved region of an instance that ends. -/
def State.discardSaved (s : State) (key : Nat) : State :=
  if (s.region key).kept.1 == .retired then s.freeRegion key else (s.clearRegion key).retire key

/-- A frozen region goes on in the mode that the freeze found. -/
def State.thaw (s : State) (p : Nat) : State :=
  let r := s.region p
  if r.mode == .frozen then s.setRegion p { r with mode := r.kept.1, before := r.kept.2 } else s

/-- A save fails (R432): the instance ends with status 0x0B, and its saved regions are discarded. -/
def State.saveFails (s : State) (p : Nat) : State :=
  let d := dieOfPlace p
  let x := s.die d
  let iid := (s.region p).inst
  let s1 := (s.setDie d { x with preempt := none }).markFailed p
  match Tbl.find x.insts iid with
  | none => s1
  | some i =>
    let finish (s : State) (q : Nat) : State :=
      if savedBase ≤ q then s.discardSaved q
      else
        let s2 := s.thaw q
        if (s2.region q).modeUnder.live && (s2.region q).inst == iid then s2.startDone q true else s2
    (i.places.foldl finish s1).startWaiting d

/-! ### The three forms (R426 to R429) -/

/-- The pre-emption that has still to save a region. -/
def State.saving (s : State) (p : Nat) : Option Preempt :=
  let r := s.region p
  if r.modeUnder == .free || 256 ≤ p then none
  else
    match (s.die (dieOfPlace p)).preempt with
    | some w => if w.inst = r.inst then some w else none
    | none => none

/-- The steps that a region went on from have torn down, and the matrix unit has passed to the new step. -/
def State.tornAll (s : State) (p : Nat) : Bool :=
  let r := s.region p
  r.matrix.step == r.stepNo && (r.steps.all fun x => s.tornDown p x) && r.cells.all (fun e => e.2.isOver) &&
    r.ports.all (fun e => r.nodeOver (portNode e.1) && e.2.link.tok.isNone)

/-- Save a region once its dirty lines are home and all that it has sent is performed. -/
def State.saveWhenSettled (s : State) (p form : Nat) : State :=
  let r := s.region p
  if r.stash.any (·.dirty) then s.writeBackAll p
  else if s.settled p then (s.saveRegion p form).preemptOver (dieOfPlace p)
  else s

/-- SPLICE_POINT_SAVE (R427): after the teardown of a step that a `next` or `goto` went on from. A region that waits for a chained
successor is saved at once; one whose sequencer has stopped fails its save (R432). -/
def execSplicePointSave (p : Nat) (s : State) : Out :=
  let r := s.region p
  match s.saving p with
  | none => s.idle
  | some _ =>
    if r.modeUnder == .stopped then .next (s.saveFails p)
    else if r.mode == .retired then .next ((s.saveRegion p 0).preemptOver (dieOfPlace p))
    else if r.modeUnder != .frozen && r.atSplice && s.tornAll p then .next (s.saveWhenSettled p 0)
    else s.idle

/-- PREEMPT_MARKER_INJECT (R426, R428): at SPLTO, into every region that is neither saved nor at a splice point. -/
def execPreemptMarkerInject (d : Nat) (s : State) : Out :=
  let x := s.die d
  match x.preempt with
  | none => s.idle
  | some w =>
    match Tbl.find x.insts w.inst with
    | none => s.idle
    | some i =>
      let open_ (p : Nat) : Bool :=
        decide (p < 256) && (s.region p).inst == w.inst && ((s.region p).modeUnder.live || (s.region p).modeUnder == .draining) &&
          !(s.region p).atSplice && !w.marked.contains p
      let ps := i.places.filter open_
      if s.tide < w.start + w.splTo ∨ ps = [] then s.idle
      else .next (s.setDie d { x with preempt := some { w with marked := w.marked ++ ps } })

/-- The tiles that the contexts of a region's graphs are counting end at a marker (R340). -/
def State.endRegionTiles (s : State) (p : Nat) : State :=
  let mine := s.arrays.flatMap fun e => (e.2.ctxs.filter fun c => c.2.p == p).map fun c => (e.1, c.1)
  mine.foldl (fun s e => s.endCtxTiles e.1 e.2) s

/-! ### `snap` (R280, R434) -/

/-- The pages of a save area, from a page-aligned address. -/
def savePages (va form : Nat) : List Nat := (List.range (saveLength form / 4096)).map fun k => (va + 4096 * k) % 2 ^ 57

/-- Translate the pages of a save area: their physical addresses, or the first that may not be written. -/
def State.areaPages (p : Nat) : List Nat → List Nat → State → Except (Nat × List Nat) (List Nat) × State
  | [], acc, s => (.ok acc.reverse, s)
  | va :: t, acc, s =>
    match s.unitNow p va .write with
    | (.ok pa _, s1) => State.areaPages p t (pa :: acc) s1
    | (_, s1) => (.error (va, acc.reverse), s1)

/-- Write one page through the spill path: each line at its home. -/
def State.writePage (s : State) (p pa : Nat) (bs : List Byte) : State :=
  (List.range 64).foldl (fun s k =>
    if s.elsewhere pa then s.farStore p (pa + 64 * k) 64 (leValue ((bs.drop (64 * k)).take 64)) else
    let (clk, s1) := s.homeWrite (pa + 64 * k) 64 (leValue ((bs.drop (64 * k)).take 64)) (s.region p).lclk
    s1.setRegion p { s1.region p with lclk := clk }) s

/-- Write a save over its pages. -/
def State.writePages (p : Nat) : List Nat → List Byte → State → State
  | [], _, s => s
  | pa :: t, bs, s => State.writePages p t (bs.drop 4096) (s.writePage p pa (bs.take 4096))

/-- A snap whose area cannot be written: the fault, VALID = 0 in the header, 2 on the channel. -/
def State.snapFails (s : State) (p : Nat) (op : SnapOp) (va form : Nat) (first : Option Nat) : State :=
  let r := s.region p
  let s1 := match first with
    | some pa => s.writePage p pa (leBytes 64 (saveHeader r s.tideNow form false))
    | none => s
  let s2 := s1.unitFault p .save 4 0 0 va op.tmpl none 0
  match op.ch with
  | some c => s2.post (keyChan p) (.chanWord p 4 (dieOfPlace p) c 2 (s2.region p).lclk r.asid)
  | none => s2

/-- The save of a snap: the cut or the frozen state goes to its area, and one word to its channel. The cut is then over. -/
def State.snapSave (s : State) (p : Nat) (op : SnapOp) (form : Nat) : State :=
  let s0 := (s.endRegionTiles p).writeBackAll p
  let r := s0.region p
  let ends (s : State) : State :=
    let r := s.region p
    s.setRegion p { r.noMarkers with sif := { r.sif with snap := none } }
  match State.areaPages p (savePages op.va form) [] s0 with
  | (.error (va, done), s1) => ends (s1.snapFails p op va form done.head?)
  | (.ok pas, s1) =>
    let bs := leBytes 64 (saveHeader r s1.tideNow form true) ++ saveBody s1.fresh form
    let s2 : State := { State.writePages p pas bs s1 with fresh := s1.fresh + 1 }
    ends (match op.ch with
      | some c => s2.post (keyChan p) (.chanWord p 4 (dieOfPlace p) c (BitVec.ofNat 64 (form - 1)) (s2.region p).lclk r.asid)
      | none => s2)

/-- The command SNAP (R280): its cut opens. One that comes while another is open waits at the head of the queue. -/
def execSnap (save : BitVec 64) (rv : Bool) (rch : BitVec 8) (s : State) : Out :=
  let p := s.cur.1
  let r := s.mine
  match s.headCmd with
  | none => s.idle
  | some q =>
    if r.sif.snap.isSome then s.stall
    else
      let s1 := s.popCommand p
      let r1 := s1.region p
      let op : SnapOp := { va := save.toNat, ch := if rv then some rch.toNat else none, since := s.tide, tmpl := q.tmpl, frozen := false }
      .next (s1.setRegion p { r1 with sif := { r1.sif with snap := some op } })

/-- CUT_CLOSE (R428, R434): the cut of a snap is written to its area and the course goes on; that of a pre-emption is saved once
every latch is closed. -/
def execCutClose (p : Nat) (s : State) : Out :=
  let r := s.region p
  if !r.moves || !s.cutReady p || !r.marksTaken then s.idle
  else
    match r.sif.snap with
    | some op => .next (s.snapSave p op 1)
    | none =>
      match s.saving p with
      | none => s.idle
      | some _ =>
        if r.mode == .stopped then .next (s.saveFails p)
        else if r.latchesClosed then .next ((s.endRegionTiles p).saveWhenSettled p 1)
        else s.idle

/-- A region stops in one cycle, and what it has begun is completed (R429). -/
def State.freezeRegion (s : State) (p : Nat) : State :=
  let s1 := (s.grantsArrive p).vectorsEnd p
  let r1 := s1.region p
  s1.setRegion p { r1 with mode := .frozen, before := .frozen, kept := (r1.mode, r1.before) }

/-- A freeze under `snap` (R434): at the snapshot timeout the region stops; when its dirty lines are home and all that it has sent is
performed it saves as it stands and resumes in place. -/
def State.freezeForSnap (s : State) (p : Nat) (op : SnapOp) : Out :=
  let r := s.region p
  if op.frozen then
    if r.mode != .frozen then s.idle
    else if r.stash.any (·.dirty) then .next (s.writeBackAll p)
    else if s.settled p then .next ((s.snapSave p op 2).thaw p)
    else s.idle
  else if !(r.moves || r.mode == .held) || decide (s.tide < op.since + micros (s.die (dieOfPlace p)).snapTo.toNat) then s.idle
  else
    let s1 := s.freezeRegion p
    let r1 := s1.region p
    .next (s1.setRegion p { r1 with sif := { r1.sif with snap := some { op with frozen := true } } })

/-- FREEZE (R280, R429, R434): a region whose cut has not closed in time stops in one cycle, completes what it has begun, and saves as
it stands. A freeze under `snap` that has begun ends before a pre-emption saves the region. -/
def execFreeze (p : Nat) (s : State) : Out :=
  let r := s.region p
  match r.sif.snap, s.saving p with
  | some op, none => s.freezeForSnap p op
  | none, none => s.idle
  | snap, some w =>
    match snap.filter (·.frozen) with
    | some op => s.freezeForSnap p op
    | none =>
      if r.modeUnder == .frozen then .next (s.saveWhenSettled p 2)
      else if r.modeUnder == .retired || decide (s.tide < w.start + w.splTo + w.snapTo) then s.idle
      else if r.modeUnder == .stopped then .next (s.saveFails p)
      -- a region that has reached a splice point is saved there, however long its teardown takes (R426, R427)
      else if r.atSplice then s.idle
      else .next (s.freezeRegion p)

/-! ### Resume (R433) -/

/-- The place of slot q in a rectangle. -/
def placeOfSlot (d : Nat) (rect : List Nat) (q : Nat) : Nat := 64 * d + rect.getD q 0

/-- Put every saved region of an instance back, and free the save slots. -/
def State.resumeInstance (s : State) (d iid : Nat) (i : Instance) (rect : List Nat) : State :=
  let put (s : State) (e : SavedRegion) : State :=
    let key := savedKey d e.slot
    let p := placeOfSlot d rect e.q
    let s1 := s.restoreRegion e key p
    let x := s1.die d
    s1.setDie d { x with insts := Tbl.adjust x.insts iid fun j => j.moved key p, slotsUsed := x.slotsUsed.filter (· != e.slot) }
  let s1 := i.saved.foldl put s
  let x := s1.die d
  let stamp := x.insts.foldl (fun n e => if n ≤ e.2.stamp then e.2.stamp + 1 else n) 0
  (s1.setDie d { x with insts := Tbl.adjust x.insts iid fun j => { j with saved := [], stamp := stamp } }).startWaiting d

/-- PREEMPT_RESUME (R433): the next placement of the service order is that of a pre-empted instance. -/
def execPreemptResume (d : Nat) (s : State) : Out :=
  match s.nextPlacement d (s.die d).allowed [] with
  | none => s.idle
  | some (u, l, tried, _, rect) =>
    match l.resume with
    | none => s.idle
    | some iid =>
      match Tbl.find (s.die d).insts iid with
      | none => .next (s.setDie d { s.die d with launches := Tbl.drop (s.die d).launches u }.turns)
      | some i =>
        match s.wakeClusters d rect with
        | (false, s1) => .next s1
        | (true, s1) =>
          let s2 := s1.markPlaced d u tried
          let x := s2.die d
          .next ((s2.setDie d { x with launches := Tbl.drop x.launches u }.turns).resumeInstance d iid i rect)

end Sys2Proof.Machine
end

