-- ==== Sys2Proof/Machine/Power.lean ====
section
/-! DEFINITION. Cluster gating and voltage-frequency domains (R356, R441 to R443). -/
namespace Sys2Proof.Machine

/-! ### Gating (R441, R442) -/

/-- The regions of a cluster of 2 by 2, by number. -/
def regionsOfCluster (c : Nat) : List Nat := (List.range 64).filter fun n => clusterOf n == c

/-- Whether a home basin of a pool instance lies in a cluster, which then stays on (R356). -/
def State.basinIn (s : State) (d c : Nat) : Bool :=
  s.basins.any fun b => s.homeHere b.key && b.key.home % 1024 / 64 == d && clusterOf (b.key.home % 64) == c

/-- CLUSTER_GATE (R441): a cluster whose four regions have been free for GATEDLY. -/
def execClusterGate (d c : Nat) (s : State) : Out :=
  let x := s.die d
  let k := x.cluster c
  let ps := regionsOfCluster c
  if c < 16 && k.power == .on && x.gateDly != 0 && ps.all (s.regionFree d) && !s.basinIn d c &&
      decide (k.freeFrom + micros x.gateDly.toNat ≤ s.tide) then
    .next (s.setDie d (x.setCluster c { k with power := .entering (s.tide + micros 8) }))
  else s.idle

/-- CLUSTER_GATE_ENTRY_COMPLETE (R441). -/
def execClusterGateEntryComplete (d c : Nat) (s : State) : Out :=
  let x := s.die d
  let k := x.cluster c
  match k.power with
  | .entering due => if due ≤ s.tide then .next (s.setDie d (x.setCluster c { k with power := .gated })) else s.idle
  | _ => s.idle

/-- CLUSTER_EXIT_COMPLETE (R442). -/
def execClusterExitComplete (d c : Nat) (s : State) : Out :=
  let x := s.die d
  let k := x.cluster c
  match k.power with
  | .leaving due => if due ≤ s.tide then .next (s.setDie d (x.setCluster c { power := .on, freeFrom := s.tide })) else s.idle
  | _ => s.idle

/-! ### Domains (R443) -/

/-- The entry that a write to a domain register asks for. -/
def Domain.wanted (x : Domain) (n : Nat) : Domain :=
  { x with en := bit n 31, fcode := fld n 12 4, ch := fld n 6 2, cw := fld n 4 2, cy := fld n 2 2, cx := fld n 0 2 }

/-- Whether the rectangles of two domains share a cluster. -/
def Domain.overlaps (x y : Domain) : Bool :=
  decide (x.cx ≤ y.cx + y.cw) && decide (y.cx ≤ x.cx + x.cw) && decide (x.cy ≤ y.cy + y.ch) && decide (y.cy ≤ x.cy + x.ch)

/-- Whether a write is refused. The rectangles count with EN = 0 too; a change to FCODE alone is accepted at any time. -/
def State.domainRefused (s : State) (d j n : Nat) : Bool :=
  let x := s.die d
  let old := x.domain j
  let new := old.wanted n
  let moved := old.en != new.en || old.cx != new.cx || old.cy != new.cy || old.cw != new.cw || old.ch != new.ch
  let others := (List.range 8).filter fun k => k != j && (x.domain k).en && new.overlaps (x.domain k)
  decide (8 < new.fcode) || decide (n / 2 ^ 32 ≠ 0) || decide (fld n 20 10 ≠ 0) || decide (fld n 8 4 ≠ 0) ||
    (moved && (decide (3 < new.cx + new.cw) || decide (3 < new.cy + new.ch) || !others.isEmpty ||
      (old.covers ++ new.covers).any fun r => !s.regionFree d r))

/-- A clock that has to move does so 2 µs from now. -/
def Domain.aim (x : Domain) (now : Nat) : Domain :=
  { x with stepAt := if x.fcur = x.fcode then none else match x.stepAt with
      | some t => some t
      | none => some (now + micros 2) }

/-- DOMAIN_ENTRY_WRITE (R443). -/
def execDomainEntryWrite (d j : Nat) (v : BitVec 64) (s : State) : Out :=
  let x := s.die d
  let old := x.domain j
  if 8 ≤ j then s.idle
  else if s.domainRefused d j v.toNat then .next (s.setDie d (x.setDomain j { old with err := true }))
  else .next (s.setDie d (x.setDomain j ({ old.wanted v.toNat with err := false }.aim s.tide)))

/-- DOMAIN_CLOCK_STEP (R443): FCUR moves toward FCODE by one step every 2 µs. -/
def execDomainClockStep (d j : Nat) (s : State) : Out :=
  let x := s.die d
  let k := x.domain j
  match k.stepAt with
  | none => s.idle
  | some t =>
    if s.tide < t then s.idle
    else
      let f := if k.fcur < k.fcode then k.fcur + 1 else if k.fcode < k.fcur then k.fcur - 1 else k.fcur
      .next (s.setDie d (x.setDomain j ({ k with fcur := f, stepAt := none }.aim t)))

end Sys2Proof.Machine
end

