-- ==== Sys2Proof/Machine/Cascade.lean ====
section
/-! DEFINITION. The cascade: chunk graphs, replays and their nodes (R360, R369, R400 to R415). -/
namespace Sys2Proof.Machine

/-! ### Tables of the wellhead -/

def State.setGraph (s : State) (gid : Nat) (g : Graph) : State := { s with well := { s.well with graphs := Tbl.put s.well.graphs gid g } }
def State.graph (s : State) (gid : Nat) : Option Graph := Tbl.find s.well.graphs gid
def State.setReplay (s : State) (r : Nat) (x : Replay) : State := { s with well := { s.well with replays := Tbl.put s.well.replays r x } }
/-- R398: a group that may be named on this package. -/
def State.groupOk (s : State) (g : Nat) : Bool := decide (g < 1024) && bit (Tbl.look s.well.groups g 0).toNat s.well.pkg

/-! ### Jobs of the cascade (R401, R403) -/

def EngMsg.gid (m : EngMsg) : Nat := m.opnd 0 / 2 ^ 57
def EngMsg.va (m : EngMsg) : Nat := m.opnd 0 % 2 ^ 57
/-- Operand 1, zero when it is absent. -/
def EngMsg.second (m : EngMsg) : Nat := if m.nop < 2 then 0 else m.opnd 1

/-- The reply of a job that the wellhead holds under a kind and a number: one for a channel waits behind those held before it (R170). -/
def State.wellReply (s : State) (who : Nat × Nat) (m : EngMsg) (status : Nat) (clk : DWord) : Replied :=
  if m.toChannel && s.well.held.head?.any (· != who) then .full
  else
    match s.reply m.die m status clk with
    | .full => .full
    | .sent s1 => .sent { s1 with well := { s1.well with held := s1.well.held.filter (· != who) } }

/-- A reply joins those that the wellhead holds. -/
def Wellhead.hold (w : Wellhead) (who : Nat × Nat) : Wellhead := if w.held.contains who then w else { w with held := w.held ++ [who] }

/-- A job of the cascade ends with a status, or is kept until the channel of its reply has room (R170). -/
def State.endCascade (s : State) (j : Nat) (job : Job) (status : Nat) : State :=
  match s.engEnd job status 0x0A with
  | none => { s with well := { s.well with jobs := Tbl.put s.well.jobs j { job with reply := some status } } }
  | some (st, clk, s0) =>
  match s0.wellReply (0, j) job.msg st clk with
  | .full => { s0 with well := { s0.well.hold (0, j) with jobs := Tbl.put s0.well.jobs j { job with reply := some st, clk := clk } } }
  | .sent s1 =>
    let s2 : State := { s1 with well := { s1.well with jobs := Tbl.drop s1.well.jobs j } }
    match job.msg.hold with
    | some id => s2.completeHolder job.msg.die id clk
    | none => s2

/-- One step of a cascade job of an opcode. -/
def State.cascadeJob (s : State) (j opc : Nat) (f : Job → State) : Out :=
  match Tbl.find s.well.jobs j with
  | none => s.idle
  | some job =>
    if job.msg.opc ≠ opc then s.idle
    else
      match job.reply with
      | some st => .next (s.endCascade j job st)
      | none => .next (f job)

/-- The status of a failed access of a cascade job. -/
def casStatus (st : Nat) : Nat := if st = 0x08 then 0x0A else 0x09

/-- Read or write a word of a cascade job: host memory is not for it (R283). -/
def State.casRead (s : State) (j : Job) (va : Nat) : Word4 × State :=
  match s.engAt j.msg.die j.msg.asid va .read with
  | (.bad c, s1) => (.bad (casStatus (statusOf c)), s1)
  | (.at pa _, s1) =>
    if hostBit pa then (.bad 0x09, s1)
    else
      match s1.jobRead j.msg.die j va with
      | (.bad st, s2) => (.bad (casStatus st), s2)
      | x => x
def State.casWrite (s : State) (j : Job) (va v : Nat) : Word4 × State :=
  match s.engAt j.msg.die j.msg.asid va .write with
  | (.bad c, s1) => (.bad (casStatus (statusOf c)), s1)
  | (.at pa _, s1) =>
    if hostBit pa then (.bad 0x09, s1)
    else
      match s1.jobWrite j.msg.die j va v j.clk with
      | (.bad st, s2) => (.bad (casStatus st), s2)
      | x => x

/-- What reading or writing some words comes to. -/
inductive Words
  | done (vs : List Nat) (clk : DWord)
  | wait
  | bad (status : Nat)

/-- Read n words through a function of their offset. -/
def eachRead (rd : Job → Nat → State → Word4 × State) : Nat → Nat → Job → State → Words × State
  | 0, _, j, s => (.done [] j.clk, s)
  | n + 1, off, j, s =>
    match rd j off s with
    | (.wait, s1) => (.wait, s1)
    | (.bad st, s1) => (.bad st, s1)
    | (.done v c, s1) =>
      match eachRead rd n (off + 4) { j with clk := c } s1 with
      | (.done vs c2, s2) => (.done (v :: vs) c2, s2)
      | x => x

/-- Write words through a function of their offset. -/
def eachWrite (wr : Job → Nat → Nat → State → Word4 × State) : List Nat → Nat → Job → State → Words × State
  | [], _, j, s => (.done [] j.clk, s)
  | v :: t, off, j, s =>
    match wr j off v s with
    | (.wait, s1) => (.wait, s1)
    | (.bad st, s1) => (.bad st, s1)
    | (.done _ c, s1) => eachWrite wr t (off + 4) { j with clk := c } s1

def State.casWords (s : State) (j : Job) (va n : Nat) : Words × State := eachRead (fun j off s => s.casRead j (va + off)) n 0 j s

/-- 64-bit words of a list of 32-bit words. -/
def pairUp : List Nat → List Nat
  | a :: b :: t => (a + b * 2 ^ 32) :: pairUp t
  | _ => []
/-- 128-bit words of a list of 32-bit words. -/
def quadUp : List Nat → List Nat
  | a :: b :: c :: d :: t => (a + b * 2 ^ 32 + c * 2 ^ 64 + d * 2 ^ 96) :: quadUp t
  | _ => []
def wordsOfBytes : Nat → List Byte → List Nat
  | 0, _ => []
  | n + 1, bs => leValue (bs.take 4) :: wordsOfBytes n (bs.drop 4)
def bytesOfWords (vs : List Nat) : List Byte := vs.flatMap fun v => leBytes 4 v

/-! ### GLOAD, GFREE, GSTAT (R101, R398, R400 to R402, R404) -/

/-- The offset at which a reservation of the chunk buffer fits: behind another, or at zero. -/
def chunkRoom (gs : Tbl Graph) (len : Nat) : Option Nat :=
  let free (b : Nat) : Bool := decide (b + len ≤ 2 ^ 26) && gs.all fun g => decide (g.2.base + g.2.len ≤ b) || decide (b + len ≤ g.2.base)
  (0 :: gs.map fun g => g.2.base + g.2.len).find? free

/-- Whether two nodes are the same recv. -/
def sameRecv (a b : ChunkNode) : Bool :=
  match a.op, b.op with
  | .recv p, .recv q => p == q && a.dst == b.dst
  | _, _ => false

/-- Whether GLOAD refuses node i of a graph (R101, R404). -/
def State.refusesNode (s : State) (group : Nat) (nodes : List (Option ChunkNode)) (i : Nat) : Bool :=
  match (nodes[i]?).join with
  | none => true
  | some x =>
    let peerBad (p : Nat) : Bool := p == s.well.pkg || !(s.groupMembers group).contains p
    match x.op with
    | .send p => peerBad p
    | .recv p => peerBad p || (List.range nodes.length).any fun k => k != i && (match (nodes[k]?).join with
        | some y => sameRecv x y
        | none => false)
    | _ => false

/-- Install a graph whose node words have been read, or refuse it. -/
def State.installGraph (s : State) (j : Nat) (job : Job) (words : List Nat) : State :=
  let m := job.msg
  let n := words.length
  let group := fld (m.opnd 1) 16 16
  let nodes := (List.range n).map fun i => decodeChunkNode n i (words.getD i 0)
  match (List.range n).find? (s.refusesNode group nodes) with
  | some i =>
    ({ s with well := { s.well with refnode := Tbl.put s.well.refnode m.asid.toNat i } } : State).endCascade j job 0x02
  | none =>
    let len := 4096 * fld (m.opnd 1) 32 14
    match chunkRoom s.well.graphs len with
    | none => s.endCascade j job 0x04
    | some base =>
      let g : Graph :=
        { asid := m.asid, nodes := nodes.filterMap id, group := group, base := base, len := len, number := 0, replays := 0, lastSt := 0, flags := 0 }
      (s.setGraph m.gid g).endCascade j job 0x00

/-- GLOAD (R401, R404): reads the node words under the job clock, checks them and installs the graph. -/
def execGload (j : Nat) (s : State) : Out :=
  s.cascadeJob j 1 fun job =>
    let m := job.msg
    let n := fld (m.opnd 1) 0 12
    if n = 0 ∨ fld (m.opnd 1) 12 4 ≠ 0 ∨ m.opnd 1 / 2 ^ 46 ≠ 0 ∨ m.va % 8 ≠ 0 then s.endCascade j job 0x01
    else if (s.graph m.gid).any (·.asid != m.asid) then s.endCascade j job 0x03
    else if (s.graph m.gid).isSome || !s.groupOk (fld (m.opnd 1) 16 16) then s.endCascade j job 0x02
    else
      match s.casWords job m.va (2 * n) with
      | (.wait, s1) => s1
      | (.bad st, s1) => s1.endCascade j job st
      | (.done vs c, s1) => s1.installGraph j { job with clk := c } (pairUp vs)

/-- Whether an earlier replay, or with `free` an earlier GFREE, of a graph is still to complete (R401, R406). -/
def State.replayAhead (s : State) (j gid : Nat) (free : Bool) : Bool :=
  s.well.replays.any (fun e => e.2.gid == gid) ||
    s.well.jobs.any fun e => decide (e.1 < j) && e.2.msg.gid == gid && (e.2.msg.opc == 2 || (free && e.2.msg.opc == 3))

/-- The graph that a job names, when it is of the job's ASID (R400). -/
def State.jobGraph (s : State) (m : EngMsg) : Option Graph :=
  match s.graph m.gid with
  | some g => if g.asid = m.asid then some g else none
  | none => none

/-- GFREE (R401): once the graph's queued replays are over. -/
def execGfree (j : Nat) (s : State) : Out :=
  s.cascadeJob j 3 fun job =>
    let m := job.msg
    if m.va ≠ 0 ∨ m.second ≠ 0 then s.endCascade j job 0x01
    else
      match s.jobGraph m with
      | none => s.endCascade j job 0x03
      | some g =>
        if s.replayAhead j m.gid false then s
        else
          let mem := s.well.chunkMem.filter fun e => decide (e.1 < g.base) || decide (g.base + g.len ≤ e.1)
          let s1 : State := { s with well := { s.well with graphs := Tbl.drop s.well.graphs m.gid, chunkMem := mem } }
          s1.endCascade j job 0x00

/-- The record of GSTAT (R402). -/
def State.statRecord (s : State) (m : EngMsg) : Nat :=
  let ref := Tbl.look s.well.refnode m.asid.toNat 0
  (match s.graph m.gid with
    | some g => g.flags.toNat % 2 ^ 6 + g.replays.toNat * 2 ^ 32 + g.lastSt % 2 ^ 8 * 2 ^ 64
    | none => 0) + ref % 2 ^ 12 * 2 ^ 72 + (if s.well.tlock then 2 ^ 96 else 0)

/-- GSTAT (R402): writes the record and clears the graph's flags. It works when the GID names no graph. -/
def execGstat (j : Nat) (s : State) : Out :=
  s.cascadeJob j 4 fun job =>
    let m := job.msg
    if m.va % 64 ≠ 0 ∨ m.second ≠ 0 then s.endCascade j job 0x01
    else if (s.graph m.gid).isSome && (s.jobGraph m).isNone then s.endCascade j job 0x03
    else if !m.covers m.va 64 true then s.endCascade j job 0x09
    else
      match s.engAt m.die m.asid m.va .write with
      | (.bad c, s1) => s1.endCascade j job (casStatus (statusOf c))
      | (.at pa clsW, s1) =>
        if clsW || hostBit pa then s1.endCascade j job 0x09
        else
          let (c, s2) := s1.engLine job pa 64 (s1.statRecord m) job.clk
          let s3 := match s2.graph m.gid with
            | some g => s2.setGraph m.gid { g with flags := 0 }
            | none => s2
          s3.endCascade j { job with clk := c } 0x00

/-! ### Base tables (R405, R406, R408 to R414) -/

/-- A base-table entry, none when a reserved field or its address is not as R405 has it, or it leaves the reservation. -/
def baseEntry (g : Graph) (n : Nat) : Option BaseEntry :=
  let e : BaseEntry := { len := fld n 96 32, space := fld n 90 2, pair := bit n 89, addr := fld n 0 64 }
  let place :=
    if e.space = 0 then decide (e.addr < 2 ^ 57) && e.addr % 4 == 0
    else if e.space = 1 then decide (e.addr < 2 ^ 26) && decide (e.addr + e.len ≤ g.len)
    else if e.space = 2 then decide (e.addr < 2 ^ 10)
    else false
  if fld n 92 4 = 0 ∧ fld n 64 25 = 0 ∧ e.len % 4 = 0 ∧ (e.pair = false ∨ e.len % 8 = 0) ∧ place then some e else none

/-- Whether an entry may be read or written as bytes. -/
def BaseEntry.bytes (e : BaseEntry) : Bool := e.space != 2
/-- Bytes of an element of a contribution (R412). -/
def contribSize (ty : PoolType) (e : BaseEntry) : Nat := if e.pair || ty == .i64 then 8 else 4

/-- A pool of the region that posted a job, also once that has retired (R369, R412). -/
def State.poolFor (s : State) (m : EngMsg) (n : Nat) : Option RegionPool :=
  if m.p = noRegion then m.pools.find? (·.pool == n) else (s.region m.p).pool n

/-- The cause with which the check of a node's entries fails, 0 when they pass. -/
def State.nodeCause (s : State) (m : EngMsg) (x : ChunkNode) (src dst : Option BaseEntry) : Nat :=
  let transfer (e : Option BaseEntry) : Nat := match e with
    | none => 0x05
    | some e => if e.space = 2 then 0x06 else if x.cls.val = 3 ∧ 4096 < e.len then 0x0B else 0
  let ok (b : Bool) : Nat := if b then 0 else 0x05
  match x.op with
  | .send _ => transfer src
  | .recv _ => transfer dst
  | op =>
    match src, dst with
    | some f, some t =>
      match op with
      | .red rop => ok (f.bytes && t.bytes && !f.pair && !t.pair && f.len == t.len && (rop != 2 || f.len % 8 == 0))
      | .redc => ok (f.bytes && t.bytes && t.pair && (if f.pair then t.len == f.len else t.len == 2 * f.len))
      | .copy =>
        if t.space = 2 then
          match s.poolFor m (t.addr % 64) with
          | none => 0x05
          | some q => ok (f.bytes && f.len % contribSize q.decl.ty f == 0)
        else ok (f.bytes && (if f.pair == t.pair then t.len == f.len else if t.pair then t.len == 2 * f.len else f.len == 2 * t.len))
      | .a2a => ok (f.bytes && t.bytes)
      | .signal => ok (t.space == 0 && t.len == 8 && t.addr % 8 == 0)
      | _ => 0
    | _, _ => 0x05

/-- The entries that a node names: a send its FROM, a recv its TO, another both. -/
def nodeEntries (x : ChunkNode) : List Nat :=
  match x.op with
  | .send _ => [x.src.val]
  | .recv _ => [x.dst.val]
  | _ => [x.src.val, x.dst.val]

/-- The lanes that the SPACE 2 entries of a replay name (R412). -/
def State.replayPools (s : State) (m : EngMsg) (g : Graph) (table : List (Option BaseEntry)) : List (PoolKey × Nat) :=
  ((g.nodes.flatMap nodeEntries).eraseDups.filterMap fun b => (table[b]?).join).filterMap fun t =>
    if t.space = 2 then (s.poolFor m (t.addr % 64)).map fun q => (q.key, t.addr / 64 % 16) else none

/-- The source key of what a replay sends to pools. -/
def keyCascade (r : Nat) : Option Nat := some (2 ^ 26 + r)

/-- The lanes that a replay feeds are poisoned (R369, R412). -/
def State.poisonFed (s : State) (r : Nat) (lanes : List (PoolKey × Nat)) (clk : DWord) : State :=
  lanes.foldl (fun s l => s.post (keyCascade r) (.poolCon l.1 (s.slotOf 272 l.2) 0 clk (some 3) false none 0)) s

/-! ### Replays (R406, R407) -/

/-- What has come for a replay that is over is dropped. -/
def State.dropFlits (s : State) (gid number : Nat) : State :=
  { s with net := s.net.filter fun m => match m.body with
      | .credit g n _ _ _ _ => !(g == gid && n == number)
      | .flit _ (.bytes g n _ _ _ _ _) => !(g == gid && n == number)
      | .flit _ (.ack g n _) => !(g == gid && n == number)
      | .flit _ (.mismatch g n _) => !(g == gid && n == number)
      | .flit _ (.a2aCount g n _ _ _) => !(g == gid && n == number)
      | .flit _ (.a2aVerdict g n _ _) => !(g == gid && n == number)
      | .flit _ (.a2aMessage g n _ _ _) => !(g == gid && n == number)
      | _ => true }

/-- The reply of a replay; it is complete once the reply has entered its channel. -/
def State.finishReplay (s : State) (r : Nat) (x : Replay) (st : Nat) : State :=
  match s.engEnd x.job st 0x0A with
  | none => s.setReplay r { x with cause := st, job := { x.job with reply := some st } }
  | some (st, clk, s0) =>
  match s0.wellReply (1, r) x.job.msg st clk with
  | .full => ({ s0 with well := s0.well.hold (1, r) } : State).setReplay r { x with cause := st, job := { x.job with reply := some st, clk := clk } }
  | .sent s1 =>
    let s2 : State := { s1 with well := { s1.well with replays := Tbl.drop s1.well.replays r } }
    let s3 := s2.dropFlits x.gid x.number
    match x.job.msg.hold with
    | some id => s3.completeHolder x.job.msg.die id clk
    | none => s3

/-- A replay ends with a status: the graph counts it; a fault poisons the lanes that its entries name. -/
def State.endReplay (s : State) (r : Nat) (x : Replay) (st : Nat) : State :=
  match s.graph x.gid with
  | none => s.finishReplay r x st
  | some g =>
    let s1 := s.setGraph x.gid { g with lastSt := st, replays := g.replays + 1 }
    let s2 := if st = 0 then s1 else s1.poisonFed r (s1.replayPools x.job.msg g (x.table.map some)) x.job.clk
    s2.finishReplay r x st

/-- An entry that no node names. -/
def BaseEntry.unused : BaseEntry := { len := 0, space := 3, pair := false, addr := 0 }

/-- A replay whose table has been read: it is checked and its nodes start, or it ends. -/
def State.startReplay (s : State) (j : Nat) (job : Job) (g : Graph) (entries : List Nat) : State :=
  let m := job.msg
  let table := entries.map (baseEntry g)
  let at_ (k : Fin 64) : Option BaseEntry := (table[k.val]?).join
  let causes := g.nodes.map fun x => s.nodeCause m x (at_ x.src) (at_ x.dst)
  let pools := s.replayPools m g table
  let keys := (pools.map (·.1)).eraseDups.filter fun k => !s.well.rows.contains k
  match causes.find? (· != 0) with
  | some st =>
    let s1 := s.setGraph m.gid { g with lastSt := st, replays := g.replays + 1 }
    (s1.poisonFed j pools job.clk).endCascade j job st
  | none =>
    if 512 < s.well.rows.length + keys.length then s
    else
      let begin_ (x : ChunkNode) : NodeState := if x.dep = 0 then .running else .waiting x.dep
      let r := Tbl.nextKey s.well.replays
      let x : Replay :=
        { gid := m.gid, job := job, table := table.map fun e => e.getD BaseEntry.unused, number := g.number, nodes := g.nodes.map begin_,
          since := g.nodes.map fun _ => s.tide, cause := 0, credits := [] }
      let s1 := s.setGraph m.gid { g with number := (g.number + 1) % 2 ^ 16 }
      let s2 : State := { s1 with well := { s1.well with jobs := Tbl.drop s1.well.jobs j, rows := s1.well.rows ++ keys } }
      s2.setReplay r x

/-- REPLAY (R406). -/
def execReplay (j : Nat) (s : State) : Out :=
  s.cascadeJob j 2 fun job =>
    let m := job.msg
    if m.va % 1024 ≠ 0 ∨ m.second ≠ 0 then s.endCascade j job 0x01
    else
      match s.jobGraph m with
      | none => s.endCascade j job 0x03
      | some g =>
        if s.replayAhead j m.gid true then s
        else
          match s.casWords job m.va 256 with
          | (.wait, s1) => s1
          | (.bad st, s1) => s1.endCascade j job st
          | (.done vs c, s1) => s1.startReplay j { job with clk := c } g (quadUp vs)

/-! ### Nodes -/

def Replay.setNode (x : Replay) (n : Nat) (st : NodeState) (now : Nat) : Replay :=
  { x with nodes := replaceAt x.nodes n st, since := replaceAt x.since n now }
def Replay.entry (x : Replay) (k : Fin 64) : BaseEntry := (x.table[k.val]?).getD BaseEntry.unused
/-- The replay as its node n acts: what the node asks of other packages goes out under its own number. -/
def Replay.atNode (x : Replay) (n : Nat) : Replay := { x with job := { x.job with pos := n + 1 } }
/-- Whether writes of a node are on their way to another package: it takes no further step, and is not complete. -/
def State.nodeOut (s : State) (x : Replay) (n : Nat) : Bool := s.engOut (· == (x.atNode n).job.who)
/-- The node goes on, under the job clock that its accesses have left. -/
def State.goNode (s : State) (r : Nat) (x : Replay) (n : Nat) (st : NodeState) (clk : DWord) : State :=
  (s.engUsed x.job).setReplay r ({ x with job := { x.job with clk := clk } }.setNode n st s.tide)

/-- One step of a node that runs. -/
def State.nodeStep (s : State) (r n : Nat) (f : Replay → Graph → ChunkNode → NodeState → State) : Out :=
  match Tbl.find s.well.replays r with
  | none => s.idle
  | some x =>
    match s.graph x.gid with
    | none => s.idle
    | some g =>
      match g.nodes[n]?, x.nodes[n]? with
      | some nd, some st =>
        if x.cause ≠ 0 ∨ x.job.reply.isSome then s.idle
        else
          match st with
          | .waiting _ => s.idle
          | .isOver => s.idle
          | .done => s.idle
          | _ => if s.nodeOut x n then s.idle else .next (f (x.atNode n) g nd st)
      | _, _ => s.idle

/-- The words of an entry. -/
def State.entryRead (s : State) (g : Graph) (e : BaseEntry) (j : Job) (off : Nat) : Word4 × State :=
  if e.space = 1 then
    (.done (leValue ((List.range 4).map fun k => Tbl.look s.well.chunkMem (g.base + e.addr + off + k) 0)) j.clk, s)
  else s.casRead j (e.addr + off)
def State.entryWrite (s : State) (g : Graph) (e : BaseEntry) (j : Job) (off v : Nat) : Word4 × State :=
  if e.space = 1 then
    let put (t : Tbl Byte) (k : Nat) : Tbl Byte := Tbl.put t (g.base + e.addr + off + k) (BitVec.ofNat 8 (v / 256 ^ k))
    (.done 0 j.clk, { s with well := { s.well with chunkMem := (List.range 4).foldl put s.well.chunkMem } })
  else s.casWrite j (e.addr + off) v
def State.entryWords (s : State) (g : Graph) (e : BaseEntry) (j : Job) (off n : Nat) : Words × State :=
  eachRead (fun j off s => s.entryRead g e j off) n off j s
def State.entryPut (s : State) (g : Graph) (e : BaseEntry) (j : Job) (off : Nat) (vs : List Nat) : Words × State :=
  eachWrite (fun j off v s => s.entryWrite g e j off v) vs off j s

/-- Where an element-wise node stands. -/
def NodeState.elem : NodeState → Nat
  | .sending k => k
  | _ => 0

/-- One element of a node: its words of FROM, and of TO when it folds into it, become what is written to TO. -/
def State.elemStep (s : State) (r n : Nat) (x : Replay) (g : Graph) (nd : ChunkNode) (k fw tw : Nat) (folds : Bool)
    (f : List Nat → List Nat → List Nat × Flags) : State :=
  let src := x.entry nd.src
  let dst := x.entry nd.dst
  if src.len ≤ 4 * fw * k then s.goNode r x n .isOver x.job.clk
  else
    match s.entryWords g src x.job (4 * fw * k) fw with
    | (.wait, s1) => s1
    | (.bad st, s1) => s1.endReplay r x st
    | (.done a c, s1) =>
      match s1.entryWords g dst { x.job with clk := c } (4 * tw * k) (if folds then tw else 0) with
      | (.wait, s2) => s2
      | (.bad st, s2) => s2.endReplay r x st
      | (.done b c2, s2) =>
        let v := f b a
        match s2.entryPut g dst { x.job with clk := c2 } (4 * tw * k) v.1 with
        | (.wait, s3) => s3
        | (.bad st, s3) => s3.endReplay r x st
        | (.done _ c3, s3) => ((s3.setGraph x.gid { g with flags := g.flags ||| v.2 }).goNode r x n (.sending (k + 1)) c3)

/-- op(TO, FROM) of a red node (R100, R410). -/
def redApply (rop : Nat) (b a : List Nat) : List Nat × Flags :=
  let x := b.headD 0
  let y := a.headD 0
  let one (v : Nat × Flags) : List Nat × Flags := ([v.1], v.2)
  match rop with
  | 0 => one (fAdd fmtF32 .rne .ieee x y)
  | 1 => one ((x + y) % 2 ^ 32, 0)
  | 2 =>
    let v := ((pairUp b).headD 0 + (pairUp a).headD 0) % 2 ^ 64
    ([v % 2 ^ 32, v / 2 ^ 32], 0)
  | 3 => one (fMax fmtF32 x y)
  | 4 => one (fMin fmtF32 x y)
  | 5 => one (if signedOf 32 x < signedOf 32 y then y else x, 0)
  | _ => one (if signedOf 32 y < signedOf 32 x then y else x, 0)

/-- RED (R410). -/
def execRed (r n : Nat) (s : State) : Out :=
  s.nodeStep r n fun x g nd st =>
    match nd.op with
    | .red rop =>
      let w := if rop = 2 then 2 else 1
      s.elemStep r n x g nd st.elem w w true (redApply rop)
    | _ => s

/-- A pair in memory: s in its low word, e in its high word (R49). -/
def pairWords (p : Nat × Nat) : List Nat := [p.1, p.2]
def pairFrom (vs : List Nat) : Nat × Nat := (vs.getD 0 0, vs.getD 1 0)

/-- REDC (R411): a plain element joins as (x, +0). -/
def execRedc (r n : Nat) (s : State) : Out :=
  s.nodeStep r n fun x g nd st =>
    match nd.op with
    | .redc =>
      s.elemStep r n x g nd st.elem (if (x.entry nd.src).pair then 2 else 1) 2 true fun b a =>
        let v := pairAdd (pairFrom b) (pairFrom a)
        (pairWords v.1, v.2)
    | _ => s

/-- One contribution of a copy into a pool (R412): the node is over once its contributions have folded. -/
def State.copyToPool (s : State) (r n : Nat) (x : Replay) (g : Graph) (nd : ChunkNode) (k : Nat) : State :=
  let src := x.entry nd.src
  let dst := x.entry nd.dst
  match s.poolFor x.job.msg (dst.addr % 64) with
  | none => s.endReplay r x 0x05
  | some q =>
    let w := contribSize q.decl.ty src / 4
    if src.len ≤ 4 * w * k then
      (if s.net.any (fun m => m.src == keyCascade r) then s else s.goNode r x n .isOver x.job.clk)
    else
      match s.entryWords g src x.job (4 * w * k) w with
      | (.wait, s1) => s1
      | (.bad st, s1) => s1.endReplay r x st
      | (.done a c, s1) =>
        let v : BitVec 64 := BitVec.ofNat 64 (a.getD 0 0 + a.getD 1 0 * 2 ^ 32)
        (s1.post (keyCascade r) (.poolCon q.key (s1.slotOf 272 (dst.addr / 64 % 16)) v c none src.pair none 0)).goNode r x n (.sending (k + 1)) c

/-- CHUNK_COPY (R412). -/
def execChunkCopy (r n : Nat) (s : State) : Out :=
  s.nodeStep r n fun x g nd st =>
    match nd.op with
    | .copy =>
      let src := x.entry nd.src
      let dst := x.entry nd.dst
      let k := st.elem
      if dst.space = 2 then s.copyToPool r n x g nd k
      else if src.pair == dst.pair then s.elemStep r n x g nd k 1 1 false fun _ a => (a, 0)
      else if dst.pair then s.elemStep r n x g nd k 1 2 false fun _ a => (a ++ [0], 0)
      else
        s.elemStep r n x g nd k 2 1 false fun _ a =>
          let v := fAdd fmtF32 .rne .ieee (a.getD 0 0) (a.getD 1 0)
          ([v.1], v.2)
    | _ => s

/-- SIGNAL (R307, R414): the acknowledgement is performed at the word's home. -/
def execSignal (r n : Nat) (s : State) : Out :=
  s.nodeStep r n fun x _ nd _ =>
    match nd.op with
    | .signal =>
      let m := x.job.msg
      let va := (x.entry nd.dst).addr
      if !m.covers va 8 true then s.endReplay r x 0x09
      else
        match s.engAt m.die m.asid va .write with
        | (.bad c, s1) => s1.endReplay r x (casStatus (statusOf c))
        | (.at pa clsW, s1) =>
          let over_ (s : State) (c : Option Cause) : State := match c with
            | none => s.goNode r x n .isOver x.job.clk
            | some .soft => s.endReplay r x 0x0A
            | some _ => (s.streamFault m.p .sync 0 0 0).goNode r x n .isOver x.job.clk
          if clsW || hostBit pa then s1.endReplay r x 0x09
          else if s1.elsewhere pa then
            (let op : AwayOp := .sync ((x.entry nd.src).len / 4) 0
            match s1.farFound noRegion x.job.who pa op with
            | none => s1.farAsk noRegion x.job.who pa op x.job.clk
            | some (_, _, bad) => over_ s1 (bad.map Cause.ofCode))
          else
            match s1.syncAct m.p va pa ((x.entry nd.src).len / 4) 0 x.job.clk with
            | (none, s2) => s2.goNode r x n .isOver x.job.clk
            | (some .soft, s2) => s2.endReplay r x 0x0A
            | (some _, s2) => (s2.streamFault m.p .sync 0 0 0).goNode r x n .isOver x.job.clk
    | _ => s

/-! ### send and recv (R409) -/

/-- The first flit in the net that a function accepts, with what it makes of it. -/
def State.findFlit {α : Type} (s : State) (f : Nat → FlitBody → Option α) : Option (α × State) :=
  match s.net.findIdx? (fun m => match m.body with
    | .flit src b => (f src b).isSome
    | _ => false) with
  | none => none
  | some i =>
    match s.net[i]? with
    | some { src := _, body := .flit src b } => (f src b).map fun v => (v, s.unpost i)
    | _ => none

/-- CHUNK_CREDIT_ARRIVE (R409): a credit waits until the replay of its number runs here. -/
def execChunkCreditArrive (m : Nat) (s : State) : Out :=
  match s.ready m with
  | some (.credit gid number to_ len cls peer) =>
    match s.well.replays.find? (fun e => e.2.gid == gid && e.2.number == number) with
    | none => s.idle
    | some (r, x) => .next ((s.unpost m).setReplay r { x with credits := x.credits ++ [(to_, len, cls, peer)] })
  | _ => s.idle

/-- CHUNK_SEND (R409): with a credit of its length and class it streams its entry, 240 bytes in a flit, and then waits for the
acknowledgement of the last write. -/
def execChunkSend (r n : Nat) (s : State) : Out :=
  s.nodeStep r n fun x g nd st =>
    match nd.op with
    | .send peer =>
      let e := x.entry nd.src
      match st with
      | .running =>
        match x.credits.find? (fun c => c.1 == nd.dst.val && c.2.2.2 == peer) with
        | none => s
        | some c =>
          if c.2.1 = e.len ∧ c.2.2.1 = nd.cls.val then s.goNode r x n (.sending 0) x.job.clk
          else (s.emitTo peer nd.cls (.mismatch x.gid x.number nd.dst.val)).endReplay r x 0x06
      | .sending k =>
        let left := e.len - k
        let w := if left < 240 then left / 4 else 60
        match s.entryWords g e x.job k w with
        | (.wait, s1) => s1
        | (.bad cause, s1) => s1.endReplay r x cause
        | (.done vs c, s1) =>
          let last := decide (e.len ≤ k + 4 * w)
          (s1.emitTo peer nd.cls (.bytes x.gid x.number nd.dst.val k (bytesOfWords vs) last c)).goNode r x n
            (if last then .receiving 0 else .sending (k + 4 * w)) c
      | _ =>
        match s.findFlit (fun src b => if src = peer ∧ b = .ack x.gid x.number nd.dst.val then some () else none) with
        | none => s
        | some (_, s1) => s1.goNode r x n .isOver x.job.clk
    | _ => s

/-- Bytes for a recv, or the end that a mismatch brings. -/
def recvBytes (x : Replay) (peer to_ : Nat) (src : Nat) (b : FlitBody) : Option (Option (Nat × List Byte × Bool × DWord)) :=
  if src ≠ peer then none
  else
    match b with
    | .bytes g k t off data last clk => if g = x.gid ∧ k = x.number ∧ t = to_ then some (some (off, data, last, clk)) else none
    | .mismatch g k t => if g = x.gid ∧ k = x.number ∧ t = to_ then some none else none
    | _ => none

/-- CHUNK_RECV (R409): a credit to the peer, then its bytes as they come, in address order. -/
def execChunkRecv (r n : Nat) (s : State) : Out :=
  s.nodeStep r n fun x g nd st =>
    match nd.op with
    | .recv peer =>
      let e := x.entry nd.dst
      match st with
      | .running => (s.emitTo peer nd.cls (.credit x.gid x.number nd.dst.val e.len nd.cls.val)).goNode r x n (.receiving 0) x.job.clk
      | .receiving got =>
        match s.findFlit (recvBytes x peer nd.dst.val) with
        | none => s
        | some (none, s1) => s1.endReplay r x 0x06
        | some (some (_, data, last, clk), s1) =>
          match s1.entryPut g e x.job got (wordsOfBytes (data.length / 4) data) with
          | (.wait, _) => s
          | (.bad cause, s2) => s2.endReplay r x cause
          | (.done _ c, s2) =>
            if last && s2.nodeOut x n then s2.goNode r x n (.sending 0) (maxClk c clk)
            else if last then (s2.emitTo peer nd.cls (.ack x.gid x.number nd.dst.val)).goNode r x n .isOver (maxClk c clk)
            else s2.goNode r x n (.receiving (got + data.length)) c
      | .sending _ => (s.emitTo peer nd.cls (.ack x.gid x.number nd.dst.val)).goNode r x n .isOver x.job.clk
      | _ => s
    | _ => s

/-! ### a2a (R413) -/

/-- Bytes of a message with its header, in whole units of 64; none for no message. -/
def a2aSize (len : Nat) : Nat := if len = 0 then 0 else ceilDiv (8 + len) 64 * 64

/-- A route table of the words read: (length, destination, source), or none when it is malformed. -/
def routeTable (members : List Nat) (len : Nat) (entries : List Nat) : Option (List (Nat × Nat × Nat)) :=
  let ok (n : Nat) : Bool :=
    decide (fld n 96 32 ≤ 65536) && fld n 96 32 % 4 == 0 && fld n 74 22 == 0 && fld n 57 7 == 0 && fld n 0 57 % 4 == 0 &&
      members.contains (fld n 64 10)
  if len % 16 = 0 ∧ entries.all ok then some (entries.map fun n => (fld n 96 32, fld n 64 10, fld n 0 57)) else none

/-- What a route table sends to a package. -/
def routeBytes (route : List (Nat × Nat × Nat)) (pkg : Nat) : Nat :=
  route.foldl (fun t e => if e.2.1 = pkg then t + a2aSize e.1 else t) 0

/-- Where the messages of source i begin. -/
def a2aBase (counts : List Nat) (i : Nat) : Nat := ceilDiv (8 * counts.length) 64 * 64 + (counts.take i).foldl (· + ·) 0

/-- The bytes that a participant's TO must hold: its directory, and everything destined for it, each message at a multiple of 64 bytes
(R413). -/
def a2aNeed (counts : List Nat) : Nat := if counts.all (· == 0) then 8 * counts.length else a2aBase counts counts.length

/-- The words of a message in place: its header and its bytes. -/
def a2aWords (src idx : Nat) (vs : List Nat) : List Nat := [4 * vs.length, src % 2 ^ 10 + idx % 2 ^ 22 * 2 ^ 10] ++ vs

def State.emitAll (s : State) (pkgs : List Nat) (cls : Fin 4) (b : Nat → FlitBody) : State := pkgs.foldl (fun s p => s.emitTo p cls (b p)) s

/-- The count phase begins. -/
def State.a2aStart (s : State) (r n : Nat) (x : Replay) (g : Graph) (nd : ChunkNode) : State :=
  let e := x.entry nd.src
  let members := s.groupMembers g.group
  let others := members.filter (· != s.well.pkg)
  match s.entryWords g e x.job 0 (e.len / 16 * 4) with
  | (.wait, s1) => s1
  | (.bad st, s1) => s1.endReplay r x st
  | (.done vs c, s1) =>
    let table := routeTable members e.len (quadUp vs)
    let route := table.getD []
    let bad := table.isNone
    if nd.cls.val = 3 ∧ others.any (fun p => decide (4096 < routeBytes route p)) then s1.endReplay r x 0x0B
    else
      (s1.emitAll others nd.cls fun p => .a2aCount x.gid x.number n (routeBytes route p) bad).goNode r x n
        (.counting route bad [(s.well.pkg, routeBytes route s.well.pkg, bad)]) c

/-- Every count is in: this package's verdict goes to the others. -/
def State.a2aJudge (s : State) (r n : Nat) (x : Replay) (g : Graph) (nd : ChunkNode) (route : List (Nat × Nat × Nat))
    (got : List (Nat × Nat × Bool)) : State :=
  let members := s.groupMembers g.group
  let others := members.filter (· != s.well.pkg)
  let counts := members.map fun p => match got.find? (·.1 == p) with
    | some c => c.2.1
    | none => 0
  let bad := got.any (·.2.2) || decide ((x.entry nd.dst).len < a2aNeed counts)
  (s.emitAll others nd.cls fun _ => .a2aVerdict x.gid x.number n bad).goNode r x n (.judging route counts [(s.well.pkg, bad)]) x.job.clk

/-- The bytes of every message of a route table, with its index and destination. -/
def State.a2aRead : List ((Nat × Nat × Nat) × Nat) → List (Nat × Nat × List Nat) → Job → State → Except (Option Nat) (List (Nat × Nat × List Nat) × DWord) × State
  | [], acc, j, s => (.ok (acc.reverse, j.clk), s)
  | (e, i) :: t, acc, j, s =>
    if e.1 = 0 then State.a2aRead t acc j s
    else
      match s.casWords j e.2.2 (e.1 / 4) with
      | (.wait, s1) => (.error none, s1)
      | (.bad st, s1) => (.error (some st), s1)
      | (.done vs c, s1) => State.a2aRead t ((i, e.2.1, vs) :: acc) { j with clk := c } s1

/-- Place one message of source i. -/
def State.a2aPlace (s : State) (g : Graph) (e : BaseEntry) (j : Job) (counts : List Nat) (placed : List (Nat × Nat)) (i src idx : Nat)
    (vs : List Nat) : Words × List (Nat × Nat) × State :=
  let p := placed.getD i (0, 0)
  match s.entryPut g e j (a2aBase counts i + p.1) (a2aWords src idx vs) with
  | (w, s1) => (w, replaceAt placed i (p.1 + a2aSize (4 * vs.length), p.2 + 1), s1)

/-- Place this package's messages to itself. -/
def State.a2aOwn (g : Graph) (e : BaseEntry) (counts : List Nat) (i pkg : Nat) :
    List (Nat × Nat × List Nat) → List (Nat × Nat) → Job → State → Except (Option Nat) (List (Nat × Nat) × DWord) × State
  | [], placed, j, s => (.ok (placed, j.clk), s)
  | (idx, dest, vs) :: t, placed, j, s =>
    if dest ≠ pkg then State.a2aOwn g e counts i pkg t placed j s
    else
      match s.a2aPlace g e j counts placed i pkg idx vs with
      | (.wait, _, s1) => (.error none, s1)
      | (.bad st, _, s1) => (.error (some st), s1)
      | (.done _ c, placed1, s1) => State.a2aOwn g e counts i pkg t placed1 { j with clk := c } s1

/-- The payload phase begins: messages leave for the others, and those to itself are placed. -/
def State.a2aPay (s : State) (r n : Nat) (x : Replay) (g : Graph) (nd : ChunkNode) (route : List (Nat × Nat × Nat)) (counts : List Nat) : State :=
  let members := s.groupMembers g.group
  let pkg := s.well.pkg
  let me := (members.idxOf? pkg).getD 0
  match State.a2aRead (route.zip (List.range route.length)) [] x.job s with
  | (.error none, s1) => s1
  | (.error (some st), s1) => s1.endReplay r x st
  | (.ok (msgs, c), s1) =>
    match State.a2aOwn g (x.entry nd.dst) counts me pkg msgs (members.map fun _ => (0, 0)) { x.job with clk := c } s1 with
    | (.error none, s2) => s2
    | (.error (some st), s2) => s2.endReplay r x st
    | (.ok (placed, c2), s2) =>
      let s3 := (msgs.filter fun m => m.2.1 != pkg).foldl (fun s m => s.emitTo m.2.1 nd.cls (.a2aMessage x.gid x.number n m.1 (bytesOfWords m.2.2))) s2
      s3.goNode r x n (.paying counts placed) c2

/-- The directory: the offset of each source's first message, and its message count. -/
def a2aDirectory (counts : List Nat) (placed : List (Nat × Nat)) : List Nat :=
  (List.range counts.length).flatMap fun i => [a2aBase counts i, (placed.getD i (0, 0)).2]

/-- One message of another package is placed; with the last one the directory is written. -/
def State.a2aTake (s : State) (r n : Nat) (x : Replay) (g : Graph) (nd : ChunkNode) (counts : List Nat) (placed : List (Nat × Nat)) : State :=
  let e := x.entry nd.dst
  if placed.map (·.1) = counts then
    match s.entryPut g e x.job 0 (a2aDirectory counts placed) with
    | (.wait, s1) => s1
    | (.bad st, s1) => s1.endReplay r x st
    | (.done _ c, s1) => s1.goNode r x n .isOver c
  else
    let members := s.groupMembers g.group
    let mine (src : Nat) (b : FlitBody) : Option (Nat × Nat × List Byte) := match b with
      | .a2aMessage gid k node idx data => if gid = x.gid ∧ k = x.number ∧ node = n then some (src, idx, data) else none
      | _ => none
    match s.findFlit mine with
    | none => s
    | some ((src, idx, data), s1) =>
      match members.idxOf? src with
      | none => s1
      | some i =>
        match s1.a2aPlace g e x.job counts placed i src idx (wordsOfBytes (data.length / 4) data) with
        | (.wait, _, _) => s
        | (.bad st, _, s2) => s2.endReplay r x st
        | (.done _ c, placed1, s2) => s2.goNode r x n (.paying counts placed1) c

/-- A2A (R413). -/
def execA2a (r n : Nat) (s : State) : Out :=
  s.nodeStep r n fun x g nd st =>
    match nd.op with
    | .a2a =>
      match st with
      | .running => s.a2aStart r n x g nd
      | .counting route bad got =>
        if got.length = (s.groupMembers g.group).length then s.a2aJudge r n x g nd route got
        else
          let mine (src : Nat) (b : FlitBody) : Option (Nat × Nat × Bool) := match b with
            | .a2aCount gid k node bytes ov => if gid = x.gid ∧ k = x.number ∧ node = n then some (src, bytes, ov) else none
            | _ => none
          match s.findFlit mine with
          | none => s
          | some (c, s1) => if got.any (·.1 == c.1) then s1 else s1.goNode r x n (.counting route bad (got ++ [c])) x.job.clk
      | .judging route counts got =>
        if got.length = counts.length then
          (if got.any (·.2) then s.endReplay r x 0x07 else s.a2aPay r n x g nd route counts)
        else
          let mine (src : Nat) (b : FlitBody) : Option (Nat × Bool) := match b with
            | .a2aVerdict gid k node ov => if gid = x.gid ∧ k = x.number ∧ node = n then some (src, ov) else none
            | _ => none
          match s.findFlit mine with
          | none => s
          | some (c, s1) => if got.any (·.1 == c.1) then s1 else s1.goNode r x n (.judging route counts (got ++ [c])) x.job.clk
      | .paying counts placed => s.a2aTake r n x g nd counts placed
      | _ => s
    | _ => s

/-! ### Completion and timeout (R406, R407) -/

/-- A completed node counts down a successor, which starts at zero. -/
def Replay.countDown (x : Replay) (now : Nat) (succ : Option Nat) : Replay :=
  match succ with
  | none => x
  | some k =>
    match x.nodes[k]? with
    | some (.waiting c) => x.setNode k (if c ≤ 1 then .running else .waiting (c - 1)) now
    | _ => x

/-- CHUNK_NODE_COMPLETE (R406): with the last node the replay replies. A reply whose channel was full is tried again. -/
def execChunkNodeComplete (r n : Nat) (s : State) : Out :=
  match Tbl.find s.well.replays r with
  | none => s.idle
  | some x =>
    match x.job.reply with
    | some st => .next (s.finishReplay r x st)
    | none =>
      match (s.graph x.gid).bind (fun g => g.nodes[n]?), x.nodes[n]? with
      | some nd, some .isOver =>
        if s.nodeOut x n then s.idle else
        let x1 := ((x.setNode n .done s.tide).countDown s.tide nd.succA).countDown s.tide nd.succB
        if x1.nodes.all (· == .done) then .next (s.endReplay r x1 0x00) else .next (s.setReplay r x1)
      | _, _ => s.idle

/-- Whether a node has still to make progress: it waits for its predecessors, or for a peer, or runs (R407). -/
def NodeState.waits : NodeState → Bool
  | .isOver => false
  | .done => false
  | _ => true

/-- REPLAY_PEER_TIMEOUT (R407): a node has waited 100 ms without progress. -/
def execReplayPeerTimeout (r : Nat) (s : State) : Out :=
  match Tbl.find s.well.replays r with
  | none => s.idle
  | some x =>
    if x.job.reply.isNone && x.cause == 0 && (x.nodes.zip x.since).any fun e => e.1.waits && decide (e.2 + micros 100000 ≤ s.tide) then
      .next (s.endReplay r x 0x08)
    else s.idle

end Sys2Proof.Machine
end

