-- ==== Sys2Proof/Machine/Home.lean ====
section
/-! DEFINITION. The home banks: line requests, recalls, write-backs, atomics and monitors (R152, R153, R171, R287 to
R293). -/
namespace Sys2Proof.Machine

/-- A recall of a line from its owner is on its way once (R290). -/
def State.postRecall (s : State) (o line : Nat) (drop : Bool) : State :=
  let there := s.net.any fun m => match m.body with
    | .recall q l _ => q == o && l == line
    | _ => false
  if there then s else s.post (keyReply o) (.recall o line drop)

/-- An access of a region is made again: no copy of the line that it asked for comes. -/
def State.askAgain (s : State) (p line : Nat) (store : Bool) : State :=
  let r := s.region p
  { s.setRegion p { r with asked := r.asked.filter (· != (line, store)) } with agenda := .arrived p :: s.agenda }

/-- A request for a line that the homes alone serve fetches no copy: its access is made again, at the home (R293). One of another package
is told so. -/
def State.refuseCopy (s : State) (m p line : Nat) (store : Bool) : State :=
  if isAway p then (s.unpost m).emitTo (awayPkg p) 0 (.lineHome (awayNo p)) else (s.unpost m).askAgain p line store

/-- A home sends a line to a region of this package, or to another package (R283, R289). -/
def State.sendLine (s : State) (p line : Nat) (data : Vector Byte 64) (wts rts : DWord) (poison : Bool) : State :=
  if isAway p then s.emitTo (awayPkg p) 0 (.lineData (awayNo p) data wts rts poison)
  else s.post (keyReply p) (.loadReply p line data wts rts poison)

/-- A load of a line of another package goes there (R283). -/
def State.lineAway (s : State) (m p line : Nat) (clk : DWord) : State :=
  (s.unpost m).sendAway (pkgOf (64 * line)) p noHandler (.line line) (fun tag => .line tag line clk) 0

/-- An action of a home in another package goes there (R283): the answer comes back as from a home of this one. -/
def State.actAway (s : State) (m pa : Nat) (who : Asker) (monitor : Bool) (op : AwayOp) (clk : DWord) : State :=
  let k := match who with
    | .handler _ k => k
    | .stream _ => noHandler
  (s.unpost m).askMemory pa who.place k (.home who pa monitor) op clk

/-- HOME_READ_REQUEST (R289): one action at the home bank, once no other region owns the line beyond the lease. -/
def execHomeReadRequest (m : Nat) (s : State) : Out :=
  match s.ready m with
  | some (.loadReq p line clk) =>
    if s.elsewhere (64 * line) && !s.homeWords.contains line then .next (s.lineAway m p line clk) else
    if s.homeWords.contains line then .next (s.refuseCopy m p line false) else
    let h := s.line line
    let other : Option Nat := match h.owner with
      | some o => if o = p then none else some o
      | none => none
    let lease : DWord := BitVec.ofNat 64 Config.lease
    let rts := maxClk h.rts (maxClk (h.wts + lease) (clk + lease))
    match other with
    | some o =>
      if clk.toNat ≤ h.rts.toNat then
        .next ((s.unpost m).sendLine p line (s.lineData line) h.wts h.rts (s.homePoisoned line))
      else .next (s.postRecall o line false)
    | none =>
      .next (((s.unpost m).setLine line { h with rts := rts }).sendLine p line (s.lineData line) h.wts rts (s.homePoisoned line))
  | _ => s.idle

/-- A line arrives at a region: it enters the stash, and the accesses that wait for it are made at once. -/
def State.arriveLine (s : State) (m p line : Nat) (data : Vector Byte 64) (wts rts : DWord) (poison owned : Bool) : State :=
  let s1 := s.unpost m
  let r := s1.region p
  let (pinned, vas) := match r.findLine line with
    | some l => (l.pinned, l.vas)
    | none => (false, [])
  let s2 := (s1.setRegion p { r with asked := r.asked.filter (fun a => a != (line, owned)) }).fillStash p
    { line := line, data := data, owned := owned, dirty := false, poison := poison, pinned := pinned, wts := wts, rts := rts,
      stamp := 0, vas := vas }
  { s2 with agenda := .arrived p :: s2.agenda }

/-- LOAD_REPLY (R289): the stash line becomes leased, and the load completes when its handler issues. A line that the region
has come to own meanwhile is kept. -/
def execLoadReply (m : Nat) (s : State) : Out :=
  match s.ready m with
  | some (.loadReply p line data wts rts poison) =>
    let owned := match (s.region p).findLine line with
      | some l => l.owned
      | none => false
    if s.homeWords.contains line then .next (s.refuseCopy m p line false)
    else if owned then
      let s1 := s.unpost m
      let r := s1.region p
      .next (s1.setRegion p { r with asked := r.asked.filter (fun a => a != (line, false)) })
    else .next (s.arriveLine m p line data wts rts poison false)
  | _ => s.idle

/-- The bytes of a line whose ownership is taken without its old data (R285): open values until the binding has written them. -/
def freeLine (k : Nat) : Vector Byte 64 := Vector.ofFn fun (i : Fin 64) => (Config.freeWord (k + i.val)).setWidth 8

/-- HOME_WRITE_REQUEST (R285, R290): the owner changes, once any other owner has been recalled. -/
def execHomeWriteRequest (m : Nat) (s : State) : Out :=
  match s.ready m with
  | some (.storeReq p line whole) =>
    if s.homeWords.contains line then .next (s.refuseCopy m p line true) else
    let h := s.line line
    let other : Option Nat := match h.owner with
      | some o => if o = p then none else some o
      | none => none
    match other with
    | some o => .next (s.postRecall o line true)
    | none =>
      let s1 := (s.unpost m).setLine line { h with owner := some p }
      if whole then .next ({ s1 with fresh := s.fresh + 64 }.post (keyReply p) (.ownReply p line (freeLine s.fresh) h.wts h.rts false))
      else .next (s1.post (keyReply p) (.ownReply p line (s.lineData line) h.wts h.rts (s.homePoisoned line)))
  | _ => s.idle

/-- OWNERSHIP_REPLY (R290): the stash line becomes owned, and the store is performed when its handler issues. -/
def execOwnershipReply (m : Nat) (s : State) : Out :=
  match s.ready m with
  | some (.ownReply p line data wts rts poison) =>
    if s.homeWords.contains line then .next (s.refuseCopy m p line true) else .next (s.arriveLine m p line data wts rts poison true)
  | _ => s.idle

/-- RECALL (R290): the recalled region writes back its line; it keeps a lease, or nothing when the recall is for a store. A recall that a
write-back has overtaken finds nothing to do; it never meets a later ownership, whose reply follows it. -/
def execRecall (m : Nat) (s : State) : Out :=
  match s.ready m with
  | some (.recall o line drop) =>
    let owned := match (s.region o).findLine line with
      | some l => l.owned
      | none => false
    .next (if owned then (s.unpost m).recallNow line drop else s.unpost m)
  | _ => s.idle

/-- WRITE_BACK_ACK (R287): a write-back is performed at its home and acknowledged. -/
def execWriteBackAck (m : Nat) (s : State) : Out :=
  match s.ready m with
  | some (.writeBack p l) =>
    let s1 := (s.unpost m).performWriteBack p l
    .next { s1 with agenda := s1.agenda ++ [.issue p] }
  | _ => s.idle

/-- The generation test of `waitv` (R153). -/
def waitvPasses (w gen : Nat) : Bool := decide ((w / 2 ^ 48 + 2 ^ 16 - gen % 2 ^ 16) % 2 ^ 16 < 2 ^ 15)

/-- The first test of a `waitv`, or the test at a later write of its line: it completes or its monitor is armed. -/
def State.testWaitv (s : State) (m : Nat) (who : Asker) (pa gen : Nat) (clk : DWord) : State :=
  let s0 := (s.unpost m).markHome (lineOf pa)
  let (w, c, bad, s1) := s0.homeRead pa 8 clk
  if bad then s1.post none (.atomicReply who 0 clk 0 (some Cause.soft.code))
  else if waitvPasses w gen then s1.post none (.atomicReply who (BitVec.ofNat 64 w) c 0 none)
  else s1.post none (.waitvArmed who pa gen clk)

/-- HOME_ATOMIC (R152, R153): an atomic, or the first test of a `waitv`, in arrival order. -/
def execHomeAtomic (m : Nat) (s : State) : Out :=
  match s.ready m with
  | some (.atomic who op wide pa v clk) =>
    if s.elsewhere pa then .next (s.actAway m pa who false (.atomic op wide v) clk) else
    match (s.unpost m).atomicAtHome op wide pa v clk with
    | (some (old, c, f), s1) => .next (s1.post none (.atomicReply who (BitVec.ofNat 64 old) c f none))
    | (none, s1) => .next (s1.post none (.atomicReply who 0 clk 0 (some Cause.soft.code)))
  | some (.waitv who pa gen clk) =>
    .next (if s.elsewhere pa then s.actAway m pa who true (.waitv gen) clk else s.testWaitv m who pa gen clk)
  | _ => s.idle

/-- ATOMIC_REPLY (R152): the answer of a home action reaches who waits for it, in this package or in another. -/
def execAtomicReply (m : Nat) (s : State) : Out :=
  match s.ready m with
  | some (.atomicReply who old clk flags bad) =>
    .next (if isAway who.place then (s.unpost m).emitTo (awayPkg who.place) 0 (.answer (awayNo who.place) old.toNat clk flags bad)
      else (s.unpost m).answer who old clk flags bad)
  | _ => s.idle

/-! ### Barriers at the home (R171) -/

/-- PHASE, PARTIES and ARRIVED of a barrier's low half. -/
def barArrived (w : Nat) : Nat := w % 2 ^ 16
def barParties (w : Nat) : Nat := w / 2 ^ 16 % 2 ^ 16
def barPhase (w : Nat) : Nat := w / 2 ^ 32 % 2 ^ 32

/-- The test of `await`. -/
def awaitPasses (phase token : Nat) : Bool :=
  let d := (phase + 2 ^ 32 - token % 2 ^ 32) % 2 ^ 32
  decide (1 ≤ d) && decide (d < 2 ^ 31)

/-- An arrival at the barrier's home, as one action: the phase, or a barrier fault. -/
def State.arriveAtHome (s : State) (who : Asker) (pa : Nat) (clk : DWord) : State :=
  let (lo, c, bad, s1) := (s.markHome (lineOf pa)).homeTake pa 8 clk
  let hi := Memory.readLE s1.mem (pa + 8) 8
  if bad then s1.post none (.atomicReply who 0 clk 0 (some Cause.soft.code))
  else if barParties lo = 0 ∨ barParties lo ≤ barArrived lo then
    s1.post none (.atomicReply who 0 clk 0 (some Cause.barrier.code))
  else
    let n := barArrived lo + 1
    let lo' := if n = barParties lo then barParties lo * 2 ^ 16 + (barPhase lo + 1) % 2 ^ 32 * 2 ^ 32 else lo + 1
    let hi' := if hi < clk.toNat then clk.toNat else hi
    let (t, s2) := s1.homeWrite pa 16 (lo' + hi' * 2 ^ 64) c
    s2.post none (.atomicReply who (BitVec.ofNat 64 (barPhase lo)) t 0 none)

/-- The test of an `await` at the home: it completes with CLK, or stays armed. -/
def State.testAwait (s : State) (m : Nat) (who : Asker) (pa token : Nat) (clk : DWord) : State :=
  let s0 := (s.unpost m).markHome (lineOf pa)
  let (lo, _, bad, s1) := s0.homeRead pa 8 clk
  if bad then s1.post none (.atomicReply who 0 clk 0 (some Cause.soft.code))
  else if awaitPasses (barPhase lo) token then
    s1.post none (.atomicReply who 0 (BitVec.ofNat 64 (Memory.readLE s1.mem (pa + 8) 8)) 0 none)
  else s1.post none (.await who pa token clk)

/-- WAITV_WAKE (R153, R171): a monitor is tested again. -/
def execWaitvWake (m : Nat) (s : State) : Out :=
  match s.ready m with
  | some (.waitvArmed who pa gen clk) => .next (s.testWaitv m who pa gen clk)
  | some (.await who pa token clk) => .next (s.testAwait m who pa token clk)
  | _ => s.idle

/-- BARRIER_ARRIVE_AT_HOME (R171): an arrival, or the first test of an `await`. -/
def execBarrierArriveAtHome (m : Nat) (s : State) : Out :=
  match s.ready m with
  | some (.arrive who pa clk) => .next (if s.elsewhere pa then s.actAway m pa who false .arrive clk else (s.unpost m).arriveAtHome who pa clk)
  | some (.await who pa token clk) =>
    .next (if s.elsewhere pa then s.actAway m pa who true (.await token) clk else s.testAwait m who pa token clk)
  | _ => s.idle

end Sys2Proof.Machine
end

