-- ==== Sys2Proof/Machine/Conduit.lean ====
section
/-! DEFINITION. The conduit and the scale-out ports: flits that arrive, the time protocol, remote reads and writes (R170, R283, R378,
R393 to R399, R409, R416, R417). -/
namespace Sys2Proof.Machine

/-! ### The conduit (R393, R394, R396) -/

/-- The source key of the channel words of one place of another package: they enter in order (R170). -/
def keyConduit (src place : Nat) : Option Nat := some (2 ^ 29 + 1024 * (place % 1024) + src % 1024)

/-- The sequence number that a port expects of a source, a destination and a class. -/
def ConduitPort.next (x : ConduitPort) (src dst cls : Nat) : Nat := seqOf x.expect src dst cls
def ConduitPort.advance (x : ConduitPort) (src dst cls : Nat) : ConduitPort := { x with expect := seqNext x.expect src dst cls }

/-- The bound of R19: 20 ns, in units of 1/8000 ns. -/
def tideBound : Nat := 160000

/-- The time source of a domain: its lowest-numbered package. -/
def Wellhead.timeSource (w : Wellhead) : Bool := w.domain.all fun p => decide (w.pkg ≤ p)

/-- A tide that the time protocol brings (R399): the package slews toward it and never steps; TLOCK says whether it is within the
bound. -/
def State.correctTide (s : State) (src : Nat) : State :=
  let w := s.well
  if w.timeSource then { s with well := { w with slew := 0, tlock := true } }
  else
    let gap := if s.tide < src then src - s.tide else s.tide - src
    { s with well := { w with
      slew := if s.tide < src then 1 else if src < s.tide then -1 else 0, tlock := decide (gap ≤ tideBound) } }

/-- A word of another package asks for room: its request stands in the order of its place, and a channel of another ASID refuses it
(R168, R170). -/
def State.remoteAsk (s : State) (src tag place asid d ch : Nat) : State :=
  s.post (keyConduit src place) (.chanWord (awayTag src tag) 0 (d % 4) (ch % 256) 0 0 (BitVec.ofNat 16 asid))

/-- A word of another package enters the place that its channel has kept for it. -/
def State.remoteWord (s : State) (asid d ch : Nat) (v clk : DWord) : State :=
  let s1 := s.keepRoom (d % 4) (ch % 256) (· - 1)
  if ((s.die (d % 4)).chan (ch % 256)).owner = some (BitVec.ofNat 16 asid) then s1.enterChannel (d % 4) (ch % 256) v clk else s1

/-- Another package has kept a place for a word, or refuses it. A handler that no longer waits gives the place back. -/
def State.wordAnswered (s : State) (tag : Nat) (kept : Bool) : State :=
  match s.sentOf tag with
  | some ((p, k, .word a), s1) =>
    if ((s1.region p).handler k).wait == .posted then s1.poolAnswer p k (if kept then .room a else .answered (BitVec.ofNat 64 a) 0 0)
    else if kept then s1.freeRoom a else s1
  | _ => s

/-- The source key of the elements that a package sends to the arrays of this one: they are performed in order. -/
def keyAway (src : Nat) : Option Nat := some (2 ^ 27 + src % 1024)

/-- Another package's access is performed at its home in this one, as an access of this package would be, and answered (R283). -/
def State.serveAccess (s : State) (src tag pa : Nat) (op : AwayOp) (clk : DWord) : State :=
  let who := awayTag src tag
  let reply (s : State) (v : Nat) (c : DWord) (bad : Option Nat) : State := s.emitTo src 0 (.answer tag v c 0 bad)
  if s.elsewhere pa || !paOk pa then s
  else
    match op with
    | .read n =>
      let (v, c, bad, s1) := s.homeRead pa n clk
      reply s1 v c (if bad then some Cause.soft.code else none)
    | .write n v strict =>
      let s1 := s.recallNow (lineOf pa) true
      if strict && s1.homePoisoned (lineOf pa) && n != 64 then reply s1 0 clk (some Cause.soft.code)
      else
        let (t, s2) := s1.homeWrite pa n v clk
        reply s2 0 t none
    | .atomic op wide v => s.post none (.atomic (.stream who) op wide pa v clk)
    | .waitv gen => s.post none (.waitv (.stream who) pa gen clk)
    | .arrive => s.post none (.arrive (.stream who) pa clk)
    | .await phase => s.post none (.await (.stream who) pa phase clk)
    | .sync cnt tgt =>
      let (c, s1) := s.syncAct noRegion (2 ^ 64) pa cnt tgt clk
      reply s1 0 clk (c.map (·.code))
    | .element v => s.post (keyAway src) (.weirElem who 0 (arrayOf pa) 0 pa 0 0 v.toList none clk v.isNone false)

/-- An atomic of a mamo port comes back from another package: its old value is the result (R212). -/
def State.updateBack (s : State) (p n v : Nat) (clk : DWord) (f : Flags) : State :=
  let r := s.region p
  let s1 := (s.setRegion p { r with lclk := maxClk r.lclk clk, fpflags := r.fpflags ||| f }).elementDone p n
  let x := s1.port p n
  if x.selectsResult n then s1.setPort p n (x.mark (mkToken kData v)) else s1

/-- An element of a port comes back from another package (R261, R283, R307, R310). -/
def State.elementHome (s : State) (p n pa i : Nat) (rd : Bool) (ack : Option (Nat × Nat)) (v : Nat) (clk : DWord) (bad : Option Nat) : State :=
  let r := s.region p
  let s1 := s.setRegion p { r with lclk := maxClk r.lclk clk }
  if rd then (s1.pairRead p n pa).portGets p n i [if bad.isSome then poisonToken pa else mkToken kData v]
  else (s1.elementDone p n).acknowledge p ack 4 clk

/-- The answer of another package to an access of this one. -/
def State.accessBack (s : State) (tag v : Nat) (clk : DWord) (f : Flags) (bad : Option Nat) : State :=
  match s.sentOf tag with
  | some ((p, k, .home who _ _), s1) =>
    if k = noHandler && (match who with
      | .handler _ _ => true
      | _ => false) then s1
    else s1.post none (.atomicReply who (BitVec.ofNat 64 v) clk f bad)
  | some ((p, _, .element n _ pa i rd ack), s1) => s1.elementHome p n pa i rd ack v clk bad
  | some ((p, _, .update n _), s1) =>
    if bad.isSome then s1.elementFault p n false .soft 0 else s1.updateBack p n v clk f
  | some ((p, _, .store _), s1) =>
    let r := s1.region p
    if p = noRegion then s1
    else { s1.setRegion p { r with wbOut := r.wbOut - 1, lclk := maxClk r.lclk clk } with agenda := s1.agenda ++ [.issue p] }
  | some ((p, _, .ack), s1) =>
    match bad with
    | some c => s1.streamFault p (Cause.ofCode c) 0 0 0
    | none => s1
  | some ((p, k, .unit who pa op), s1) => if k = noHandler then s1 else s1.post none (.farGot p who pa op v clk bad)
  | _ => s

/-- What a flit carries reaches its unit. Accesses of another package to this one's memory are performed at the home (R283); pool traffic
is served at the home, or brings what a region here has asked of one (R356, R363, R366, R378, R438). -/
def State.deliverFlit (s : State) (src : Nat) (b : FlitBody) : State :=
  match b with
  | .channelAsk tag place asid d ch => s.remoteAsk src tag place asid d ch
  | .channelRoom tag => s.wordAnswered tag true
  | .channelFree d ch => s.keepRoom (d % 4) (ch % 256) (· - 1)
  | .channel asid d ch v clk => s.remoteWord asid d ch v clk
  | .channelRefused tag => s.wordAnswered tag false
  | .ask tag pa op clk => s.serveAccess src tag pa op clk
  | .answer tag v clk f bad => s.accessBack tag v clk f bad
  | .line tag line clk => if s.elsewhere (64 * line) || !paOk (64 * line) then s else s.post none (.loadReq (awayTag src tag) line clk)
  | .lineData tag data wts rts poison =>
    match s.sentOf tag with
    | some ((p, _, .line line), s1) => s1.post (keyReply p) (.loadReply p line data wts rts poison)
    | _ => s
  | .lineHome tag =>
    match s.sentOf tag with
    | some ((p, _, .line line), s1) => (s1.markHome line).askAgain p line false
    | _ => s
  | .contribution key f clk =>
    match s.basin key with
    | some x => s.setBasin { x with arr := x.arr + 1, flags := x.flags ||| f, clk := maxClk x.clk clk }
    | none => s
  | .poolDecl tag place key d passed =>
    let (ok, s1) := s.declareAway (awayTag src place) key d passed
    s1.emitTo src 3 (.poolDeclared tag ok)
  | .poolDeclared tag ok =>
    match s.sentOf tag with
    | some ((p, k, .decl key d), s1) => (s1.declared p k key d ok).startsWaiting p
    | _ => s
  | .gather tag key counted settle => s.post none (.gather (awayTag src tag) 0 key counted settle)
  | .gatherOff tag => s.dropGathers (awayTag src tag)
  | .gathered tag v f clk bad =>
    match s.sentOf tag with
    | some ((p, k, .gather _ counted), s1) => s1.post none (.completion p k v f clk bad counted)
    | _ => s
  | .laneAsk key pos settle => s.laneAsked src key pos settle
  | .lanes key found => s.lanesCame src key found
  | .poolRelease tag place key => s.releaseAsked src tag place key
  | .poolReleased tag bad =>
    match s.sentOf tag with
    | some ((p, _, .release _), s1) => s1.releaseAnswered p bad
    | _ => s
  | .poolFreed key v => s.poolFreed key v
  | .credit gid number to_ len c => s.post none (.credit gid number to_ len c src)
  | .time t => s.correctTide t
  | .rdmaWrite _ _ _ => s
  | .rdmaRead _ _ _ => s
  | b => s.post none (.flit src b)

/-- CONDUIT_FLIT_RECEIVE (R393, R394, R396): a flit whose CRC fails, or that is out of order, is retried by the link. Another is delivered
when it is this package's own and of a kind that travels in its class; one for another package goes on to the port of its route. -/
def execConduitFlitReceive (port : Nat) (f : Flit) (s : State) : Out :=
  let x := Tbl.look s.well.ports port ConduitPort.reset
  let put (x : ConduitPort) : State := { s with well := { s.well with ports := Tbl.put s.well.ports port x } }
  let s1 := put (x.advance f.src f.dst (flitOrder f))
  if !f.crcOk || f.seq != x.next f.src f.dst (flitOrder f) then .next (put { x with retries := x.retries + 1 })
  else if !s.well.domain.contains f.src then .next s1
  else if f.dst ≠ s.well.pkg then .next (s1.queueFlit f.src f.dst f.cls f.body)
  else if !flitClassOk f.cls f.body then .next s1
  else .next (s1.deliverFlit f.src f.body)

/-! ### Time (R19, R399) -/

/-- TIME_FLIT_RECEIVE (R399): `src` is the tide of the time source. -/
def execTimeFlitReceive (_port src : Nat) (s : State) : Out := .next (s.correctTide src)

/-! ### Scale-out jobs (R416, R417) -/

/-- The driver creates a queue pair, one of 4,096 of the package, for one ASID and a remote region of a length (R416). -/
def State.createQp (s : State) (qp : Nat) (asid : BitVec 16) (len : Nat) : State :=
  if 4096 ≤ qp then s else { s with well := { s.well with qps := Tbl.put s.well.qps qp { asid := asid, len := len } } }

def EngMsg.qp (m : EngMsg) : Nat := m.opnd 0 % 2 ^ 12
def EngMsg.rlen (m : EngMsg) : Nat := m.opnd 0 / 2 ^ 32
def EngMsg.rva (m : EngMsg) : Nat := m.opnd 1

/-- A job whose transfer has begun ends with a status, or waits for the channel of its reply. -/
def State.endRoce (s : State) (j : Nat) (job : Job) (st : Nat) : State :=
  match s.engEnd job st 0x0A with
  | none => { s with well := { s.well with roce := Tbl.put s.well.roce j { job with reply := some st } } }
  | some (st, clk, s0) =>
  match s0.wellReply (2, j) job.msg st clk with
  | .full => { s0 with well := { s0.well.hold (2, j) with roce := Tbl.put s0.well.roce j { job with reply := some st, clk := clk } } }
  | .sent s1 =>
    let s2 : State := { s1 with well := { s1.well with roce := Tbl.drop s1.well.roce j } }
    match job.msg.hold with
    | some id => s2.completeHolder job.msg.die id clk
    | none => s2

/-- Whether an earlier job of a queue pair is still to be performed. -/
def State.qpBusy (s : State) (j qp : Nat) : Bool :=
  s.well.roce.any (fun e => e.2.msg.qp == qp) ||
    s.well.jobs.any fun e => decide (e.1 < j) && (e.2.msg.opc == 5 || e.2.msg.opc == 6) && e.2.msg.qp == qp

/-- The checks of R416 and R417 that come before a transfer: the status, or none. Every page of the local range translates, and its
accesses lie in the card. -/
def State.roceCheck (s : State) (m : EngMsg) (need : Need) : Option Nat × State :=
  let len := m.rlen
  let va := m.rva
  if fld (m.opnd 0) 12 20 ≠ 0 ∨ len < 4 ∨ len % 4 ≠ 0 ∨ vaTop ≤ va ∨ va % 4 ≠ 0 then (some 0x01, s)
  else
    match Tbl.find s.well.qps m.qp with
    | none => (some 0x09, s)
    | some q =>
      if q.asid ≠ m.asid ∨ q.len < m.opnd 2 + len ∨ vaTop < va + len then (some 0x09, s)
      else if !m.covers va len (need == .write) then (some 0x09, s)
      else
        let first := va / 4096
        (List.range ((va + len - 1) / 4096 + 1 - first)).foldl (fun a k =>
          match a.1 with
          | some st => (some st, a.2)
          | none =>
            match a.2.engAt m.die m.asid (if k = 0 then va else 4096 * (first + k)) need with
            | (.bad _, s1) => (some 0x09, s1)
            | (.at pa _, s1) => (if hostBit pa then some 0x09 else none, s1)) (none, s)

/-- A job of a queue pair begins: it leaves the cascade's queue for the port. -/
def State.beginRoce (s : State) (j : Nat) (job : Job) (b : FlitBody) : State :=
  let w := s.well
  { s with well := { w with jobs := Tbl.drop w.jobs j, roce := Tbl.put w.roce j job, eth := w.eth ++ [(job.msg.qp, b)] } }

/-- One step of a scale-out job of an opcode; one whose reply is held tries again. -/
def State.roceJob (s : State) (j opc : Nat) (f : Job → State) : Out :=
  match Tbl.find s.well.roce j with
  | some job =>
    match job.reply with
    | some st => if job.msg.opc = opc then .next (s.endRoce j job st) else s.idle
    | none => s.idle
  | none => s.cascadeJob j opc fun job => if s.qpBusy j job.msg.qp then s else f job

/-- RWRITE (R416, R417): the local bytes leave for the remote region. -/
def execRwrite (j : Nat) (s : State) : Out :=
  s.roceJob j 5 fun job =>
    let m := job.msg
    match s.roceCheck m .read with
    | (some st, s1) => s1.endCascade j job st
    | (none, s1) =>
      match s1.casWords job m.rva (m.rlen / 4) with
      | (.wait, s2) => s2
      | (.bad st, s2) => s2.endCascade j job st
      | (.done vs c, s2) => s2.beginRoce j { job with clk := c } (.rdmaWrite m.qp (m.opnd 2) (bytesOfWords vs))

/-- RREAD (R416, R417): the request leaves for the remote region. -/
def execRread (j : Nat) (s : State) : Out :=
  s.roceJob j 6 fun job =>
    let m := job.msg
    match s.roceCheck m .write with
    | (some st, s1) => s1.endCascade j job st
    | (none, s1) => s1.beginRoce j job (.rdmaRead m.qp (m.opnd 2) m.rlen)

/-- ROCE_RESPONSE_RECEIVE (R417): the acknowledgement of an RWRITE's last byte, or the next bytes of an RREAD, which are written under the
job clock. An RREAD replies with its last byte; what it has written stands whatever comes after. -/
def execRoceResponseReceive (j : Nat) (bytes : List Byte) (s : State) : Out :=
  match Tbl.find s.well.roce j with
  | none => s.idle
  | some job =>
    if job.reply.isSome then s.idle
    else if job.msg.opc = 5 then (if bytes.isEmpty then .next (s.endRoce j job 0x00) else s.idle)
    else if bytes.isEmpty || bytes.length % 4 != 0 || decide (job.msg.rlen < 4 * job.pos + bytes.length) then s.idle
    else
      match eachWrite (fun j off v s => s.casWrite j (j.msg.rva + off) v) (wordsOfBytes (bytes.length / 4) bytes) (4 * job.pos) job s with
      | (.wait, _) => s.idle
      | (.bad st, s1) => .next (s1.endRoce j job st)
      | (.done _ c, s1) =>
        let job1 := { job with clk := c, pos := job.pos + bytes.length / 4 }
        .next (if job.msg.rlen ≤ 4 * job1.pos then s1.endRoce j job1 0x00
          else { s1 with well := { s1.well with roce := Tbl.put s1.well.roce j job1 } })

/-- TRANSPORT_ERROR (R417): the job ends with cause 0x08. -/
def execTransportError (j : Nat) (s : State) : Out :=
  match Tbl.find s.well.roce j with
  | none => s.idle
  | some job => if job.reply.isSome then s.idle else .next (s.endRoce j job 0x08)

end Sys2Proof.Machine
end

