-- ==== Sys2Proof/Machine/Crypto.lean ====
section
/-! DEFINITION. The check of a signature: RSASSA-PSS with a 4,096-bit key over SHA-512 (R455). The manual names the functions; their
definitions are those of FIPS 180-4 and RFC 8017 (log entry 6, PRESUMED). -/
namespace Sys2Proof.Machine

/-! ### SHA-512 (FIPS 180-4) -/

/-- The round constants: the first 64 bits of the fractional parts of the cube roots of the first 80 primes. -/
def sha512K0 : List DWord :=
  [0x428A2F98D728AE22, 0x7137449123EF65CD, 0xB5C0FBCFEC4D3B2F, 0xE9B5DBA58189DBBC, 0x3956C25BF348B538,
   0x59F111F1B605D019, 0x923F82A4AF194F9B, 0xAB1C5ED5DA6D8118, 0xD807AA98A3030242, 0x12835B0145706FBE,
   0x243185BE4EE4B28C, 0x550C7DC3D5FFB4E2, 0x72BE5D74F27B896F, 0x80DEB1FE3B1696B1, 0x9BDC06A725C71235,
   0xC19BF174CF692694, 0xE49B69C19EF14AD2, 0xEFBE4786384F25E3, 0x0FC19DC68B8CD5B5, 0x240CA1CC77AC9C65]
def sha512K1 : List DWord :=
  [0x2DE92C6F592B0275, 0x4A7484AA6EA6E483, 0x5CB0A9DCBD41FBD4, 0x76F988DA831153B5, 0x983E5152EE66DFAB,
   0xA831C66D2DB43210, 0xB00327C898FB213F, 0xBF597FC7BEEF0EE4, 0xC6E00BF33DA88FC2, 0xD5A79147930AA725,
   0x06CA6351E003826F, 0x142929670A0E6E70, 0x27B70A8546D22FFC, 0x2E1B21385C26C926, 0x4D2C6DFC5AC42AED,
   0x53380D139D95B3DF, 0x650A73548BAF63DE, 0x766A0ABB3C77B2A8, 0x81C2C92E47EDAEE6, 0x92722C851482353B]
def sha512K2 : List DWord :=
  [0xA2BFE8A14CF10364, 0xA81A664BBC423001, 0xC24B8B70D0F89791, 0xC76C51A30654BE30, 0xD192E819D6EF5218,
   0xD69906245565A910, 0xF40E35855771202A, 0x106AA07032BBD1B8, 0x19A4C116B8D2D0C8, 0x1E376C085141AB53,
   0x2748774CDF8EEB99, 0x34B0BCB5E19B48A8, 0x391C0CB3C5C95A63, 0x4ED8AA4AE3418ACB, 0x5B9CCA4F7763E373,
   0x682E6FF3D6B2B8A3, 0x748F82EE5DEFB2FC, 0x78A5636F43172F60, 0x84C87814A1F0AB72, 0x8CC702081A6439EC]
def sha512K3 : List DWord :=
  [0x90BEFFFA23631E28, 0xA4506CEBDE82BDE9, 0xBEF9A3F7B2C67915, 0xC67178F2E372532B, 0xCA273ECEEA26619C,
   0xD186B8C721C0C207, 0xEADA7DD6CDE0EB1E, 0xF57D4F7FEE6ED178, 0x06F067AA72176FBA, 0x0A637DC5A2C898A6,
   0x113F9804BEF90DAE, 0x1B710B35131C471B, 0x28DB77F523047D84, 0x32CAAB7B40C72493, 0x3C9EBE0A15C9BEBC,
   0x431D67C49C100D4C, 0x4CC5D4BECB3E42B6, 0x597F299CFC657E2A, 0x5FCB6FAB3AD6FAEC, 0x6C44198C4A475817]
def sha512Rounds : List DWord := sha512K0 ++ sha512K1 ++ sha512K2 ++ sha512K3

/-- The eight words that a hash goes on from. -/
structure ShaState where
  a : DWord
  b : DWord
  c : DWord
  d : DWord
  e : DWord
  f : DWord
  g : DWord
  h : DWord
  deriving DecidableEq, Repr

/-- The initial words: the first 64 bits of the fractional parts of the square roots of the first 8 primes. -/
def ShaState.first : ShaState :=
  { a := 0x6A09E667F3BCC908, b := 0xBB67AE8584CAA73B, c := 0x3C6EF372FE94F82B, d := 0xA54FF53A5F1D36F1,
    e := 0x510E527FADE682D1, f := 0x9B05688C2B3E6C1F, g := 0x1F83D9ABFB41BD6B, h := 0x5BE0CD19137E2179 }

/-- One round with a round constant and a word of the schedule. -/
def ShaState.round (x : ShaState) (k w : DWord) : ShaState :=
  let s1 := x.e.rotateRight 14 ^^^ x.e.rotateRight 18 ^^^ x.e.rotateRight 41
  let ch := (x.e &&& x.f) ^^^ (~~~x.e &&& x.g)
  let s0 := x.a.rotateRight 28 ^^^ x.a.rotateRight 34 ^^^ x.a.rotateRight 39
  let maj := (x.a &&& x.b) ^^^ (x.a &&& x.c) ^^^ (x.b &&& x.c)
  let t1 := x.h + s1 + ch + k + w
  { a := t1 + (s0 + maj), b := x.a, c := x.b, d := x.c, e := x.d + t1, f := x.e, g := x.f, h := x.g }

/-- The message schedule grows by one word; the newest stands first. -/
def shaNext (ws : List DWord) : DWord :=
  let w1 := ws.getD 1 0
  let w14 := ws.getD 14 0
  (w1.rotateRight 19 ^^^ w1.rotateRight 61 ^^^ (w1 >>> 6)) + ws.getD 6 0 + (w14.rotateRight 1 ^^^ w14.rotateRight 8 ^^^ (w14 >>> 7)) +
    ws.getD 15 0

/-- The schedule of a block of sixteen words. -/
def shaSchedule (block : List DWord) : List DWord :=
  ((List.range 64).foldl (fun (ws : List DWord) _ => shaNext ws :: ws) block.reverse).reverse

/-- A block is taken into the hash. -/
def ShaState.block (x : ShaState) (block : List DWord) : ShaState :=
  let y := (sha512Rounds.zip (shaSchedule block)).foldl (fun (x : ShaState) e => x.round e.1 e.2) x
  { a := x.a + y.a, b := x.b + y.b, c := x.c + y.c, d := x.d + y.d, e := x.e + y.e, f := x.f + y.f, g := x.g + y.g, h := x.h + y.h }

/-- The number that bytes make, the first the highest. -/
def beValue (bs : List Byte) : Nat := bs.foldl (fun n b => 256 * n + b.toNat) 0
/-- The n bytes of a number, the highest first. -/
def beBytes (n v : Nat) : List Byte := (List.range n).map fun i => BitVec.ofNat 8 (v / 256 ^ (n - 1 - i))

/-- A message padded to a multiple of 128 bytes: a 1 bit, zeros, and its length in bits as 128 bits. -/
def shaPadded (bs : List Byte) : List Byte :=
  bs ++ 0x80 :: List.replicate ((239 - bs.length % 128) % 128) 0 ++ beBytes 16 (8 * bs.length)

/-- Word i of padded bytes. -/
def shaWord (bs : List Byte) (i : Nat) : DWord := BitVec.ofNat 64 (beValue ((bs.drop (8 * i)).take 8))

/-- SHA-512 of a byte string, its first byte the most significant. -/
def sha512 (bytes : List Byte) : BitVec 512 :=
  let m := shaPadded bytes
  let x := (List.range (m.length / 128)).foldl
    (fun (x : ShaState) k => x.block ((List.range 16).map fun i => shaWord m (16 * k + i))) ShaState.first
  x.a ++ x.b ++ x.c ++ x.d ++ x.e ++ x.f ++ x.g ++ x.h

/-- The 64 bytes of a digest. -/
def sha512Bytes (bytes : List Byte) : List Byte := beBytes 64 (sha512 bytes).toNat

/-! ### RSASSA-PSS (RFC 8017) -/

/-- b to the power e, modulo n, for exponents below 2^bits. -/
def powMod (n : Nat) : Nat → Nat → Nat → Nat
  | 0, _, _ => 1 % n
  | bits + 1, b, e =>
    let h := powMod n bits (b * b % n) (e / 2)
    if e % 2 = 1 then b * h % n else h

/-- The mask generation function over SHA-512: n bytes from a seed. -/
def mgf1 (seed : List Byte) (n : Nat) : List Byte :=
  ((List.range ((n + 63) / 64)).flatMap fun i => sha512Bytes (seed ++ beBytes 4 i)).take n

/-- The length of a salt: that of the hash. -/
def saltBytes : Nat := 64

/-- Whether 512 encoded bytes are those of a message (EMSA-PSS-VERIFY, with 4,095 bits). -/
def pssOk (message em : List Byte) : Bool :=
  let masked := em.take 447
  let hash := (em.drop 447).take 64
  let db := ((masked.zip (mgf1 hash 447)).map fun x => x.1 ^^^ x.2).zipIdx.map fun x => if x.2 = 0 then x.1 &&& 0x7F else x.1
  let zeros := 447 - saltBytes - 1
  em.length == 512 && em.getLast? == some 0xBC && (masked.headD 0).toNat < 0x80 && (db.take zeros).all (· == 0) &&
    db[zeros]? == some 0x01 && sha512Bytes (List.replicate 8 0 ++ sha512Bytes message ++ db.drop (zeros + 1)) == hash

/-- Whether a signature of a message verifies under a key of 4,096 bits: modulus and public exponent. -/
def pssVerify (key : Nat × Nat) (message signature : List Byte) : Bool :=
  let s := beValue signature
  decide (2 ^ 4095 ≤ key.1) && decide (key.1 < 2 ^ 4096) && signature.length == 512 && decide (s < key.1) &&
    pssOk message (beBytes 512 (powMod key.1 4096 s key.2))

/-- Whether the signature of an image passes the check (R449, R454, R455): what its signer has signed, and its signature, stand in the image
where its format puts them, and the key is that of the device. -/
def signatureOk (image : List Byte) : Bool := pssVerify Config.imageKey (Config.signedPart image) (Config.signaturePart image)

end Sys2Proof.Machine
end

