-- ==== Sys2Proof/Machine/Start.lean ====
section
/-! DEFINITION. Start-up, host memory, the root mailbox and attestation (R317, R318, R329, R446 to R456). -/
namespace Sys2Proof.Machine

/-! ### Starts (R449 to R451, R455) -/

/-- A physical address of this package's device memory. -/
def State.deviceMemory (s : State) (pa : Nat) : Bool := !hostBit pa && pkgOf pa == s.well.pkg

/-- Every unit stopped and every register at its reset value. What a start finds again are memory, the training record, the management
image, the package's number and its domain, the tide, and the model's counters. -/
def State.stopped (s : State) : State :=
  { State.reset with
    tide := s.tide, mem := s.mem, lines := s.lines, poison := s.poison, picks := s.picks, fresh := s.fresh,
    well := { Wellhead.reset with pkg := s.well.pkg, domain := s.well.domain, routes := s.well.routes },
    fw := { Firmware.reset with saved := s.fw.saved, image := s.fw.image, verified := s.fw.verified, starts := s.fw.starts + 1 } }

/-- A stage that a start runs fails at its signature check, or as hardware may (log entry 6). -/
def State.stageFails (s : State) (warm : Bool) (k : Nat) : Bool :=
  let n := s.fw.starts
  let checked :=
    if k = 5 then !signatureOk (Config.firmwareImage 0 n)
    else if k = 6 then
      !(warm && s.fw.verified == some (sha512 s.fw.image)) && !signatureOk s.fw.image
    else false
  if warm && (k == 1 || k == 4) then false else checked || Config.stageFails k n

/-- The first stage that fails, 0 when none does. -/
def State.failedStage (s : State) (warm : Bool) : Nat :=
  match [1, 2, 3, 4, 5, 6, 7].find? (s.stageFails warm) with
  | some k => k
  | none => 0

/-- The measurements of a start (R455). -/
def State.measured (s : State) : List (BitVec 512) :=
  let n := s.fw.starts
  [sha512 (Config.firmwareImage 0 n), sha512 s.fw.image, sha512 (Config.firmwareImage 1 n),
    sha512 (Config.firmwareImage 2 n)]

/-- Zero over all device memory (R449 stage 7). -/
def State.clearMemory (s : State) : State :=
  let keep (pa : Nat) : Bool := !s.deviceMemory pa
  { s with
    mem := s.mem.filter fun c => keep c.1, poison := s.poison.filter (fun l => keep (64 * l)),
    lines := s.lines.filter fun e => keep (64 * e.1) }

/-- Root firmware writes the routing tables (R394): the packages with a route, and this one, are the domain. -/
def Wellhead.routed (w : Wellhead) (tables : List (Nat × Nat)) : Wellhead :=
  let rs := tables.filter fun e => decide (e.1 < 1024) && e.1 != w.pkg && decide (e.2 < 64)
  let routes := rs.foldl (fun t e => Tbl.put t e.1 e.2) []
  { w with routes := routes, domain := insertSorted w.pkg (routes.map (·.1)) }

/-- A start: it runs its stages in order, to RUN or to recovery. -/
def State.start (s : State) (warm : Bool) : State :=
  let s1 := s.stopped
  let k := s1.failedStage warm
  if k ≠ 0 then
    { s1 with boot := { stage := k, warm := warm, fail := k, st := 2 },
              fw := { s1.fw with saved := s1.fw.saved || decide (3 < k) } }
  else
    let s2 := s1.clearMemory
    { s2 with
      boot := { stage := 7, warm := warm, fail := 0, st := 1 }, prot := Config.protectedRanges,
      well := s2.well.routed (Config.routes s1.fw.starts),
      fw := { s2.fw with saved := true, log := s1.measured, verified := some (sha512 s1.fw.image) } }

/-- POWER_ON (R449): the device is STARTING, and a cold start runs. The management image is the one in the package's store. -/
def execPowerOn (s : State) : Out :=
  if s.boot.st ≠ 0 then s.idle
  else
    let img := Config.firmwareImage 3 s.fw.starts
    .next (({ s with fw := { s.fw with image := img } } : State).start false)

/-- COLD_START (R449, R450): ignored during STARTING. -/
def execColdStart (s : State) : Out := if s.boot.st = 0 then s.idle else .next (s.start false)

/-- WARM_START (R449, R450): without a saved record the start is cold. -/
def execWarmStart (s : State) : Out := if s.boot.st = 0 then s.idle else .next (s.start s.fw.saved)

/-! ### Host memory accesses (R448) -/

/-- Device memory of a package. -/
def deviceBytes : Nat := 2 ^ 39

/-- The lines of a range of bytes. -/
def linesOf (pa n : Nat) : List Nat := if n = 0 then [] else (List.range (lineOf (pa + n - 1) + 1 - lineOf pa)).map (lineOf pa + ·)

/-- A host load completes: with bytes, or with poison. -/
def State.hostGets (s : State) (v : Option (List Byte)) : State := { s with fw := { s.fw with hostLoads := s.fw.hostLoads ++ [v] } }

/-- HOST_MEM_LOAD (R448): each line's owner is recalled and keeps a lease; the load itself takes none, and brings what the homes then hold,
or poison where a line is poisoned (R310). Before RUN it completes with poison. -/
def execHostMemLoad (a n : Nat) (s : State) : Out :=
  let pa := s.well.pkg * 2 ^ 39 + a
  if deviceBytes < a + n then .fault .hostAddress
  else if s.boot.st ≠ 1 then .next (s.hostGets none)
  else
    let s1 := (linesOf pa n).foldl (fun s l => s.recallNow l false) s
    .next (s1.hostGets (if (linesOf pa n).any s1.homePoisoned then none else some (Memory.bytes s1.mem pa n)))

/-- One line of a host store: its owner is recalled, and wts becomes rts_h + 1. -/
def State.hostStore (s : State) (pa n v : Nat) : State :=
  let (t, s1) := s.homeWrite pa n v 0
  let x := s1.die (dieOf pa)
  s1.setDie (dieOf pa) { x with hclk := maxClk x.hclk t }

/-- HOST_MEM_STORE (R448). Before RUN it is dropped. -/
def execHostMemStore (a : Nat) (bytes : List Byte) (s : State) : Out :=
  if deviceBytes < a + bytes.length then .fault .hostAddress
  else if s.boot.st ≠ 1 then s.idle
  else
    let pa := s.well.pkg * 2 ^ 39 + a
    let out := (piecesOf pa bytes.length).foldl (fun (x : List Byte × State) e =>
      (x.1.drop e.2, x.2.hostStore e.1 e.2 (leValue (x.1.take e.2)))) (bytes, s)
    .next out.2

/-! ### The root mailbox (R453, R454) -/

/-- RES of a request that has run: its words stand in REQ. -/
def State.rootDone (s : State) (code : Nat) (ws : List DWord) (res : Nat) : State :=
  let req := (BitVec.ofNat 64 code :: ws) ++ List.replicate (7 - ws.length) 0
  { s with fw := { s.fw with root := { req := req, busy := false, res := res } } }

/-- A request is read while the device runs and no other is being served. Its effect, or the result that refuses it. -/
def State.rootRequest (s : State) (code : Nat) (ws : List DWord) (f : Except Nat State) : Out :=
  if s.fw.root.busy || s.boot.st != 1 then s.idle
  else
    match f with
    | .error res => .next (s.rootDone code ws res)
    | .ok s1 => .next (s1.rootDone code ws 0)

def State.setAsid (s : State) (a : Nat) (e : AsidEntry) : State := { s with asids := Tbl.put s.asids a e }

/-- ASID_LIVE (R318, R454). -/
def execAsidLive (w1 w2 : DWord) (s : State) : Out :=
  let a := w1.toNat
  let root := w2.toNat
  s.rootRequest 0x01 [w1, w2] <|
    if 2 ^ 16 ≤ a ∨ root % 4096 ≠ 0 ∨ 2 ^ 52 ≤ root then .error 2
    else if (s.asidOf a).st ≠ .free then .error 1
    else .ok (s.setAsid a { root := root, dbg := false, st := .live })

/-- ASID_RELEASE (R318, R454). -/
def execAsidRelease (w1 : DWord) (s : State) : Out :=
  let a := w1.toNat
  s.rootRequest 0x02 [w1] <|
    if 2 ^ 16 ≤ a then .error 2
    else if (s.asidOf a).st ≠ .live then .error 1
    else .ok (s.setAsid a { s.asidOf a with st := .retiring })

/-! ### Invalidations (R329) -/

/-- Whether a cached entry falls in the range of an invalidation. -/
def PageEntry.within (e : PageEntry) (asid : BitVec 16) (range : Option (Nat × Nat)) : Bool :=
  e.asid == asid && (match range with
    | none => true
    | some (base, size) => e.meets base size)

/-- Whether the addresses of a held table pointer fall in the range of an invalidation. -/
def TableHeld.within (t : TableHeld) (d : Nat) (asid : BitVec 16) (range : Option (Nat × Nat)) : Bool :=
  t.die == d && t.asid == asid && (match range with
    | none => true
    | some (base, size) => rangesMeet (t.vbase * 2 ^ levelShift (t.level + 1)) (2 ^ levelShift (t.level + 1)) base size)

/-- Whether a range lies in the range of an invalidation. -/
def inRange (range : Option (Nat × Nat)) (base size : Nat) : Bool :=
  match range with
  | none => true
  | some (b, n) => decide (b ≤ base) && decide (base + size ≤ b + n)

/-- An invalidation begins on a die (R329): matching entries are dropped from the region TLBs, the walk cache and the engine translation
cache, and latches may load pages of the range again. With what the walk cache held of them every walk under way in the range is over, and
starts again from its root. -/
def State.invalidate (s : State) (d : Nat) (asid : BitVec 16) (range : Option (Nat × Nat)) (release : Bool) : State :=
  let gone (l : List PageEntry) : List PageEntry := l.filter (·.within asid range)
  let keep (l : List PageEntry) : List PageEntry := l.filter fun e => !e.within asid range
  let here (e : Nat × Region) : Bool := dieOfPlace e.1 == d
  let x := s.die d
  let pages := ((s.regions.filter here).flatMap (fun e => gone e.2.tlb) ++ gone x.etc).map fun e => (e.pbase, e.log)
  let s1 : State := { s with
    walks := s.walks.filter fun t => !t.within d asid range
    regions := s.regions.map fun e => (e.1, if here e then { e.2 with tlb := keep e.2.tlb } else e.2) }
  let s2 := s1.setDie d { x with etc := keep x.etc, noLatch := x.noLatch.filter fun r => !(r.1 == asid && inRange range r.2.1 r.2.2) }
  let op : Invalidation := { die := d, asid := asid, range := range, pages := pages.eraseDups, whole := release, done := false }
  { s2 with invals := Tbl.put s2.invals (Tbl.nextKey s2.invals) op }

/-- INVALIDATE (R329, R454): on each die of the mask; RES is written when every one has completed. -/
def execInvalidate (w1 w2 : DWord) (s : State) : Out :=
  let n := w1.toNat
  let dies := (List.range 4).filter fun d => bit n (16 + d)
  let range := if bit n 20 then none else some (w2.toNat, 2 ^ (fld n 21 6 + 12))
  if s.fw.root.busy || s.boot.st != 1 then s.idle
  else if n / 2 ^ 27 ≠ 0 ∨ vaTop ≤ w2.toNat then .next (s.rootDone 0x03 [w1, w2] 2)
  else
    let s1 := dies.foldl (fun s d => s.invalidate d (BitVec.ofNat 16 n) range false) s
    let s2 := s1.rootDone 0x03 [w1, w2] (if dies.isEmpty then 0 else s.fw.root.res)
    .next { s2 with fw := { s2.fw with root := { s2.fw.root with busy := !dies.isEmpty } } }

/-- Whether an invalidation concerns a region: one on its die, under its ASID. -/
def Invalidation.concerns (x : Invalidation) (e : Nat × Region) : Bool :=
  dieOfPlace e.1 == x.die && e.2.asid == x.asid && e.2.modeUnder != .free

/-- Whether a physical address lies in a page of an entry that an invalidation has dropped. -/
def Invalidation.reaches (x : Invalidation) (pa : Nat) : Bool := x.pages.any fun e => decide (e.1 ≤ pa) && decide (pa < e.1 + 2 ^ e.2)

/-- The access of a region that waits at its home for what a store there will bring, and its physical address. -/
def Body.waiting : Body → Option (Nat × Nat)
  | .waitvArmed w pa _ _ => some (w.place, pa)
  | .await w pa _ _ => some (w.place, pa)
  | .header w _ pa _ _ => some (w.place, pa)
  | .sent _ _ _ (.home w pa true) => some (w.place, pa)
  | _ => none

/-- Whether an access that a region has translated is still to be performed: one on its way, one that waits at its home through a dropped
entry, or a pair in the range, also of a saved region. -/
def State.translatedPending (s : State) (x : Invalidation) : Bool :=
  s.regions.any fun e => x.concerns e &&
    (s.inFlight e.1 || s.net.any (fun m => m.accesses e.1 || (match m.body.waiting with
        | some (q, pa) => q == e.1 && x.reaches pa
        | none => false)) ||
      e.2.sides.any fun q => q.2.pairs.any fun y => inRange x.range y.va 1 && s.pairLives e.1 y)

/-- Whether a stash line of a region holds a copy of a page that an invalidation withdraws: of a dropped entry, or of one by which some region
has accessed it. One that no region has accessed yet counts as one of its region's ASID. -/
def StashLine.within (l : StashLine) (asid : BitVec 16) (x : Invalidation) : Bool :=
  x.reaches (64 * l.line) || (l.vas.isEmpty && asid == x.asid) ||
    l.vas.any fun v => v.1 == x.asid && inRange x.range (4096 * v.2) 4096

/-- The regions of a die with a stash line that holds a copy of a page of an invalidation. -/
def State.holding (s : State) (x : Invalidation) : List (Nat × Region) :=
  s.regions.filter fun e => decide (e.1 < 256) && dieOfPlace e.1 == x.die && e.2.stash.any (·.within e.2.asid x)

/-- The copies that a region holds of the pages of an invalidation are written back and dropped, so that no access under a new class of a
page meets a copy of the old one (R309). -/
def State.dropPages (s : State) (x : Invalidation) (p : Nat) : State :=
  let r := s.region p
  (r.stash.filter (·.within r.asid x)).foldl (fun s l => s.writeBackLine p l.line) s

/-- Whether a write-back of a region of its die is still on its way home. -/
def State.writingBack (s : State) (x : Invalidation) : Bool :=
  s.net.any fun m => match m.body with
    | .writeBack p l => dieOfPlace p == x.die && l.within (s.region p).asid x
    | _ => false

/-- INVALIDATION_COMPLETE (R309, R329): the accesses translated before it have been performed, and the copies that the stashes of the die
hold of the pages are home. With the last invalidation of its request RES stands (R454). -/
def execInvalidationComplete (j : Nat) (s : State) : Out :=
  match Tbl.find s.invals j with
  | none => s.idle
  | some x =>
    let held := s.holding x
    if x.done || s.translatedPending x then s.idle
    else if !held.isEmpty then .next (held.foldl (fun s e => s.dropPages x e.1) s)
    else if s.writingBack x then s.idle
    else if x.whole then .next { s with invals := Tbl.put s.invals j { x with done := true } }
    else
      let left := Tbl.drop s.invals j
      let root := s.fw.root
      if left.any fun e => !e.2.whole then .next { s with invals := left }
      else .next { s with invals := left, fw := { s.fw with root := { root with busy := false, res := if root.busy then 0 else root.res } } }

/-- Whether anything of an ASID remains in the package (R318): launches, regions, jobs, footprints, channels. -/
def State.asidRemains (s : State) (a : BitVec 16) : Bool :=
  let job (j : Job) : Bool := j.msg.asid == a
  let msg (m : EngMsg) : Bool := m.asid == a
  s.regions.any (fun e => e.2.asid == a && e.2.modeUnder != .free) ||
    (s.dies.any fun e =>
      let x := e.2
      x.launches.any (fun l => l.2.recd.asid == a && !l.2.isOver) || (x.inbox ++ x.copyIn ++ x.weirIn).any msg || x.weirJobs.any job ||
        x.copyEng.any (fun q => q.2.any job) || x.holders.any (fun h => h.2.asid == a) || x.arrivals.any (·.asid == a) ||
        x.chans.any (fun c => c.2.owner == some a)) ||
    s.well.inbox.any msg || s.well.jobs.any (fun e => job e.2) || s.well.roce.any (fun e => job e.2) ||
    s.well.replays.any (fun e => job e.2.job) || (s.net.any fun m => match m.body with
      | .engine e => e.asid == a
      | .heldReply _ e _ _ => e.asid == a
      | .holder _ h => h.asid == a
      | _ => false)

/-- ASID_FREE (R318): nothing of a RETIRING ASID remains, its ASID-wide invalidation runs, and the ASID is FREE once that has completed
on every die. -/
def execAsidFree (a : Nat) (s : State) : Out :=
  let asid : BitVec 16 := BitVec.ofNat 16 a
  let mine (x : Invalidation) : Bool := x.whole && x.asid == asid
  if (s.asidOf a).st ≠ .retiring || s.asidRemains asid then s.idle
  else if !s.invals.any (fun e => mine e.2) then .next ((List.range 4).foldl (fun s d => s.invalidate d asid none true) s)
  else if s.invals.any (fun e => mine e.2 && !e.2.done) then s.idle
  else .next ({ s with invals := s.invals.filter fun e => !mine e.2 } |>.setAsid a { s.asidOf a with dbg := false, st := .free })

/-! ### Tables of root firmware (R108, R170, R398, R424, R454) -/

/-- Device memory as root firmware reads it: owners are recalled first. -/
def State.rootRead (s : State) (pa n : Nat) : List Byte × State :=
  let s1 := if hostBit pa then s else (linesOf pa n).foldl (fun s l => s.recallNow l false) s
  (Memory.bytes s1.mem pa n, s1)

/-- GROUP (R398, R454). -/
def execGroup (w1 w2 : DWord) (s : State) : Out :=
  let j := w1.toNat
  s.rootRequest 0x04 [w1, w2] <|
    if 2 ^ 10 ≤ j ∨ 2 ^ 52 ≤ w2.toNat then .error 2
    else
      let (bs, s1) := s.rootRead w2.toNat 128
      .ok { s1 with well := { s1.well with groups := Tbl.put s1.well.groups j (BitVec.ofNat 1024 (leValue bs)) } }

/-- CHANNEL (R170, R454): a freed channel holds no word. -/
def execChannel (w1 : DWord) (s : State) : Out :=
  let n := w1.toNat
  let d := n % 4
  let ch := fld n 2 8
  let x := s.die d
  let c := x.chan ch
  let release := bit n 26
  s.rootRequest 0x05 [w1] <|
    if n / 2 ^ 27 ≠ 0 then .error 2
    else if c.sub.isSome || release != c.owner.isSome then .error 1
    else
      let owner : Option (BitVec 16) := if release then none else some (BitVec.ofNat 16 (fld n 10 16))
      .ok (s.setDie d (x.setChan ch { owner := owner, words := [], sub := none, kept := (x.chan ch).kept }))

/-- QUEUE_PRIVILEGE (R108, R454). -/
def execQueuePrivilege (w1 : DWord) (s : State) : Out :=
  let n := w1.toNat
  let d := n % 4
  let q := fld n 2 5
  let x := s.die d
  s.rootRequest 0x06 [w1] <|
    if n / 2 ^ 8 ≠ 0 then .error 2 else .ok (s.setDie d (x.setQueue q { x.queue q with priv := bit n 7 }))

/-- SAVE_AREA (R424, R454): SAVEBASE is 2 MiB aligned, on the die's own memory. -/
def execSaveArea (w1 w2 : DWord) (s : State) : Out :=
  let n := w1.toNat
  let base := w2.toNat
  let d := n % 4
  let k := fld n 2 13
  let x := s.die d
  s.rootRequest 0x07 [w1, w2] <|
    if n / 2 ^ 15 ≠ 0 ∨ 4096 < k ∨ base % 2 ^ 21 ≠ 0 ∨ 2 ^ 52 ≤ base then .error 2
    else if k ≠ 0 ∧ (!s.deviceMemory base || dieOf base != d || !paOk base) then .error 2
    else if !x.slotsUsed.isEmpty then .error 1
    else .ok ((s.setDie d { x with saveBase := base, saveN := k }).startWaiting d)

/-- MANAGEMENT_IMAGE (R451, R454): a verified image replaces the other, and the device starts warm. It is served in recovery too. -/
def execManagementImage (w1 w2 : DWord) (s : State) : Out :=
  if s.fw.root.busy || s.boot.st == 0 then s.idle
  else if 2 ^ 52 ≤ w1.toNat ∨ 2 ^ 26 < w2.toNat then .next (s.rootDone 0x08 [w1, w2] 2)
  else
    let (bs, s1) := s.rootRead w1.toNat w2.toNat
    if !signatureOk bs then .next (s.rootDone 0x08 [w1, w2] 3)
    else .next (({ s1 with fw := { s1.fw with image := bs, verified := some (sha512 bs) } } : State).start s1.fw.saved)

/-! ### Attestation (R455, R456; log entry 6) -/

/-- A response of the SPDM responder: its code and its body. -/
def State.spdmSay (s : State) (code : Nat) (body : List Byte) : Out :=
  if s.boot.st ≠ 1 then s.idle else .next { s with fw := { s.fw with spdm := s.fw.spdm ++ [(code, body)] } }

/-- The response codes of SPDM 1.2. -/
def spdmError : Nat := 0x7F

/-- A request that SPDM 1.2 takes only after the algorithms have been negotiated. -/
def State.spdmAfter (s : State) (code : Nat) (ok : Bool) (body : List Byte) : Out :=
  if s.fw.negotiated && ok then s.spdmSay code body else s.spdmSay spdmError []

/-- The request codes of SPDM 1.2 that the responder supports (R456). -/
def spdmRequests : List Nat := [0x84, 0xE1, 0xE3, 0x81, 0x82, 0x83, 0xE0]

/-- Any other request, such as KEY_EXCHANGE, is answered with the error UnsupportedRequest and its code (R456). -/
def State.otherAttest (s : State) (code : Nat) : Out :=
  if spdmRequests.contains code then s.idle else s.spdmSay spdmError [0x07, BitVec.ofNat 8 code]

/-- GET_VERSION (R456). -/
def execGetVersion (s : State) : Out := s.spdmSay 0x04 (Config.spdmBody 0x84 [])
/-- GET_CAPABILITIES (R456). -/
def execGetCapabilities (s : State) : Out := s.spdmSay 0x61 (Config.spdmBody 0xE1 [])
/-- NEGOTIATE_ALGORITHMS (R456): the one algorithm set is RSASSA-4096 with SHA-512, bit 5 of the signature algorithms and bit 2 of the hash
algorithms of SPDM 1.2. The answer selects it from what the requester offers; where it is not offered, nothing is agreed. -/
def execNegotiateAlgorithms (s : State) : Out :=
  if bit s.fw.offer.1 5 && bit s.fw.offer.2 2 then
    State.spdmSay { s with fw := { s.fw with negotiated := s.fw.negotiated || s.boot.st == 1 } } 0x63
      (leBytes 4 (2 ^ 5) ++ leBytes 4 (2 ^ 2) ++ Config.spdmBody 0xE3 [])
  else s.spdmSay spdmError []
/-- GET_DIGESTS (R456): the digest of the one chain, in slot 0. -/
def execGetDigests (s : State) : Out := s.spdmAfter 0x01 true (leBytes 64 (sha512 Config.certificateChain).toNat)
/-- GET_CERTIFICATE (R456). -/
def execGetCertificate (slot off len : Nat) (s : State) : Out :=
  s.spdmAfter 0x02 (slot == 0) ((Config.certificateChain.drop off).take len)
/-- CHALLENGE (R456): signed with the device identity key. -/
def execChallenge (slot : Nat) (nonce : List Byte) (s : State) : Out :=
  let body := Config.spdmBody 0x83 nonce
  s.spdmAfter 0x03 (slot == 0) (body ++ Config.signature (body ++ nonce))
/-- GET_MEASUREMENTS (R455, R456): the blocks under indices 1 to 4, signed on request. Index 0 asks for their number and 0xFF for all of
them, as SPDM 1.2 has it. -/
def execGetMeasurements (index : Nat) (signed : Bool) (nonce : List Byte) (s : State) : Out :=
  let block (i : Nat) : List Byte := leBytes 64 (s.fw.log.getD (i - 1) 0).toNat
  let body :=
    if index = 0 then leBytes 1 4 else if index = 0xFF then [1, 2, 3, 4].flatMap block else block index
  s.spdmAfter 0x60 (decide (index ≤ 4) || index == 0xFF) (if signed then body ++ Config.signature (body ++ nonce) else body)

end Sys2Proof.Machine
end

