-- ==== Sys2Proof/Machine/Debug.lean ====
section
/-! DEFINITION. The debug unit and the management mailbox (R454, R457 to R459). -/
namespace Sys2Proof.Machine

/-! ### Attachments and regions (R457) -/

/-- The attachment that Trace and Untrace act on, neither of which names a place: the one made last (log entry 7). -/
def State.attached (s : State) : Option (Nat × Attachment) := s.attach.getLast?

/-- The regions of an attachment that a place identity names, or all of them for 0x3FF. -/
def State.namedRegions (s : State) (x : Attachment) (place : Nat) : List Nat :=
  let mine (e : Nat × Nat) : List Nat := match Tbl.find (s.die e.1).insts e.2 with
    | some i => i.places.filter fun q =>
        decide (q < 256) && (s.region q).inst == e.2 && (s.region q).modeUnder != .free &&
          (place == 0x3FF || (s.region q).placeId == place)
    | none => []
  x.insts.flatMap mine

/-- The regions that a request names: those of every attachment whose ASID has DBG. -/
def State.allNamed (s : State) (place : Nat) : List Nat :=
  (s.attach.filter fun e => (s.asidOf e.2.asid.toNat).dbg).flatMap fun e => s.namedRegions e.2 place

/-- The modes, shown and under it, of a region that a debugger lets go on: a held one has the mode it had, a halted one runs. -/
def resumedMode (m : RegionMode × RegionMode) : RegionMode × RegionMode :=
  let m1 := if m.1 == .held then (m.2, .free) else m
  if m1.1 == .halted then (.running, m1.2) else m1

/-- A region that a debugger has stopped goes on as though it had not stopped (R459); a halted one goes on at the word after its `halt`.
Handlers that stopped before a word issue that word. A frozen or saved region goes on so once it is back. -/
def Region.goesOn (r : Region) : Region :=
  let r1 := if r.mode == .frozen then { r with kept := resumedMode r.kept }
    else { r with mode := (resumedMode (r.mode, r.before)).1, before := (resumedMode (r.mode, r.before)).2 }
  { r1 with halter := none, passing := r.stops ++ r.passing, stops := [] }

/-- A region that a debugger stopped goes on, and its sequencer is heard at once. -/
def State.letGo (s : State) (p : Nat) : State :=
  let s1 := s.setRegion p (s.region p).goesOn
  { s1 with agenda := .issue p :: s1.agenda }

/-- An attachment ends: its breakpoints and traces are cleared and its stopped regions go on, the saved ones included (R457, R458). -/
def State.detachNow (s : State) (a : Nat) (x : Attachment) : State :=
  let places := x.insts.flatMap fun e => match Tbl.find (s.die e.1).insts e.2 with
    | some i => i.places.filter fun q => (s.region q).inst == e.2
    | none => []
  let clear (s : State) (p : Nat) : State := (s.setRegion p { s.region p with comps := [] }).letGo p
  let s1 := places.foldl clear s
  { s1 with attach := Tbl.drop s1.attach a }

/-- ASID_DEBUG (R454, R457): with DBG cleared every attachment under the ASID ends. -/
def execAsidDebug (w1 : DWord) (s : State) : Out :=
  let n := w1.toNat
  let a := n % 2 ^ 16
  let on := bit n 16
  s.rootRequest 0x09 [w1] <|
    if n / 2 ^ 17 ≠ 0 then .error 2
    else if (s.asidOf a).st ≠ .live then .error 1
    else
      let s1 := s.setAsid a { s.asidOf a with dbg := on }
      .ok (if on then s1 else (s1.attach.filter fun e => e.2.asid.toNat == a).foldl (fun s e => s.detachNow e.1 e.2) s1)

/-! ### The management mailbox (R458) -/

/-- RES of a request of the management mailbox. -/
def State.mgmtDone (s : State) (code : Nat) (ws : List DWord) (res : Nat) : State :=
  let req := (BitVec.ofNat 64 code :: ws) ++ List.replicate (7 - ws.length) 0
  { s with fw := { s.fw with mgmt := { req := req, busy := false, res := res } } }

/-- A request is served while the device runs: its effect, or the result that refuses it. -/
def State.mgmtRequest (s : State) (code : Nat) (ws : List DWord) (f : Except Nat State) : Out :=
  if s.boot.st != 1 then s.idle
  else
    match f with
    | .error res => .next (s.mgmtDone code ws res)
    | .ok s1 => .next (s1.mgmtDone code ws 0)

/-- A request that names regions: refused by state when there is no attachment (log entry 7), and not permitted when it names no region
of an attachment whose ASID has DBG. -/
def State.onRegions (s : State) (place : Nat) (f : List Nat → Except Nat State) : Except Nat State :=
  if s.attach.isEmpty then .error 1
  else
    let ps := s.allNamed place
    if ps.isEmpty then .error 3 else f ps

/-- ATTACH (R457, R458): the ring begins empty. -/
def execAttach (w1 w2 w3 : DWord) (s : State) : Out :=
  let n := w1.toNat
  let asid : BitVec 16 := BitVec.ofNat 16 (fld n 32 16)
  let mine (d : Nat) : List (Nat × Nat) :=
    let x := s.die d
    (x.insts.filter fun e => e.2.index == fld n 48 12 && (match x.launchRecOf e.2 with
      | some l => l.recd.job == fld n 0 32 && l.recd.asid == asid
      | none => false)).map fun e => (d, e.1)
  let found := (List.range 4).flatMap mine
  s.mgmtRequest 0x01 [w1, w2, w3] <|
    if fld n 60 4 ≠ 0 ∨ w2.toNat % 4096 ≠ 0 ∨ 2 ^ 51 ≤ w2.toNat ∨ w3.toNat < 1 ∨ 4096 < w3.toNat then .error 2
    else if found.isEmpty || !(s.asidOf asid.toNat).dbg then .error 3
    else if s.attach.any fun e => e.2.insts.any found.contains then .error 1
    else
      let x : Attachment :=
        { insts := found, asid := asid, base := w2.toNat, size := w3.toNat, prod := 0, dropped := 0, traces := [] }
      let m1 := Memory.writeLE s.mem (hostPa w2.toNat) 4 0
      .ok { s with attach := Tbl.put s.attach (Tbl.nextKey s.attach) x, mem := Memory.writeLE m1 (hostPa w2.toNat + 8) 4 0 }

/-- DETACH (R458). -/
def execDetach (a : Nat) (s : State) : Out :=
  s.mgmtRequest 0x02 [] <|
    match Tbl.find s.attach a with
    | none => .error 1
    | some x => .ok (s.detachNow a x)

/-- Whether the second word of a Break is one of its kind. -/
def breakOk (kind w : Nat) : Bool :=
  match kind with
  | 0 => decide (w < 2 ^ 41)
  | 1 => decide (w < 32)
  | 2 => decide (fld w 9 23 = 0)
  | 3 => w == 0
  | 4 => decide (w < 16)
  | _ => false

/-- The lowest of a region's four comparators that is free. -/
def Region.freeComparator (r : Region) : Option Nat := (List.range 4).find? fun k => (Tbl.find r.comps k).isNone

/-- BREAK (R458). -/
def execBreakArm (w1 w2 : DWord) (s : State) : Out :=
  let n := w1.toNat
  let kind := n % 16
  s.mgmtRequest 0x03 [w1, w2] <|
    if n / 2 ^ 14 ≠ 0 ∨ !breakOk kind w2.toNat then .error 2
    else
      s.onRegions (fld n 4 10) fun ps =>
        if ps.any fun p => (s.region p).freeComparator.isNone then .error 4
        else
          let arm (s : State) (p : Nat) : State :=
            let r := s.region p
            match r.freeComparator with
            | some k => s.setRegion p { r with comps := Tbl.put r.comps k { kind := kind, w2 := w2, hits := 0 } }
            | none => s
          .ok (ps.foldl arm s)

/-- UNBREAK (R458). -/
def execBreakDisarm (w1 : DWord) (s : State) : Out :=
  let n := w1.toNat
  let k := n % 4
  s.mgmtRequest 0x04 [w1] <|
    if n / 2 ^ 14 ≠ 0 ∨ fld n 2 2 ≠ 0 then .error 2
    else
      s.onRegions (fld n 4 10) fun ps =>
        if ps.all fun p => (Tbl.find (s.region p).comps k).isNone then .error 1
        else .ok (ps.foldl (fun s p => s.setRegion p { s.region p with comps := Tbl.drop (s.region p).comps k }) s)

/-- STOP (R459): what a stop completes of what has begun goes on as its accesses and grants come due. -/
def execDebugStop (w1 : DWord) (s : State) : Out :=
  let n := w1.toNat
  s.mgmtRequest 0x05 [w1] <|
    if n / 2 ^ 14 ≠ 0 ∨ n % 16 ≠ 0 then .error 2
    else s.onRegions (fld n 4 10) fun ps => .ok (ps.foldl (fun s p => s.setRegion p (s.region p).hold) s)

/-- Whether a region or one of its handlers stands still at a debugger's will, or has halted. -/
def Region.standsStill (r : Region) : Bool :=
  r.mode == .held || r.mode == .halted || (r.mode == .frozen && (r.kept.1 == .held || r.kept.1 == .halted)) || !r.stops.isEmpty

/-- RESUME (R458, R459). -/
def execDebugResume (w1 : DWord) (s : State) : Out :=
  let n := w1.toNat
  s.mgmtRequest 0x06 [w1] <|
    if n / 2 ^ 14 ≠ 0 ∨ n % 16 ≠ 0 then .error 2
    else
      s.onRegions (fld n 4 10) fun ps =>
        let still := ps.filter fun p => (s.region p).standsStill
        if still.isEmpty then .error 1 else .ok (still.foldl State.letGo s)

/-- Copy bytes to host memory. -/
def State.toHost (s : State) (a : Nat) (bs : List Byte) : State := { s with mem := Memory.writeBytes s.mem (hostPa a) bs }

/-- The numbers that tell a latch. -/
def tokenNumbers (t : Option Token) : List Nat :=
  match t with
  | none => [0]
  | some t => [1 + t.kind.toNat, t.payload.toNat, t.cause.toNat]

/-- The numbers that tell a cell: its latches, the tokens it still emits, its column function replies and its counts. -/
def Cell.numbers (c : Cell) : List Nat :=
  [c.linkN, c.linkE, c.linkS, c.linkW, c.result].flatMap (fun l => tokenNumbers l.tok) ++ c.mem.queue.flatMap (fun t => tokenNumbers (some t)) ++
    c.mem.replies.map (·.toNat) ++ c.mem.elems ++ c.mem.lanes.map (·.getD 0) ++ [c.self.toNat, c.fired, c.mem.fold, c.mem.pairs, c.mem.ctr]

/-- The numbers that tell a port and its spillway. -/
def portNumbers (x : Port) (y : PortSide) : List Nat :=
  tokenNumbers x.link.tok ++ tokenNumbers x.out ++ tokenNumbers x.pred ++ (x.queue ++ x.held).flatMap (fun t => tokenNumbers (some t)) ++
    [x.self.toNat, y.spill.head, y.spill.count] ++ y.spill.queue.flatMap fun e => [e.va, e.payload.toNat, e.n]

/-- The numbers that tell a region (R430): its sequencer, handlers, handles, fault file, cells, ports and accumulators. -/
def Region.numbers (r : Region) : List Nat :=
  r.regs.toList.map (·.toNat) ++ [r.cc.toNat, r.ic.toNat, r.icend.toNat, r.wid.toNat, r.fpflags.toNat, r.timer.toNat, r.lclk.toNat, r.stepNo] ++
    r.faults.map (·.toNat) ++ r.handlers.flatMap (fun e => [e.1, e.2.ia]) ++ r.handles.flatMap (fun e => [e.1, e.2.base, e.2.p, e.2.c, e.2.f]) ++
    r.cells.flatMap (fun e => e.1 :: e.2.numbers) ++ (r.ports.map (·.1)).flatMap (fun n => n :: portNumbers (r.port n) (r.side n)) ++
    r.matrix.acc.flatMap fun e => e.1 :: e.2.map (·.toNat)

/-- The numbers that tell a pool instance: its home's fold and the lanes of the basins. -/
def State.poolNumbers (s : State) (key : PoolKey) : List Nat :=
  (match s.basin key with
    | some b => [1, b.value.toNat]
    | none => [0]) ++ (s.lanes.filter fun l => l.key == key).flatMap fun l => [l.slot, l.n, l.value.toNat]

/-- READ (R458, R459): a region's state, while it is stopped, or a pool instance, in the device's own layout (log entry 7); or a gauge
record as GREAD writes it, which its home array reads (R483). -/
def execDebugRead (w1 w2 w3 w4 : DWord) (s : State) : Out :=
  let n := w1.toNat
  let id := w2.toNat
  let len := w4.toNat
  let told (holds : List Nat) (k : Nat) : List Byte := (List.range k).map (Config.stateByte holds)
  s.mgmtRequest 0x07 [w1, w2, w3, w4] <|
    if n / 2 ^ 16 ≠ 0 ∨ n % 16 ≠ 0 ∨ 2 ^ 51 < w3.toNat + len then .error 2
    else
      s.onRegions (fld n 4 10) fun ps =>
        let r := s.region (ps.headD 0)
        match fld n 14 2 with
        | 0 =>
          if ps.length ≠ 1 || !r.debugStopped then .error 1
          else .ok (s.toHost w3.toNat (told r.numbers (if len < saveLength 2 - 64 then len else saveLength 2 - 64)))
        | 1 =>
          let g := s.record id
          if 2 ^ 20 ≤ id ∨ !g.alloc then .error 1
          else if g.asid != r.asid then .error 3
          else .ok (s.toHost w3.toNat (g.image512.take len))
        | 2 =>
          match r.pool id with
          | none => .error 1
          | some e => .ok (s.toHost w3.toNat (told (s.poolNumbers e.key) len))
        | _ => .error 2

/-- TRACE (R458): at most sixteen, by their index. -/
def execDebugTrace (w1 w2 w3 : DWord) (s : State) : Out :=
  let kind := w1.toNat
  s.mgmtRequest 0x08 [w1, w2, w3] <|
    if 3 < kind then .error 2
    else
      match s.attached with
      | none => .error 3
      | some (a, x) =>
        if !(s.asidOf x.asid.toNat).dbg then .error 3
        else
          match (List.range 16).find? fun k => (Tbl.find x.traces k).isNone with
          | none => .error 1
          | some k => .ok { s with attach := Tbl.put s.attach a { x with traces := Tbl.put x.traces k { kind := kind, obj := w2, len := w3 } } }

/-- UNTRACE (R458). -/
def execDebugUntrace (w1 : DWord) (s : State) : Out :=
  let k := w1.toNat
  s.mgmtRequest 0x09 [w1] <|
    if 16 ≤ k then .error 2
    else
      match s.attached with
      | none => .error 3
      | some (a, x) =>
        if (Tbl.find x.traces k).isNone then .error 1
        else .ok { s with attach := Tbl.put s.attach a { x with traces := Tbl.drop x.traces k } }

/-! ### Requests that the host writes into a mailbox (R453, R454, R458) -/

/-- The operand words that a request of the root mailbox, or of the management mailbox, has. -/
def operandWords (root : Bool) (code : Nat) : Nat :=
  (if root then [0, 2, 1, 2, 2, 1, 1, 2, 2, 1] else [0, 3, 0, 2, 1, 1, 1, 4, 3, 1]).getD code 0

/-- A request that GO submits. A CODE without a request, a bit above CODE and an operand word that the request does not have give RES 2. -/
def State.submit (s : State) (root : Bool) (req : List DWord) : Out :=
  let w (i : Nat) : DWord := req.getD i 0
  let code := (w 0).toNat
  if code < 1 ∨ 9 < code ∨ (req.drop (operandWords root code + 1)).any (· != 0) then
    if root then s.rootRequest code (req.drop 1) (.error 2) else s.mgmtRequest code (req.drop 1) (.error 2)
  else if root then
    match code with
    | 1 => execAsidLive (w 1) (w 2) s
    | 2 => execAsidRelease (w 1) s
    | 3 => execInvalidate (w 1) (w 2) s
    | 4 => execGroup (w 1) (w 2) s
    | 5 => execChannel (w 1) s
    | 6 => execQueuePrivilege (w 1) s
    | 7 => execSaveArea (w 1) (w 2) s
    | 8 => execManagementImage (w 1) (w 2) s
    | _ => execAsidDebug (w 1) s
  else
    match code with
    | 1 => execAttach (w 1) (w 2) (w 3) s
    | 2 => execDetach ((s.attached.map (·.1)).getD 0) s
    | 3 => execBreakArm (w 1) (w 2) s
    | 4 => execBreakDisarm (w 1) s
    | 5 => execDebugStop (w 1) s
    | 6 => execDebugResume (w 1) s
    | 7 => execDebugRead (w 1) (w 2) (w 3) (w 4) s
    | 8 => execDebugTrace (w 1) (w 2) (w 3) s
    | _ => execDebugUntrace (w 1) s

/-- A write of the host to a mailbox (R453): of a word of REQ, or of GO, which submits REQ. While BUSY = 1 neither changes anything. -/
def State.mailboxWrite (s : State) (root : Bool) (off : Nat) (v : DWord) : Out :=
  let m := if root then s.fw.root else s.fw.mgmt
  if m.busy || s.boot.st == 0 then s.idle
  else if off < 0x40 ∧ off % 8 = 0 then
    let m1 : Mailbox := { m with req := replaceAt m.req (off / 8) v }
    .next { s with fw := if root then { s.fw with root := m1 } else { s.fw with mgmt := m1 } }
  else if off = 0x40 ∧ bit v.toNat 0 = true then s.submit root m.req
  else s.idle

end Sys2Proof.Machine
end

