-- ==== Sys2Proof/Machine/Fpu.lean ====
section
/-! DEFINITION. Scalar f32 (R157 to R159). -/
namespace Sys2Proof.Machine

/-- An FPU form: the low 32 bits of its sources, the result zero-extended, its flags in fpflags (R157). -/
def State.fpu (s : State) (rd ra rb : Reg) (f : Nat → Nat → Nat × Flags) : Out :=
  let t := f (low32 (s.mine.get ra)) (low32 (s.mine.get rb))
  s.writesFlags rd (BitVec.ofNat 64 t.1) t.2

/-- FADD (R157). -/
def execFadd (rd ra rb : Reg) (s : State) : Out := s.fpu rd ra rb (fAdd fmtF32 .rne .ieee)
/-- FSUB (R157). -/
def execFsub (rd ra rb : Reg) (s : State) : Out := s.fpu rd ra rb (fSub fmtF32 .rne .ieee)
/-- FMUL (R157). -/
def execFmul (rd ra rb : Reg) (s : State) : Out := s.fpu rd ra rb (fMul fmtF32 .rne .ieee)
/-- FMIN (R157). -/
def execFmin (rd ra rb : Reg) (s : State) : Out := s.fpu rd ra rb (fMin fmtF32)
/-- FMAX (R157). -/
def execFmax (rd ra rb : Reg) (s : State) : Out := s.fpu rd ra rb (fMax fmtF32)
/-- FMA (R157): the addend is rd. -/
def execFma (rd ra rb : Reg) (s : State) : Out :=
  s.fpu rd ra rb (fun a b => fFma fmtF32 .rne .ieee a b (low32 (s.mine.get rd)))

/-- The result and flags of a comparison (R158): `quiet` relations raise NV for a signalling NaN only. -/
def compareF32 (quiet : Bool) (rel : FVal → FVal → Bool) (a b : Nat) : Nat × Flags :=
  let x := fmtF32.value a
  let y := fmtF32.value b
  (if rel x y then 1 else 0, if quiet then nvSignal [x, y] else flagIf (x.isNaN || y.isNaN) flagNV)

/-- FCMP_EQ (R158). -/
def execFcmpEq (rd ra rb : Reg) (s : State) : Out := s.fpu rd ra rb (compareF32 true FVal.eqNum)
/-- FCMP_LT (R158). -/
def execFcmpLt (rd ra rb : Reg) (s : State) : Out := s.fpu rd ra rb (compareF32 false FVal.ltNum)
/-- FCMP_LE (R158). -/
def execFcmpLe (rd ra rb : Reg) (s : State) : Out :=
  s.fpu rd ra rb (compareF32 false (fun x y => FVal.ltNum x y || FVal.eqNum x y))
/-- FCMP_UN (R158). -/
def execFcmpUn (rd ra rb : Reg) (s : State) : Out := s.fpu rd ra rb (compareF32 true (fun x y => x.isNaN || y.isNaN))

/-- A conversion to a float format, zero-extended (R159). -/
def State.cvtToFloat (s : State) (rd ra : Reg) (f : DWord → Nat × Flags) : Out :=
  let t := f (s.mine.get ra)
  s.writesFlags rd (BitVec.ofNat 64 t.1) t.2

/-- A conversion to an integer of w bits: i32 is sign-extended, n32 zero-extended, a 64-bit result fills rd (R159). -/
def State.cvtToInt (s : State) (rd ra : Reg) (w : Nat) (sgn : Bool) (m : Rnd) (sat : Sat) : Out :=
  let t := floatToInt fmtF32 w sgn m sat (low32 (s.mine.get ra))
  s.writesFlags rd (if sgn then BitVec.ofInt 64 (signedOf w t.1) else BitVec.ofNat 64 t.1) t.2

/-- FCVT_F32_I32 (R159). -/
def execFcvtF32I32 (rd ra : Reg) (m : Rnd) (s : State) : Out :=
  s.cvtToFloat rd ra (fun v => intToFloat fmtF32 m .ieee (signedOf 32 v.toNat))
/-- FCVT_F32_N32 (R159). -/
def execFcvtF32N32 (rd ra : Reg) (m : Rnd) (s : State) : Out :=
  s.cvtToFloat rd ra (fun v => intToFloat fmtF32 m .ieee ((low32 v : Nat) : Int))
/-- FCVT_F32_I64 (R159). -/
def execFcvtF32I64 (rd ra : Reg) (m : Rnd) (s : State) : Out :=
  s.cvtToFloat rd ra (fun v => intToFloat fmtF32 m .ieee v.toInt)
/-- FCVT_F32_N64 (R159). -/
def execFcvtF32N64 (rd ra : Reg) (m : Rnd) (s : State) : Out :=
  s.cvtToFloat rd ra (fun v => intToFloat fmtF32 m .ieee ((v.toNat : Nat) : Int))
/-- FCVT_I32_F32 (R159). -/
def execFcvtI32F32 (rd ra : Reg) (m : Rnd) (sat : Sat) (s : State) : Out := s.cvtToInt rd ra 32 true m sat
/-- FCVT_N32_F32 (R159). -/
def execFcvtN32F32 (rd ra : Reg) (m : Rnd) (sat : Sat) (s : State) : Out := s.cvtToInt rd ra 32 false m sat
/-- FCVT_I64_F32 (R159). -/
def execFcvtI64F32 (rd ra : Reg) (m : Rnd) (sat : Sat) (s : State) : Out := s.cvtToInt rd ra 64 true m sat
/-- FCVT_N64_F32 (R159). -/
def execFcvtN64F32 (rd ra : Reg) (m : Rnd) (sat : Sat) (s : State) : Out := s.cvtToInt rd ra 64 false m sat
/-- FCVT_F32_BF16 (R159): exact. -/
def execFcvtF32Bf16 (rd ra : Reg) (s : State) : Out :=
  s.cvtToFloat rd ra (fun v => floatToFloat fmtBf16 fmtF32 .rne .ieee (v.toNat % 2 ^ 16))
/-- FCVT_F32_F16 (R159): exact. -/
def execFcvtF32F16 (rd ra : Reg) (s : State) : Out :=
  s.cvtToFloat rd ra (fun v => floatToFloat fmtF16 fmtF32 .rne .ieee (v.toNat % 2 ^ 16))
/-- FCVT_BF16_F32 (R159). -/
def execFcvtBf16F32 (rd ra : Reg) (m : Rnd) (sat : Sat) (s : State) : Out :=
  s.cvtToFloat rd ra (fun v => floatToFloat fmtF32 fmtBf16 m sat (low32 v))
/-- FCVT_F16_F32 (R159). -/
def execFcvtF16F32 (rd ra : Reg) (m : Rnd) (sat : Sat) (s : State) : Out :=
  s.cvtToFloat rd ra (fun v => floatToFloat fmtF32 fmtF16 m sat (low32 v))

end Sys2Proof.Machine
end

