-- ==== Sys2Proof/Machine/Loads.lean ====
section
/-! DEFINITION. Conduct loads, stores and atomics (R148 to R153). -/
namespace Sys2Proof.Machine

/-- LD_B (R148). -/
def execLdB (rd ra : Reg) (off : BitVec 16) (s : State) : Out := s.load rd ra off 1 true
/-- LD_H (R148). -/
def execLdH (rd ra : Reg) (off : BitVec 16) (s : State) : Out := s.load rd ra off 2 true
/-- LD_W (R148). -/
def execLdW (rd ra : Reg) (off : BitVec 16) (s : State) : Out := s.load rd ra off 4 true
/-- LD_D (R148). -/
def execLdD (rd ra : Reg) (off : BitVec 16) (s : State) : Out := s.load rd ra off 8 true
/-- LD_B_N (R148). -/
def execLdBN (rd ra : Reg) (off : BitVec 16) (s : State) : Out := s.load rd ra off 1 false
/-- LD_H_N (R148). -/
def execLdHN (rd ra : Reg) (off : BitVec 16) (s : State) : Out := s.load rd ra off 2 false
/-- LD_W_N (R148). -/
def execLdWN (rd ra : Reg) (off : BitVec 16) (s : State) : Out := s.load rd ra off 4 false
/-- ST_B (R148). -/
def execStB (rv ra : Reg) (off : BitVec 16) (s : State) : Out := s.store rv ra off 1
/-- ST_H (R148). -/
def execStH (rv ra : Reg) (off : BitVec 16) (s : State) : Out := s.store rv ra off 2
/-- ST_W (R148). -/
def execStW (rv ra : Reg) (off : BitVec 16) (s : State) : Out := s.store rv ra off 4
/-- ST_D (R148). -/
def execStD (rv ra : Reg) (off : BitVec 16) (s : State) : Out := s.store rv ra off 8

/-- AMO_ADD (R150). -/
def execAmoAdd (rd ra rb : Reg) (w : Bool) (s : State) : Out := s.atomic rd ra w .add (s.mine.get rb)
/-- AMO_AND (R150). -/
def execAmoAnd (rd ra rb : Reg) (w : Bool) (s : State) : Out := s.atomic rd ra w .and (s.mine.get rb)
/-- AMO_OR (R150). -/
def execAmoOr (rd ra rb : Reg) (w : Bool) (s : State) : Out := s.atomic rd ra w .or (s.mine.get rb)
/-- AMO_XOR (R150). -/
def execAmoXor (rd ra rb : Reg) (w : Bool) (s : State) : Out := s.atomic rd ra w .xor (s.mine.get rb)
/-- AMO_MIN (R150). -/
def execAmoMin (rd ra rb : Reg) (w : Bool) (s : State) : Out := s.atomic rd ra w .min (s.mine.get rb)
/-- AMO_MAX (R150). -/
def execAmoMax (rd ra rb : Reg) (w : Bool) (s : State) : Out := s.atomic rd ra w .max (s.mine.get rb)
/-- AMO_MINN (R150). -/
def execAmoMinn (rd ra rb : Reg) (w : Bool) (s : State) : Out := s.atomic rd ra w .minn (s.mine.get rb)
/-- AMO_MAXN (R150). -/
def execAmoMaxn (rd ra rb : Reg) (w : Bool) (s : State) : Out := s.atomic rd ra w .maxn (s.mine.get rb)
/-- AMO_SWAP (R150). -/
def execAmoSwap (rd ra rb : Reg) (w : Bool) (s : State) : Out := s.atomic rd ra w .swap (s.mine.get rb)
/-- AMO_FADD (R150). -/
def execAmoFadd (rd ra rb : Reg) (s : State) : Out := s.atomic rd ra false .fadd (s.mine.get rb)
/-- CAS (R151): the comparison value is rd. -/
def execCas (rd ra rb : Reg) (w : Bool) (s : State) : Out := s.atomic rd ra w (.cas (s.mine.get rd)) (s.mine.get rb)

/-- WAITV (R153): the home tests the word at ga, or arms a monitor on its line. -/
def execWaitv (rd ra rb : Reg) (s : State) : Out :=
  let p := s.cur.1
  match s.waitOf with
  | .answered w clk _ =>
    let r := s.mine.set rd w
    s.complete { r with lclk := maxClk r.lclk clk }
  | .faulted c addr => s.raise (Cause.ofCode c) 0 addr
  | .posted => s.stall
  | .room _ => s.stall
  | .none =>
    let va := confine (s.mine.get ra)
    match s.accessConduct p va 8 .read with
    | (.bad c d, s1) => s1.raiseAccess c d va
    | (.wait, s1) => s1.stall
    | (.ok pa _, s1) =>
      s1.postAndWait (keyMem p) (.waitv s1.asker pa ((s1.mine.get rb).toNat % 2 ^ 16) s1.mine.lclk)

end Sys2Proof.Machine
end

