-- ==== Sys2Proof/Machine/SoftError.lean ====
section
/-! DEFINITION. Uncorrectable soft errors where ECC finds them (R310, R354, R369, R423, R432, R434). -/
namespace Sys2Proof.Machine

/-- The token that stands in a latch in place of one that cannot be corrected. -/
def poisoned (t : Option Token) : Option Token := t.map fun _ => mkToken kPoison 0x80000000

/-- A latch of a cell, or of a port for numbers from 512 on. -/
def State.poisonLink (s : State) (p c : Nat) (d : Dir) : State :=
  if c < 512 then
    let x := s.cell p c
    s.setCell p c (x.setLink d { x.link d with tok := poisoned (x.link d).tok })
  else
    let x := s.port p (c - 512)
    s.setPort p (c - 512) { x with link := { x.link with tok := poisoned x.link.tok } }
def State.poisonOutput (s : State) (p c : Nat) (d : Dir) : State :=
  if c < 512 then
    let x := s.cell p c
    s.setCell p c (x.setOut d { x.out d with latch := poisoned (x.out d).latch })
  else
    let x := s.port p (c - 512)
    s.setPort p (c - 512) { x with out := poisoned x.out }

/-- A save that meets an error at an offset of its area: that of a pre-emption fails its instance, that of a snap raises the save fault
with the address that failed (R432, R434). -/
def State.poisonSave (s : State) (p off : Nat) : State :=
  match s.saving p with
  | some _ => s.saveFails p
  | none =>
    let r := s.region p
    match r.sif.snap with
    | none => s
    | some op =>
      let s1 := (s.setRegion p { r.noMarkers with sif := { r.sif with snap := none } }).thaw p
      let va := (op.va + off % saveLength 1) % 2 ^ 57
      match State.areaPages p [op.va] [] s1 with
      | (.ok pas, s2) => s2.snapFails p op va 1 pas.head?
      | (.error _, s2) => s2.snapFails p op va 1 none

/-- The configuration word of a cell, of a router-only cell, whose outputs then stop, or of a port for numbers from 512 on (R423). -/
def State.poisonWord (s : State) (p c : Nat) : State :=
  if c < 512 then
    let x := s.cell p c
    let dark (o : OutState) : OutState := { o with stopped := true }
    let y := if x.word.isSome then x else dirs.foldl (fun y d => y.setOut d (dark (y.out d))) x
    (s.setCell p c y).cellFault p c .soft 1 0 0 none
  else
    let n := c - 512
    (s.setPort p n { s.port p n with stopped := true }).portFault p n .soft 1 0 0 none 0

/-- Whether a cell or port of the fabric has been configured. -/
def Region.configured (r : Region) (c : Nat) : Bool :=
  if c < 512 then (Tbl.find r.cells c).isSome else (Tbl.find r.ports (c - 512)).isSome

/-- Sequencer registers, control words or reply latches: the region stops (R144). -/
def State.poisonSequencer (s : State) (p : Nat) : State := (s.unitFault p .soft 0 0 2 0 0 none 0).stopRegion p

/-- SOFT_ERROR_DETECT (R423). -/
def execSoftErrorDetect (at_ : ErrSite) (s : State) : Out :=
  match at_ with
  | .home l => .next (s.markPoison l true)
  | .stash p l =>
    let r := s.region p
    .next (s.setRegion p { r with stash := r.stash.map fun x => if x.line = l then { x with poison := true } else x })
  | .link p c o => .next (s.poisonLink p c o)
  | .result p c =>
    let x := s.cell p c
    .next (s.setCell p c { x with result := { x.result with tok := poisoned x.result.tok } })
  | .output p c o => .next (s.poisonOutput p c o)
  | .cellWord p c => if (s.region p).configured c then .next (s.poisonWord p c) else s.idle
  | .maLink p k =>
    let r := s.region p
    .next (s.setRegion p { r with matrix := { r.matrix with ma := r.matrix.ma.map fun e => if e.1 = k then (k, mkToken kPoison 0x80000000) else e } })
  | .mzLatch p k =>
    let r := s.region p
    .next (s.setRegion p { r with matrix := { r.matrix with mz := r.matrix.mz.map fun e => if e.1 = k then (k, mkToken kPoison 0x80000000) else e } })
  | .sequencer p => .next (s.poisonSequencer p)
  | .accRow p k =>
    let r := s.region p
    .next (s.setRegion p { r with matrix := { r.matrix with accBad := k % 256 :: r.matrix.accBad.erase (k % 256) } })
  | .lane i => .next { s with lanes := (s.lanes.zip (List.range s.lanes.length)).map fun e => if e.2 = i then e.1.poisonWith 4 else e.1 }
  | .homeBasin i =>
    .next { s with basins := (s.basins.zip (List.range s.basins.length)).map fun e => if e.2 = i then { e.1 with hpsn := true } else e.1 }
  | .record id => .next (s.setRecord id { s.record id with psn := true })
  | .save p off => .next (s.poisonSave p off)

end Sys2Proof.Machine
end

