-- ==== Sys2Proof/Machine/Dispatch.lean ====
section
/-! DEFINITION. The meaning of every instruction: one arm per constructor of Instr. -/
namespace Sys2Proof.Machine

def exec (i : Instr) (s : State) : Host.Outcome State Fault Refusal :=
  match i with
  | .add rd ra rb => Sys2Proof.Machine.execAdd rd ra rb s
  | .sub rd ra rb => Sys2Proof.Machine.execSub rd ra rb s
  | .and rd ra rb => Sys2Proof.Machine.execAnd rd ra rb s
  | .or rd ra rb => Sys2Proof.Machine.execOr rd ra rb s
  | .xor rd ra rb => Sys2Proof.Machine.execXor rd ra rb s
  | .shl rd ra rb => Sys2Proof.Machine.execShl rd ra rb s
  | .shr rd ra rb => Sys2Proof.Machine.execShr rd ra rb s
  | .sra rd ra rb => Sys2Proof.Machine.execSra rd ra rb s
  | .mul rd ra rb => Sys2Proof.Machine.execMul rd ra rb s
  | .mulh rd ra rb => Sys2Proof.Machine.execMulh rd ra rb s
  | .mulhn rd ra rb => Sys2Proof.Machine.execMulhn rd ra rb s
  | .div rd ra rb => Sys2Proof.Machine.execDiv rd ra rb s
  | .divn rd ra rb => Sys2Proof.Machine.execDivn rd ra rb s
  | .rem rd ra rb => Sys2Proof.Machine.execRem rd ra rb s
  | .remn rd ra rb => Sys2Proof.Machine.execRemn rd ra rb s
  | .min rd ra rb => Sys2Proof.Machine.execMin rd ra rb s
  | .max rd ra rb => Sys2Proof.Machine.execMax rd ra rb s
  | .minn rd ra rb => Sys2Proof.Machine.execMinn rd ra rb s
  | .maxn rd ra rb => Sys2Proof.Machine.execMaxn rd ra rb s
  | .slt rd ra rb => Sys2Proof.Machine.execSlt rd ra rb s
  | .sltn rd ra rb => Sys2Proof.Machine.execSltn rd ra rb s
  | .seq rd ra rb => Sys2Proof.Machine.execSeq rd ra rb s
  | .fadd rd ra rb => Sys2Proof.Machine.execFadd rd ra rb s
  | .fsub rd ra rb => Sys2Proof.Machine.execFsub rd ra rb s
  | .fmul rd ra rb => Sys2Proof.Machine.execFmul rd ra rb s
  | .fma rd ra rb => Sys2Proof.Machine.execFma rd ra rb s
  | .fmin rd ra rb => Sys2Proof.Machine.execFmin rd ra rb s
  | .fmax rd ra rb => Sys2Proof.Machine.execFmax rd ra rb s
  | .fcmpEq rd ra rb => Sys2Proof.Machine.execFcmpEq rd ra rb s
  | .fcmpLt rd ra rb => Sys2Proof.Machine.execFcmpLt rd ra rb s
  | .fcmpLe rd ra rb => Sys2Proof.Machine.execFcmpLe rd ra rb s
  | .fcmpUn rd ra rb => Sys2Proof.Machine.execFcmpUn rd ra rb s
  | .fcvtF32I32 rd ra m => Sys2Proof.Machine.execFcvtF32I32 rd ra m s
  | .fcvtF32N32 rd ra m => Sys2Proof.Machine.execFcvtF32N32 rd ra m s
  | .fcvtF32I64 rd ra m => Sys2Proof.Machine.execFcvtF32I64 rd ra m s
  | .fcvtF32N64 rd ra m => Sys2Proof.Machine.execFcvtF32N64 rd ra m s
  | .fcvtI32F32 rd ra m sat => Sys2Proof.Machine.execFcvtI32F32 rd ra m sat s
  | .fcvtN32F32 rd ra m sat => Sys2Proof.Machine.execFcvtN32F32 rd ra m sat s
  | .fcvtI64F32 rd ra m sat => Sys2Proof.Machine.execFcvtI64F32 rd ra m sat s
  | .fcvtN64F32 rd ra m sat => Sys2Proof.Machine.execFcvtN64F32 rd ra m sat s
  | .fcvtF32Bf16 rd ra => Sys2Proof.Machine.execFcvtF32Bf16 rd ra s
  | .fcvtF32F16 rd ra => Sys2Proof.Machine.execFcvtF32F16 rd ra s
  | .fcvtBf16F32 rd ra m sat => Sys2Proof.Machine.execFcvtBf16F32 rd ra m sat s
  | .fcvtF16F32 rd ra m sat => Sys2Proof.Machine.execFcvtF16F32 rd ra m sat s
  | .amoAdd rd ra rb w => Sys2Proof.Machine.execAmoAdd rd ra rb w s
  | .amoAnd rd ra rb w => Sys2Proof.Machine.execAmoAnd rd ra rb w s
  | .amoOr rd ra rb w => Sys2Proof.Machine.execAmoOr rd ra rb w s
  | .amoXor rd ra rb w => Sys2Proof.Machine.execAmoXor rd ra rb w s
  | .amoMin rd ra rb w => Sys2Proof.Machine.execAmoMin rd ra rb w s
  | .amoMax rd ra rb w => Sys2Proof.Machine.execAmoMax rd ra rb w s
  | .amoMinn rd ra rb w => Sys2Proof.Machine.execAmoMinn rd ra rb w s
  | .amoMaxn rd ra rb w => Sys2Proof.Machine.execAmoMaxn rd ra rb w s
  | .amoSwap rd ra rb w => Sys2Proof.Machine.execAmoSwap rd ra rb w s
  | .amoFadd rd ra rb => Sys2Proof.Machine.execAmoFadd rd ra rb s
  | .cas rd ra rb w => Sys2Proof.Machine.execCas rd ra rb w s
  | .waitv rd ra rb => Sys2Proof.Machine.execWaitv rd ra rb s
  | .hwait h rb => Sys2Proof.Machine.execHwait h rb s
  | .hroom h rb => Sys2Proof.Machine.execHroom h rb s
  | .hpop h rb => Sys2Proof.Machine.execHpop h rb s
  | .hpush h rb => Sys2Proof.Machine.execHpush h rb s
  | .hget rd h => Sys2Proof.Machine.execHget rd h s
  | .idrain h => Sys2Proof.Machine.execIdrain h s
  | .next => Sys2Proof.Machine.execNext s
  | .claim rd => Sys2Proof.Machine.execClaim rd s
  | .done => Sys2Proof.Machine.execDone s
  | .send ra rb => Sys2Proof.Machine.execSend ra rb s
  | .recv rd ra => Sys2Proof.Machine.execRecv rd ra s
  | .arrive rd ra => Sys2Proof.Machine.execArrive rd ra s
  | .await ra rb => Sys2Proof.Machine.execAwait ra rb s
  | .fence c => Sys2Proof.Machine.execFence c s
  | .nop => Sys2Proof.Machine.execNop s
  | .halt => Sys2Proof.Machine.execHalt s
  | .wfe => Sys2Proof.Machine.execWfe s
  | .trap c => Sys2Proof.Machine.execTrap c s
  | .eret => Sys2Proof.Machine.execEret s
  | .time rd => Sys2Proof.Machine.execTime rd s
  | .waitt ra => Sys2Proof.Machine.execWaitt ra s
  | .ret => Sys2Proof.Machine.execRet s
  | .addi rd ra imm => Sys2Proof.Machine.execAddi rd ra imm s
  | .andi rd ra imm => Sys2Proof.Machine.execAndi rd ra imm s
  | .ori rd ra imm => Sys2Proof.Machine.execOri rd ra imm s
  | .xori rd ra imm => Sys2Proof.Machine.execXori rd ra imm s
  | .shli rd ra sh => Sys2Proof.Machine.execShli rd ra sh s
  | .shri rd ra sh => Sys2Proof.Machine.execShri rd ra sh s
  | .srai rd ra sh => Sys2Proof.Machine.execSrai rd ra sh s
  | .slti rd ra imm => Sys2Proof.Machine.execSlti rd ra imm s
  | .lhi rd k imm => Sys2Proof.Machine.execLhi rd k imm s
  | .mfc rd c => Sys2Proof.Machine.execMfc rd c s
  | .mtcFpflags ra => Sys2Proof.Machine.execMtcFpflags ra s
  | .mtcHen ra => Sys2Proof.Machine.execMtcHen ra s
  | .mtcResume ra => Sys2Proof.Machine.execMtcResume ra s
  | .mtcTimer ra => Sys2Proof.Machine.execMtcTimer ra s
  | .mtcFpop ra => Sys2Proof.Machine.execMtcFpop ra s
  | .mtcChmap ra k => Sys2Proof.Machine.execMtcChmap ra k s
  | .goto t => Sys2Proof.Machine.execGoto t s
  | .pdcl settle ra scope op ty pl => Sys2Proof.Machine.execPdcl settle ra scope op ty pl s
  | .pcon ra pl => Sys2Proof.Machine.execPcon ra pl s
  | .prd rd pl => Sys2Proof.Machine.execPrd rd pl s
  | .prdC rd pl => Sys2Proof.Machine.execPrdC rd pl s
  | .pset rd pl => Sys2Proof.Machine.execPset rd pl s
  | .ldB rd ra off => Sys2Proof.Machine.execLdB rd ra off s
  | .ldH rd ra off => Sys2Proof.Machine.execLdH rd ra off s
  | .ldW rd ra off => Sys2Proof.Machine.execLdW rd ra off s
  | .ldD rd ra off => Sys2Proof.Machine.execLdD rd ra off s
  | .ldBN rd ra off => Sys2Proof.Machine.execLdBN rd ra off s
  | .ldHN rd ra off => Sys2Proof.Machine.execLdHN rd ra off s
  | .ldWN rd ra off => Sys2Proof.Machine.execLdWN rd ra off s
  | .stB rv ra off => Sys2Proof.Machine.execStB rv ra off s
  | .stH rv ra off => Sys2Proof.Machine.execStH rv ra off s
  | .stW rv ra off => Sys2Proof.Machine.execStW rv ra off s
  | .stD rv ra off => Sys2Proof.Machine.execStD rv ra off s
  | .bEq ra rb off => Sys2Proof.Machine.execBEq ra rb off s
  | .bNe ra rb off => Sys2Proof.Machine.execBNe ra rb off s
  | .bLt ra rb off => Sys2Proof.Machine.execBLt ra rb off s
  | .bGe ra rb off => Sys2Proof.Machine.execBGe ra rb off s
  | .bLtn ra rb off => Sys2Proof.Machine.execBLtn ra rb off s
  | .bGen ra rb off => Sys2Proof.Machine.execBGen ra rb off s
  | .jmp off => Sys2Proof.Machine.execJmp off s
  | .call off => Sys2Proof.Machine.execCall off s
  | .issue ga gb t => Sys2Proof.Machine.execIssue ga gb t s
  | .cop ra rb cls op => Sys2Proof.Machine.execCop ra rb cls op s
  | .copR rd ra rb cls op => Sys2Proof.Machine.execCopR rd ra rb cls op s
  | .bindr b => Sys2Proof.Machine.execBindr b s
  | .bindw b => Sys2Proof.Machine.execBindw b s
  | .bindg b isrc shift => Sys2Proof.Machine.execBindg b isrc shift s
  | .binds b shift => Sys2Proof.Machine.execBinds b shift s
  | .bindf h port slots ends out => Sys2Proof.Machine.execBindf h port slots ends out s
  | .bindc b sel out => Sys2Proof.Machine.execBindc b sel out s
  | .weir h port mask nrec image => Sys2Proof.Machine.execWeir h port mask nrec image s
  | .barrierFence => Sys2Proof.Machine.execBarrierFence s
  | .barrierArrive bar => Sys2Proof.Machine.execBarrierArrive bar s
  | .barrierArriveWait bar => Sys2Proof.Machine.execBarrierArriveWait bar s
  | .barrierWait bar phase => Sys2Proof.Machine.execBarrierWait bar phase s
  | .meter port rate => Sys2Proof.Machine.execMeter port rate s
  | .snap save rv rch => Sys2Proof.Machine.execSnap save rv rch s
  | .relatch asid base log rv rch => Sys2Proof.Machine.execRelatch asid base log rv rch s
  | .seal rid rv rch => Sys2Proof.Machine.execSeal rid rv rch s
  | .gbind port rid => Sys2Proof.Machine.execGbind port rid s
  | .gbindDetach port => Sys2Proof.Machine.execGbindDetach port s
  | .msg cls addr => Sys2Proof.Machine.execMsg cls addr s
  | .msgBind mport cls => Sys2Proof.Machine.execMsgBind mport cls s
  | .card cls op nf foot0 foot1 opnd => Sys2Proof.Machine.execCard cls op nf foot0 foot1 opnd s
  | .atime t => Sys2Proof.Machine.execAtime t s
  | .ctl port payload => Sys2Proof.Machine.execCtl port payload s
  | .syncw word n => Sys2Proof.Machine.execSyncw word n s
  | .mload h slots bm pack wbw tcols trows => Sys2Proof.Machine.execMload h slots bm pack wbw tcols trows s
  | .mswap => Sys2Proof.Machine.execMswap s
  | .mrow m => Sys2Proof.Machine.execMrow m s
  | .mcol m => Sys2Proof.Machine.execMcol m s
  | .moriginFixed y x => Sys2Proof.Machine.execMoriginFixed y x s
  | .moriginWalk y x => Sys2Proof.Machine.execMoriginWalk y x s
  | .mmask h port slots => Sys2Proof.Machine.execMmask h port slots s
  | .chunkSend r n => Sys2Proof.Machine.execChunkSend r n s
  | .chunkRecv r n => Sys2Proof.Machine.execChunkRecv r n s
  | .red r n => Sys2Proof.Machine.execRed r n s
  | .redc r n => Sys2Proof.Machine.execRedc r n s
  | .chunkCopy r n => Sys2Proof.Machine.execChunkCopy r n s
  | .a2a r n => Sys2Proof.Machine.execA2a r n s
  | .signal r n => Sys2Proof.Machine.execSignal r n s
  | .chunkCreditArrive m => Sys2Proof.Machine.execChunkCreditArrive m s
  | .chunkNodeComplete r n => Sys2Proof.Machine.execChunkNodeComplete r n s
  | .replayPeerTimeout r => Sys2Proof.Machine.execReplayPeerTimeout r s
  | .gload j => Sys2Proof.Machine.execGload j s
  | .replay j => Sys2Proof.Machine.execReplay j s
  | .gfree j => Sys2Proof.Machine.execGfree j s
  | .gstat j => Sys2Proof.Machine.execGstat j s
  | .rwrite j => Sys2Proof.Machine.execRwrite j s
  | .rread j => Sys2Proof.Machine.execRread j s
  | .copy d e => Sys2Proof.Machine.execCopy d e s
  | .copyi d e => Sys2Proof.Machine.execCopyi d e s
  | .fill d e => Sys2Proof.Machine.execFill d e s
  | .wset d j => Sys2Proof.Machine.execWset d j s
  | .gread d j => Sys2Proof.Machine.execGread d j s
  | .gpol d j => Sys2Proof.Machine.execGpol d j s
  | .gclr d j => Sys2Proof.Machine.execGclr d j s
  | .sluiceInboxLaunch d => Sys2Proof.Machine.execSluiceInboxLaunch d s
  | .engineMessageArrive m => Sys2Proof.Machine.execEngineMessageArrive m s
  | .engineReplyArrive m => Sys2Proof.Machine.execEngineReplyArrive m s
  | .tailDoorbell d q v => Sys2Proof.Machine.execTailDoorbell d q v s
  | .queueEnable d q v => Sys2Proof.Machine.execQueueEnable d q v s
  | .queueDisable d q v => Sys2Proof.Machine.execQueueDisable d q v s
  | .queueRegisterWrite d q off v => Sys2Proof.Machine.execQueueRegisterWrite d q off v s
  | .sluiceTakeRecord d q => Sys2Proof.Machine.execSluiceTakeRecord d q s
  | .registerWrite d off v => Sys2Proof.Machine.execRegisterWrite d off v s
  | .effectiveClassAging d u => Sys2Proof.Machine.execEffectiveClassAging d u s
  | .placeInstance d => Sys2Proof.Machine.execPlaceInstance d s
  | .launchAnchor d u => Sys2Proof.Machine.execLaunchAnchor d u s
  | .claimAtCursor m => Sys2Proof.Machine.execClaimAtCursor m s
  | .configImageLoaded p => Sys2Proof.Machine.execConfigImageLoaded p s
  | .holderArrive m => Sys2Proof.Machine.execHolderArrive m s
  | .holderAdmit d h => Sys2Proof.Machine.execHolderAdmit d h s
  | .admissionTimeout d h => Sys2Proof.Machine.execAdmissionTimeout d h s
  | .homeReadRequest m => Sys2Proof.Machine.execHomeReadRequest m s
  | .loadReply m => Sys2Proof.Machine.execLoadReply m s
  | .homeWriteRequest m => Sys2Proof.Machine.execHomeWriteRequest m s
  | .ownershipReply m => Sys2Proof.Machine.execOwnershipReply m s
  | .recall m => Sys2Proof.Machine.execRecall m s
  | .writeBackAck m => Sys2Proof.Machine.execWriteBackAck m s
  | .homeAtomic m => Sys2Proof.Machine.execHomeAtomic m s
  | .atomicReply m => Sys2Proof.Machine.execAtomicReply m s
  | .waitvWake m => Sys2Proof.Machine.execWaitvWake m s
  | .barrierArriveAtHome m => Sys2Proof.Machine.execBarrierArriveAtHome m s
  | .handleHeaderAction m => Sys2Proof.Machine.execHandleHeaderAction m s
  | .channelWordEnter m => Sys2Proof.Machine.execChannelWordEnter m s
  | .poolDeclareAtHome m => Sys2Proof.Machine.execPoolDeclareAtHome m s
  | .poolFold m => Sys2Proof.Machine.execPoolFold m s
  | .poolGather m => Sys2Proof.Machine.execPoolGather m s
  | .poolCompletionWord m => Sys2Proof.Machine.execPoolCompletionWord m s
  | .rescaleEventArrive m => Sys2Proof.Machine.execRescaleEventArrive m s
  | .timerExpiry p => Sys2Proof.Machine.execTimerExpiry p s
  | .waittExpiry p k => Sys2Proof.Machine.execWaittExpiry p k s
  | .atimeRelease p => Sys2Proof.Machine.execAtimeRelease p s
  | .portEmitToken p n => Sys2Proof.Machine.execPortEmitToken p n s
  | .portTakeToken p n => Sys2Proof.Machine.execPortTakeToken p n s
  | .bindingComplete p n => Sys2Proof.Machine.execBindingComplete p n s
  | .mamoAccess p n => Sys2Proof.Machine.execMamoAccess p n s
  | .xlatTranslate p n => Sys2Proof.Machine.execXlatTranslate p n s
  | .msgoutPost p n => Sys2Proof.Machine.execMsgoutPost p n s
  | .spillwayRetry p n => Sys2Proof.Machine.execSpillwayRetry p n s
  | .stalledPortRetry p n => Sys2Proof.Machine.execStalledPortRetry p n s
  | .relatchTokenAtPort p n => Sys2Proof.Machine.execRelatchTokenAtPort p n s
  | .cellEosFiring p c => Sys2Proof.Machine.execCellEosFiring p c s
  | .cellMarkerFiring p c => Sys2Proof.Machine.execCellMarkerFiring p c s
  | .cellAdd p c => Sys2Proof.Machine.execCellAdd p c s
  | .cellSub p c => Sys2Proof.Machine.execCellSub p c s
  | .cellMul p c => Sys2Proof.Machine.execCellMul p c s
  | .cellFma p c => Sys2Proof.Machine.execCellFma p c s
  | .cellMin p c => Sys2Proof.Machine.execCellMin p c s
  | .cellMax p c => Sys2Proof.Machine.execCellMax p c s
  | .cellAbs p c => Sys2Proof.Machine.execCellAbs p c s
  | .cellNeg p c => Sys2Proof.Machine.execCellNeg p c s
  | .cellAnd p c => Sys2Proof.Machine.execCellAnd p c s
  | .cellOr p c => Sys2Proof.Machine.execCellOr p c s
  | .cellXor p c => Sys2Proof.Machine.execCellXor p c s
  | .cellShl p c => Sys2Proof.Machine.execCellShl p c s
  | .cellShr p c => Sys2Proof.Machine.execCellShr p c s
  | .cellSra p c => Sys2Proof.Machine.execCellSra p c s
  | .cellCmp p c => Sys2Proof.Machine.execCellCmp p c s
  | .cellSel p c => Sys2Proof.Machine.execCellSel p c s
  | .cellMov p c => Sys2Proof.Machine.execCellMov p c s
  | .cellScale p c => Sys2Proof.Machine.execCellScale p c s
  | .cellPopc p c => Sys2Proof.Machine.execCellPopc p c s
  | .cellClz p c => Sys2Proof.Machine.execCellClz p c s
  | .cellCvt p c => Sys2Proof.Machine.execCellCvt p c s
  | .cellQnt p c => Sys2Proof.Machine.execCellQnt p c s
  | .cellDqn p c => Sys2Proof.Machine.execCellDqn p c s
  | .cellAcc p c => Sys2Proof.Machine.execCellAcc p c s
  | .cellRunacc p c => Sys2Proof.Machine.execCellRunacc p c s
  | .cellCnt p c => Sys2Proof.Machine.execCellCnt p c s
  | .xfnGrant p col => Sys2Proof.Machine.execXfnGrant p col s
  | .xfnReply p c => Sys2Proof.Machine.execXfnReply p c s
  | .cellRcpe p c => Sys2Proof.Machine.execCellRcpe p c s
  | .cellJoin p c => Sys2Proof.Machine.execCellJoin p c s
  | .cellPoolc p c => Sys2Proof.Machine.execCellPoolc p c s
  | .cellStat p c => Sys2Proof.Machine.execCellStat p c s
  | .cellNfin p c => Sys2Proof.Machine.execCellNfin p c s
  | .routerPass p c o => Sys2Proof.Machine.execRouterPass p c o s
  | .routerSteer p c o => Sys2Proof.Machine.execRouterSteer p c o s
  | .routerMerge p c o => Sys2Proof.Machine.execRouterMerge p c o s
  | .routerCarry p c o => Sys2Proof.Machine.execRouterCarry p c o s
  | .routerRepeat p c o => Sys2Proof.Machine.execRouterRepeat p c o s
  | .routerDrop p c o => Sys2Proof.Machine.execRouterDrop p c o s
  | .matrixVectorStart p => Sys2Proof.Machine.execMatrixVectorStart p s
  | .matrixVectorDone p => Sys2Proof.Machine.execMatrixVectorDone p s
  | .mloadComplete p => Sys2Proof.Machine.execMloadComplete p s
  | .matrixStepPass p => Sys2Proof.Machine.execMatrixStepPass p s
  | .matrixMarkerFiring p => Sys2Proof.Machine.execMatrixMarkerFiring p s
  | .weirGraphElement m => Sys2Proof.Machine.execWeirGraphElement m s
  | .rmwFadd m => Sys2Proof.Machine.execRmwFadd m s
  | .rmwIadd m => Sys2Proof.Machine.execRmwIadd m s
  | .rmwFmax m => Sys2Proof.Machine.execRmwFmax m s
  | .syncwAck m => Sys2Proof.Machine.execSyncwAck m s
  | .rillNodeTakeTrain m => Sys2Proof.Machine.execRillNodeTakeTrain m s
  | .rillWindowExpiry p n => Sys2Proof.Machine.execRillWindowExpiry p n s
  | .rillRootWindowExpiry d j => Sys2Proof.Machine.execRillRootWindowExpiry d j s
  | .trainApply m => Sys2Proof.Machine.execTrainApply m s
  | .sealAction m => Sys2Proof.Machine.execSealAction m s
  | .generationWordArrive m => Sys2Proof.Machine.execGenerationWordArrive m s
  | .preemptRequest d v => Sys2Proof.Machine.execPreemptRequest d v s
  | .autoPreempt d => Sys2Proof.Machine.execAutoPreempt d s
  | .splicePointSave p => Sys2Proof.Machine.execSplicePointSave p s
  | .preemptMarkerInject d => Sys2Proof.Machine.execPreemptMarkerInject d s
  | .cutClose p => Sys2Proof.Machine.execCutClose p s
  | .freeze p => Sys2Proof.Machine.execFreeze p s
  | .preemptResume d => Sys2Proof.Machine.execPreemptResume d s
  | .retireClear p => Sys2Proof.Machine.execRetireClear p s
  | .forcedClear p => Sys2Proof.Machine.execForcedClear p s
  | .successorStart p => Sys2Proof.Machine.execSuccessorStart p s
  | .clusterGate d c => Sys2Proof.Machine.execClusterGate d c s
  | .clusterGateEntryComplete d c => Sys2Proof.Machine.execClusterGateEntryComplete d c s
  | .clusterExitComplete d c => Sys2Proof.Machine.execClusterExitComplete d c s
  | .domainEntryWrite d j v => Sys2Proof.Machine.execDomainEntryWrite d j v s
  | .domainClockStep d j => Sys2Proof.Machine.execDomainClockStep d j s
  | .powerOn => Sys2Proof.Machine.execPowerOn s
  | .coldStart => Sys2Proof.Machine.execColdStart s
  | .warmStart => Sys2Proof.Machine.execWarmStart s
  | .hostMemLoad a n => Sys2Proof.Machine.execHostMemLoad a n s
  | .hostMemStore a bytes => Sys2Proof.Machine.execHostMemStore a bytes s
  | .asidLive w1 w2 => Sys2Proof.Machine.execAsidLive w1 w2 s
  | .asidRelease w1 => Sys2Proof.Machine.execAsidRelease w1 s
  | .asidFree a => Sys2Proof.Machine.execAsidFree a s
  | .invalidate w1 w2 => Sys2Proof.Machine.execInvalidate w1 w2 s
  | .invalidationComplete j => Sys2Proof.Machine.execInvalidationComplete j s
  | .group w1 w2 => Sys2Proof.Machine.execGroup w1 w2 s
  | .channel w1 => Sys2Proof.Machine.execChannel w1 s
  | .queuePrivilege w1 => Sys2Proof.Machine.execQueuePrivilege w1 s
  | .saveArea w1 w2 => Sys2Proof.Machine.execSaveArea w1 w2 s
  | .managementImage w1 w2 => Sys2Proof.Machine.execManagementImage w1 w2 s
  | .asidDebug w1 => Sys2Proof.Machine.execAsidDebug w1 s
  | .attach w1 w2 w3 => Sys2Proof.Machine.execAttach w1 w2 w3 s
  | .detach a => Sys2Proof.Machine.execDetach a s
  | .breakArm w1 w2 => Sys2Proof.Machine.execBreakArm w1 w2 s
  | .breakDisarm w1 => Sys2Proof.Machine.execBreakDisarm w1 s
  | .debugStop w1 => Sys2Proof.Machine.execDebugStop w1 s
  | .debugResume w1 => Sys2Proof.Machine.execDebugResume w1 s
  | .debugRead w1 w2 w3 w4 => Sys2Proof.Machine.execDebugRead w1 w2 w3 w4 s
  | .debugTrace w1 w2 w3 => Sys2Proof.Machine.execDebugTrace w1 w2 w3 s
  | .debugUntrace w1 => Sys2Proof.Machine.execDebugUntrace w1 s
  | .getVersion => Sys2Proof.Machine.execGetVersion s
  | .getCapabilities => Sys2Proof.Machine.execGetCapabilities s
  | .negotiateAlgorithms => Sys2Proof.Machine.execNegotiateAlgorithms s
  | .getDigests => Sys2Proof.Machine.execGetDigests s
  | .getCertificate slot off len => Sys2Proof.Machine.execGetCertificate slot off len s
  | .challenge slot nonce => Sys2Proof.Machine.execChallenge slot nonce s
  | .getMeasurements index signed nonce => Sys2Proof.Machine.execGetMeasurements index signed nonce s
  | .softErrorDetect at_ => Sys2Proof.Machine.execSoftErrorDetect at_ s
  | .timeFlitReceive port src => Sys2Proof.Machine.execTimeFlitReceive port src s
  | .conduitFlitReceive port f => Sys2Proof.Machine.execConduitFlitReceive port f s
  | .roceResponseReceive j bytes => Sys2Proof.Machine.execRoceResponseReceive j bytes s
  | .transportError j => Sys2Proof.Machine.execTransportError j s

end Sys2Proof.Machine
end

