-- ==== Sys2Proof/Machine/Fetch.lean ====
section
/-! DEFINITION. Issuing: which handler issues and the conduct word that it issues (R135, R140, R141, R156, R428, R458), and the
stream command that leaves a region's command queue (R162). -/
namespace Sys2Proof.Machine

/-- A region that issues nothing more until its save: its cut has opened for a pre-emption, or it has torn down at the splice point of
one (R427, R428). -/
def State.issueHeld (s : State) (p : Nat) : Bool :=
  (s.cutForSave p && s.cutReady p) || ((s.region p).atSplice && (s.saving p).isSome && s.tornAll p)

/-- Evaluate the word at a handler's instruction address. A word outside the handler's code faults (R156); one that decodes
to nothing is illegal (R81). -/
def State.evalAt (s : State) (p k : Nat) : Out :=
  let s1 : State := { s with cur := (p, k), stalled := false }
  match s1.fetch p k s1.here with
  | none => s1.raise .fetchBound 0 0
  | some w =>
    match decodeConduct w.toNat with
    | .error _ => s1.raiseIllegal
    | .ok i => exec i s1

/-- A breakpoint on a word: byte offset, step and handler (R458). -/
def wordBreak (ia cc k : Nat) (w2 : DWord) : Bool := w2.toNat % 2 ^ 41 == ia % 2 ^ 32 + cc % 16 * 2 ^ 32 + k % 32 * 2 ^ 36

/-- A stalled word that waits for an answer of memory or of a header at home. -/
def evaluatedAgain : Instr → Bool
  | .waitv _ _ _ => true
  | .await _ _ => true
  | .hwait _ _ => true
  | .hroom _ _ => true
  | .hget _ _ => true
  | .mfc _ (.hstat _) => true
  | _ => false

/-- Whether a message is the wait of a handler, or its answer. -/
def Body.waitFor (b : Body) (w : Asker) : Bool :=
  match b with
  | .atomicReply v _ _ _ _ => v == w
  | .waitv v _ _ _ => v == w
  | .waitvArmed v _ _ _ => v == w
  | .await v _ _ _ => v == w
  | .header v _ _ _ _ => v == w
  | .sent _ _ _ (.home v _ true) => v == w
  | _ => false

/-- A handler k has issued: a stalled wait of another handler is evaluated again from the start when that handler next issues (R135). An
atomic, an advance, a message, a gather or a word for another package has been sent once; its handler evaluates only the wait again
(R175, R374). -/
def State.displace (s : State) (p k : Nat) : State :=
  ((s.region p).handlers.map (·.1)).foldl (fun s j =>
    let r := s.region p
    let h := r.handler j
    let again : Bool := match s.fetch p j h.ia with
      | none => false
      | some w =>
        match decodeConduct w.toNat with
        | .ok i => evaluatedAgain i
        | .error _ => false
    if j = k ∨ h.wait == .none ∨ !again then s
    else
      { s.setRegion p (r.setHandler j { h with wait := .none }) with net := s.net.filter fun m => !m.body.waitFor (.handler p j) }) s

/-- A word breakpoint stops a handler before it issues its word; every other unit goes on (R458, R478). -/
def State.stopHandler (s : State) (p k : Nat) : State :=
  let r := s.region p
  { s.setRegion p { r with stops := insertSorted k r.stops } with stalled := true }

/-- A handler that a breakpoint has let pass has issued its word. -/
def State.hasPassed (s : State) (p k : Nat) (passing : Bool) : State :=
  let r := s.region p
  if passing then s.setRegion p { r with passing := r.passing.filter (· != k) } else s

/-- Issue the word of a handler, unless a breakpoint stops it before (R458). A word that stalls does not issue. -/
def State.issueAt (s : State) (p k : Nat) : Out :=
  let r := s.region p
  let passing := r.passing.contains k
  if !passing && r.breaks 0 (wordBreak (r.handler k).ia r.cc.toNat k) then .next (s.stopHandler p k)
  else
    match s.evalAt p k with
    | .next s1 => if s1.stalled then .next s1 else .next ((s1.hasPassed p k passing).displace p k)
    | o => o

/-- A picked handler that is idle starts at its entry, which takes its event (R139, R140). -/
def State.startHandler (s : State) (p k : Nat) : State :=
  let r := s.region p
  let r1 := r.setHandler k { r.handler k with st := .active, ia := 0, wait := .none }
  s.setRegion p { r1 with rescale := r1.rescale && k != 2, timerEv := r1.timerEv && k != 3 }

/-- Whether handler 0 waits for the tide that its splice was armed with (R281), or for the image of the step that a `goto` has spliced
(R166). -/
def State.atimeHeld (s : State) (p : Nat) : Bool :=
  let r := s.region p
  r.steps.any fun x => x.num == r.stepNo && (decide (s.tide < x.openAt) || !x.loaded)

/-- The stream command at the head of a region's command queue is taken (R162). -/
def State.runCommand (s : State) (p : Nat) : Out :=
  let r := s.region p
  -- while the matrix channel is full no command leaves the queue (R239)
  if !r.moves || s.issueHeld p || decide (8 ≤ r.matrix.channel.length) then .next s
  else
    match r.cmdQ with
    | [] => .next s
    | q :: _ =>
      match decodeStream q.bits.toNat with
      | .ok i => exec i { s with cur := (p, noHandler), stalled := false }
      | .error _ => .next s

/-- Whether the head of a region's command queue has been taken, or can leave now. -/
def State.queueMoves (s : State) (p : Nat) : Bool :=
  let r := s.region p
  r.sif.busy || (match s.runCommand p with
    | .next s1 => decide ((s1.region p).cmdQ.length < r.cmdQ.length) || (s1.region p).sif.busy
    | _ => false)

/-- Whether the word of a handler ends the course. -/
def State.wordEnds (s : State) (p k : Nat) : Bool :=
  match s.fetch p k ((s.region p).handler k).ia with
  | none => false
  | some w =>
    match decodeConduct w.toNat with
    | .ok .done => true
    | .ok .next => (s.following p).isNone
    | _ => false

/-- Whether a handler comes to the end of its course while commands can still leave the queue: they leave it first, one in a cycle, so that
only those that something holds back are discarded (R162, R435, R480; log entry 69). -/
def State.doneWaits (s : State) (p k : Nat) : Bool :=
  !(s.region p).cmdQ.isEmpty && s.wordEnds p k && s.queueMoves p

/-- Whether a handler may be picked: active, or idle, enabled and its event pending (R140). -/
def State.mayIssue (s : State) (p k : Nat) : Bool :=
  let h := (s.region p).handler k
  match h.st with
  | .active => !(s.region p).stops.contains k && (k != 0 || !s.atimeHeld p) && !s.doneWaits p k
  | .idle => h.decl && h.hen && s.eventPending p k
  | .suspended => false
  | .stopped => false

/-- Handlers in the order of the pick: highest priority first, ties to the lowest index (R140). -/
def pickInsert (r : Region) (k : Nat) : List Nat → List Nat
  | [] => [k]
  | j :: t => if (r.handler j).pri < (r.handler k).pri then k :: j :: t else j :: pickInsert r k t

def Region.pickOrder (r : Region) : List Nat :=
  r.handlers.foldl (fun acc e => pickInsert r e.1 acc) []

/-- The first handler of the order whose word can issue: a word that stalls lets the next handler issue (R140). -/
def State.tryHandlers (p : Nat) : List Nat → State → Out
  | [], s => .next { s with stalled := false }
  | k :: t, s =>
    if !s.mayIssue p k then State.tryHandlers p t s
    else if ((s.region p).handler k).st == .idle then
      let r := s.region p
      if r.breaks 1 (fun w2 => w2.toNat % 32 == k) then .next (s.setRegion p { r with picked := some k }.hold)
      else (s.startHandler p k).issueAt p k
    else
      match s.issueAt p k with
      | .next s1 => if s1.stalled then State.tryHandlers p t s1 else .next s1
      | o => o

/-- One issue of a region's sequencer (R135). Only a running region issues; one that stands still makes the stores that it has sent. A handler whose pick a breakpoint has held up starts when the
region goes on (R459, R483). -/
def State.issue (s : State) (p : Nat) : Out :=
  let r := s.region p
  if r.mode == .running && !s.issueHeld p then
    match r.picked with
    | some k => ((s.setRegion p { r with picked := none }).startHandler p k).issueAt p k
    | none => State.tryHandlers p r.pickOrder s
  else
    match r.storeDue with
    | some k => s.evalAt p k
    | none => .next s

end Sys2Proof.Machine
end

