-- ==== Sys2Proof/Machine/Agents.lean ====
section
/-! DEFINITION. The agents that may move when nothing is on the agenda (assumption 2): every unit, message and timer that stands in
the state. Listing one whose condition does not hold is harmless: its step changes nothing. -/
namespace Sys2Proof.Machine

/-- What an agent does when it moves. -/
abbrev Move := State → Out

/-- The data firing of a cell of an operation. -/
def cellActs (p c : Nat) : CellOp → List Move
  | .add => [execCellAdd p c] | .sub => [execCellSub p c] | .mul => [execCellMul p c] | .fma => [execCellFma p c]
  | .min => [execCellMin p c] | .max => [execCellMax p c] | .abs => [execCellAbs p c] | .neg => [execCellNeg p c]
  | .and => [execCellAnd p c] | .or => [execCellOr p c] | .xor => [execCellXor p c] | .shl => [execCellShl p c]
  | .shr => [execCellShr p c] | .sra => [execCellSra p c] | .cmp => [execCellCmp p c] | .sel => [execCellSel p c]
  | .mov => [execCellMov p c] | .scale => [execCellScale p c] | .popc => [execCellPopc p c] | .clz => [execCellClz p c]
  | .cvt => [execCellCvt p c] | .qnt => [execCellQnt p c] | .dqn => [execCellDqn p c] | .acc => [execCellAcc p c]
  | .runacc => [execCellRunacc p c] | .cnt => [execCellCnt p c] | .xfn => [execXfnGrant p (c % 32), execXfnReply p c]
  | .rcpe => [execCellRcpe p c] | .join => [execCellJoin p c] | .poolc => [execCellPoolc p c] | .stat => [execCellStat p c]
  | .nfin => [execCellNfin p c]
  | .mld => [] | .mst => [] | .mamo => [] | .xlat => [] | .msgout => []
  | .rmwFadd => [] | .rmwIadd => [] | .rmwFmax => [] | .clipb => [] | .gauge => [] | .pack => [] | .unpack => []

/-- The event of a router output. -/
def routerActs (p c : Nat) (d : Dir) : Option RouterOut → List Move
  | none => []
  | some o =>
    match o.op with
    | .pass => [execRouterPass p c d] | .steer _ => [execRouterSteer p c d] | .merge _ _ => [execRouterMerge p c d]
    | .carry _ _ => [execRouterCarry p c d] | .repeat _ => [execRouterRepeat p c d] | .drop _ => [execRouterDrop p c d]

def cellEvents (p c : Nat) (x : Cell) : List Move :=
  [execCellEosFiring p c, execCellMarkerFiring p c] ++
    (match x.word with
      | some w => cellActs p c w.op
      | none => []) ++ dirs.flatMap fun d => routerActs p c d (x.router.out d)

def portEvents (p n : Nat) : List Move :=
  [execPortEmitToken p n, execPortTakeToken p n, execBindingComplete p n, execMamoAccess p n, execXlatTranslate p n, execMsgoutPost p n,
    execSpillwayRetry p n, execStalledPortRetry p n]

/-- Everything that a region may do. -/
def regionEvents (p : Nat) (r : Region) : List Move :=
  [execConfigImageLoaded p, execTimerExpiry p, execAtimeRelease p, execMatrixVectorStart p, execMatrixVectorDone p, execMloadComplete p,
    execMatrixStepPass p, execMatrixMarkerFiring p, execSplicePointSave p, execCutClose p, execFreeze p, execRetireClear p, execForcedClear p,
    execSuccessorStart p] ++
    r.handlers.map (fun e => execWaittExpiry p e.1) ++ r.cells.flatMap (fun e => cellEvents p e.1 e.2) ++
    r.ports.flatMap (fun e => portEvents p e.1) ++ r.sides.map (fun e => execRelatchTokenAtPort p e.1) ++
    r.rill.map (fun e => execRillWindowExpiry p e.1)

/-- Everything that a die may do. -/
def dieEvents (d : Nat) (x : Die) : List Move :=
  [execSluiceInboxLaunch d, execPlaceInstance d, execAutoPreempt d, execPreemptMarkerInject d, execPreemptResume d] ++
    x.queues.map (fun e => execSluiceTakeRecord d e.1) ++
    x.launches.flatMap (fun e => [execEffectiveClassAging d e.1, execLaunchAnchor d e.1]) ++
    x.holders.flatMap (fun e => [execHolderAdmit d e.1, execAdmissionTimeout d e.1]) ++
    x.arrivals.map (fun h => execAdmissionTimeout d h.id) ++
    x.copyEng.flatMap (fun e => [execCopy d e.1, execCopyi d e.1, execFill d e.1]) ++
    (List.range x.weirJobs.length).flatMap (fun j => [execWset d j, execGread d j, execGpol d j, execGclr d j]) ++
    (List.range x.rillRoot.length).map (fun j => execRillRootWindowExpiry d j) ++
    (List.range 16).map (fun c => execClusterGate d c) ++
    x.clusters.flatMap (fun e => [execClusterGateEntryComplete d e.1, execClusterExitComplete d e.1]) ++
    x.domains.map (fun e => execDomainClockStep d e.1)

/-- The event of a node of a replay. -/
def nodeEvents (r n : Nat) : ChunkOp → List Move
  | .send _ => [execChunkSend r n, execChunkNodeComplete r n] | .recv _ => [execChunkRecv r n, execChunkNodeComplete r n]
  | .red _ => [execRed r n, execChunkNodeComplete r n] | .redc => [execRedc r n, execChunkNodeComplete r n]
  | .copy => [execChunkCopy r n, execChunkNodeComplete r n] | .a2a => [execA2a r n, execChunkNodeComplete r n]
  | .signal => [execSignal r n, execChunkNodeComplete r n]

def wellEvents (w : Wellhead) : List Move :=
  (List.range 64).map State.conduitSlot ++
  w.jobs.flatMap (fun e => [execGload e.1, execReplay e.1, execGfree e.1, execGstat e.1, execRwrite e.1, execRread e.1]) ++
    w.roce.flatMap (fun e => [execRwrite e.1, execRread e.1]) ++
    w.replays.flatMap (fun e => execReplayPeerTimeout e.1 ::
      (match Tbl.find w.graphs e.2.gid with
        | some g => g.nodes.zipIdx.flatMap fun x => nodeEvents e.1 x.2 x.1.op
        | none => []))

/-- The event of the message at a position. -/
def msgEvents (m : Nat) : Body → List Move
  | .loadReq _ _ _ => [execHomeReadRequest m]
  | .loadReply _ _ _ _ _ _ => [execLoadReply m]
  | .storeReq _ _ _ => [execHomeWriteRequest m]
  | .ownReply _ _ _ _ _ _ => [execOwnershipReply m]
  | .recall _ _ _ => [execRecall m]
  | .writeBack _ _ => [execWriteBackAck m]
  | .atomic _ _ _ _ _ _ => [execHomeAtomic m]
  | .atomicReply _ _ _ _ _ => [execAtomicReply m]
  | .waitv _ _ _ _ => [execHomeAtomic m]
  | .waitvArmed _ _ _ _ => [execWaitvWake m]
  | .arrive _ _ _ => [execBarrierArriveAtHome m]
  | .await _ _ _ _ => [execBarrierArriveAtHome m]
  | .header _ _ _ _ _ => [execHandleHeaderAction m]
  | .claim _ _ => [execClaimAtCursor m]
  | .chanWord _ _ _ _ _ _ _ => [execChannelWordEnter m]
  | .heldReply _ _ _ _ => [execChannelWordEnter m]
  | .poolDecl _ _ _ _ _ => [execPoolDeclareAtHome m]
  | .poolCon _ _ _ _ _ _ _ _ => [execPoolFold m]
  | .gather _ _ _ _ _ => [execPoolGather m]
  | .completion _ _ _ _ _ _ _ => [execPoolCompletionWord m]
  | .engine _ => [execEngineMessageArrive m]
  | .reply _ _ _ _ _ => [execEngineReplyArrive m]
  | .holder _ _ => [execHolderArrive m]
  | .weirElem _ _ _ _ _ _ _ _ _ _ _ _ => [execWeirGraphElement m]
  | .rmw op _ _ _ _ _ _ _ _ _ =>
    if op == .rmwFadd then [execRmwFadd m] else if op == .rmwIadd then [execRmwIadd m] else [execRmwFmax m]
  | .ack _ _ _ _ _ => [execSyncwAck m]
  | .train (some _) _ _ _ _ => [execRillNodeTakeTrain m]
  | .train none _ _ _ _ => [execTrainApply m]
  | .sealMark (some _) _ => [execRillNodeTakeTrain m]
  | .sealMark none _ => [execSealAction m]
  | .genWord _ _ _ _ _ => [execGenerationWordArrive m]
  | .rescale _ _ => [execRescaleEventArrive m]
  | .credit _ _ _ _ _ _ => [execChunkCreditArrive m]
  | .sent _ _ _ _ => []
  | .farGot _ _ _ _ _ _ _ => []
  | .flit _ _ => []

/-- Moves made one after another. -/
def runMoves : List Move → Move
  | [], s => .next s
  | f :: t, s => match f s with
    | .next s1 => runMoves t s1
    | .fault e => .fault e
    | .refused e => .refused e

/-- A line has arrived at a region's stash: its sequencer, its ports and its matrix unit make the accesses that wait for it before the line
can be recalled, since a load or a store completes with the home's reply (R289, R290). -/
def State.lineArrived (p : Nat) (s : State) : Out :=
  runMoves ((·.issue p) :: (s.region p).ports.flatMap (fun e =>
      [execPortEmitToken p e.1, execPortTakeToken p e.1, execSpillwayRetry p e.1]) ++
    [execMatrixVectorStart p, execMatrixVectorDone p, execMloadComplete p]) s

/-- A cycle: the tide rises by one cycle of 1.6 GHz, in units of 1/8000 ns, slewed toward the time source (R18, R19, R399), and every
timer that it reaches latches (R174). -/
def State.clockTick (s : State) : State :=
  let s1 : State := { s with tide := s.tide + ((5000 : Int) + s.well.slew).toNat }
  { s1 with regions := s1.regions.map fun e => (e.1, e.2.latchTimer s1.tideNow) }

/-- Everything but the clock that may happen next: the sequencer and the stream interface of each region, and every event. -/
def State.agents (s : State) : List Move :=
  let live := s.regions.filter fun e => decide (e.1 < 256)
  let walked (least : Nat) (l : List Move) : List Move := l.map fun f s => s.walked least (f s)
  walked 2 (live.map fun e => (·.issue e.1)) ++ walked 1 (live.map (fun e => (·.runCommand e.1)) ++
    s.net.zipIdx.flatMap (fun x => msgEvents x.2 x.1.body) ++ live.flatMap (fun e => regionEvents e.1 e.2) ++
    (List.range 4).flatMap (fun d => dieEvents d (s.die d)) ++ wellEvents s.well ++
    (s.asids.filter (fun e => e.2.st == .retiring)).map (fun e => execAsidFree e.1) ++
    s.invals.map (fun e => execInvalidationComplete e.1))

/-- The move that a free choice takes: the clock, or one of the agents. -/
def State.chosen (s : State) (n : Nat) : Move :=
  (s.agents[n % (s.agents.length + 1)]?).getD fun s => .next s.clockTick

end Sys2Proof.Machine
end

