-- ==== Sys2Proof/Machine/Farload.lean ====
section
/-! DEFINITION. farload: the checks on a course image in ascending status, its relocations, and its placement whole or not at all
(R54 to R80, R286, R337, R338). -/
namespace Sys2Proof.Machine

/-! ### The file -/

/-- n bytes of a file at an offset, as a little-endian number. -/
def fileLE (file : List Byte) (off n : Nat) : Nat := leValue ((file.drop off).take n)

/-- One bit of the reflected CRC-32C. -/
def crcBit (c : Nat) : Nat := if c % 2 = 1 then (c / 2) ^^^ 0x82F63B78 else c / 2
def crcByte (c : Nat) (b : Byte) : Nat :=
  crcBit (crcBit (crcBit (crcBit (crcBit (crcBit (crcBit (crcBit (c ^^^ b.toNat))))))))
/-- CRC-32C of a byte string (R54; assumption 18). -/
def crc32c (bs : List Byte) : Nat := bs.foldl crcByte 0xFFFFFFFF ^^^ 0xFFFFFFFF

/-- A section table entry (R55). -/
structure Section where
  index : Nat
  ty    : Nat
  off   : Nat
  len   : Nat
  count : Nat
  deriving DecidableEq, Repr

/-- NSEC, NSTEP + 1 and the section table. -/
def secCount (file : List Byte) : Nat := fileLE file 6 1
def stepCount (file : List Byte) : Nat := fileLE file 7 1 % 16 + 1
def imgEntry (file : List Byte) : Nat := fileLE file 7 1 / 16
def imgSections (file : List Byte) : List Section :=
  (List.range (secCount file)).map fun i =>
    let a := 64 + 16 * i
    { index := i, ty := fileLE file a 1, off := fileLE file (a + 4) 4, len := fileLE file (a + 8) 4, count := fileLE file (a + 2) 2 }

/-- The size of an entry of a section type; 1 for bytes (R55). -/
def entrySize (ty : Nat) : Nat :=
  match ty with
  | 0x01 => 32 | 0x02 => 32 | 0x03 => 4 | 0x04 => 32 | 0x05 => 16 | 0x06 => 16 | 0x07 => 16 | 0x08 => 32
  | 0x0A => 24 | 0x0B => 32 | 0x0C => 8 | _ => 1

/-- Sections whose entries COUNT counts; the others are counted by their bytes (assumption 18). -/
def countsEntries (ty : Nat) : Bool :=
  ty == 0x04 || ty == 0x05 || ty == 0x06 || ty == 0x07 || ty == 0x08 || ty == 0x0A || ty == 0x0B || ty == 0x0C

/-- Whether one entry of the section table breaks R55. -/
def sectionBad (file : List Byte) (all : List Section) (x : Section) : Bool :=
  x.ty = 0 || decide (0x0D < x.ty) || decide (x.off % 16 ≠ 0) || decide (x.off < 64 + 16 * secCount file)
    || decide (file.length < x.off + x.len) || (countsEntries x.ty && decide (x.len < entrySize x.ty * x.count))
    || all.any fun y => decide (y.index < x.index) &&
        ((y.ty == x.ty && x.ty != 0x0D) || (decide (y.off < x.off + x.len) && decide (x.off < y.off + y.len)))

/-- The bytes of the sections, by type. -/
abbrev Bytes := Tbl (List Byte)
def sectionBytes (file : List Byte) (all : List Section) : Bytes :=
  all.foldl (fun t x => if x.ty = 0x0D then t else Tbl.put t x.ty ((file.drop x.off).take x.len)) []

/-- The entries of a section, as numbers. -/
def entriesOf (all : List Section) (bs : Bytes) (ty : Nat) : List Nat :=
  let b := Tbl.look bs ty []
  let n := if countsEntries ty then ((all.find? (·.ty == ty)).map (·.count)).getD 0 else b.length / entrySize ty
  (List.range n).map fun i => fileLE b (entrySize ty * i) (entrySize ty)

/-! ### Gauge records (R74, R337) -/

/-- How many records an array homes, of those listed. -/
def homedAt (ids : List Nat) (k : Nat) : Nat := (ids.filter fun i => i / 65536 == k).length
/-- The array that the next record is homed at: the one that holds the fewest. -/
def fewest (ids : List Nat) : Nat :=
  (List.range 16).foldl (fun b k => if homedAt ids k < homedAt ids b then k else b) 0
/-- The lowest free slot of an array (assumption 18). -/
def freeSlot (ids : List Nat) (k : Nat) : Option Nat := (List.range 4096).find? fun n => !ids.contains (65536 * k + n)

/-- Allocate n records after those in use: the new ids, as many as there is room for. -/
def allocIds (used : List Nat) : Nat → List Nat
  | 0 => []
  | n + 1 =>
    let k := fewest used
    match freeSlot used k with
    | none => []
    | some x => (65536 * k + x) :: allocIds ((65536 * k + x) :: used) n

def State.usedRecords (s : State) : List Nat := (s.records.filter (·.2.alloc)).map (·.1)

/-! ### Relocations (R78 to R80) -/

def relocOf (e : Nat) : Reloc :=
  { addend := signedOf 64 (fld e 128 64), off := fld e 64 32, sym := fld e 48 16, kind := fld e 32 8, sec := fld e 0 8 }

/-- The symbol value S; none for an unresolved or reserved one (R79). -/
def symValue (vas pas ids : List Nat) (externals sym : Nat) : Option Nat :=
  if sym < 0xE000 then (if sym < externals then vas[sym]? else none)
  else if sym < 0xF000 then ids[sym - 0xE000]?
  else if sym < 0xFF00 then none
  else if sym % 256 = 0 ∨ 0x0D < sym % 256 then none
  else some (pas.getD (sym % 256) 0)

/-- Whether V fits the field of a kind (R79). -/
def relocFits (kind : Nat) (v : Int) : Bool :=
  if kind = 1 ∨ 5 ≤ kind ∧ kind ≤ 8 then decide (0 ≤ v) && decide (v < 2 ^ 64)
  else if kind = 2 then decide (0 ≤ v) && decide (v < 2 ^ 57)
  else if kind = 3 then decide (0 ≤ v) && decide (v < 2 ^ 32)
  else if kind = 4 then decide (-(2 ^ 15) ≤ v) && decide (v < 2 ^ 15)
  else if kind = 9 then decide (0 ≤ v) && decide (v < 2 ^ 20)
  else true

/-- The bytes of the word that holds the patched field. -/
def relocSize (kind : Nat) : Nat := if kind = 1 ∨ kind = 2 then 8 else 4

/-- The word after the patch. -/
def relocPatch (kind w : Nat) (v : Int) : Nat :=
  let n := (v % 2 ^ 64).toNat
  if kind = 1 ∨ kind = 2 then n
  else if kind = 3 then n % 2 ^ 32
  else if kind = 4 then w / 2 ^ 16 * 2 ^ 16 + n % 2 ^ 16
  else if kind = 9 then w / 2 ^ 20 * 2 ^ 20 + n % 2 ^ 20
  else w / 2 ^ 16 * 2 ^ 16 + n / 2 ^ (16 * (kind - 5)) % 2 ^ 16

/-- What a relocation into so many bytes breaks: 0 nothing, or the status of R56. -/
def relocStatusIn (vas pas ids : List Nat) (externals len : Nat) (r : Reloc) : Nat :=
  match symValue vas pas ids externals r.sym with
  | none => 0x0D
  | some v =>
    if r.kind = 0 ∨ 9 < r.kind then 0x10
    else if !relocFits r.kind ((v : Int) + r.addend) then 0x0E
    else if len < r.off + relocSize r.kind then 0x10
    else 0
def relocStatus (vas pas ids : List Nat) (externals : Nat) (bs : Bytes) (r : Reloc) : Nat :=
  relocStatusIn vas pas ids externals (Tbl.look bs r.sec []).length r

/-- Replace bytes of a list. -/
def spliceBytes (b : List Byte) (off : Nat) (v : List Byte) : List Byte := b.take off ++ v ++ b.drop (off + v.length)

/-- The bytes after a relocation; one that breaks a rule changes nothing. -/
def relocBytes (vas pas ids : List Nat) (externals : Nat) (b : List Byte) (r : Reloc) : List Byte :=
  match relocStatusIn vas pas ids externals b.length r, symValue vas pas ids externals r.sym with
  | 0, some v => spliceBytes b r.off (leBytes (relocSize r.kind) (relocPatch r.kind (fileLE b r.off (relocSize r.kind)) ((v : Int) + r.addend)))
  | _, _ => b

def relocApply (vas pas ids : List Nat) (externals : Nat) (bs : Bytes) (r : Reloc) : Bytes :=
  if relocStatus vas pas ids externals bs r = 0 then Tbl.put bs r.sec (relocBytes vas pas ids externals (Tbl.look bs r.sec []) r) else bs

/-! ### Entries -/

/-- Reserved fields of an entry that are not zero (R57 to R78). -/
def reservedBad (ty e : Nat) : Bool :=
  match ty with
  | 0x01 => fld e 118 138 != 0
  | 0x04 => fld e 159 97 != 0 || bit e 143
  | 0x05 => fld e 18 14 != 0
  | 0x06 => fld e 29 35 != 0 || fld e 22 2 != 0 || fld e 5 3 != 0
  | 0x07 => fld e 96 32 != 0 || fld e 48 16 != 0 || fld e 10 6 != 0
  | 0x08 => fld e 192 64 != 0 || fld e 10 54 != 0
  | 0x0A => fld e 96 32 != 0 || fld e 40 8 != 0 || fld e 8 24 != 0
  | 0x0C => fld e 14 18 != 0 || fld e 5 3 != 0
  | _ => false

/-- A step descriptor is refused (R57). -/
def stepBad (nsteps script confs e : Nat) : Bool :=
  (!bit e 117 && decide (nsteps ≤ fld e 112 4)) || fld e 96 16 == 0 || decide (16384 < fld e 96 16)
    || fld e 64 32 % 4 != 0 || decide (script < fld e 64 32 + 4 * fld e 96 16)
    || fld e 0 32 % 32 != 0 || decide (confs < fld e 0 32 + fld e 32 32)

/-- The configuration records that a step descriptor names. -/
def stepConfs (conf : List Byte) (e : Nat) : List (BitVec 256) :=
  (List.range (fld e 32 32 / 32)).map fun i => BitVec.ofNat 256 (fileLE conf (fld e 0 32 + 32 * i) 32)

/-- A handler entry is refused by itself (R62). -/
def handlerBad (script e : Nat) : Bool :=
  fld e 0 5 == 0 || fld e 32 32 % 4 != 0 || decide (script < fld e 32 32 + 4)

def templateOf (e : Nat) : Template :=
  { cmd := BitVec.ofNat 128 (fld e 0 128), alsb := fld e 128 8, awid := fld e 136 7, blsb := fld e 144 8, bwid := fld e 152 7 }

/-- A template is refused (R70). Its command takes the fate of a stream command, which is checked at issue (R71, R81, R92). -/
def templateBad (e : Nat) : Bool :=
  let t := templateOf e
  decide (64 < t.awid) || decide (64 < t.bwid) ||
  (t.awid != 0 && decide (110 < t.alsb + t.awid)) || (t.bwid != 0 && decide (110 < t.blsb + t.bwid)) ||
  (t.awid != 0 && t.bwid != 0 && decide (t.alsb < t.blsb + t.bwid) && decide (t.blsb < t.alsb + t.awid))

/-- A pool declaration, none when refused (R72). -/
def poolDeclOf (e : Nat) : Option (Nat × PoolDecl) :=
  match scopeOf (fld e 12 4), poolOpOf (fld e 8 4) with
  | some sc, some op =>
    let ty := poolTypeOf (fld e 6 2)
    if op.pairs ty && sc != .node && (!bit e 16 || fld e 32 32 != 0) && (ty == .i64 || fld e 96 32 == 0) then
      some (fld e 0 6, { ty := ty, op := op, scope := sc, settle := bit e 17, cntv := bit e 16, count := fld e 32 32,
                         init := some (BitVec.ofNat 64 (fld e 64 64)) })
    else none
  | _, _ => none

/-- A handle declaration (R73). -/
def handleOf (e : Nat) : Handle :=
  { decl := true, loc := bit e 4, lsz := fld e 24 5, slots := fld e 8 14, base := fld e 64 64, p := 0, c := 0, f := 0 }
def handleBad (e : Nat) : Bool :=
  let h := handleOf e
  decide (h.lsz < 4) || decide (16 < h.lsz) || h.slots == 0 || h.slots == 16383 + 1 || h.base % 2 ^ h.lsz != 0
    || decide (2 ^ 57 ≤ h.base)
/-- The bytes of a LOC = 0 ring (R286). -/
def stashRing (e : Nat) : Nat := if bit e 4 then 0 else fld e 8 14 * 2 ^ fld e 24 5

/-- A gauge declaration is refused by itself: CLIP is finite and non-negative (R74). -/
def gaugeBad (e : Nat) : Bool := fld e 87 8 == 255 || (bit e 95 && fld e 64 31 != 0)

/-- The record of a declaration (R338). -/
def gaugeRecOf (asid : BitVec 16) (image e : Nat) : GaugeRec :=
  { GaugeRec.blank with
    alloc := true, image := image, asid := asid, clearLive := bit e 9, autoSeal := bit e 8, margin := BitVec.ofNat 8 (fld e 0 8),
    satth := BitVec.ofNat 32 (fld e 16 32), clip := BitVec.ofNat 32 (fld e 64 32),
    live := List.replicate 40 0, sealed := List.replicate 40 0 }

/-- A footprint declaration is refused by itself (R75). -/
def footBad (e : Nat) : Bool := fld e 128 64 == 0 || decide (2 ^ 57 < fld e 64 64 + fld e 128 64) || fld e 8 2 == 0

/-- The first position of a list at which a test on the entry and those before it fails. -/
def firstBad (f : List Nat → Nat → Bool) : List Nat → List Nat → Nat → Option Nat
  | _, [], _ => none
  | before, e :: t, i => if f before e then some i else firstBad f (before ++ [e]) t (i + 1)

/-! ### The checks (R56) -/

/-- A failure: its status and its detail word. -/
abbrev LoadFail := Nat × Nat

/-- What the checks use: the file's sections as relocated, and the addresses. -/
structure LoadView where
  file   : List Byte
  secs   : List Section
  bytes  : Bytes
  raw    : Bytes
  vas    : List Nat
  pas    : List Nat
  ids    : List Nat
  data   : List DataBlock

def LoadView.entries (v : LoadView) (ty : Nat) : List Nat := entriesOf v.secs v.bytes ty
def LoadView.size (v : LoadView) (ty : Nat) : Nat := (Tbl.look v.bytes ty []).length
def LoadView.gauges (v : LoadView) : Nat := (v.entries 0x07).length
def LoadView.steps (v : LoadView) : List Nat := (v.entries 0x01).take (stepCount v.file)

/-- The records of every step, with the step's number. -/
def LoadView.confs (v : LoadView) : List (Nat × List (BitVec 256)) :=
  v.steps.zipIdx.map fun x => (x.2, stepConfs (Tbl.look v.bytes 0x02 []) x.1)

/-- The bytes of a step's configuration image, CONFLEN (R57). -/
def LoadView.confLen (v : LoadView) (i : Nat) : Nat := fld (v.steps.getD i 0) 32 32

/-- A configuration record of a reserved type. -/
def typeBad (b : BitVec 256) : Bool := let t := fld b.toNat 192 8; t == 0 || decide (4 < t)

/-- The place that a refused record names, in the detail word of 0x07. -/
def confPlace (b : BitVec 256) (e : ConfRefusal) : Nat :=
  let n := b.toNat
  if e.whole then 3 * 2 ^ 14
  else if fld n 192 8 = 4 then 2 * 2 ^ 14 + fld n 208 3 else (e.unit - 1) % 4 * 2 ^ 14 + e.coord % 2 ^ 14

/-- The first failure of statuses 0x01 to 0x03: magic, length and CRC, the section table. DESIGN CHOICE (log entry 61): a file shorter than
the header ends with 0x01; an NSEC outside its range, or a table past the file's end, with 0x03 and detail 0; a missing section has NSEC
as its detail. -/
def headerFail (file : List Byte) : Option LoadFail :=
  let secs := imgSections file
  let have_ (t : Nat) : Bool := secs.any (·.ty == t)
  if file.length < 64 ∨ fileLE file 0 4 ≠ 0x004F434C ∨ fileLE file 4 2 ≠ 1 then some (0x01, 0)
  else if fileLE file 16 8 ≠ file.length ∨ fileLE file 12 4 ≠ crc32c (file.drop 64) then some (0x02, 0)
  else if secCount file = 0 ∨ 32 < secCount file ∨ file.length < 64 + 16 * secCount file then some (0x03, 0)
  else
    match secs.find? (sectionBad file secs) with
    | some x => some (0x03, x.index)
    | none => if have_ 1 && have_ 2 && have_ 3 then none else some (0x03, secCount file)

/-- The first failure of statuses 0x04 to 0x07. A CONFLEN that is no multiple of 32 leaves a last record out of its step's bounds (R56,
R57; log entry 18). -/
def LoadView.courseFail (v : LoadView) : Option LoadFail :=
  let n := stepCount v.file
  let badStep := (List.range n).find? fun i => match v.steps[i]? with
    | none => true
    | some e => stepBad n (v.size 3) (v.size 2) e
  let badType := v.confs.findSome? fun x =>
    match x.2.zipIdx.find? fun b => typeBad b.1 with
    | some b => some (2 ^ 16 * x.1 + b.2 % 2 ^ 16)
    | none => if v.confLen x.1 % 32 = 0 then none else some (2 ^ 16 * x.1 + x.2.length % 2 ^ 16)
  let badWord := v.confs.findSome? fun x => match confCheck v.gauges x.2 with
    | .ok _ => none
    | .error e => some (2 ^ 16 * x.1 + confPlace ((x.2[e.record]?).getD 0) e)
  match badStep, decide (n ≤ imgEntry v.file),
      firstBad (fun bs e => handlerBad (v.size 3) e || bs.any (fun y => fld y 0 5 == fld e 0 5)) [] (v.entries 0x0C) 0, badType, badWord with
  | some i, _, _, _, _ => some (0x04, i)
  | _, true, _, _, _ => some (0x04, imgEntry v.file)
  | _, _, some i, _, _ => some (0x05, i)
  | _, _, _, some d, _ => some (0x06, d)
  | _, _, _, _, some d => some (0x07, d)
  | _, _, _, _, _ => none

/-- The first failure of statuses 0x08 to 0x0C, each in ascending entry. DESIGN CHOICE (log entry 61): entry 4,096 is the one that a
template section of more entries fails at. -/
def LoadView.declFail (v : LoadView) : Option LoadFail :=
  let ts := v.entries 0x04
  let badT := match firstBad (fun _ e => templateBad e) [] (ts.take 4096) 0 with
    | some i => some i
    | none => if 4096 < ts.length then some 4096 else none
  let badP := firstBad (fun bs e => (poolDeclOf e).isNone || bs.any (fun y => fld y 0 6 == fld e 0 6)) [] (v.entries 0x05) 0
  let badH := firstBad (fun bs e => handleBad e || bs.any (fun y => fld y 0 4 == fld e 0 4) ||
      decide (768 * 1024 < (bs ++ [e]).foldl (fun n y => n + stashRing y) 0)) [] (v.entries 0x06) 0
  let badG := firstBad (fun bs e => gaugeBad e || decide (v.ids.length ≤ bs.length)) [] (v.entries 0x07) 0
  let badF := firstBad (fun bs e => footBad e || bs.any (fun y => fld y 0 8 == fld e 0 8)) [] (v.entries 0x08) 0
  match badT, badP, badH, badG, badF with
  | some i, _, _, _, _ => some (0x08, i)
  | _, some i, _, _, _ => some (0x09, i)
  | _, _, some i, _, _ => some (0x0A, i)
  | _, _, _, some i, _ => some (0x0B, i)
  | _, _, _, _, some i => some (0x0C, i)
  | _, _, _, _, _ => none

/-- The first failure of statuses 0x0D to 0x10, the relocations of the data file counted on after the image's (R80, R475); reserved fields in ascending section type, the header's and the section table's
first under type 0 (assumption 18). -/
def LoadView.linkFail (v : LoadView) : Option LoadFail :=
  let rs := (entriesOf v.secs v.raw 0x0A).map relocOf
  let ext := (entriesOf v.secs v.raw 0x0B).length
  let sts := rs.map (relocStatus v.vas v.pas v.ids ext v.raw) ++
    v.data.flatMap fun d => d.relocs.map (relocStatusIn v.vas v.pas v.ids ext d.bytes.length)
  let at_ (c : Nat) : Option Nat := (sts.zipIdx.find? fun x => x.1 == c).map (·.2)
  let header := fld (fileLE v.file 0 64) 72 24 != 0 || fld (fileLE v.file 0 64) 192 320 != 0
  let table := v.secs.find? fun x => fld (fileLE v.file (64 + 16 * x.index) 16) 96 32 != 0 || fld (fileLE v.file (64 + 16 * x.index) 16) 8 8 != 0
  let entry := [1, 4, 5, 6, 7, 8, 0x0A, 0x0C].findSome? fun ty =>
    ((if ty = 0x01 then v.steps else v.entries ty).zipIdx.find? fun x => reservedBad ty x.1).map fun x => ty * 2 ^ 24 + x.2
  match at_ 0x0D, at_ 0x0E, header, table, entry, at_ 0x10 with
  | some i, _, _, _, _, _ => some (0x0D, i)
  | _, some i, _, _, _, _ => some (0x0E, i)
  | _, _, true, _, _, _ => some (0x0F, 0)
  | _, _, _, some x, _, _ => some (0x0F, x.index)
  | _, _, _, _, some d, _ => some (0x0F, d)
  | _, _, _, _, _, some i => some (0x10, i)
  | _, _, _, _, _, _ => none

/-! ### Placement -/

/-- The image that the sections give. -/
def LoadView.image (v : LoadView) (asid : BitVec 16) : Image :=
  let conf := Tbl.look v.bytes 0x02 []
  let step (e : Nat) : ImgStep :=
    { loop := bit e 116, term := bit e 117, succ := fld e 112 4, script := fld e 64 32, len := fld e 96 16, confs := stepConfs conf e }
  let hand (e : Nat) : HandlerEntry := { off := fld e 32 32, pri := fld e 8 5, en := bit e 13, idx := fld e 0 5 }
  { asid := asid, spanW := fileLE v.file 8 1 % 16 % 8 + 1, spanH := fileLE v.file 8 1 / 16 % 8 + 1, entry := imgEntry v.file,
    steps := v.steps.map step, code := (v.entries 0x03).map (BitVec.ofNat 32), handlers := (v.entries 0x0C).map hand,
    tmpls := (v.entries 0x04).map templateOf, pools := (v.entries 0x05).filterMap poolDeclOf,
    handles := (v.entries 0x06).map fun e => (fld e 0 4, handleOf e), gauges := v.ids,
    foots := (v.entries 0x08).foldl
      (fun t e => Tbl.put t (fld e 0 8) { base := fld e 64 64, len := fld e 128 64, acc := fld e 8 2 }) [],
    cpoolVa := v.pas.getD 9 0, cpoolLen := v.size 0x09 }

/-- Write bytes at the pieces of a range of virtual addresses, each in one line, as the ASID's tables map them: the host's stores (R448); none
where they map a piece to no page of device memory with these attributes (R77, R465, R475). -/
def State.writeMapped (asid : BitVec 16) (wr clsW : Bool) : List (Nat × Nat) → List Byte → State → Option State
  | [], _, s => some s
  | e :: t, bs, s =>
    match s.walk asid e.1 with
    | .page q =>
      if q.wr == wr && q.clsW == clsW && paOk (q.pa e.1) then
        State.writeMapped asid wr clsW t (bs.drop e.2) (s.hostStore (q.pa e.1) e.2 (leValue (bs.take e.2)))
      else none
    | _ => none

def State.writeVirtual (asid : BitVec 16) (wr clsW : Bool) (va : Nat) (bs : List Byte) (s : State) : Option State :=
  State.writeMapped asid wr clsW (piecesOf va bs.length) bs s

/-- Place a data block at the address bound to its symbol, a multiple of its alignment, on read-only pages unless it is `rw`, on class W
pages under `cls=w` (R465, R475). -/
def LoadView.placeBlock (v : LoadView) (asid : BitVec 16) (ext : Nat) (s : Option State) (d : DataBlock) : Option State :=
  let va := v.vas.getD d.sym 0
  if d.align = 0 ∨ va % d.align ≠ 0 then none
  else s.bind (State.writeVirtual asid d.rw d.clsW va (d.relocs.foldl (relocBytes v.vas v.pas v.ids ext) d.bytes))

/-- Whether no two of these ranges share a byte. -/
def rangesApart : List (Nat × Nat) → Bool
  | [] => true
  | x :: t => t.all (fun y => x.2 = 0 || y.2 = 0 || !rangesMeet x.1 x.2 y.1 y.2) && rangesApart t

/-- Whether no two data blocks, nor a block and the constant pool, share a byte. -/
def LoadView.apart (v : LoadView) (cpoolVa : Nat) : Bool :=
  rangesApart ((cpoolVa, v.size 0x09) :: v.data.map fun d => (v.vas.getD d.sym 0, d.bytes.length))

/-- farload of a file, with the blocks of its data file, for an ASID: `vas` the addresses bound to the external symbols, `pas` the placed
base of each section type. On a failure its status and detail; else the image's handle and the state with the image placed (R56). The
constant pool lies on read-only class C pages with 64-byte alignment (R77). DESIGN CHOICE (log entry 61): where no such page stands, or
none that a data block asks for, or two of them share a byte, the load ends with 0x11. -/
def State.farload (s : State) (file : List Byte) (data : List DataBlock) (asid : BitVec 16) (vas pas : List Nat) :
    Except LoadFail (Nat × State) :=
  match headerFail file with
  | some f => .error f
  | none =>
    let secs := imgSections file
    let raw := sectionBytes file secs
    let ids := allocIds s.usedRecords (entriesOf secs raw 0x07).length
    let ext := (entriesOf secs raw 0x0B).length
    let bytes := ((entriesOf secs raw 0x0A).map relocOf).foldl (relocApply vas pas ids ext) raw
    let v : LoadView := { file := file, secs := secs, bytes := bytes, raw := raw, vas := vas, pas := pas, ids := ids, data := data }
    match v.courseFail, v.declFail, v.linkFail with
    | some f, _, _ => .error f
    | _, some f, _ => .error f
    | _, _, some f => .error f
    | none, none, none =>
      let key := Tbl.nextKey s.images
      let img := v.image asid
      let pool := if img.cpoolVa % 64 = 0 && v.apart img.cpoolVa then State.writeVirtual asid false false img.cpoolVa (Tbl.look bytes 0x09 []) s else none
      match data.foldl (v.placeBlock asid ext) pool with
      | none => .error (0x11, 0)
      | some s1 =>
        let recs := (ids.zip (v.entries 0x07)).foldl (fun t x => Tbl.put t x.1 (gaugeRecOf asid key x.2)) s1.records
        .ok (key, { s1 with images := Tbl.put s1.images key img, records := recs })

/-- The machine after farload: unchanged when it refuses the image. -/
def State.placed (s : State) (file : List Byte) (data : List DataBlock) (asid : BitVec 16) (vas pas : List Nat) : State :=
  match s.farload file data asid vas pas with
  | .ok (_, s1) => s1
  | .error _ => s

end Sys2Proof.Machine
end

