-- ==== Sys2Proof/Machine/Step.lean ====
section
/-! DEFINITION. One step of the machine (log entries 2 and 10). -/
namespace Sys2Proof.Machine

/-- Carry out an action. -/
def State.act (s : State) (a : Action) : Out :=
  match a with
  | .issue p => s.issue p
  | .command p => s.runCommand p
  | .event i => exec i s
  | .tick => .next s.clockTick
  | .arrived p => State.lineArrived p s
  | .farload file data asid vas pas => .next (s.placed file data asid vas pas)
  | .mailbox root off v => s.mailboxWrite root off v
  | .homeWord line => .next (s.markHome line)
  | .queuePair qp asid len => .next (s.createQp qp asid len)
  | .attest code => s.otherAttest code
  | .offer asym hash => .next { s with fw := { s.fw with offer := (asym, hash) } }

/-- The table pointers at which an action is cut short (R322, State.walked): a conduct word reads its own walk level by level, and several
units act when a line arrives. -/
def Action.levels : Action → Nat
  | .issue _ => 2 | .arrived _ => 2
  | .command _ => 1 | .event _ => 1 | .tick => 1 | .farload _ _ _ _ _ => 1 | .mailbox _ _ _ => 1 | .homeWord _ => 1
  | .queuePair _ _ _ => 1 | .attest _ => 1 | .offer _ _ => 1

/-- One step: the first action of the agenda; with an empty agenda the start of a machine that has not started, or else one of the agents,
taken by the free choice of log entry 2. -/
def step (s : State) : Host.Outcome State Fault Refusal :=
  match s.agenda with
  | a :: t => s.walked a.levels ({ s with agenda := t }.act a)
  | [] =>
    if s.boot.st = 0 then exec .powerOn s
    else s.chosen (Config.pick s.picks) { s with picks := s.picks + 1 }

/-- Place a one-word script that handler 0 of region 0 issues next (log entry 10). -/
def State.withFetchWord (s : State) (_nbits w : Nat) : State :=
  let img : Image :=
    { asid := 0, spanW := 1, spanH := 1, entry := 0,
      steps := [{ loop := false, term := true, succ := 0, script := 0, len := 1, confs := [] }],
      code := [BitVec.ofNat 32 w], handlers := [], tmpls := [], pools := [], handles := [], gauges := [], foots := [],
      cpoolVa := 0, cpoolLen := 0 }
  let r := (s.region 0).setHandler 0 { Handler.undeclared with decl := true, hen := true, st := .active }
  let slot : StepSlot := { num := 1, image := 0, idx := 0, loaded := true, refused := false, openAt := 0 }
  { s.setRegion 0 { r with mode := .running, image := 0, cc := 0, spanW := 1, spanH := 1, steps := [slot], stepNo := 1 } with
    images := Tbl.put s.images 0 img, agenda := [.issue 0] }

end Sys2Proof.Machine
end

