-- ==== Sys2Proof/Machine/Registers.lean ====
section
/-! DEFINITION. What a read of BAR0 returns (R108, R110, R424, R440, R443, R447, R450, R453, R458). A read changes nothing. -/
namespace Sys2Proof.Machine

/-- Place a field value at a bit. -/
def atBit (v n : Nat) : Nat := v * 2 ^ n

/-- The domain entry as it is read. -/
def Domain.read (x : Domain) : Nat :=
  atBit (bitOf x.en) 31 + atBit (bitOf x.err) 30 + atBit x.fcur 16 + atBit x.fcode 12 + atBit x.ch 6 + atBit x.cw 4 + atBit x.cy 2 + x.cx

/-- A launch queue's words. -/
def Queue.readAt (x : Queue) (off : Nat) : Nat :=
  if off = 0x00 then atBit x.qbase 7
  else if off = 0x08 then
    atBit (bitOf x.en) 31 + atBit (bitOf x.priv) 30 + atBit (bitOf x.loc) 29 + atBit x.weight 20 + atBit x.logsz 16 + bitOf x.err
  else if off = 0x10 then x.head.toNat
  else if off = 0x18 then x.tail.toNat
  else 0

/-- A read in the window of a die. -/
def Die.readAt (x : Die) (off : Nat) : Nat :=
  if 0x1000 ≤ off ∧ off < 0x1400 then (x.queue ((off - 0x1000) / 32)).readAt (off % 32)
  else if 0x0100 ≤ off ∧ off < 0x0140 ∧ off % 8 = 0 then (x.domain ((off - 0x0100) / 8)).read
  else if off = 0x0000 then x.inbw
  else if off = 0x0008 then x.stallMax.toNat
  else if off = 0x0010 then x.admwd.toNat
  else if off = 0x0018 then x.pend
  else if off = 0x0020 then x.snapTo.toNat
  else if off = 0x0028 then x.splTo.toNat
  else if off = 0x0030 then x.saveBase
  else if off = 0x0038 then atBit (bitOf x.autop) 16 + x.saveN
  else if off = 0x0048 then atBit (bitOf x.busy) 13 + x.sfree
  else if off = 0x0050 then x.retTo.toNat
  else if off = 0x0058 then x.gateDly.toNat
  else if off = 0x0060 then x.pcap
  else if off = 0x0068 then x.fclr.toNat
  else 0

/-- A read of a mailbox: REQ, then BUSY and RES. -/
def Mailbox.readAt (m : Mailbox) (off : Nat) : Nat :=
  if off < 0x40 ∧ off % 8 = 0 then (m.req.getD (off / 8) 0).toNat
  else if off = 0x48 then atBit (bitOf m.busy) 63 + m.res
  else 0

/-- BOOT. -/
def Boot.read (b : Boot) : Nat := atBit b.stage 12 + atBit (bitOf b.warm) 10 + atBit b.fail 4 + b.st

/-- The 8 bytes that a read of BAR0 returns. Telemetry is what management firmware wrote (assumption 7); reserved offsets read zero. -/
def State.readBar0 (s : State) (off : Nat) : DWord :=
  BitVec.ofNat 64
    (if off < 0x40000 then (s.die (off / 0x10000)).readAt (off % 0x10000)
     else if off = 0x40000 then s.boot.read
     else if 0x40100 ≤ off ∧ off < 0x40150 then s.fw.root.readAt (off - 0x40100)
     else if 0x40200 ≤ off ∧ off < 0x41000 then
       leValue ((List.range 8).map fun i => Config.telemetry (off - 0x40200 + i) (s.tide / 5000))
     else if 0x41000 ≤ off ∧ off < 0x41050 then s.fw.mgmt.readAt (off - 0x41000)
     else 0)

end Sys2Proof.Machine
end

