-- ==== Sys2Proof/Safety.lean ====
section
/-! DEFINITION. What claims call a safe run, and the words in which claims speak of the state after a conduct word. -/
namespace Sys2Proof

/-- A step that neither faults nor is refused. -/
def Safe (s : Machine.State) : Prop := ∃ t, Machine.step s = .next t

/-- The memory of a state is in its canonical form. -/
def MemWf (s : Machine.State) : Prop := Machine.Memory.wf s.mem = true

namespace Machine

/-- The state after the current word when its region becomes `r` and its handler goes on at `t`. -/
def State.wentTo (s : State) (r : Region) (t : Nat) : State :=
  s.setRegion s.cur.1 (r.setHandler s.cur.2 { r.handler s.cur.2 with ia := t, wait := .none })

/-- The state after a word that only writes one register. -/
def State.wrote (s : State) (rd : Reg) (v : DWord) : State := s.wentTo (s.mine.set rd v) (s.here + 4)

/-- The state after a word that writes one register and raises flags. -/
def State.wroteFlags (s : State) (rd : Reg) (v : DWord) (f : Flags) : State :=
  s.wentTo { s.mine.set rd v with fpflags := s.mine.fpflags ||| f } (s.here + 4)

/-! ### When a cell fires (R177, R178, R181) -/

/-- The inputs that a firing of a cell counts: `sel` over `bfp` reads its third operand at the head of a block alone (R196). -/
def State.firingInputs (s : State) (p c : Nat) (w : CellWord) : List Nat :=
  if w.op == .sel && w.fmt == .bfp && ((s.region p).cell c).mem.block.isSome then (countedInputs w).filter (· != 2) else countedInputs w

/-- The cell may make a data firing: its region moves, it has not stopped or ended, no cut holds it, it awaits no start, it has no token
left to emit, its result can leave (a column unit's request needs no result latch), no comparator is armed, its side port holds no token that faults, and every counted input
holds a token that the operation accepts as data. -/
def State.mayFire (s : State) (p c : Nat) (w : CellWord) : Prop :=
  let r := s.region p
  let x := r.cell c
  x.word = some w ∧ r.moves = true ∧ x.stopped = false ∧ x.ended = false ∧ s.cutHolds p x = false ∧ r.awaitsStart x = false ∧
    x.mem.queue = [] ∧ (w.op = .xfn ∨ x.canEmit = true) ∧ r.comps = [] ∧ (countedInputs w ≠ [] ∨ w.op = .cnt ∨ r.quiet x.step = false) ∧
    (w.op.hasSide = true → ∀ t, x.at_ w 3 = some t → sideFault t = none) ∧
    (∀ i ∈ s.firingInputs p c w, ∃ t, x.at_ w i = some t ∧ inputFault w i t = none ∧ t.kind ≠ kEos ∧ t.kind ≠ kMarker)

/-- The state in which a cell fires: an operand that selects nothing has drawn a free value. -/
def State.atFiring (s : State) (w : CellWord) : State := if opensValue w then { s with fresh := s.fresh + 1 } else s

/-- The tokens at the operands and the predicate of a firing cell. -/
def State.firingTokens (s : State) (p c : Nat) (w : CellWord) : List Token :=
  [0, 1, 2, 3].map fun i => firingToken s ((s.region p).cell c) w i

end Machine

end Sys2Proof
end

