-- ==== Sys2Proof/Certificates/Slice0/Obligations.lean ====
section
/-! DEFINITION. The statements about the machine, for the provers. -/

open Sys2Proof Sys2Proof.Machine

/-- A step runs the instruction that the word at the handler's address, or the head of the command queue, decodes to. When the next action is an issue of a running region that no pre-emption holds, without comparators and none passed (R459), whose
first handler in the order of the pick is active, and the word at its instruction address decodes to an instruction that does not
stall, the step is exec of that instruction in the state with that region and handler current, after which the stalled words of
the region's other handlers lose what a later evaluation asks for again (R135); with no other handler waiting nothing is added to
exec. When it is the only handler of the order and its word stalls, the step is what exec leaves, without the mark of the stall. A
word that decodes to nothing takes the illegal-instruction fault, and an address outside the handler's code the fetch-bound fault.
When the next action is a command of a moving region whose matrix channel has room, the step is exec of the command that the head
of its command queue decodes to. When it is an event, the step is exec of the event. All this holds as the walks of the action
allow: an action whose translations have found more than one table pointer, or for a command or an event any, is not made in that
step, and the walk cache keeps the first pointer found (R322; log entry 65); any other action stands as it is. -/
def Obligations.StepRunsDecoded : Prop :=
  ∀ (s : State) (p k : Nat) (rest : List Action) (ks : List Nat) (w : Word) (i : Instr) (s1 : State) (q : QueuedCmd) (why : Reject),
      let s0 : State := { s with agenda := rest }
      let at_ : State := { s0 with cur := (p, k), stalled := false }
      let ia := ((s.region p).handler k).ia
      (s.agenda = .issue p :: rest → (s.region p).mode = .running → s.issueHeld p = false → (s.region p).pickOrder = k :: ks →
        s.mayIssue p k = true → ((s.region p).handler k).st = .active → (s.region p).comps = [] →
        (s.region p).passing = [] → (s.region p).picked = none →
        (s.fetch p k ia = some w → decodeConduct w.toNat = .ok i → exec i at_ = .next s1 → s1.stalled = false →
          step s = s.walked 2 (.next (s1.displace p k)) ∧
          ((∀ j, j ≠ k → ((s1.region p).handler j).wait = .none) → step s = s.walked 2 (.next s1))) ∧
        (ks = [] → s.fetch p k ia = some w → decodeConduct w.toNat = .ok i → exec i at_ = .next s1 → s1.stalled = true →
          step s = s.walked 2 (.next { s1 with stalled := false })) ∧
        (s.fetch p k ia = some w → decodeConduct w.toNat = .error why → step s = s.walked 2 (.next (at_.takeFault .illegal 0 w.toNat ia))) ∧
        (s.fetch p k ia = none → step s = s.walked 2 (.next (at_.takeFault .fetchBound 0 0 ia)))) ∧
      (s.agenda = .command p :: rest → (s.region p).moves = true → s.issueHeld p = false → (s.region p).matrix.channel.length < 8 → (s.region p).cmdQ.head? = some q →
        decodeStream q.bits.toNat = .ok i → step s = s.walked 1 (exec i { s0 with cur := (p, noHandler), stalled := false })) ∧
      (s.agenda = .event i :: rest → step s = s.walked 1 (exec i s0)) ∧
      (∀ (least : Nat) (t : State),
        (t.walks.length < s.walks.length + least → s.walked least (.next t) = .next t) ∧
        (∀ new x, t.walks = new ++ x :: s.walks → least ≤ new.length + 1 →
          s.walked least (.next t) = .next { s with walks := x :: s.walks }))

/-- Words written out from the encodings of the spec decode to the instructions that they stand for. The words of sub g7, g8, g9, of andi g3, g3, 0xFF, of lhi g5, 0x1234, 2, of ld.h.n g3, 2(g4), of amo.add.d g3, g4, g5, of fma g6,
g7, g8, of hwait h2, g5, of done, of fence.lvl3 and of cop.r g8, g9, g10, 0x18 decode to them, as do the commands mswap, meter of
port 3 with rate 256 and atime of tide 5. A word of primary 0, an ALU word of function 0x016 and a hwait of handle 16 are refused. -/
def Obligations.DecodeWords : Prop :=
  decodeConduct 0b00000100111010000100100000000001 = .ok (.sub 7 8 9) ∧
      decodeConduct 0b00100100011000110000000011111111 = .ok (.andi 3 3 0xFF) ∧
      decodeConduct 0b01000000101000100001001000110100 = .ok (.lhi 5 2 0x1234) ∧
      decodeConduct 0b01110100011001000000000000000010 = .ok (.ldHN 3 4 2) ∧
      decodeConduct 0b00001100011001000010100000010000 = .ok (.amoAdd 3 4 5 true) ∧
      decodeConduct 0b00001000110001110100000000000011 = .ok (.fma 6 7 8) ∧
      decodeConduct 0b00010000000000100010100000000000 = .ok (.hwait 2 5) ∧
      decodeConduct 0b00010100000000000000000000000010 = .ok .done ∧
      decodeConduct 0b00011000000000000000000000110100 = .ok (.fence (.lvl 2)) ∧
      decodeConduct 0xCD095188 = .ok (.copR 8 9 10 .weir 8) ∧
      decodeStream (0x31 * 2 ^ 120) = .ok .mswap ∧
      decodeStream (0x12 * 2 ^ 120 + 3 * 2 ^ 110 + 256 * 2 ^ 64) = .ok (.meter 3 256) ∧
      decodeStream (0x28 * 2 ^ 120 + 5) = .ok (.atime 5) ∧
      decodeConduct 0 = .error .reservedPrimary ∧
      decodeConduct (0x01 * 2 ^ 26 + 0x016) = .error .reservedFunction ∧
      decodeConduct (0x04 * 2 ^ 26 + 16 * 2 ^ 16) = .error .handleNumber

/-- Conduct words and conduct instructions correspond one to one. The word of every well-formed conduct instruction has 32 bits and decodes to that instruction, with every operand at every value.
Every 32-bit word that decodes to an instruction decodes to a well-formed one, and is the word of that instruction. -/
def Obligations.ConductRoundTrip : Prop :=
  (∀ (i : Instr) (n : Nat), i.wf = true → encodeConduct i = some n → n < 2 ^ 32 ∧ decodeConduct n = .ok i) ∧
      (∀ (n : Nat) (i : Instr), n < 2 ^ 32 → decodeConduct n = .ok i → i.wf = true ∧ encodeConduct i = some n)

/-- The word of every well-formed stream command decodes to it. The word of every well-formed stream command has 128 bits and decodes to that command, with every operand at every value that the
encoding admits. -/
def Obligations.StreamRoundTrip : Prop :=
  ∀ (i : Instr) (n : Nat), i.wf = true → encodeStream i = some n → n < 2 ^ 128 ∧ decodeStream n = .ok i

/-- Every step keeps memory in its canonical form. From every state whose memory lists its bytes at strictly rising addresses, with no entry equal to what an unlisted byte reads as,
every step that answers a next state answers one whose memory has the same form. (The form is the model's own way of holding
memory, log entry 3.) -/
def Obligations.StepKeepsMemory : Prop :=
  ∀ (s t : State), MemWf s → step s = .next t → MemWf t

/-- The machine right after reset. After reset BOOT reads 0, no launch queue is enabled, every ASID is FREE, no gauge record is allocated, no region is taken, no
channel has an owner, nothing is on its way, memory has its canonical form, and the registers of the sluice on each die have the
values of R110, R424 and R440. -/
def Obligations.ResetState : Prop :=
  State.reset.readBar0 0x40000 = 0 ∧ MemWf State.reset ∧ State.reset.net = [] ∧
      (∀ d q, ((State.reset.die d).queue q).en = false) ∧ (∀ a, (State.reset.asidOf a).st = .free) ∧ (∀ i, (State.reset.record i).alloc = false) ∧
      (∀ p, (State.reset.region p).mode = .free) ∧ (∀ d c, ((State.reset.die d).chan c).owner = none) ∧
      (∀ d < 4, ∀ e ∈ [(0x0000, 4), (0x0008, 200), (0x0010, 10000), (0x0018, 0), (0x0020, 20), (0x0028, 50), (0x0030, 0), (0x0038, 0), (0x0048, 0),
        (0x0050, 1000), (0x0058, 100), (0x0060, 256), (0x0068, 0)], State.reset.readBar0 (0x10000 * d + e.1) = BitVec.ofNat 64 e.2)

/-- No instruction, command or event is refused, and only a host access outside device memory stops the machine. In every state every instruction answers a next state, but for a host access whose range leaves the package's device memory, which
stops with the host-address fault; none is ever refused. That the stop is the host-address fault is the model's choice (log entry
58): R448 gives the accesses to device memory alone. A next state may be the state itself: an event whose guard is not met, as
when its message is not there, leaves everything as it stands (log entry 51). -/
def Obligations.AlwaysNext : Prop :=
  ∀ (i : Instr) (s : State), (∃ t, exec i s = .next t) ∨
      (exec i s = .fault .hostAddress ∧
        ((∃ a n, i = .hostMemLoad a n ∧ 2 ^ 39 < a + n) ∨ (∃ a bs, i = .hostMemStore a bs ∧ 2 ^ 39 < a + bs.length)))

/-- What the words that write one register leave unchanged. A word of the ALU, the immediate forms, lhi, time, mfc of a control word other than hstat, the FPU and fcvt, when it answers a
next state, leaves every byte of memory, every general register other than rd, g0 at zero, every other handler, every other region
and every other part of the machine as they were; the words of the ALU, the immediate forms, lhi, time and mfc leave the flags
too, and those of the FPU and fcvt clear none. -/
def Obligations.RegisterWordFrame : Prop :=
  ∀ (s t : State) (rd ra rb : Reg) (imm : BitVec 16) (sh : BitVec 6) (k : BitVec 2) (c : Ctl) (m : Rnd) (sat : Sat) (i : Instr),
      let whole := [Instr.add rd ra rb, .sub rd ra rb, .and rd ra rb, .or rd ra rb, .xor rd ra rb, .shl rd ra rb, .shr rd ra rb, .sra rd ra rb,
        .mul rd ra rb, .mulh rd ra rb, .mulhn rd ra rb, .div rd ra rb, .divn rd ra rb, .rem rd ra rb, .remn rd ra rb, .min rd ra rb,
        .max rd ra rb, .minn rd ra rb, .maxn rd ra rb, .slt rd ra rb, .sltn rd ra rb, .seq rd ra rb, .addi rd ra imm, .andi rd ra imm,
        .ori rd ra imm, .xori rd ra imm, .shli rd ra sh, .shri rd ra sh, .srai rd ra sh, .slti rd ra imm, .lhi rd k imm, .time rd, .mfc rd c]
      let floats := [Instr.fadd rd ra rb, .fsub rd ra rb, .fmul rd ra rb, .fma rd ra rb, .fmin rd ra rb, .fmax rd ra rb, .fcmpEq rd ra rb,
        .fcmpLt rd ra rb, .fcmpLe rd ra rb, .fcmpUn rd ra rb, .fcvtF32I32 rd ra m, .fcvtF32N32 rd ra m, .fcvtF32I64 rd ra m,
        .fcvtF32N64 rd ra m, .fcvtI32F32 rd ra m sat, .fcvtN32F32 rd ra m sat, .fcvtI64F32 rd ra m sat, .fcvtN64F32 rd ra m sat,
        .fcvtF32Bf16 rd ra, .fcvtF32F16 rd ra, .fcvtBf16F32 rd ra m sat, .fcvtF16F32 rd ra m sat]
      (i ∈ whole ∨ i ∈ floats) → (∀ h, c ≠ .hstat h) → exec i s = .next t →
      (∀ a, Memory.read t.mem a = Memory.read s.mem a) ∧ (∀ j, j ≠ rd → t.mine.get j = s.mine.get j) ∧ t.mine.get 0 = 0 ∧
      (i ∈ whole → t.mine.fpflags = s.mine.fpflags) ∧ t.mine.fpflags ||| s.mine.fpflags = t.mine.fpflags ∧
      (∀ j, j ≠ s.cur.2 → t.mine.handler j = s.mine.handler j) ∧ (∀ q, q ≠ s.cur.1 → t.region q = s.region q) ∧
      t = { s with regions := t.regions } ∧
      t.mine = { s.mine with regs := t.mine.regs, fpflags := t.mine.fpflags, handlers := t.mine.handlers }

/-- Taking a fault suspends the handler and enters a fault word, or stops the region. When a conduct word faults in a live region with room in its fault file and with handler 1 declared, outside handler 1, with no
debugger attached and no fault breakpoint, the handler is suspended at the word, one fault word is entered, behind those of
earlier cycles and before those that other units have entered in this cycle (R421), with the wid, the cause, the detail, the
address, the token, UNIT 0, the handler's index and the place, event 1 is pending, and no register, flag, byte of memory, other
handler or other region changes. A fault of handler 1, a fault where handler 1 is not declared and a ninth entry leave no handler
active or suspended and, where no pre-emption is under way, the region draining, as the model reads the end that R144 gives the
instance (log entry 13, DEDUCED). -/
def Obligations.FaultEntry : Prop :=
  ∀ (s : State) (c : Cause) (detail addr token : Nat),
      let p := s.cur.1
      let k := s.cur.2
      let r := s.mine
      let t := s.takeFault c detail addr token
      s.attach = [] → r.modeUnder.live = true → (∀ e ∈ r.comps, e.2.kind ≠ 3) →
      (k ≠ 1 → (r.handler 1).decl = true → r.faults.length < 8 →
        (t.mine.handler k).st = .suspended ∧ (t.mine.handler k).ia = (r.handler k).ia ∧
        (∃ w a b, r.faults = a ++ b ∧ t.mine.faults = a ++ [w] ++ b ∧ (r.faultsAt ≠ s.tide → b = []) ∧ b.length ≤ r.faultsIn ∧
          (∀ y ∈ b.head?, 0 < faultOrder y) ∧ t.mine.faultsAt = s.tide ∧ faultField w 192 64 = r.wid.toNat ∧ faultField w 128 64 = addr % 2 ^ 64 ∧
          faultField w 96 32 = token % 2 ^ 32 ∧ faultField w 91 1 = 0 ∧ faultField w 56 8 = c.code ∧ faultField w 52 4 = 0 ∧
          faultField w 40 7 = detail % 128 ∧ faultField w 39 1 = 1 ∧ faultField w 32 5 = k % 32 ∧ faultField w 16 10 = r.placeId % 1024 ∧
          faultField w 0 16 = 0) ∧
        t.eventPending p 1 = true ∧ t.mine.regs = r.regs ∧ t.mine.fpflags = r.fpflags ∧ t.mem = s.mem ∧
        (∀ j, j ≠ k → t.mine.handler j = r.handler j) ∧ (∀ q, q ≠ p → t.region q = s.region q)) ∧
      ((k = 1 ∨ (r.handler 1).decl = false ∨ 8 ≤ r.faults.length) →
        (∀ j, (t.mine.handler j).st ≠ .active ∧ (t.mine.handler j).st ≠ .suspended) ∧ t.mem = s.mem ∧ t.mine.regs = r.regs ∧
        ((s.die (dieOfPlace p)).preempt = none → (∀ x, Tbl.find (s.die (dieOfPlace p)).insts r.inst = some x → p ∈ x.places) →
          t.mine.modeUnder = .draining))

/-- A transfer of control to an address outside the handler's code takes the fetch-bound fault and writes nothing. A taken branch, jmp, call and ret whose target lies below 0 or does not leave room for a word in the handler's code (4 times the
length of the step's script for handler 0; from the handler's OFF to the end of the conduct-script section for another), and a ret
whose g31 is not a multiple of 4, take the fetch-bound fault at their own word; neither g31 nor any register, flag or byte of
memory changes (with no debugger attached). A handler whose address has run past the end of its code takes the same fault there. -/
def Obligations.TransferOutsideCode : Prop :=
  ∀ (s : State) (ra rb : Reg) (off : BitVec 16) (off26 : BitVec 26) (img : Image) (p k : Nat),
      let r := s.mine
      let a := r.get ra
      let b := r.get rb
      let len : Nat := if s.cur.2 = 0 then ((img.steps[r.cc.toNat]?).map fun x => 4 * x.len).getD 0
        else 4 * img.code.length - (r.handler s.cur.2).off
      let outside (t : Int) : Prop := t < 0 ∨ (len : Int) < t + 4
      let faults (i : Instr) : Prop := exec i s = .next (s.takeFault .fetchBound 0 0 s.here)
      (s.imageOf r = some img →
        (outside ((s.here : Int) + 4 * off.toInt) → (a = b → faults (.bEq ra rb off)) ∧ (a ≠ b → faults (.bNe ra rb off)) ∧
          (a.toInt < b.toInt → faults (.bLt ra rb off)) ∧ (b.toInt ≤ a.toInt → faults (.bGe ra rb off)) ∧
          (a.toNat < b.toNat → faults (.bLtn ra rb off)) ∧ (b.toNat ≤ a.toNat → faults (.bGen ra rb off))) ∧
        (outside ((s.here : Int) + 4 * off26.toInt) → faults (.jmp off26) ∧ faults (.call off26)) ∧
        ((outside (r.get 31).toNat ∨ (r.get 31).toNat % 4 ≠ 0) → faults .ret)) ∧
      (s.attach = [] → r.modeUnder.live = true →
        let t := s.takeFault .fetchBound 0 0 s.here
        t.mine.regs = r.regs ∧ t.mine.fpflags = r.fpflags ∧ t.mem = s.mem) ∧
      (s.imageOf (s.region p) = some img →
        (if k = 0 then ((img.steps[(s.region p).cc.toNat]?).map fun x => 4 * x.len).getD 0 else 4 * img.code.length - ((s.region p).handler k).off)
          < ((s.region p).handler k).ia + 4 →
        let at_ : State := { s with cur := (p, k), stalled := false }
        s.evalAt p k = .next (at_.takeFault .fetchBound 0 0 at_.here))

/-- idrain has its words, and stalls until every earlier binding that names its handle has completed. The word of idrain of each handle decodes to it. While a binding that names the handle is live, a binding that admission holds
among them, or stands in the command queue, idrain stalls: nothing changes but the mark of the stall. With none it completes at
once: the handler goes on at the following word and nothing else changes. -/
def Obligations.IdrainWaits : Prop :=
  ∀ (s : State) (h : Fin 16),
      let r := s.mine
      let waits : Prop := (∃ l ∈ r.live, l.2 = h.val) ∨ (∃ q ∈ r.cmdQ, q.names h.val = true)
      decodeConduct (0x04 * 2 ^ 26 + h.val * 2 ^ 16 + 0x005) = .ok (.idrain h) ∧ decodeConduct 0x10020005 = .ok (.idrain 2) ∧
      (waits → exec (.idrain h) s = .next { s with stalled := true }) ∧
      (¬ waits → exec (.idrain h) s = .next (s.wentTo r (s.here + 4)))

/-- The ALU words, the immediate words, lhi and time complete in every state, with the result of the tables. In every state each of the 22 ALU words (add to seq) answers a next state: the state before, with the table's value of ga and gb
written into rd (a write to g0 is discarded), the handler at the following word, and nothing else changed. The shift amount is
b[5:0]; the high products are those of the 128-bit products; quotients are truncated toward zero; a divisor of 0 gives all ones,
or a for a remainder. In every state addi, andi, ori, xori, shli, shri, srai, slti, lhi and time answer a next state that differs
from the state before in rd and in the handler's address alone: addi and slti take the sign-extended immediate, andi, ori and xori
the zero-extended one, shifts the six-bit amount; lhi replaces bits [16k+15:16k] of rd and keeps every other bit; time reads the
tide in nanoseconds, which the model keeps in steps of 1/8000 ns. -/
def Obligations.IntegerWords : Prop :=
  (∀ (s : State) (rd ra rb : Reg),
       let a := s.mine.get ra
       let b := s.mine.get rb
       exec (.add rd ra rb) s = .next (s.wrote rd (a + b)) ∧
       exec (.sub rd ra rb) s = .next (s.wrote rd (a - b)) ∧
       exec (.and rd ra rb) s = .next (s.wrote rd (a &&& b)) ∧
       exec (.or rd ra rb) s = .next (s.wrote rd (a ||| b)) ∧
       exec (.xor rd ra rb) s = .next (s.wrote rd (a ^^^ b)) ∧
       exec (.shl rd ra rb) s = .next (s.wrote rd (a <<< (b.toNat % 64))) ∧
       exec (.shr rd ra rb) s = .next (s.wrote rd (a >>> (b.toNat % 64))) ∧
       exec (.sra rd ra rb) s = .next (s.wrote rd (a.sshiftRight (b.toNat % 64))) ∧
       exec (.mul rd ra rb) s = .next (s.wrote rd (a * b)) ∧
       exec (.mulh rd ra rb) s = .next (s.wrote rd (BitVec.ofInt 64 (a.toInt * b.toInt / 2 ^ 64))) ∧
       exec (.mulhn rd ra rb) s = .next (s.wrote rd (BitVec.ofNat 64 (a.toNat * b.toNat / 2 ^ 64))) ∧
       exec (.div rd ra rb) s =
         .next (s.wrote rd (if b = 0 then BitVec.ofInt 64 (-1) else BitVec.ofInt 64 (a.toInt.tdiv b.toInt))) ∧
       exec (.divn rd ra rb) s =
         .next (s.wrote rd (if b = 0 then BitVec.ofNat 64 (2 ^ 64 - 1) else BitVec.ofNat 64 (a.toNat / b.toNat))) ∧
       exec (.rem rd ra rb) s = .next (s.wrote rd (if b = 0 then a else BitVec.ofInt 64 (a.toInt.tmod b.toInt))) ∧
       exec (.remn rd ra rb) s = .next (s.wrote rd (if b = 0 then a else BitVec.ofNat 64 (a.toNat % b.toNat))) ∧
       exec (.min rd ra rb) s = .next (s.wrote rd (if a.toInt ≤ b.toInt then a else b)) ∧
       exec (.max rd ra rb) s = .next (s.wrote rd (if a.toInt ≤ b.toInt then b else a)) ∧
       exec (.minn rd ra rb) s = .next (s.wrote rd (if a.toNat ≤ b.toNat then a else b)) ∧
       exec (.maxn rd ra rb) s = .next (s.wrote rd (if a.toNat ≤ b.toNat then b else a)) ∧
       exec (.slt rd ra rb) s = .next (s.wrote rd (if a.toInt < b.toInt then 1 else 0)) ∧
       exec (.sltn rd ra rb) s = .next (s.wrote rd (if a.toNat < b.toNat then 1 else 0)) ∧
       exec (.seq rd ra rb) s = .next (s.wrote rd (if a = b then 1 else 0))) ∧
  (∀ (s : State) (rd ra : Reg) (imm : BitVec 16) (sh : BitVec 6) (k : BitVec 2),
       let a := s.mine.get ra
       exec (.addi rd ra imm) s = .next (s.wrote rd (a + imm.signExtend 64)) ∧
       exec (.andi rd ra imm) s = .next (s.wrote rd (a &&& imm.setWidth 64)) ∧
       exec (.ori rd ra imm) s = .next (s.wrote rd (a ||| imm.setWidth 64)) ∧
       exec (.xori rd ra imm) s = .next (s.wrote rd (a ^^^ imm.setWidth 64)) ∧
       exec (.shli rd ra sh) s = .next (s.wrote rd (a <<< sh.toNat)) ∧
       exec (.shri rd ra sh) s = .next (s.wrote rd (a >>> sh.toNat)) ∧
       exec (.srai rd ra sh) s = .next (s.wrote rd (a.sshiftRight sh.toNat)) ∧
       exec (.slti rd ra imm) s = .next (s.wrote rd (if a.toInt < (imm.signExtend 64).toInt then 1 else 0)) ∧
       (∃ v, exec (.lhi rd k imm) s = .next (s.wrote rd v) ∧ ∀ i : Nat, i < 64 →
         v.getLsbD i = if 16 * k.toNat ≤ i ∧ i < 16 * k.toNat + 16 then imm.getLsbD (i - 16 * k.toNat)
           else (s.mine.get rd).getLsbD i) ∧
       exec (.time rd) s = .next (s.wrote rd (BitVec.ofNat 64 (s.tide / 8000))))

/-- The scalar f32 words and the conversion words complete in every state. In every state fadd, fsub, fmul, fma, fmin, fmax and the four comparisons answer a next state: rd takes the zero-extended 32-bit
result that the arithmetic of the f32 format gives for the low halves of ga and gb (fma adds the low half of rd; rounding to
nearest even, infinities kept), a comparison gives 1 or 0, the flags raised join fpflags, and nothing else changes but the
handler's address. eq and un raise NV for a signalling NaN alone, lt and le for any NaN. In every state each of the twelve fcvt
words answers a next state: rd takes the converted value (a float is zero-extended, an i32 or i64 result sign-extended, an n32 or
n64 result zero-extended), the flags raised join fpflags, and nothing else changes but the handler's address. An i32 source is the
low half of ga read as signed, an n32 source the low half read as unsigned, a 64-bit source all of ga; bf16 and f16 sources are
ga[15:0]. -/
def Obligations.FloatWords : Prop :=
  (∀ (s : State) (rd ra rb : Reg),
       let a := (s.mine.get ra).toNat % 2 ^ 32
       let b := (s.mine.get rb).toNat % 2 ^ 32
       let c := (s.mine.get rd).toNat % 2 ^ 32
       let x := fmtF32.value a
       let y := fmtF32.value b
       let gives (r : Nat × Flags) : Out := .next (s.wroteFlags rd (BitVec.ofNat 64 r.1) r.2)
       exec (.fadd rd ra rb) s = gives (fAdd fmtF32 .rne .ieee a b) ∧
       exec (.fsub rd ra rb) s = gives (fSub fmtF32 .rne .ieee a b) ∧
       exec (.fmul rd ra rb) s = gives (fMul fmtF32 .rne .ieee a b) ∧
       exec (.fma rd ra rb) s = gives (fFma fmtF32 .rne .ieee a b c) ∧
       exec (.fmin rd ra rb) s = gives (fMin fmtF32 a b) ∧
       exec (.fmax rd ra rb) s = gives (fMax fmtF32 a b) ∧
       exec (.fcmpEq rd ra rb) s = gives (if x.eqNum y then 1 else 0, nvSignal [x, y]) ∧
       exec (.fcmpLt rd ra rb) s = gives (if x.ltNum y then 1 else 0, if x.isNaN || y.isNaN then flagNV else 0) ∧
       exec (.fcmpLe rd ra rb) s =
         gives (if x.ltNum y || x.eqNum y then 1 else 0, if x.isNaN || y.isNaN then flagNV else 0) ∧
       exec (.fcmpUn rd ra rb) s = gives (if x.isNaN || y.isNaN then 1 else 0, nvSignal [x, y])) ∧
  (∀ (s : State) (rd ra : Reg) (m : Rnd) (sat : Sat),
       let g := s.mine.get ra
       let a : Nat := g.toNat % 2 ^ 32
       let float (r : Nat × Flags) : Out := .next (s.wroteFlags rd (BitVec.ofNat 64 r.1) r.2)
       let signed (w : Nat) (r : Nat × Flags) : Out := .next (s.wroteFlags rd (BitVec.ofInt 64 (signedOf w r.1)) r.2)
       exec (.fcvtF32I32 rd ra m) s = float (intToFloat fmtF32 m .ieee (signedOf 32 g.toNat)) ∧
       exec (.fcvtF32N32 rd ra m) s = float (intToFloat fmtF32 m .ieee (a : Int)) ∧
       exec (.fcvtF32I64 rd ra m) s = float (intToFloat fmtF32 m .ieee g.toInt) ∧
       exec (.fcvtF32N64 rd ra m) s = float (intToFloat fmtF32 m .ieee (g.toNat : Int)) ∧
       exec (.fcvtI32F32 rd ra m sat) s = signed 32 (floatToInt fmtF32 32 true m sat a) ∧
       exec (.fcvtN32F32 rd ra m sat) s = float (floatToInt fmtF32 32 false m sat a) ∧
       exec (.fcvtI64F32 rd ra m sat) s = signed 64 (floatToInt fmtF32 64 true m sat a) ∧
       exec (.fcvtN64F32 rd ra m sat) s = float (floatToInt fmtF32 64 false m sat a) ∧
       exec (.fcvtF32Bf16 rd ra) s = float (floatToFloat fmtBf16 fmtF32 .rne .ieee (g.toNat % 2 ^ 16)) ∧
       exec (.fcvtF32F16 rd ra) s = float (floatToFloat fmtF16 fmtF32 .rne .ieee (g.toNat % 2 ^ 16)) ∧
       exec (.fcvtBf16F32 rd ra m sat) s = float (floatToFloat fmtF32 fmtBf16 m sat a) ∧
       exec (.fcvtF16F32 rd ra m sat) s = float (floatToFloat fmtF32 fmtF16 m sat a))

/-- Branches, jmp, call and ret have their words and continue where the table says. Each branch word, of the template of its primary, and the words of jmp, call and ret decode to their instruction. A branch whose
condition does not hold continues at the following word. A taken branch, jmp, call and ret continue at their target when it lies
in the handler's code and is a multiple of 4 (any other target is R156's fault), call with the address of the following word in
g31, and change nothing else. -/
def Obligations.BranchesContinue : Prop :=
  ∀ (s : State) (ra rb : Reg) (off : BitVec 16) (off26 : BitVec 26),
      let a := s.mine.get ra
      let b := s.mine.get rb
      let linked := s.mine.set 31 (BitVec.ofNat 64 (s.here + 4))
      let word (op : Nat) : Nat := op * 2 ^ 26 + ra.val * 2 ^ 21 + rb.val * 2 ^ 16 + off.toNat
      let goes (r : Region) (t : Int) : Out :=
        if s.inCode t then .next (s.wentTo r t.toNat) else .next (s.takeFault .fetchBound 0 0 s.here)
      let branch (taken : Prop) [Decidable taken] : Out :=
        if taken then goes s.mine ((s.here : Int) + 4 * off.toInt) else .next (s.wentTo s.mine (s.here + 4))
      (∀ e ∈ [(0x28, Instr.bEq ra rb off), (0x29, .bNe ra rb off), (0x2A, .bLt ra rb off), (0x2B, .bGe ra rb off), (0x2C, .bLtn ra rb off),
          (0x2D, .bGen ra rb off)], decodeConduct (word e.1) = .ok e.2) ∧
      decodeConduct (0x30 * 2 ^ 26 + off26.toNat) = .ok (.jmp off26) ∧ decodeConduct (0x31 * 2 ^ 26 + off26.toNat) = .ok (.call off26) ∧
      decodeConduct 0xB0430005 = .ok (.bLtn 2 3 5) ∧ decodeConduct 0xC3FFFFFC = .ok (.jmp (-4)) ∧ decodeConduct 0xC400000A = .ok (.call 10) ∧
      decodeConduct 0x1C000007 = .ok .ret ∧
      exec (.bEq ra rb off) s = branch (a = b) ∧
      exec (.bNe ra rb off) s = branch (a ≠ b) ∧
      exec (.bLt ra rb off) s = branch (a.toInt < b.toInt) ∧
      exec (.bGe ra rb off) s = branch (b.toInt ≤ a.toInt) ∧
      exec (.bLtn ra rb off) s = branch (a.toNat < b.toNat) ∧
      exec (.bGen ra rb off) s = branch (b.toNat ≤ a.toNat) ∧
      exec (.jmp off26) s = goes s.mine ((s.here : Int) + 4 * off26.toInt) ∧
      exec (.call off26) s = goes linked ((s.here : Int) + 4 * off26.toInt) ∧
      exec .ret s = goes s.mine ((s.mine.get 31).toNat : Int)

/-- nop, wfe, waitt, trap, eret, halt and done do what the SYS forms say. nop completes in every state. wfe completes once EV is set, and clears it. waitt completes once the tide has reached ga. trap
takes the trap fault with its code in DETAIL. eret in a handler k of 1 or more leaves that handler idle, at its entry when it next
starts, and sets EV. halt with a debugger attached to the instance leaves the region halted with the handler at the following
word; without one it stops the region. done stops the region's course: it begins to drain, and no handler is left active. -/
def Obligations.SystemWords : Prop :=
  ∀ (s : State) (ra : Reg) (c : BitVec 7),
      exec .nop s = .next (s.wentTo s.mine (s.here + 4)) ∧
      (s.mine.ev = true → exec .wfe s = .next (s.wentTo { s.mine with ev := false } (s.here + 4))) ∧
      ((s.mine.get ra).toNat ≤ s.tide / 8000 % 2 ^ 64 → exec (.waitt ra) s = .next (s.wentTo s.mine (s.here + 4))) ∧
      exec (.trap c) s = .next (s.takeFault .trap c.toNat 0 s.here) ∧
      (s.cur.2 ≠ 0 → ∃ t, exec .eret s = .next t ∧ (t.mine.handler s.cur.2).st = .idle ∧ (t.mine.handler s.cur.2).ia = 0 ∧
        t.mine.ev = true ∧ t.mem = s.mem ∧ t.mine.regs = s.mine.regs) ∧
      ((s.attachedTo s.cur.1).isSome = true → ∃ t, exec .halt s = .next t ∧ t.mine.mode = .halted ∧
        (t.mine.handler s.cur.2).ia = s.here + 4 ∧ t.mine.regs = s.mine.regs ∧ t.mem = s.mem) ∧
      (s.attachedTo s.cur.1 = none → exec .halt s = .next (s.stopRegion s.cur.1)) ∧
      (s.mine.mode ≠ .held → ∃ t, exec .done s = .next t ∧ t.mine.mode = .draining ∧ t.mine.faults = [] ∧
        (∀ k, (t.mine.handler k).st ≠ .active) ∧ t.mem = s.mem)

/-- mfc and the mtc forms read and write the control words as the map says. In every state mfc of a control word other than hstat writes rd with the word as it stands and changes nothing else, and mfc of
hstat of a handle does what hget of it does; write-only words read zero, ffcnt counts the fault file and fault0 to fault3 are the
quarters of its oldest entry. In every state mtc to fpflags replaces its six bits, mtc to timer stores ga once an expiry that is
already due has been latched, mtc to fpop removes the oldest fault file entry, and mtc to hen sets the enable of every declared
handler other than 0 from its bit and no other enable. mtc to resume makes a suspended handler active, at its word or at the
following one with SKIP. mtc to chmap with V = 0 stores the word and releases every channel that the chmap subscribed; with V = 1
and a channel of the ASID that no chmap subscribes it stores the word, releases what it subscribed before and subscribes that
channel. -/
def Obligations.ControlWords : Prop :=
  ∀ (s : State) (rd ra : Reg) (c : Ctl) (k : Fin 28) (j : Nat),
      let p := s.cur.1
      let r := s.mine
      let a := (r.get ra).toNat
      ((∀ h, c ≠ .hstat h) → exec (.mfc rd c) s = .next (s.wrote rd (s.readCtl c))) ∧
      (∀ h, exec (.mfc rd (.hstat h)) s = exec (.hget rd h) s) ∧
      s.readCtl .resume = 0 ∧ s.readCtl .fpop = 0 ∧ s.readCtl .ffcnt = BitVec.ofNat 64 r.faults.length ∧
      (∀ q w, r.faults.head? = some w → s.readCtl (.fault q) = BitVec.ofNat 64 (w.toNat / 2 ^ (64 * q.val) % 2 ^ 64)) ∧
      exec (.mtcFpflags ra) s = .next (s.wentTo { r with fpflags := BitVec.ofNat 6 a } (s.here + 4)) ∧
      exec (.mtcTimer ra) s = .next (s.wentTo { r.latchTimer s.tideNow with timer := r.get ra } (s.here + 4)) ∧
      exec (.mtcFpop ra) s = .next (s.wentTo { r with faults := r.faults.drop 1 } (s.here + 4)) ∧
      (∃ t, exec (.mtcHen ra) s = .next t ∧ t.mine.regs = r.regs ∧ t.mem = s.mem ∧
        (t.mine.handler j).hen = if j ≠ 0 ∧ (r.handler j).decl = true then a.testBit j else (r.handler j).hen) ∧
      (j = a % 32 → j ≠ s.cur.2 → (r.handler j).st = .suspended → ∃ t, exec (.mtcResume ra) s = .next t ∧
        (t.mine.handler j).st = .active ∧ t.mine.regs = r.regs ∧ t.mem = s.mem ∧
        (t.mine.handler j).ia = (r.handler j).ia + if a / 32 % 2 = 1 then 4 else 0) ∧
      (a / 256 % 2 = 0 → ∃ t, exec (.mtcChmap ra k) s = .next t ∧ t.mine.chmapOf (k.val + 4) = BitVec.ofNat 9 a ∧
        (∀ x, ((t.die (dieOfPlace p)).chan x).sub ≠ some (p, k.val + 4)) ∧ t.mine.regs = r.regs ∧ t.mem = s.mem) ∧
      (a / 256 % 2 = 1 → ((s.die (dieOfPlace p)).chan (a % 256)).owner = some r.asid →
        ((s.die (dieOfPlace p)).chan (a % 256)).sub = none → ∃ t, exec (.mtcChmap ra k) s = .next t ∧
        t.mine.chmapOf (k.val + 4) = BitVec.ofNat 9 a ∧
        (∀ x, ((t.die (dieOfPlace p)).chan x).sub = some (p, k.val + 4) ↔ x = a % 256) ∧ t.mine.regs = r.regs ∧ t.mem = s.mem)

/-- A load of a line that the stash may read, or of a line that acts at its home, completes with the extended bytes. Each of the seven load words, at an aligned address whose page translates and may be read, completes with the 1, 2, 4 or 8 bytes
at the address in rd, sign-extended or zero-extended. Where the line stands in the stash, owned or within its lease and not marked
poisoned, the bytes are those of the stash line, the region's clock rises to the line's write timestamp, and home memory is that
after the translation. Where the line acts at its home, and is not marked poisoned there, the bytes are those that home memory
holds, an owner's copy having been written back. What is said of the home is said of a home in this package, and a line of another
package must have no store of the region on its way (R283). -/
def Obligations.LoadWords : Prop :=
  ∀ (s : State) (rd ra : Reg) (off : BitVec 16) (i : Instr) (n : Nat) (signed : Bool) (pa : Nat) (cls : Bool) (l : StashLine),
      let p := s.cur.1
      let va := (s.mine.get ra + off.signExtend 64).toNat % 2 ^ 57
      let s1 := (s.accessConduct p va n .read).2
      (i, n, signed) ∈ [(Instr.ldB rd ra off, 1, true), (.ldH rd ra off, 2, true), (.ldW rd ra off, 4, true), (.ldD rd ra off, 8, true),
        (.ldBN rd ra off, 1, false), (.ldHN rd ra off, 2, false), (.ldWN rd ra off, 4, false)] →
      (s.accessConduct p va n .read).1 = .ok pa cls →
      (s1.actsHome p va pa = false → (s1.elsewhere pa = true → s1.storeOut p (pa / 64) = false) → s1.mine.findLine (pa / 64) = some l → (l.owned = true ∨ s1.mine.lclk.toNat ≤ l.rts.toNat) → l.poison = false →
        ∃ (t : State) (r2 : Region), exec i s = .next t ∧
          t.mine = (r2.set rd (extendBytes n signed (lineRead l.data (pa % 64) n))).advance s.cur.2 ∧
          r2.regs = s1.mine.regs ∧ r2.lclk = maxClk s1.mine.lclk l.wts ∧ t.mem = s1.mem) ∧
      (s1.actsHome p va pa = true → s1.elsewhere pa = false → ((s1.markHome (pa / 64)).homeRead pa n s1.mine.lclk).2.2.1 = false →
        ∃ t, exec i s = .next t ∧ t.mine.regs = (s1.mine.set rd (extendBytes n signed (Memory.readLE t.mem pa n))).regs ∧
          (t.mine.handler s.cur.2).ia = (s1.mine.handler s.cur.2).ia + 4)

/-- A store to a line that the stash owns or that acts at its home writes exactly its bytes; one to another package asks the home there. Each of the four store words, at an aligned address whose page translates and may be written, answers a next state when it is not
waiting for an answer. Where the stash owns the line: the line in the stash holds the low 1, 2, 4 or 8 bytes of the register at
the address and its old bytes elsewhere, it is dirty, and its write and read timestamps and the region's clock are the larger of
the region's clock and the line's read timestamp plus 1. No general register, no flag, no other line of the stash and no other
region changes, and home memory is that after the translation. Where the line acts at its home: home memory is what it was once an
owner's copy has been written back, but for the bytes stored, and the region's clock is the line's new write timestamp. Where the
home lies in another package (R283) the word waits and asks that package to write its bytes there, under the region's clock, in
traffic class 0 (R396); with the answer it completes, and the region's clock takes in the clock of the store (log entry 70). -/
def Obligations.StoreWords : Prop :=
  ∀ (s : State) (rv ra : Reg) (off : BitVec 16) (i : Instr) (n : Nat) (pa port : Nat) (cls : Bool) (l : StashLine),
      let p := s.cur.1
      let va := (s.mine.get ra + off.signExtend 64).toNat % 2 ^ 57
      let s1 := (s.accessConduct p va n .write).2
      (i, n) ∈ [(Instr.stB rv ra off, 1), (.stH rv ra off, 2), (.stW rv ra off, 4), (.stD rv ra off, 8)] →
      s.waitOf = .none → (s.accessConduct p va n .write).1 = .ok pa cls →
      (s1.elsewhere pa = false → s1.actsHome p va pa = false → s1.mine.findLine (pa / 64) = some l → l.owned = true →
        ∃ t l2, exec i s = .next t ∧ t.mine.findLine (pa / 64) = some l2 ∧ l2.dirty = true ∧
          (∀ b : Fin 64, l2.data[b] = if pa % 64 ≤ b.val ∧ b.val < pa % 64 + n
            then BitVec.ofNat 8 ((s1.mine.get rv).toNat / 256 ^ (b.val - pa % 64)) else l.data[b]) ∧
          l2.wts = maxClk s1.mine.lclk (l.rts + 1) ∧ l2.rts = l2.wts ∧ t.mine.lclk = l2.wts ∧
          t.mine.regs = s1.mine.regs ∧ t.mem = s1.mem ∧ (t.mine.handler s.cur.2).ia = (s1.mine.handler s.cur.2).ia + 4 ∧
          (∀ x, x ≠ pa / 64 → t.mine.findLine x = s1.mine.findLine x) ∧ t.mine.fpflags = s1.mine.fpflags ∧ t.mine.faults = s1.mine.faults ∧
          (∀ q, q ≠ p → t.region q = s1.region q) ∧ t.dies = s1.dies) ∧
      (s1.elsewhere pa = false → s1.actsHome p va pa = true →
        let s2 := (s1.markHome (pa / 64)).recallNow (pa / 64) true
        ∃ t, exec i s = .next t ∧ t.mem = Memory.writeLE s2.mem pa n ((s1.mine.get rv).toNat % 2 ^ (8 * n)) ∧
          t.mine.lclk = (t.line (pa / 64)).wts ∧ (t.line (pa / 64)).wts = maxClk s1.mine.lclk ((s2.line (pa / 64)).rts + 1) ∧
          t.mine.regs = s1.mine.regs ∧ (t.mine.handler s.cur.2).ia = (s1.mine.handler s.cur.2).ia + 4) ∧
      (s1.elsewhere pa = true → Tbl.find s1.well.routes (pkgOf pa) = some port → ∃ t, exec i s = .next t ∧ t.waitOf = .posted ∧ t.mem = s1.mem ∧
        t.net = s1.net ++ [{ src := none, body := .sent p s.cur.2 s1.well.sentNo (.home (.handler p s.cur.2) pa false) }] ∧
        (∃ f ∈ (t.well.port port).queue, f.cls = 0 ∧ f.dst = pkgOf pa ∧
          f.body = .ask s1.well.sentNo pa (.write n ((s1.mine.get rv).toNat % 2 ^ (8 * n)) false) s1.mine.lclk) ∧
        t.mine.regs = s1.mine.regs ∧ (t.mine.handler s.cur.2).ia = (s1.mine.handler s.cur.2).ia) ∧
      (∀ v clk f (s' : State), s'.cur = s.cur → s'.waitOf = .answered v clk f →
        exec i s' = .next (s'.wentTo { s'.mine with lclk := maxClk s'.mine.lclk clk } (s'.here + 4)))

/-- A conduct access at an address that is not a multiple of its size takes an alignment fault. A load, and a store, an atomic, waitv, arrive and await that is not waiting for an answer and whose address, modulo 2^57, is not a
multiple of the access size takes the alignment fault at its own word, with the address in ADDR, and writes nothing else. -/
def Obligations.MisalignedAccess : Prop :=
  ∀ (s : State) (rd ra rb : Reg) (off : BitVec 16) (w : Bool) (i : Instr) (n : Nat),
      let disp := (s.mine.get ra + off.signExtend 64).toNat % 2 ^ 57
      let base := (s.mine.get ra).toNat % 2 ^ 57
      let width := if w then 8 else 4
      ((i, n) ∈ [(Instr.ldB rd ra off, 1), (.ldBN rd ra off, 1), (.ldH rd ra off, 2), (.ldW rd ra off, 4), (.ldD rd ra off, 8),
          (.ldHN rd ra off, 2), (.ldWN rd ra off, 4)] → disp % n ≠ 0 → exec i s = .next (s.takeFault .alignment 0 disp s.here)) ∧
      (s.waitOf = .none → (i, n) ∈ [(Instr.stB rd ra off, 1), (.stH rd ra off, 2), (.stW rd ra off, 4), (.stD rd ra off, 8)] → disp % n ≠ 0 →
        exec i s = .next (s.takeFault .alignment 0 disp s.here)) ∧
      (s.waitOf = .none → (i, n) ∈ [(Instr.amoAdd rd ra rb w, width), (.amoAnd rd ra rb w, width), (.amoOr rd ra rb w, width),
          (.amoXor rd ra rb w, width), (.amoMin rd ra rb w, width), (.amoMax rd ra rb w, width), (.amoMinn rd ra rb w, width),
          (.amoMaxn rd ra rb w, width), (.amoSwap rd ra rb w, width), (.cas rd ra rb w, width), (.amoFadd rd ra rb, 4), (.waitv rd ra rb, 8),
          (.arrive rd ra, 16), (.await ra rb, 16)] →
        base % n ≠ 0 → exec i s = .next (s.takeFault .alignment 0 base s.here))

/-- Atomic words, waitv, arrive, await and claim post their request and complete with the answer. Each of the eleven atomic words whose answer has come completes: rd takes the old value, sign-extended from 32 bits at .w, the
region's clock and fpflags take in what came with it, and nothing else changes but the handler's address. waitv completes with the
awaited word in rd, arrive with the phase in rd, each with the region's clock raised to the clock of the answer; await completes
with the clock so raised and no register written; claim in handler 0 of an elastic course completes with the count in rd. Before
that, at an aligned address whose page translates with the permission needed, an atomic word writes back and drops the region's
copy of the line and posts its operation, width, physical address, operand and the region's clock; waitv and await post the
address, their operand and the clock; arrive, with nothing left to write back, the address and the clock; claim its request; each
then waits. cas compares with rd. In a course without ELASTIC, claim completes at once with 0 in rd and changes neither ic nor
icend. A claim by another handler is an illegal instruction. -/
def Obligations.HomeAnswers : Prop :=
  (∀ (s : State) (rd ra rb : Reg) (w : Bool) (old clk : DWord) (f : Flags),
       let r := s.mine
       let clocked : Region := { r with lclk := maxClk r.lclk clk }
       let got (wide : Bool) : Out := .next (s.wentTo { r.set rd (if wide then old else BitVec.ofInt 64 (signedOf 32 old.toNat)) with
         lclk := maxClk r.lclk clk, fpflags := r.fpflags ||| f } (s.here + 4))
       (s.waitOf = .answered old clk f →
         exec (.amoAdd rd ra rb w) s = got w ∧ exec (.amoAnd rd ra rb w) s = got w ∧ exec (.amoOr rd ra rb w) s = got w ∧
         exec (.amoXor rd ra rb w) s = got w ∧ exec (.amoMin rd ra rb w) s = got w ∧ exec (.amoMax rd ra rb w) s = got w ∧
         exec (.amoMinn rd ra rb w) s = got w ∧ exec (.amoMaxn rd ra rb w) s = got w ∧ exec (.amoSwap rd ra rb w) s = got w ∧
         exec (.amoFadd rd ra rb) s = got false ∧ exec (.cas rd ra rb w) s = got w ∧
         exec (.waitv rd ra rb) s = .next (s.wentTo (clocked.set rd old) (s.here + 4)) ∧
         exec (.arrive rd ra) s = .next (s.wentTo (clocked.set rd old) (s.here + 4)) ∧
         exec (.await ra rb) s = .next (s.wentTo clocked (s.here + 4)) ∧
         (s.cur.2 = 0 → r.elastic = true → exec (.claim rd) s = .next (s.wrote rd old))) ∧
       (s.cur.2 = 0 → r.elastic = false → exec (.claim rd) s = .next (s.wrote rd 0)) ∧
       (s.cur.2 ≠ 0 → ∃ a, exec (.claim rd) s = .next (s.takeFault .illegal 0 a s.here))) ∧
  (∀ (s : State) (rd ra rb : Reg) (w : Bool) (i : Instr) (op : AtomOp) (wide : Bool) (pa : Nat) (cls : Bool),
       let p := s.cur.1
       let va := (s.mine.get ra).toNat % 2 ^ 57
       let who : Asker := .handler p s.cur.2
       let b := s.mine.get rb
       let posts (i : Instr) (s1 : State) (src : Option Nat) (m : Body) : Prop := ∃ t, exec i s = .next t ∧ t.waitOf = .posted ∧
         t.net = s1.net ++ [{ src := src, body := m }] ∧ t.mine.regs = s.mine.regs ∧ t.mem = s1.mem
       s.waitOf = .none →
       ((i, op, wide) ∈ [(Instr.amoAdd rd ra rb w, AtomOp.add, w), (.amoAnd rd ra rb w, .and, w), (.amoOr rd ra rb w, .or, w),
         (.amoXor rd ra rb w, .xor, w), (.amoMin rd ra rb w, .min, w), (.amoMax rd ra rb w, .max, w), (.amoMinn rd ra rb w, .minn, w),
         (.amoMaxn rd ra rb w, .maxn, w), (.amoSwap rd ra rb w, .swap, w), (.amoFadd rd ra rb, .fadd, false),
         (.cas rd ra rb w, .cas (s.mine.get rd), w)] →
         let s1 := (s.accessConduct p va (if wide then 8 else 4) .write).2
         (s.accessConduct p va (if wide then 8 else 4) .write).1 = .ok pa cls →
         posts i (s1.writeBackLine p (pa / 64)) (keyMem p) (.atomic who op wide pa b s1.mine.lclk) ∧
           (s1.writeBackLine p (pa / 64)).mine.findLine (pa / 64) = none) ∧
       ((s.accessConduct p va 8 .read).1 = .ok pa cls →
         let s1 := (s.accessConduct p va 8 .read).2
         posts (.waitv rd ra rb) s1 (keyMem p) (.waitv who pa (b.toNat % 2 ^ 16) s1.mine.lclk)) ∧
       ((s.accessConduct p va 16 .read).1 = .ok pa cls →
         let s1 := (s.accessConduct p va 16 .read).2
         posts (.await ra rb) s1 (keyMem p) (.await who pa (b.toNat % 2 ^ 32) s1.mine.lclk)) ∧
       ((s.accessConduct p va 16 .write).1 = .ok pa cls → s.mine.clean = true →
         let s1 := (s.accessConduct p va 16 .write).2
         posts (.arrive rd ra) s1 (keyMem p) (.arrive who pa s1.mine.lclk)) ∧
       (s.cur.2 = 0 → s.mine.elastic = true → posts (.claim rd) s none (.claim p 0)))

/-- send appends the value under the region's clock, recv takes the oldest word, and fence completes when its reach has been reached. A send to a channel of the region's own package whose ASID is the region's, with room, from a region with no dirty line and no
write-back on its way, appends (gb, lclk) to the channel and completes; no general register and no byte of memory changes. A send
to a channel of another package of the domain, from a region with nothing to write back, asks there for room and waits; once a
place is kept for it in the channel that ga still names, and nothing is to be written back, (gb, lclk) leaves for it and the send
completes. A place in another channel than ga names is given back, and the send is evaluated again (R135). That another package is
asked for room, and keeps it, is the model's choice (log entry 63). A recv of a channel of the region's own die that belongs to
its ASID and holds a word takes the oldest word, writes it into rd, raises the region's clock to the word's clock and completes. A
fence whose scope binds to the region completes at once. One that binds wider completes once no line of the region is dirty, no
write-back is on its way and every earlier pcon has been accepted. In both cases only the handler's address changes. -/
def Obligations.ChannelWords : Prop :=
  (∀ (s : State) (rd ra rb : Reg) (pkg d ch n : Nat) (v clk : DWord) (rest : List (DWord × DWord)),
       let r := s.mine
       let a := (r.get ra).toNat
       (a = pkg * 2 ^ 10 + d * 2 ^ 8 + ch → d < 4 → ch < 256 → pkg < 2 ^ 10 → s.well.domain.contains pkg = true → r.clean = true →
         s.waitOf = .none →
         (pkg = s.well.pkg → ((s.die d).chan ch).owner = some r.asid → ((s.die d).chan ch).words.length + ((s.die d).chan ch).kept < 32 →
           ∃ t, exec (.send ra rb) s = .next t ∧
             ((t.die d).chan ch).words = ((s.die d).chan ch).words ++ [(r.get rb, r.lclk)] ∧
             t.mine.regs = r.regs ∧ t.mem = s.mem ∧ (t.mine.handler s.cur.2).ia = s.here + 4) ∧
         (pkg ≠ s.well.pkg →
           exec (.send ra rb) s = .next { (s.setWait .posted).sendAway pkg s.cur.1 s.cur.2 (.word a) (fun tag =>
             .channelAsk tag r.placeId r.asid.toNat d ch) with stalled := true })) ∧
       (a = pkg * 2 ^ 10 + d * 2 ^ 8 + ch → d < 4 → ch < 256 → pkg < 2 ^ 10 → r.clean = true → s.waitOf = .room a →
         let s1 := s.emitTo pkg 3 (.channel r.asid.toNat d ch (r.get rb) r.lclk)
         exec (.send ra rb) s = .next (s1.wentTo s1.mine (s.here + 4))) ∧
       (n ≠ a → s.waitOf = .room n → exec (.send ra rb) s = .next { (s.freeRoom n).setWait .none with stalled := true }) ∧
       (a < 256 → ((s.die (dieOfPlace s.cur.1)).chan a).owner = some r.asid →
         ((s.die (dieOfPlace s.cur.1)).chan a).words = (v, clk) :: rest →
         ∃ t, exec (.recv rd ra) s = .next t ∧ ((t.die (dieOfPlace s.cur.1)).chan a).words = rest ∧
           t.mine = ({ r.set rd v with lclk := maxClk r.lclk clk } : Region).advance s.cur.2 ∧ t.mem = s.mem)) ∧
  (∀ (s : State) (c : Scope),
       (s.mine.reachIsRegion (s.mine.scopeReach c) = true ∨ (s.mine.clean = true ∧ s.mine.pconOut = 0)) →
       exec (.fence c) s = .next (s.wentTo s.mine (s.here + 4)))

/-- hwait, hroom, hpop, hpush and hget wait for, advance and read the counts of a handle as R160 says. For a declared handle with LOC = 0 and a count n in gb other than 0: hwait completes when F is at least n and n is at most SLOTS;
hroom when SLOTS - F is at least n; with fewer slots they stall; hpop with n at most F leaves C advanced by n modulo SLOTS and F
less n; hpush with n at most SLOTS - F leaves P advanced by n modulo SLOTS and F plus n; a larger n faults. hget writes the
snapshot of the counts. A count of 0 completes at once and changes nothing. No byte of memory changes. For a declared handle with
LOC = 1 and a count of at most SLOTS, once its home has answered, the four complete with the region's clock raised to the clock of
the answer, and hget so with the answer in rd. The four take a handle fault on an undeclared handle. -/
def Obligations.HandleWords : Prop :=
  ∀ (s : State) (rd rb : Reg) (h : Fin 16),
      let r := s.mine
      let x := r.handle h.val
      let n := (r.get rb).toNat
      let on (y : Handle) : Out := .next (s.wentTo (r.setHandle h.val y) (s.here + 4))
      let bad : Out := .next (s.takeFault .handle 0 0 s.here)
      let four := [Instr.hwait h rb, .hroom h rb, .hpop h rb, .hpush h rb]
      (x.decl = true → n = 0 → ∀ i ∈ four, exec i s = .next (s.wentTo r (s.here + 4))) ∧
      (x.decl = true → x.loc = false → x.f ≤ x.slots →
        (n ≠ 0 → n ≤ x.f → ∃ t, exec (.hwait h rb) s = .next t ∧ t.mine.handle h.val = x ∧ t.mine.regs = r.regs ∧ t.mem = s.mem) ∧
        (n ≠ 0 → n ≤ x.slots - x.f → ∃ t, exec (.hroom h rb) s = .next t ∧ t.mine.handle h.val = x ∧ t.mine.regs = r.regs ∧ t.mem = s.mem) ∧
        (x.f < n → n ≤ x.slots → exec (.hwait h rb) s = .next { s with stalled := true }) ∧
        (x.slots - x.f < n → n ≤ x.slots → exec (.hroom h rb) s = .next { s with stalled := true }) ∧
        (x.slots < n → exec (.hwait h rb) s = bad ∧ exec (.hroom h rb) s = bad) ∧
        (n ≠ 0 → exec (.hpop h rb) s = if n ≤ x.f then on { x with c := (x.c + n) % x.slots, f := x.f - n } else bad) ∧
        (n ≠ 0 → exec (.hpush h rb) s = if n ≤ x.slots - x.f then on { x with p := (x.p + n) % x.slots, f := x.f + n } else bad) ∧
        exec (.hget rd h) s = .next (s.wrote rd
          (BitVec.ofNat 64 (2 ^ 56 + x.p % 2 ^ 14 * 2 ^ 42 + x.c % 2 ^ 14 * 2 ^ 28 + (x.slots - x.f) % 2 ^ 14 * 2 ^ 14 + x.f % 2 ^ 14)))) ∧
      (∀ v clk f, x.decl = true → x.loc = true → s.waitOf = .answered v clk f →
        (n ≠ 0 → n ≤ x.slots → ∀ i ∈ four, exec i s = .next (s.wentTo { r with lclk := maxClk r.lclk clk } (s.here + 4))) ∧
        exec (.hget rd h) s = .next (s.wentTo { r.set rd v with lclk := maxClk r.lclk clk } (s.here + 4))) ∧
      (x.decl = false → ∀ i ∈ four, exec i s = bad)

/-- The pool words post their declaration, contribution or gather and complete. pdcl posts its declaration, with the count of its register where it names one, and completes once the declaration has been
accepted. pcon of a declared pool, in a region with nothing to write back and no earlier contribution to the lane on its way from
a former step, sends its contribution from lane 0 under the region's clock and completes without waiting for the fold. prd, prd.c
and pset of a declared pool post their gather and wait; prd.c of a pool without a count takes a pool fault of kind 2. Once the
gather has been served they write the value into rd and join its flags to fpflags; prd.c alone raises the region's clock. A pool
word that names a pool that the region has not declared takes a pool fault of kind 1, and a pdcl whose count is 0 or does not fit
32 bits one of kind 4. -/
def Obligations.PoolWords : Prop :=
  ∀ (s : State) (rd ra : Reg) (pl : Fin 64) (settle : Bool) (sc : Scope) (op : PoolOp) (ty : PoolType) (v clk : DWord) (f : Flags)
      (x : RegionPool),
      let p := s.cur.1
      let r := s.mine
      let faults (i : Instr) (kind : Nat) : Prop := exec i s = .next (s.takeFault .pool 0 s.here (poolToken kind 0 0))
      let posts (i : Instr) (src : Option Nat) (m : Body) : Prop := ∃ t, exec i s = .next t ∧ t.waitOf = .posted ∧
        t.net = s.net ++ [{ src := src, body := m }] ∧ t.mine.regs = r.regs ∧ t.mem = s.mem
      let badCount : Prop := ra.val ≠ 0 ∧ ((r.get ra).toNat = 0 ∨ 2 ^ 32 ≤ (r.get ra).toNat)
      (s.waitOf = .answered v clk f →
        exec (.pdcl settle ra sc op ty pl) s = .next (s.wentTo r (s.here + 4)) ∧
        exec (.prd rd pl) s = .next (s.wentTo { r.set rd v with fpflags := r.fpflags ||| f } (s.here + 4)) ∧
        exec (.pset rd pl) s = .next (s.wentTo { r.set rd v with fpflags := r.fpflags ||| f } (s.here + 4)) ∧
        exec (.prdC rd pl) s =
          .next (s.wentTo { r.set rd v with fpflags := r.fpflags ||| f, lclk := maxClk r.lclk clk } (s.here + 4))) ∧
      (r.pool pl.val = some x → r.clean = true → s.laneHeld p r.stepNo pl.val 0 = false →
        ∃ t, exec (.pcon ra pl) s = .next t ∧ t.mine.pconOut = r.pconOut + 1 ∧
          t.net = s.net ++ [{ src := keyPool p, body := .poolCon x.key (s.slotOf r.placeId 0) (r.get ra) r.lclk none false none r.stepNo }] ∧
          t.mine.regs = r.regs ∧ t.mem = s.mem ∧ (t.mine.handler s.cur.2).ia = s.here + 4) ∧
      (s.waitOf = .none → r.pool pl.val = some x →
        posts (.prd rd pl) none (.gather p s.cur.2 x.key false false) ∧ posts (.pset rd pl) none (.gather p s.cur.2 x.key false true) ∧
        (if x.decl.cntv = true then posts (.prdC rd pl) none (.gather p s.cur.2 x.key true false) else faults (.prdC rd pl) 2)) ∧
      (s.waitOf = .none → ¬ badCount → ∃ d, posts (.pdcl settle ra sc op ty pl) (keyPool p)
          (.poolDecl p s.cur.2 (s.poolKey r pl.val sc) d (r.pool pl.val).isNone) ∧
        d.ty = ty ∧ d.op = op ∧ d.scope = sc ∧ d.settle = settle ∧ d.init = none ∧ (d.cntv = true ↔ ra.val ≠ 0) ∧ d.count = (r.get ra).toNat) ∧
      (s.waitOf = .none → badCount → faults (.pdcl settle ra sc op ty pl) 4) ∧
      (r.pool pl.val = none → faults (.pcon ra pl) 1) ∧
      (r.pool pl.val = none → s.waitOf = .none → faults (.prd rd pl) 1 ∧ faults (.prdC rd pl) 1 ∧ faults (.pset rd pl) 1)

/-- next and goto splice the step that follows or that goto names, or end the course. In handler 0, with no atime queued, no cut open, no splice point taken and fewer than three steps held, next goes on to the step
that R65 names once its image is loaded and not refused. Where R65 names none, next ends the course in the region. goto of a step
below the step count, in any handler and as one action, goes on to its own step with an unchanged ic unless the load check refuses
that step; a step at or above the step count takes the step-bound fault. Where no pre-emption takes a splice point, cc and ic then
take the step and the iteration, the step number has risen by one and the address of handler 0 is word 0. next in another handler
is an illegal instruction. -/
def Obligations.CourseWords : Prop :=
  ∀ (s : State) (t4 : BitVec 4) (img : Image) (idx : Nat) (ic : Word) (x : StepSlot),
      let p := s.cur.1
      let r := s.mine
      let steady : Prop := r.atimeQueued = false ∧ s.cutOpen p = false ∧ r.atSplice = false ∧ s.stepsHeld p < 3
      let s1 := s.setRegion p (r.wantSlot t4.toNat)
      (s.cur.2 = 0 → s.following p = some (idx, ic) → steady → r.nextSlot = some x → x.idx = idx → x.image = r.image → x.loaded = true →
        x.refused = false → exec .next s = .next (s.splice p 0 idx ic)) ∧
      (s.imageOf r = some img → t4.toNat < img.steps.length → steady →
        (∀ y e, (s1.region p).nextSlot = some y → s1.slotCheck y ≠ .error e) →
        exec (.goto t4) s = .next ((s1.gotoFrom p s.cur.2).splice p s.cur.2 t4.toNat r.ic)) ∧
      (∀ (s2 : State) (j : Nat), (j ≠ 0 ∨ s2.splicePoint p = false) → ((s2.splice p j idx ic).region p).cc = BitVec.ofNat 4 idx ∧ ((s2.splice p j idx ic).region p).ic = ic ∧
        ((s2.splice p j idx ic).region p).stepNo = (s2.region p).stepNo + 1 ∧ (((s2.splice p j idx ic).region p).handler 0).ia = 0) ∧
      (s.cur.2 = 0 → s.following p = none → r.atimeQueued = false → s.cutOpen p = false →
        exec .next s = .next (s.startDone p false)) ∧
      (s.cur.2 ≠ 0 → ∃ a, exec .next s = .next (s.takeFault .illegal 0 a s.here)) ∧
      (s.imageOf r = some img → img.steps.length ≤ t4.toNat → exec (.goto t4) s = .next (s.takeFault .stepBound 0 0 s.here))

/-- cop posts its message and completes; cop.r posts it with a reply latch and completes with the reply. With room in the inbox of the class, cop posts a message of four words (the engine operation with NOP 2 and the word's address as
TAG, no reply address, ga, gb) and completes; cop.r posts the same message with its handler's latch and stalls. Once the reply has
come, cop.r completes with the status in rd, the latch empty and the region's clock raised to that of the reply. No byte of memory
changes. -/
def Obligations.MessageWords : Prop :=
  ∀ (s : State) (rd ra rb : Reg) (cls : EngClass) (op : BitVec 4) (v clk : DWord) (f : Flags),
      let p := s.cur.1
      let r := s.mine
      let words : List DWord := [msgWord0 op.toNat 0 2 s.here, 0, r.get ra, r.get rb]
      let msg (latch : Option Nat) (e : EngMsg) : Prop := e.cls = cls ∧ e.words = words ∧ e.p = p ∧ e.latch = latch ∧ e.clk = r.lclk ∧ e.asid = r.asid
      (s.inboxRoom p cls = true →
        (∃ t e, exec (.cop ra rb cls op) s = .next t ∧ t.net = s.net ++ [{ src := keyEngine p, body := .engine e }] ∧ e.hold = none ∧ msg none e ∧
          t.mem = s.mem ∧ t.mine.regs = r.regs ∧ (t.mine.handler s.cur.2).ia = s.here + 4) ∧
        (s.waitOf = .none → ∃ t e, exec (.copR rd ra rb cls op) s = .next t ∧
          t.net = s.net ++ [{ src := keyEngine p, body := .engine e }] ∧ e.hold = none ∧ msg (some s.cur.2) e ∧ t.waitOf = .posted ∧ t.mem = s.mem)) ∧
      (s.waitOf = .answered v clk f → ∃ t, exec (.copR rd ra rb cls op) s = .next t ∧ t.mine.regs = (r.set rd v).regs ∧
        t.mine.lclk = maxClk r.lclk clk ∧ (t.mine.handler s.cur.2).latch = none ∧ (t.mine.handler s.cur.2).ia = s.here + 4 ∧
        t.mem = s.mem)

/-- issue forms a command and places it at the tail of the queue, or takes a command fault. An issue of a template whose command, formed from ga and gb, decodes to a command that passes the checks of its form and follows
no unmatched bitmap, once the walk to its pattern descriptor, if it names one, has come to the last level (R322), with fewer than
16 commands queued, places exactly those bits at the tail of the command queue with the template's index, the region's step and
its clock, and completes; for weir this holds once the graph image has been read, and the entry names the graph's context. General
registers and home memory are as they were (for weir, as the reading of the image left memory). A template that is not there, a
command that cannot be formed or one that does not decode takes a command fault naming the template. -/
def Obligations.IssueWord : Prop :=
  ∀ (s : State) (ga gb : Reg) (n : BitVec 16) (img : Image) (x : Template) (c : Nat) (i : Instr) (s1 : State) (ctx : Nat),
      let p := s.cur.1
      let r := s.mine
      let formed := formCommand x (r.get ga).toNat (r.get gb).toNat
      let queued (s0 : State) (k : Nat) (t : State) : Prop := ∃ q, exec (.issue ga gb n) s = .next t ∧
        t.mine.cmdQ = (s0.region p).cmdQ ++ [q] ∧ q.bits = BitVec.ofNat 128 c ∧ q.tmpl = n.toNat ∧ q.step = (s0.region p).stepNo ∧
        q.lclk = (s0.region p).lclk ∧ q.ctx = k ∧ t.mine.regs = (s0.region p).regs ∧ t.mem = s0.mem ∧
        (t.mine.handler s.cur.2).ia = ((s0.region p).handler s.cur.2).ia + 4
      let fails : Prop := exec (.issue ga gb n) s = .next (s.takeFault .command 0 s.here n.toNat)
      s.imageOf r = some img →
      (img.tmpls[n.toNat]? = some x → formed = some c → decodeStream c = .ok i → r.pendingMask = none → (s.patternWalk p i).1 = false → s.commandOk p i = true →
        r.cmdQ.length < 16 →
        ((∀ h e m k a, i ≠ .weir h e m k a) → ∃ t, queued s 0 t) ∧
        (∀ h e m k a, i = .weir h e m k a → s.loadGraph p m.toNat k.toNat a.toNat = .ok s1 ctx → s1.cur = s.cur → ∃ t, queued s1 ctx t)) ∧
      (img.tmpls[n.toNat]? = none → fails) ∧
      (img.tmpls[n.toNat]? = some x → formed = none → fails) ∧
      (∀ e, img.tmpls[n.toNat]? = some x → formed = some c → decodeStream c = .error e → fails)

/-- A binding command at the head of the queue goes to the tail of its port's queue and is live. With a command at the head of the command queue and fewer than eight entries in the queue of its port, bindr, bindw, bindg, binds,
bindc and bindf answer a next state: the command has left the command queue; the port's queue has one more entry at its tail, a
binding of the command's kind, handle, slots, gate, end and base with the template's index and the step at which it was issued;
and the binding is live under the handle that it names. bindf's binding is a fifo of slot gate with base 0. No general register
and no byte of memory changes. -/
def Obligations.PortCommands : Prop :=
  ∀ (s : State) (b : BindArgs) (src : IdxSrc) (sh : BitVec 2) (sel out ends : Bool) (h : Fin 16) (port : EdgePort) (slots : BitVec 14)
      (q : QueuedCmd) (i : Instr) (k : BindKind),
      let r := s.mine
      s.headCmd = some q →
      ((i, k) ∈ [(Instr.bindr b, BindKind.read), (.bindw b, .write), (.bindg b src sh, .gather src sh.toNat), (.binds b sh, .scatter sh.toNat),
          (.bindc b sel out, if out then .expand else .compress sel)] → (r.side b.port.val).queue.length < 8 →
        ∃ t x, exec i s = .next t ∧ t.mine.cmdQ = r.cmdQ.drop 1 ∧
          (t.mine.side b.port.val).queue = (r.side b.port.val).queue ++ [.bind x] ∧ x.kind = k ∧ x.h = b.h.val ∧ x.slots = b.slots.toNat ∧
          x.gate = b.gate ∧ x.ends = b.ends ∧ x.base = b.base.toNat ∧ x.tmpl = q.tmpl ∧ x.step = q.step ∧ x.lclk = q.lclk ∧
          t.mine.live = r.live ++ [(x.seq, if b.gate = .none then 16 else b.h.val)] ∧ t.mine.regs = r.regs ∧ t.mem = s.mem) ∧
      ((r.side port.val).queue.length < 8 →
        ∃ t x, exec (.bindf h port slots ends out) s = .next t ∧ t.mine.cmdQ = r.cmdQ.drop 1 ∧
          (t.mine.side port.val).queue = (r.side port.val).queue ++ [.bind x] ∧ x.kind = .fifo out ∧ x.gate = .slot ∧ x.base = 0 ∧ x.h = h.val ∧ x.slots = slots.toNat ∧
          x.ends = ends ∧ x.tmpl = q.tmpl ∧ x.step = q.step ∧ t.mine.live = r.live ++ [(x.seq, h.val)] ∧ t.mine.regs = r.regs ∧
          t.mem = s.mem)

/-- Attachments, meters, control and message-binding commands, and barrier commands that have been answered, act and leave the queue. With a command at the head of the command queue and fewer than eight entries in its port's queue, weir, gbind, the detaching form
of gbind and ctl each append their own entry to that queue and leave the command queue. meter sets the port's rate. The binding
form of msg sets the inbox class of messages that the port assembles, at once where the port is at the command's step and when it
comes to that step where it is at an earlier one. Each leaves the command queue. With no live binding, the fence form leaves the
command queue. Once the home has answered, the arriving form leaves it, the waiting form leaves it, and the form that does both
leaves it when it has waited out its phase; each raises the region's clock to the clock of the answer. No general register and no
byte of memory changes. -/
def Obligations.AttachmentCommands : Prop :=
  (∀ (s : State) (h : Fin 16) (port : EdgePort) (mask nrec : BitVec 16) (image : BitVec 64) (rid : BitVec 20) (pay : Word) (rate : BitVec 9)
       (mport : BitVec 6) (cls : EngClass) (q : QueuedCmd) (i : Instr) (e : PortEntry),
       let r := s.mine
       s.headCmd = some q →
       ((i, e) ∈ [(Instr.weir h port mask nrec image, PortEntry.weir h.val mask.toNat q.ctx q.step q.tmpl),
           (.gbind port rid, .gbind (some rid.toNat) q.step q.tmpl), (.gbindDetach port, .gbind none q.step q.tmpl),
           (.ctl port pay, .ctl pay q.step q.tmpl)] → (r.side port.val).queue.length < 8 →
         ∃ t, exec i s = .next t ∧ t.mine.cmdQ = r.cmdQ.drop 1 ∧ (t.mine.side port.val).queue = (r.side port.val).queue ++ [e] ∧
           t.mine.regs = r.regs ∧ t.mem = s.mem) ∧
       (∃ t, exec (.meter port rate) s = .next t ∧ t.mine.cmdQ = r.cmdQ.drop 1 ∧ (t.mine.side port.val).rate = rate.toNat ∧
         t.mine.regs = r.regs ∧ t.mem = s.mem) ∧
       (∃ t, exec (.msgBind mport cls) s = .next t ∧ t.mine.cmdQ = r.cmdQ.drop 1 ∧
         ((r.port mport.toNat).step = q.step → (t.mine.side mport.toNat).cls = some cls) ∧
         ((r.port mport.toNat).step < q.step → (t.mine.side mport.toNat).clsNext = some (q.step, cls) ∧
           (t.mine.side mport.toNat).cls = (r.side mport.toNat).cls) ∧ t.mine.regs = r.regs ∧ t.mem = s.mem)) ∧
  (∀ (s : State) (bar : BitVec 57) (phase : BitVec 32) (v clk : DWord),
       let r := s.mine
       let done (i : Instr) (c : DWord) : Prop := ∃ t, exec i s = .next t ∧ t.mine.cmdQ = r.cmdQ.drop 1 ∧ t.mine.lclk = c ∧
         t.mine.regs = r.regs ∧ t.mem = s.mem
       (r.live = [] → done .barrierFence r.lclk) ∧
       (r.sif.bad = none → r.sif.answer = some (v, clk) →
         done (.barrierArrive bar) (maxClk r.lclk clk) ∧ done (.barrierWait bar phase) (maxClk r.lclk clk) ∧
         (r.sif.phase.isSome = true → done (.barrierArriveWait bar) (maxClk r.lclk clk))))

/-- card, msg, atime, seal, snap, relatch and syncw act and leave the command queue. At the head of the command queue: card, with room in the inbox of its class, posts the message built from the command, whose TAG
is the template's index; msg, once its words have been read and its length is 3 to 12, posts them; after either, the holders of
the commands behind it are posted. atime arms a tide not yet reached; seal starts a seal of its record; snap, when no other is
open, opens a cut for its area; relatch, when no other runs on the die, sends its return word at once when no region of the ASID
on the die has a port, and otherwise begins with the range that it names; syncw, once the word's page, in this package, may be
written, the word is not poisoned and its target fits, raises the target of the word in home memory by a quarter of its bytes and
arms the word (with no debugger attached). Each leaves the command queue. -/
def Obligations.InterfaceCommands : Prop :=
  ∀ (s : State) (cls : EngClass) (op : BitVec 4) (nf : BitVec 2) (f0 f1 : BitVec 8) (addr opnd save word : BitVec 64) (rch : BitVec 8) (rv : Bool) (rid : BitVec 20)
      (asid : BitVec 16) (base : BitVec 57) (lg : BitVec 6) (n : BitVec 32) (q : QueuedCmd) (w0 : List DWord) (ws : List DWord) (pa : Nat) (c1 : Bool),
      let p := s.cur.1
      let r := s.mine
      let d := dieOfPlace p
      let posts (i : Instr) (s2 : State) (words : List DWord) : Prop :=
        exec i s = .next (((s2.popCommand p).postEngine p (keyHold p) cls words none).postQueued p)
      let first := State.readWords p 1 (addr.toNat % 2 ^ 57) [] s
      let all := State.readWords p (msgLength (w0.headD 0)) (addr.toNat % 2 ^ 57) [] first.2
      s.headCmd = some q →
      (s.inboxRoom p cls = true → posts (.card cls op nf f0 f1 opnd) s
        ([msgWord0 op.toNat nf.toNat 1 q.tmpl, 0, opnd] ++
          if nf.toNat = 0 then [] else [BitVec.ofNat 64 (f0.toNat * 256 + if nf.toNat = 2 then f1.toNat * 2 ^ 24 else 0)])) ∧
      (first.1 = .ok w0 → 3 ≤ msgLength (w0.headD 0) → msgLength (w0.headD 0) ≤ 12 → all.1 = .ok ws → all.2.inboxRoom p cls = true →
        posts (.msg cls addr) all.2 ws) ∧
      (∃ t, exec (.atime opnd) s = .next t ∧ t.mine.cmdQ = r.cmdQ.drop 1 ∧
        t.mine.sif.atime = if opnd.toNat ≤ s.tide / 8000 % 2 ^ 64 then none else some opnd) ∧
      (∃ t x, exec (.seal rid rv rch) s = .next t ∧ t.mine.cmdQ = r.cmdQ.drop 1 ∧ (t.seals.map (·.2)).contains x = true ∧ x.id = rid.toNat ∧ x.p = p ∧
        x.ch = if rv then some rch.toNat else none) ∧
      (r.sif.snap = none → ∃ t x, exec (.snap save rv rch) s = .next t ∧ t.mine.cmdQ = r.cmdQ.drop 1 ∧ t.mine.sif.snap = some x ∧
        x.va = save.toNat ∧ x.ch = (if rv then some rch.toNat else none) ∧ x.since = s.tide) ∧
      ((s.die d).relatch = none →
        (∀ e ∈ (s.popCommand p).regions, dieOfPlace e.1 = d → e.2.asid = asid → e.2.modeUnder ≠ .free → e.2.ports = []) →
        exec (.relatch asid base lg true rch) s = .next ((s.popCommand p).post (keyChan p)
          (.chanWord p 4 d rch.toNat (base.setWidth 64) ((s.popCommand p).region p).lclk ((s.popCommand p).region p).asid)) ∧
        exec (.relatch asid base lg false rch) s = .next (s.popCommand p)) ∧
      ((s.die d).relatch = none →
        (∃ e ∈ (s.popCommand p).regions, dieOfPlace e.1 = d ∧ e.2.asid = asid ∧ e.2.modeUnder ≠ .free ∧ ∃ y ∈ e.2.ports, y.2.relatches = true) →
        ∃ t x, exec (.relatch asid base lg rv rch) s = .next t ∧ (t.region p).cmdQ = r.cmdQ.drop 1 ∧ (t.die d).relatch = some x ∧ x.asid = asid ∧
          x.base = base.toNat ∧ x.log = lg.toNat ∧ x.ch = if rv then some rch.toNat else none) ∧
      ((s.unitAccess p word.toNat .write).1 = .ok pa c1 →
        let s1 := (s.unitAccess p word.toNat .write).2
        let s2 := (s1.markHome (pa / 64)).recallNow (pa / 64) true
        let w := Memory.readLE s2.mem pa 8
        r.sif.posted = false → r.sif.bad = none → r.sif.answer = none → s.elsewhere pa = false →
        s.attach = [] → s2.homePoisoned (pa / 64) = false → syncTgt w + n.toNat / 4 < 2 ^ 24 →
        ∃ t, exec (.syncw word n) s = .next t ∧ (t.region p).cmdQ = r.cmdQ.drop 1 ∧ (t.region p).sif.ackWord = some (word.toNat, pa) ∧
          Memory.readLE t.mem pa 8 = syncTest (syncGen w) (syncTgt w + n.toNat / 4) (syncCnt w))

/-- A matrix command passes to the channel with its operands. At the head of the command queue, with fewer than eight commands in the matrix channel and a unit that has not faulted, mload,
mswap, mrow, mcol, morigin in both forms and mmask leave the command queue and stand at the tail of the channel, with the operands
of the table, before the channel settles. -/
def Obligations.MatrixCommands : Prop :=
  ∀ (s : State) (h : Fin 16) (slots : BitVec 14) (bm pack : Bool) (wbw : BitVec 3) (tc tr : BitVec 7) (m : MatArgs) (y x : BitVec 6)
      (port : BitVec 4) (q : QueuedCmd) (i : Instr) (c : MatCmd),
      let p := s.cur.1
      let r := s.mine
      (i, c) ∈ [(Instr.mload h slots bm pack wbw tc tr,
          MatCmd.load h.val slots.toNat bm pack (wbw.toNat + 2) (8 * (tr.toNat + 1)) (8 * (tc.toNat + 1))),
        (.mswap, .swap), (.mrow m, .op false m), (.mcol m, .op true m), (.moriginFixed y x, .origin false (8 * y.toNat) (8 * x.toNat)),
        (.moriginWalk y x, .origin true (8 * y.toNat) (8 * x.toNat)), (.mmask h port slots, .mask h.val port.toNat slots.toNat)] →
      s.headCmd = some q → r.matrix.channel.length < 8 → r.matrix.faulted = false →
      ∃ (s1 : State) (e : MatEntry), exec i s = .next (s1.matrixSettle p) ∧ (s1.region p).matrix.channel = r.matrix.channel ++ [e] ∧ e.cmd = c ∧ e.step = q.step ∧
        e.tmpl = q.tmpl ∧ (s1.region p).cmdQ = r.cmdQ.drop 1 ∧ (s1.region p).regs = r.regs ∧ s1.mem = s.mem

/-- A copy engine moves its job on by one word, and ends it when its length is done or a word fails. For the job at the head of a copy engine, of its opcode, holding no reply, whose operands have been read: once the length is done
it ends with status 0x00; otherwise, when the source word reads as v under a clock and the destination takes it, the job stands
one word further under the destination's clock, and what it read of another package for the word is used up; when the source word
or the destination word fails with a status, the job ends with it. COPYI and FILL take their operands from the message's words and
start with them, COPY from its descriptor; a job that holds a reply tries to send it. -/
def Obligations.CopyEngines : Prop :=
  ∀ (s : State) (d e opc : Nat) (i : Instr) (j : Job) (src dst len v u st : Nat) (c c2 : DWord),
      let s1 := (s.sourceWord d j src).2
      let s2 := (s1.jobWrite d j (dst + 4 * j.pos) v c).2
      (i, opc) ∈ [(Instr.copy d e, 1), (.copyi d e, 2), (.fill d e, 3)] →
      ((s.die d).engineQueue e).head? = some j → j.msg.opc = opc →
      (j.reply = some st → exec i s = .next (s.endCopy d e j st)) ∧
      (j.reply = none → j.args = some (src, dst, len) →
        (len ≤ 4 * j.pos → exec i s = .next (s.endCopy d e j 0x00)) ∧
        (4 * j.pos < len → (s.sourceWord d j src).1 = .done v c → (s1.jobWrite d j (dst + 4 * j.pos) v c).1 = .done u c2 →
          exec i s = .next ((s2.engUsed j).setCopyJob d e { j with clk := c2, pos := j.pos + 1 })) ∧
        (4 * j.pos < len → (s.sourceWord d j src).1 = .bad st → exec i s = .next (s1.endCopy d e j st)) ∧
        (4 * j.pos < len → (s.sourceWord d j src).1 = .done v c → (s1.jobWrite d j (dst + 4 * j.pos) v c).1 = .bad st →
          exec i s = .next (s2.endCopy d e { j with clk := c } st))) ∧
      (j.reply = none → j.args = none →
        (opc = 2 → j.msg.opnd 0 < 2 ^ 57 → j.msg.opnd 1 < 2 ^ 57 → j.msg.opnd 2 < 2 ^ 32 →
          exec i s = .next (s.startCopy d e j (some (j.msg.opnd 0)) (j.msg.opnd 1) (j.msg.opnd 2))) ∧
        (opc = 3 → j.msg.opnd 0 < 2 ^ 57 → exec i s = .next (s.startCopy d e j none (j.msg.opnd 0) (j.msg.opnd 1 / 2 ^ 32))) ∧
        (opc = 1 → exec i s = .next (s.readDescriptor d e j)))

/-- WSET writes its words, GREAD, GPOL and GCLR act on an allocated record of their ASID. A WSET whose range is in order writes the low half of operand 1 to the class W word at its place once no update of the word is
under way, and stands one word further, or ends with status 0x00 when its length is done. For an allocated record of the job's
ASID that is not poisoned: GREAD writes the entry and the live half to its eight lines and ends with 0x00 under the clock of the
writes; GPOL installs MARGIN, the policy bits, SATTH and CLIP and ends with 0x00; GCLR empties the live half and clears RSC and
ends with 0x00. -/
def Obligations.WeirJobs : Prop :=
  ∀ (s : State) (d i pa : Nat) (j : Job) (g : GaugeRec) (pas : List Nat),
      let m := j.msg
      let va := m.opnd 0
      let a := va + 4 * j.pos
      (s.die d).weirJobs[i]? = some j → j.reply = none →
      (m.opc = 5 → va < 2 ^ 57 → rangesBad none va (m.opnd 1 / 2 ^ 32) = false →
        (m.opnd 1 / 2 ^ 32 ≤ 4 * j.pos → exec (.wset d i) s = .next (s.endWeirJob d i j 0x00)) ∧
        (4 * j.pos < m.opnd 1 / 2 ^ 32 → m.covers a 4 true = true → (s.engAt d m.asid a .write).1 = .at pa true → hostBit pa = false →
          let s1 := (s.engAt d m.asid a .write).2
          s1.updatePending pa = false → s1.homePoisoned (pa / 64) = false →
          exec (.wset d i) s = .next (({ s1 with mem := Memory.writeLE s1.mem pa 4 (m.opnd 1 % 2 ^ 32) } : State).setWeirJob d i
            { j with pos := j.pos + 1 }))) ∧
      (m.opc = 8 → s.recordCheck m (decide (m.opnd 0 / 2 ^ 20 ≠ 0) || decide (m.opnd 1 / 2 ^ 57 ≠ 0)) 0 = .ok g → m.opnd 1 % 64 = 0 →
        m.covers (m.opnd 1) 512 true = true →
        let lines := State.bufferLines d m.asid ((List.range 8).map fun k => (m.opnd 1 + 64 * k) % 2 ^ 57) [] s
        let s1 := lines.2
        lines.1 = .ok pas →
        exec (.gread d i) s = .next ((s1.writeLines j pas g.image512 j.clk).2.endWeirJob d i
          { j with clk := (s1.writeLines j pas g.image512 j.clk).1 } 0x00)) ∧
      (m.opc = 9 → s.recordCheck m (decide (m.opnd 0 / 2 ^ 30 ≠ 0)) (m.opnd 1 / 2 ^ 32) = .ok g →
        exec (.gpol d i) s = .next ((s.setRecord (m.opnd 0 % 2 ^ 20)
          { g with margin := BitVec.ofNat 8 (m.opnd 0 / 2 ^ 20), autoSeal := bit (m.opnd 0) 28, clearLive := bit (m.opnd 0) 29,
                   satth := BitVec.ofNat 32 (m.opnd 1), clip := BitVec.ofNat 32 (m.opnd 1 / 2 ^ 32) }).endWeirJob d i j 0x00)) ∧
      (m.opc = 10 → s.recordCheck m (decide (m.opnd 0 / 2 ^ 20 ≠ 0) || decide (m.opnd 1 ≠ 0)) 0 = .ok g →
        exec (.gclr d i) s = .next ((s.setRecord (m.opnd 0 % 2 ^ 20) { g with live := [], rsc := false }).endWeirJob d i j 0x00))

/-- The cascade jobs begin their work, free or report a graph, and the scale-out jobs leave for their port and end. GLOAD of a free graph number for a group of this package, once its words have been read, installs the graph it describes or
refuses it. REPLAY of a graph of its ASID with nothing ahead of it, once the base table has been read, starts the replay or ends
it at a check. GFREE of such a graph with no replay ahead removes it and its reservation and ends with 0x00. GSTAT whose line, in
this package, may be written writes the status record there, clears the flags of the graph and ends with 0x00. With no transfer of
its queue pair under way or ahead of it, an RWRITE that passes the checks and whose local words read leaves for its port with
those bytes under the clock of the reads; an RREAD that passes the checks leaves with its length. A transfer under way ends with
0x00 at the acknowledgement of an RWRITE, the next bytes of an RREAD are written at its place under the job clock, and with the
last of those it asked for it ends with 0x00; a transport error ends it with 0x08. -/
def Obligations.EngineJobs : Prop :=
  (∀ (s : State) (j pa : Nat) (job : Job) (g : Graph) (vs : List Nat) (c : DWord),
       let m := job.msg
       let n := m.opnd 1 % 2 ^ 12
       Tbl.find s.well.jobs j = some job → job.reply = none →
       (m.opc = 1 → n ≠ 0 → fld (m.opnd 1) 12 4 = 0 → m.opnd 1 < 2 ^ 46 → m.va % 8 = 0 → s.graph m.gid = none →
         s.groupOk (fld (m.opnd 1) 16 16) = true → (s.casWords job m.va (2 * n)).1 = .done vs c →
         exec (.gload j) s = .next ((s.casWords job m.va (2 * n)).2.installGraph j { job with clk := c } (pairUp vs))) ∧
       (m.opc = 2 → m.va % 1024 = 0 → m.second = 0 → s.jobGraph m = some g → s.replayAhead j m.gid true = false →
         (s.casWords job m.va 256).1 = .done vs c → exec (.replay j) s = .next ((s.casWords job m.va 256).2.startReplay j { job with clk := c } g (quadUp vs))) ∧
       (m.opc = 3 → m.va = 0 → m.second = 0 → s.jobGraph m = some g → s.replayAhead j m.gid false = false → ∃ s2 : State,
         exec (.gfree j) s = .next (s2.endCascade j job 0x00) ∧ s2.graph m.gid = none ∧ s2.mem = s.mem ∧
         ∀ e ∈ s2.well.chunkMem, e.1 < g.base ∨ g.base + g.len ≤ e.1) ∧
       (m.opc = 4 → m.va % 64 = 0 → m.second = 0 → s.jobGraph m = some g → m.covers m.va 64 true = true →
         (s.engAt m.die m.asid m.va .write).1 = .at pa false → hostBit pa = false → s.elsewhere pa = false →
         let s1 := (s.engAt m.die m.asid m.va .write).2
         ∃ (s2 : State) (c2 : DWord),
         exec (.gstat j) s = .next (s2.endCascade j { job with clk := c2 } 0x00) ∧
         s2.mem = (s1.homeWrite pa 64 (s1.statRecord m) job.clk).2.mem ∧ c2 = (s1.homeWrite pa 64 (s1.statRecord m) job.clk).1 ∧
         s2.graph m.gid = some { g with flags := 0 })) ∧
  (∀ (s : State) (j : Nat) (job : Job) (vs u : List Nat) (c : DWord) (bytes : List Byte),
       let m := job.msg
       let s1 := (s.roceCheck m .read).2
       let s2 := (s1.casWords job m.rva (m.rlen / 4)).2
       let written := eachWrite (fun j off v s => s.casWrite j (j.msg.rva + off) v) (wordsOfBytes (bytes.length / 4) bytes) (4 * job.pos) job s
       job.reply = none →
       (Tbl.find s.well.roce j = none → Tbl.find s.well.jobs j = some job → s.qpBusy j m.qp = false →
         (m.opc = 5 → (s.roceCheck m .read).1 = none → (s1.casWords job m.rva (m.rlen / 4)).1 = .done vs c →
           exec (.rwrite j) s = .next (s2.beginRoce j { job with clk := c } (.rdmaWrite m.qp (m.opnd 2) (bytesOfWords vs)))) ∧
         (m.opc = 6 → (s.roceCheck m .write).1 = none →
           exec (.rread j) s = .next ((s.roceCheck m .write).2.beginRoce j job (.rdmaRead m.qp (m.opnd 2) m.rlen)))) ∧
       (Tbl.find s.well.roce j = some job →
         (m.opc = 5 → exec (.roceResponseReceive j []) s = .next (s.endRoce j job 0x00)) ∧
         (m.opc ≠ 5 → bytes ≠ [] → bytes.length % 4 = 0 → 4 * job.pos + bytes.length ≤ m.rlen → written.1 = .done u c →
           let job1 : Job := { job with clk := c, pos := job.pos + bytes.length / 4 }
           let s3 := written.2
           exec (.roceResponseReceive j bytes) s = .next (if m.rlen ≤ 4 * job1.pos then s3.endRoce j job1 0x00
             else { s3 with well := { s3.well with roce := Tbl.put s3.well.roce j job1 } })) ∧
         exec (.transportError j) s = .next (s.endRoce j job 0x08)))

/-- red, redc, copy and signal nodes of a running replay move on by one element. A node of a replay that runs, that is running or has sent elements and has no write to another package on its way, acts on its
next element: red folds FROM into TO with its operator, redc adds FROM, a pair or a plain element joined as (x, +0), into the pair
at TO, copy moves an element, widens it to a pair or adds the two halves of a pair; a copy into a pool contributes an element.
signal performs an acknowledgement of the bytes of FROM at the word that TO names, in this package, and is then over. -/
def Obligations.ElementNodes : Prop :=
  ∀ (s : State) (r n rop pa : Nat) (x z : Replay) (g : Graph) (nd : ChunkNode) (st : NodeState),
      let src := x.entry nd.src
      let dst := x.entry nd.dst
      let k := st.elem
      Tbl.find s.well.replays r = some z → x = z.atNode n → s.nodeOut z n = false → s.graph x.gid = some g → g.nodes[n]? = some nd → x.nodes[n]? = some st →
      x.cause = 0 → x.job.reply = none → (st = .running ∨ ∃ m, st = .sending m) →
      (nd.op = .red rop → exec (.red r n) s = .next (s.elemStep r n x g nd k (if rop = 2 then 2 else 1) (if rop = 2 then 2 else 1) true (redApply rop))) ∧
      (nd.op = .redc → exec (.redc r n) s = .next (s.elemStep r n x g nd k (if src.pair then 2 else 1) 2 true fun b a =>
        (pairWords (pairAdd (pairFrom b) (pairFrom a)).1, (pairAdd (pairFrom b) (pairFrom a)).2))) ∧
      (nd.op = .copy → exec (.chunkCopy r n) s = .next (
        if dst.space = 2 then s.copyToPool r n x g nd k
        else if src.pair = dst.pair then s.elemStep r n x g nd k 1 1 false fun _ a => (a, 0)
        else if dst.pair then s.elemStep r n x g nd k 1 2 false fun _ a => (a ++ [0], 0)
        else s.elemStep r n x g nd k 2 1 false fun _ a =>
          ([(fAdd fmtF32 .rne .ieee (a.getD 0 0) (a.getD 1 0)).1], (fAdd fmtF32 .rne .ieee (a.getD 0 0) (a.getD 1 0)).2))) ∧
      (nd.op = .signal → x.job.msg.covers dst.addr 8 true = true → (s.engAt x.job.msg.die x.job.msg.asid dst.addr .write).1 = .at pa false →
        hostBit pa = false → s.elsewhere pa = false →
        let acted := (s.engAt x.job.msg.die x.job.msg.asid dst.addr .write).2.syncAct x.job.msg.p dst.addr pa (src.len / 4) 0 x.job.clk
        acted.1 = none → exec (.signal r n) s = .next (acted.2.goNode r x n .isOver x.job.clk))

/-- send, recv and a2a nodes exchange what R409 and R413 say, and nodes complete. Of a node without a write to another package on its way: everything that a node sends travels in the node's class. A recv that
starts sends its peer a credit for its length and class and waits for bytes. A send that starts with a credit of its length and
class begins to stream; with a wrong credit it sends a mismatch and ends the replay with 0x06. A send that streams and whose entry
reads sends the next bytes. An a2a whose counts are all in judges them. A credit that arrives joins the running replay of its
graph and number. A node that is over completes: it counts down its successors, and with the last node the replay ends with 0x00.
A node that is neither over nor done, whose counter is above 0 among them, and that has stood so for 100 ms ends its replay with
0x08. -/
def Obligations.TransferNodes : Prop :=
  ∀ (s : State) (r n m peer k len cls gid number to_ : Nat) (x z : Replay) (g : Graph) (nd : ChunkNode) (st : NodeState)
      (cr : Nat × Nat × Nat × Nat) (vs : List Nat) (c : DWord) (route : List (Nat × Nat × Nat)) (bad : Bool) (cs : List (Nat × Nat × Bool)),
      let e := x.entry nd.src
      let w := if e.len - k < 240 then (e.len - k) / 4 else 60
      Tbl.find s.well.replays r = some z → x = z.atNode n → s.nodeOut z n = false → s.graph x.gid = some g → g.nodes[n]? = some nd → x.nodes[n]? = some st →
      x.cause = 0 → x.job.reply = none →
      (nd.op = .recv peer → st = .running → exec (.chunkRecv r n) s = .next
        ((s.emitTo peer nd.cls (.credit x.gid x.number nd.dst.val (x.entry nd.dst).len nd.cls.val)).goNode r x n (.receiving 0) x.job.clk)) ∧
      (nd.op = .send peer → st = .running → x.credits.find? (fun q => q.1 == nd.dst.val && q.2.2.2 == peer) = some cr →
        exec (.chunkSend r n) s = .next (
          if cr.2.1 = e.len ∧ cr.2.2.1 = nd.cls.val then s.goNode r x n (.sending 0) x.job.clk
          else (s.emitTo peer nd.cls (.mismatch x.gid x.number nd.dst.val)).endReplay r x 0x06)) ∧
      (nd.op = .send peer → st = .sending k → (s.entryWords g e x.job k w).1 = .done vs c → exec (.chunkSend r n) s = .next
        (((s.entryWords g e x.job k w).2.emitTo peer nd.cls (.bytes x.gid x.number nd.dst.val k (bytesOfWords vs) (decide (e.len ≤ k + 4 * w)) c)).goNode r x n
          (if e.len ≤ k + 4 * w then .receiving 0 else .sending (k + 4 * w)) c)) ∧
      (nd.op = .a2a → st = .running → exec (.a2a r n) s = .next (s.a2aStart r n x g nd)) ∧
      (nd.op = .a2a → st = .counting route bad cs → cs.length = (s.groupMembers g.group).length →
        exec (.a2a r n) s = .next (s.a2aJudge r n x g nd route cs)) ∧
      (s.ready m = some (.credit gid number to_ len cls peer) →
        s.well.replays.find? (fun y => y.2.gid == gid && y.2.number == number) = some (r, z) →
        exec (.chunkCreditArrive m) s = .next ((s.unpost m).setReplay r { z with credits := z.credits ++ [(to_, len, cls, peer)] })) ∧
      (st = .isOver → ∃ x1 : Replay, exec (.chunkNodeComplete r n) s =
          .next (if x1.nodes.all (· == .done) then s.endReplay r x1 0x00 else s.setReplay r x1) ∧
        x1 = ((z.setNode n .done s.tide).countDown s.tide nd.succA).countDown s.tide nd.succB) ∧
      ((∃ y ∈ z.nodes.zip z.since, y.1.waits = true ∧ y.2 + 8000000 * 100000 ≤ s.tide) →
        exec (.replayPeerTimeout r) s = .next (s.endReplay r z 0x08))

/-- A conduit port takes intact flits in order, delivers its package's own and passes on the others, and the tide is slewed, never stepped. A flit whose CRC fails, or whose number is not the one expected of its source, destination and class (or of the time protocol), is
counted as a retry and delivers nothing; that one out of turn is so counted is log entry 46's reading. After an intact flit in its
turn the port expects the next number. Such a flit from a package of the domain reaches its unit when it is for this package and
of a kind that travels in its class; one for another package is queued at the port of its route with its source, destination,
class and body; one from no package of the domain delivers nothing, which is the model's choice (log entry 46). An access of
another package to a line of this one is performed here and answered to that package under its number (R283, R396): a read with
the bytes and the clock of the home, a write with the clock it got there, an atomic by an action of its home. A time flit leaves
every part of the machine but the slew and TLOCK as it was: the time source does not slew, another package slews toward the
source, and TLOCK says whether the tides are within 20 ns. -/
def Obligations.ConduitFlits : Prop :=
  ∀ (s : State) (port src : Nat) (f : Flit),
      let x := Tbl.look s.well.ports port ConduitPort.reset
      let put (y : ConduitPort) : State := { s with well := { s.well with ports := Tbl.put s.well.ports port y } }
      let y := x.advance f.src f.dst (flitOrder f)
      ((f.crcOk = false ∨ f.seq ≠ x.next f.src f.dst (flitOrder f)) →
        exec (.conduitFlitReceive port f) s = .next (put { x with retries := x.retries + 1 })) ∧
      (f.crcOk = true → f.seq = x.next f.src f.dst (flitOrder f) →
        y.next f.src f.dst (flitOrder f) = f.seq + 1 ∧
        (s.well.domain.contains f.src = true → f.dst = s.well.pkg → flitClassOk f.cls f.body = true →
          exec (.conduitFlitReceive port f) s = .next ((put y).deliverFlit f.src f.body)) ∧
        (s.well.domain.contains f.src = true → f.dst ≠ s.well.pkg →
          exec (.conduitFlitReceive port f) s = .next ((put y).queueFlit f.src f.dst f.cls f.body)) ∧
        (s.well.domain.contains f.src = false → exec (.conduitFlitReceive port f) s = .next (put y))) ∧
      (∀ (tag pa n v : Nat) (wide : Bool) (op : AtomOp) (z clk : DWord), s.elsewhere pa = false → paOk pa = true →
        let a := s.recallNow (lineOf pa) true
        let w := a.homeWrite pa n v clk
        let g := s.homeRead pa n clk
        s.deliverFlit src (.ask tag pa (.write n v false) clk) = w.2.emitTo src 0 (.answer tag 0 w.1 0 none) ∧
        w.2.mem = Memory.writeLE (a.recallNow (lineOf pa) true).mem pa n v ∧
        (g.2.2.1 = false → s.deliverFlit src (.ask tag pa (.read n) clk) = g.2.2.2.emitTo src 0 (.answer tag g.1 g.2.1 0 none) ∧
          g.1 = Memory.readLE g.2.2.2.mem pa n) ∧
        s.deliverFlit src (.ask tag pa (.atomic op wide z) clk) = s.post none (.atomic (.stream (awayTag src tag)) op wide pa z clk)) ∧
      (∃ slew lock, exec (.timeFlitReceive port src) s = .next { s with well := { s.well with slew := slew, tlock := lock } } ∧
        (s.well.timeSource = true → slew = 0 ∧ lock = true) ∧
        (s.well.timeSource = false → (s.tide < src → slew = 1) ∧ (src < s.tide → slew = -1) ∧ (src = s.tide → slew = 0) ∧
          (lock = true ↔ src ≤ s.tide + 20 * 8000 ∧ s.tide ≤ src + 20 * 8000)))

/-- The registers of launch queues and of the sluice take what R108 to R110, R424 and R440 let them take. Enabling a queue with a weight, a ring size of 2^4 to 2^12 records and no reserved bit sets EN, clears HEAD, TAIL and ERR, and
takes WEIGHT, LOC and LOGSZ; otherwise it sets ERR, leaves EN at 0 and stores WEIGHT, LOC and LOGSZ as written (log entry 36).
Disabling a queue refuses its records that have no placement, takes the values written and leaves HEAD and TAIL. Offset 0x00 takes
QBASE while EN = 0 and is ignored while EN = 1. A write to offset 0x08 that keeps EN takes a non-zero WEIGHT and nothing else.
TAIL takes a doorbell that posts at most a ring of records; more sets ERR. The sluice registers take their fields; PEND and the
read-only status of R424 take nothing. PRIV and QBASE survive enabling. -/
def Obligations.QueueRegisters : Prop :=
  ∀ (s : State) (d q : Nat) (v : BitVec 64) (tail : BitVec 32),
      let x := s.die d
      let k := x.queue q
      let n := v.toNat
      let bad : Prop := fld n 20 4 = 0 ∨ fld n 16 4 < 4 ∨ 12 < fld n 16 4 ∨ n / 2 ^ 32 ≠ 0 ∨ fld n 24 5 ≠ 0 ∨ fld n 1 15 ≠ 0
      let taken : Queue := { k with en := false, loc := bit n 29, weight := fld n 20 4, logsz := fld n 16 4 }
      (q < 32 → k.en = false → bit n 31 = true →
        (¬ bad → ∃ t, exec (.queueEnable d q v) s = .next t ∧ t.mem = s.mem ∧
          (t.die d).queue q = { taken with en := true, err := false, head := 0, tail := 0, last := none }) ∧
        (bad → exec (.queueEnable d q v) s = .next (s.setDie d (x.setQueue q { taken with err := true })))) ∧
      (k.en = true → bit n 31 = false →
        exec (.queueDisable d q v) s = .next ((s.setDie d (x.setQueue q taken)).cancelQueue d q)) ∧
      (q < 32 →
        (k.en = false → exec (.queueRegisterWrite d q 0x00 v) s = .next (s.setDie d (x.setQueue q { k with qbase := fld n 7 45 }))) ∧
        (k.en = true → exec (.queueRegisterWrite d q 0x00 v) s = .next s) ∧
        (k.en = true → bit n 31 = true → exec (.queueRegisterWrite d q 0x08 v) s =
          .next (s.setDie d (x.setQueue q { k with weight := if fld n 20 4 = 0 then k.weight else fld n 20 4 }))) ∧
        (k.en = true → k.err = false → (tail - k.head).toNat ≤ 2 ^ k.logsz →
          exec (.tailDoorbell d q tail) s = .next (s.setDie d (x.setQueue q { k with tail := tail }))) ∧
        (k.en = true → k.err = false → 2 ^ k.logsz < (tail - k.head).toNat →
          exec (.tailDoorbell d q tail) s = .next (s.setDie d (x.setQueue q { k with err := true })))) ∧
      (∀ e ∈ [(0x0000, { x with inbw := n % 16 }), (0x0008, { x with stallMax := v.setWidth 32 }), (0x0010, { x with admwd := v.setWidth 32 }),
          (0x0018, x), (0x0020, { x with snapTo := v.setWidth 32 }), (0x0028, { x with splTo := v.setWidth 32 }), (0x0030, x),
          (0x0038, { x with autop := bit n 16 }), (0x0050, { x with retTo := v.setWidth 32 }), (0x0058, { x with gateDly := v.setWidth 32 }),
          (0x0060, if 1 ≤ n % 2 ^ 9 ∧ n % 2 ^ 9 ≤ 256 then { x with pcap := n % 2 ^ 9 } else x)],
        exec (.registerWrite d e.1 v) s = .next (s.setDie d e.2))

/-- The sluice takes records from its rings and from its inbox, and messages reach their inboxes. With a record posted, EN set, ERR clear and room in the pending table, the sluice takes record HEAD of a ring in host memory as it
stands there, advances HEAD by one, and takes it into its pending table or refuses it; of a ring in device memory it takes what
its home holds once owners of the two lines have given them back, a poisoned line among them (log entry 61). The first admitted
launch message of the sluice inbox whose record can be read leaves the inbox, its record is taken or refused as one of its
sender's, and it is answered with 0x00. A well-formed engine message that its admission has not dropped stands in the inbox of its
class, and admitted jobs go on; a malformed one is refused. The reply of a job enters the latch of the handler that waits for it. -/
def Obligations.LaunchRecords : Prop :=
  ∀ (s : State) (d q m p k tag st n : Nat) (e : EngMsg) (clk c : DWord),
      let x := s.die d
      let u := x.queue q
      (q < 32 → u.en = true → u.err = false → u.head ≠ u.tail → x.pendRoom = true → u.loc = true →
        exec (.sluiceTakeRecord d q) s = .next ((s.setDie d (x.setQueue q { u with head := u.head + 1 })).takeRecord d
          (Memory.readLE s.mem (hostPa (u.qbase * 128 + 128 * (u.head.toNat % 2 ^ u.logsz))) 128) q 0 none)) ∧
      (q < 32 → u.en = true → u.err = false → u.head ≠ u.tail → x.pendRoom = true → u.loc = false →
        let a := u.qbase * 128 + 128 * (u.head.toNat % 2 ^ u.logsz)
        let s2 := (s.recallNow (lineOf a) false).recallNow (lineOf a + 1) false
        exec (.sluiceTakeRecord d q) s = .next ((s2.setDie d ((s2.die d).setQueue q { u with head := u.head + 1 })).takeRecord d
          (Memory.readLE s2.mem a 128) q 0 none)) ∧
      (x.inbox.find? (fun y => x.holdOf y.hold == .admitted) = some e → x.pendRoom = true →
        let read := (s.setDie d { x with inbox := x.inbox.erase e }).readLaunch d e (e.opnd 0) (x.jobOf e).clk
        read.1 = .ok (n, c) → exec (.sluiceInboxLaunch d) s = .next ((read.2.takeRecord d n 32 e.p (some (e.asid, e.sys))).endInbox d e 0x00 c)) ∧
      (s.ready m = some (.engine e) →
        (e.wellFormed = false → exec (.engineMessageArrive m) s = .next ((s.unpost m).refuseMessage e.die e)) ∧
        (e.wellFormed = true → ((s.unpost m).die e.die).holdOf e.hold ≠ .dropped →
          exec (.engineMessageArrive m) s = .next (((s.unpost m).enterInbox e.die e).giveJobs e.die))) ∧
      (s.ready m = some (.reply p k tag st clk) → (((s.unpost m).region p).handler k).wait = .posted →
        ∃ t, exec (.engineReplyArrive m) s = .next t ∧ ((t.region p).handler k).latch = some st ∧
          ((t.region p).handler k).wait = .answered (BitVec.ofNat 64 st) clk 0 ∧ (t.region p).regs = (s.region p).regs ∧ t.mem = s.mem)

/-- Holders arrive, are admitted and time out; launches age and are anchored. A holder that arrives joins the die's arrivals with its waiting counted from now, and every arrival that fits enters with its
edges. A holder whose edges have cleared is admitted; a binding's region takes the clock that its edges carry, a job goes on. A
holder whose edges have not cleared and that has been held for longer than ADMWD is dropped, as is one that has found no room in
the table for as long, and arrivals that fit then enter. A pending launch whose waiting gives it another class takes that class,
and one that has been passed over for longer than STALLMAX is anchored. -/
def Obligations.Admission : Prop :=
  ∀ (s : State) (d m u t0 : Nat) (h : Holder) (l : Launch),
      let x := s.die d
      (s.ready m = some (.holder d h) →
        exec (.holderArrive m) s = .next ((s.unpost m).setDie d
          ({ x with arrivals := x.arrivals ++ [{ h with since := s.tide }] }.admitArrivals (x.arrivals.length + 1)))) ∧
      (Tbl.find x.holders u = some h → h.admitted = false → h.dropped = false → h.edges = [] →
        (h.job = true → exec (.holderAdmit d u) s =
          .next ((s.setDie d { x with holders := Tbl.put x.holders u { h with admitted := true } }).giveJobs d)) ∧
        (h.job = false → ∃ t, exec (.holderAdmit d u) s = .next t ∧ (t.die d).holdOf (some u) = .admitted ∧
          (t.region h.p).lclk = maxClk (s.region h.p).lclk h.clk ∧ (t.region h.p).regs = (s.region h.p).regs ∧ t.mem = s.mem)) ∧
      (Tbl.find x.holders u = some h → h.admitted = false → h.dropped = false → h.edges ≠ [] → x.admwd ≠ 0 → h.since + 8000000 * x.admwd.toNat < s.tide →
        exec (.admissionTimeout d u) s =
          .next ((s.setDie d { x with holders := Tbl.put x.holders u { h with dropped := true } }).dropHolder d h)) ∧
      (Tbl.find x.holders u = none → x.arrivals.find? (·.id == u) = some h → h.admitted = false → h.dropped = false → x.admwd ≠ 0 →
        h.since + 8000000 * x.admwd.toNat < s.tide →
        let y : Die := { x with arrivals := x.arrivals.filter fun a => a.id != u }
        let z : Die := { y with holders := Tbl.put y.holders u { h with dropped := true, foots := [] } }
        exec (.admissionTimeout d u) s = .next ((s.setDie d (z.admitArrivals z.arrivals.length)).dropHolder d h)) ∧
      (Tbl.find x.launches u = some l →
        (l.pending = true → effectiveClass l.recd.pri (s.tide - l.arrived) ≠ l.cls → exec (.effectiveClassAging d u) s =
          .next (s.setDie d { x with launches := Tbl.put x.launches u { l with cls := effectiveClass l.recd.pri (s.tide - l.arrived) } }.turns)) ∧
        (l.since = some t0 → l.anchored = false → t0 + 8000000 * x.stallMax.toNat < s.tide → exec (.launchAnchor d u) s =
          .next (s.setDie d { x with launches := Tbl.put x.launches u { l with anchored := true } })))

/-- Placement, claims, configuration and an armed tide move a course on. The first launch of the service order whose next placement fits a rectangle of free regions, with the clusters of the rectangle
on, is placed there. A claim at the cursor's home answers the handler with the count claimed. An image of a later step of a moving
region that has not been loaded, and that passes its checks, counts as loaded and the region is otherwise as it was; one that
fails a check enters a configuration fault and counts as loaded and refused. A region that was only placed sends its declarations
for homes in other packages, and starts with the others of its span once its image has passed its checks and none of those is
still unanswered. Once the tide has reached a step's armed tide, its nodes install. -/
def Obligations.Placement : Prop :=
  ∀ (s : State) (d u o m p k : Nat) (l : Launch) (tried rect : List Nat) (x : StepSlot) (e : ConfRefusal),
      let r := s.region p
      let woken := s.wakeClusters d rect
      let loadedAs (b : Bool) (ys : List StepSlot) : List StepSlot := ys.map fun y => if y.num = x.num then { y with loaded := true, refused := b } else y
      (s.nextPlacement d (s.die d).allowed [] = some (u, l, tried, o, rect) → woken.1 = true → l.resume = none →
        exec (.placeInstance d) s = .next ((woken.2.markPlaced d u tried).placeAt d u (l.todo.headD 0) o rect)) ∧
      (s.ready m = some (.claim p k) → exec (.claimAtCursor m) s =
        .next (((s.unpost m).claim p false).2.answer (.handler p k) (BitVec.ofNat 64 ((s.unpost m).claim p false).1) 0 0 none)) ∧
      (s.chainReady p = false → r.steps.find? (fun y => !y.loaded) = some x →
        (r.moves = true → r.modeUnder ≠ .placed → r.stepNo < x.num → (∃ recs, s.slotCheck x = .ok recs) →
          ∃ t, exec (.configImageLoaded p) s = .next t ∧ t.mem = s.mem ∧ t.region p = { r with steps := loadedAs false r.steps }) ∧
        (r.moves = true → r.modeUnder ≠ .placed → s.slotCheck x = .error e →
          let s1 := s.unitFault p .config e.unit e.coord 0 0 0 none 0
          (s1.region p).modeUnder ≠ .placed → (s1.region p).stepNo < x.num →
          ∃ t, exec (.configImageLoaded p) s = .next t ∧ t.mem = s1.mem ∧
            t.region p = { s1.region p with steps := loadedAs true (s1.region p).steps }) ∧
        (r.modeUnder = .placed → (∃ recs, s.slotCheck x = .ok recs) →
          let t := ((s.setRegion p { r with steps := loadedAs false r.steps }).askHomes p).startTogether p
          exec (.configImageLoaded p) s = .next { t with agenda := .issue p :: t.agenda })) ∧
      (r.steps.any (fun y => decide (y.num ≤ r.stepNo) && y.openAt != 0 && decide (y.openAt ≤ s.tide)) = true →
        ∃ t, exec (.atimeRelease p) s = .next t ∧ t.agenda.head? = some (.issue p) ∧
          ({ t with agenda := t.agenda.drop 1 } : State) =
            (s.setRegion p { r with steps := r.steps.map fun y => if y.openAt ≤ s.tide then { y with openAt := 0 } else y }).advanceAll p)

/-- A home bank answers line requests as R289 and R290 say, and lines arrive, are recalled and written back. A load request for a line of another package goes there and its number stands here until the line comes (R283); what follows is of
the lines of this package, asked for by its regions. A load request for a line that no other region owns is answered with the
line's data and timestamps, its lease reaching 32 above its write timestamp and above the request's clock; a line that another
region owns is answered with the lease as it stands when the request's clock lies within it, and recalled, leaving the request to
wait, when not. A store request makes the region the owner of a line that no other owns, and recalls it when another does; one of
a binding that will write the whole line is answered without the old data and their poison mark (R285; log entry 68). No request
changes a byte of memory. A line that arrives stands in the stash with the data and the timestamps of its reply, leased or owned;
one that the region has come to own meanwhile stays. A line that acts at its home alone (R293), as the model knows such lines (log
entry 64), is never copied: its request or reply is dropped, and the accesses that wait for it are made again there. A recall is
performed where the region still owns the line, and finds nothing to do where it does not; a write-back is performed and counts
off. -/
def Obligations.HomeLines : Prop :=
  ∀ (s : State) (m p o line : Nat) (clk w r : DWord) (data : Vector Byte 64) (bad drop whole : Bool) (l : StashLine),
      let h := s.line line
      let lease := maxClk h.rts (maxClk (h.wts + 32) (clk + 32))
      let asks (i : Instr) : Prop := ∃ t, exec i s = .next t ∧ t.mem = s.mem ∧ t.line line = h ∧ t.regions = s.regions ∧
        (∃ x ∈ t.net, ∃ dr, x.body = .recall o line dr) ∧ (∀ x ∈ s.net, x ∈ t.net)
      let arrives (i : Instr) (owned : Bool) : Prop := ∃ t l2, exec i s = .next t ∧ (t.region p).findLine line = some l2 ∧ l2.data = data ∧
        l2.wts = w ∧ l2.rts = r ∧ l2.owned = owned ∧ l2.dirty = false ∧ l2.poison = bad ∧ t.mem = s.mem ∧ (t.region p).regs = (s.region p).regs
      (line ∈ s.homeWords → isAway p = false → ∀ store : Bool,
        let dropped := State.refuseCopy s m p line store
        (store = false → s.ready m = some (.loadReq p line clk) → exec (.homeReadRequest m) s = .next dropped) ∧
        (store = true → s.ready m = some (.storeReq p line whole) → exec (.homeWriteRequest m) s = .next dropped) ∧
        (store = false → s.ready m = some (.loadReply p line data w r bad) → exec (.loadReply m) s = .next dropped) ∧
        (store = true → s.ready m = some (.ownReply p line data w r bad) → exec (.ownershipReply m) s = .next dropped) ∧
        dropped.mem = s.mem ∧ dropped.net = (s.unpost m).net ∧ (dropped.region p).stash = (s.region p).stash) ∧
      (line ∉ s.homeWords → s.ready m = some (.loadReq p line clk) → s.elsewhere (64 * line) = true →
        ∃ t, exec (.homeReadRequest m) s = .next t ∧ t.mem = s.mem ∧ t.regions = s.regions ∧
          t.net = (s.unpost m).net ++ [{ src := none, body := .sent p noHandler s.well.sentNo (.line line) }]) ∧
      (line ∉ s.homeWords → s.ready m = some (.loadReq p line clk) → s.elsewhere (64 * line) = false → isAway p = false →
        ((h.owner = none ∨ h.owner = some p) → exec (.homeReadRequest m) s = .next
          (((s.unpost m).setLine line { h with rts := lease }).post (keyReply p)
            (.loadReply p line (s.lineData line) h.wts lease (s.homePoisoned line)))) ∧
        (h.owner = some o → o ≠ p → clk.toNat ≤ h.rts.toNat → exec (.homeReadRequest m) s = .next
          ((s.unpost m).post (keyReply p) (.loadReply p line (s.lineData line) h.wts h.rts (s.homePoisoned line)))) ∧
        (h.owner = some o → o ≠ p → h.rts.toNat < clk.toNat → asks (.homeReadRequest m))) ∧
      (line ∉ s.homeWords → s.ready m = some (.storeReq p line whole) →
        ((h.owner = none ∨ h.owner = some p) → ∃ data2 bad2 t, exec (.homeWriteRequest m) s =
            .next (t.post (keyReply p) (.ownReply p line data2 h.wts h.rts bad2)) ∧
          (whole = false → t = (s.unpost m).setLine line { h with owner := some p } ∧ data2 = s.lineData line ∧ bad2 = s.homePoisoned line) ∧
          (whole = true → bad2 = false ∧ t.lines = ((s.unpost m).setLine line { h with owner := some p }).lines ∧ t.mem = s.mem)) ∧
        (h.owner = some o → o ≠ p → asks (.homeWriteRequest m))) ∧
      (line ∉ s.homeWords → s.ready m = some (.loadReply p line data w r bad) →
        ((∀ x, (s.region p).findLine line = some x → x.owned = false) → arrives (.loadReply m) false) ∧
        ((∃ x, (s.region p).findLine line = some x ∧ x.owned = true) → ∃ t, exec (.loadReply m) s = .next t ∧
          (t.region p).stash = (s.region p).stash ∧ t.mem = s.mem)) ∧
      (line ∉ s.homeWords → s.ready m = some (.ownReply p line data w r bad) → arrives (.ownershipReply m) true) ∧
      (s.ready m = some (.recall o line drop) →
        ((∃ x, (s.region o).findLine line = some x ∧ x.owned = true) → exec (.recall m) s = .next ((s.unpost m).recallNow line drop)) ∧
        ((∀ x, (s.region o).findLine line = some x → x.owned = false) → exec (.recall m) s = .next (s.unpost m))) ∧
      (s.ready m = some (.writeBack p l) → ∃ t, exec (.writeBackAck m) s = .next t ∧
        t.mem = Memory.writeBytes s.mem (64 * l.line) l.data.toList ∧ (t.line l.line).owner = none ∧ (t.line l.line).wts = l.wts ∧
        (t.region p).wbOut = (s.region p).wbOut - 1)

/-- Atomics, monitors, barriers, headers and channel words act at their home as one action and answer. An atomic whose line is not poisoned acts in one action at its home, an owner's copy having been written back: the home then holds
what the operator gives for the old value and the operand (cas writes its operand where the old value is the one expected, and
nothing where it is not), and the answer brings the old value and the flags. A waitv answers with the word when its generation
passes at the first test, or at a later test of the monitor, and stays armed when not; an await does the same with the phase of
its barrier. An arrival counts at its barrier, and is answered. A wait or an advance of a handle's header is one action there.
After a waitv, an arrival, an await or a header action the line of its word acts at its home alone (R293, as log entry 64 reads
it); an await is answered with CLK alone as its clock (log entry 19). An action whose home lies in another package goes there
(R283), its number standing here until the answer comes. An answer reaches who waits for it. A word held at its source enters its
channel once there is room there, at its tail and under its own clock. -/
def Obligations.HomeActions : Prop :=
  ∀ (s : State) (m h pa gen ph unit d ch p : Nat) (who : Asker) (hop : HeaderOp) (wide : Bool) (x v clk c : DWord) (f : Flags)
      (bad : Option Nat) (asid : BitVec 16),
      let s0 := s.unpost m
      let s1 := s0.recallNow (pa / 64) true
      let n := if wide then 8 else 4
      let old := Memory.readLE s1.mem pa n
      let sig (y : Nat) : Int := signedOf (8 * n) (y % 2 ^ (8 * n))
      let u (y : DWord) : Nat := y.toNat % 2 ^ (8 * n)
      let table : List (AtomOp × Option Nat) := [(.add, some ((old + u v) % 2 ^ (8 * n))), (.and, some (old &&& u v)), (.or, some (old ||| u v)),
        (.xor, some (old ^^^ u v)), (.min, some (if sig old ≤ sig v.toNat then old else u v)), (.max, some (if sig old ≤ sig v.toNat then u v else old)),
        (.minn, some (if old ≤ u v then old else u v)), (.maxn, some (if old ≤ u v then u v else old)), (.swap, some (u v)),
        (.cas x, if old = u x then some (u v) else none)]
      let acts (op : AtomOp) (new : Option Nat) (g : Flags) : Prop := s.ready m = some (.atomic who op wide pa v clk) → s.elsewhere pa = false →
        s1.homePoisoned (pa / 64) = false → ∃ t c2, exec (.homeAtomic m) s = .next t ∧
          t.net.getLast? = some { src := none, body := .atomicReply who (BitVec.ofNat 64 old) c2 g none } ∧
          t.mem = match new with
            | some y => Memory.writeLE s1.mem pa n y
            | none => s1.mem
      let rd := (s0.markHome (pa / 64)).homeRead pa 8 clk
      let waits (i : Instr) : Prop := s.elsewhere pa = false → rd.2.2.1 = false →
        exec i s = .next (rd.2.2.2.post none (if (rd.1 / 2 ^ 48 + 2 ^ 16 - gen % 2 ^ 16) % 2 ^ 16 < 2 ^ 15
          then .atomicReply who (BitVec.ofNat 64 rd.1) rd.2.1 0 none else .waitvArmed who pa gen clk))
      let passed := (rd.1 / 2 ^ 32 % 2 ^ 32 + 2 ^ 32 - ph % 2 ^ 32) % 2 ^ 32
      let awaits (i : Instr) : Prop := s.elsewhere pa = false → rd.2.2.1 = false →
        exec i s = .next (rd.2.2.2.post none (if 1 ≤ passed ∧ passed < 2 ^ 31
          then .atomicReply who 0 (BitVec.ofNat 64 (Memory.readLE rd.2.2.2.mem (pa + 8) 8)) 0 none else .await who pa ph clk))
      let marks (i : Instr) : Prop := ∃ t, exec i s = .next t ∧ pa / 64 ∈ t.homeWords
      let goes (i : Instr) (k : Nat) (monitor : Bool) : Prop := ∃ t, exec i s = .next t ∧ t.mem = s.mem ∧
        t.net = s0.net ++ [{ src := none, body := .sent who.place k s.well.sentNo (.home who pa monitor) }]
      (∀ e ∈ table, acts e.1 e.2 0) ∧ (wide = false → acts .fadd (some (fAdd fmtF32 .rne .ieee old (u v)).1) (fAdd fmtF32 .rne .ieee old (u v)).2) ∧
      (s.ready m = some (.waitv who pa gen clk) → waits (.homeAtomic m)) ∧
      (s.ready m = some (.waitvArmed who pa gen clk) → waits (.waitvWake m)) ∧
      (s.ready m = some (.await who pa ph clk) → awaits (.waitvWake m) ∧ awaits (.barrierArriveAtHome m)) ∧
      (s.ready m = some (.arrive who pa clk) → s.elsewhere pa = false → exec (.barrierArriveAtHome m) s = .next (s0.arriveAtHome who pa clk)) ∧
      (s.ready m = some (.header who h pa hop clk) → exec (.handleHeaderAction m) s = .next (s.headerAction m who h pa hop clk)) ∧
      (s.elsewhere pa = false →
        (s.ready m = some (.waitv who pa gen clk) → marks (.homeAtomic m)) ∧ (s.ready m = some (.arrive who pa clk) → marks (.barrierArriveAtHome m)) ∧
        (s.ready m = some (.await who pa ph clk) → marks (.barrierArriveAtHome m)) ∧
        (s.ready m = some (.header who h pa hop clk) → marks (.handleHeaderAction m))) ∧
      (s.elsewhere pa = true → ∀ k, who = .handler p k →
        (∀ op, s.ready m = some (.atomic who op wide pa v clk) → goes (.homeAtomic m) k false) ∧
        (s.ready m = some (.waitv who pa gen clk) → goes (.homeAtomic m) k true) ∧
        (s.ready m = some (.arrive who pa clk) → goes (.barrierArriveAtHome m) k false) ∧
        (s.ready m = some (.await who pa ph clk) → goes (.barrierArriveAtHome m) k true)) ∧
      (s.ready m = some (.atomicReply who v c f bad) → isAway who.place = false → exec (.atomicReply m) s = .next (s0.answer who v c f bad)) ∧
      (s.ready m = some (.chanWord p unit d ch v clk asid) → isAway p = false → ((s.die d).chan ch).owner = some asid →
        ((s.die d).chan ch).words.length < 32 →
        ∃ t, exec (.channelWordEnter m) s = .next t ∧ ((t.die d).chan ch).words = ((s.die d).chan ch).words ++ [(v, clk)] ∧ t.mem = s.mem ∧
          t.net = s0.net)

/-- An arrival at a barrier raises ARRIVED, or ends the phase with the last party. An arrival at a barrier with a party still missing, whose line is not poisoned, is answered with the phase before it; the word
that the home then holds has ARRIVED one higher, or, at the last arrival, ARRIVED 0 and PHASE one higher modulo 2^32, with PARTIES
unchanged; CLK becomes the larger of itself and the arrival's clock. A barrier with no parties, or already full, answers with the
barrier fault and is not written. -/
def Obligations.BarrierArrivals : Prop :=
  ∀ (s : State) (pa : Nat) (who : Asker) (clk : DWord),
      let took := (s.markHome (pa / 64)).homeTake pa 8 clk
      let s1 := took.2.2.2
      let lo := Memory.readLE s1.mem pa 8
      let n := lo % 2 ^ 16
      let k := lo / 2 ^ 16 % 2 ^ 16
      let ph := lo / 2 ^ 32 % 2 ^ 32
      let hi := Memory.readLE s1.mem (pa + 8) 8
      took.2.2.1 = false →
      (n < k → ∃ t v, s.arriveAtHome who pa clk = t ∧ t.mem = Memory.writeLE (s1.recallNow (pa / 64) true).mem pa 16
          (v + (if hi < clk.toNat then clk.toNat else hi) * 2 ^ 64) ∧
        v = (if n + 1 = k then (ph + 1) % 2 ^ 32 * 2 ^ 32 + k * 2 ^ 16 else ph * 2 ^ 32 + k * 2 ^ 16 + (n + 1)) ∧
        ∃ c2, t.net.getLast? = some { src := none, body := .atomicReply who (BitVec.ofNat 64 ph) c2 0 none }) ∧
      ((k = 0 ∨ k ≤ n) → s.arriveAtHome who pa clk = s1.post none (.atomicReply who 0 clk 0 (some 0x14)))

/-- Declarations, contributions and gathers act at the home basin and answer. A declaration of a pool whose home this package holds is installed or checked there and answered to its handler; one whose home
another package holds is sent there, with the value that a chained predecessor passed to the region for it. A contribution of a
conduct word folds into its lane, and its region counts one contribution less that is on its way. A gather with none of its
instance ahead of it, and with the count reached when it waits for one, takes the next lane of its instance in one action; past
the last lane, with no other package left to ask, it is answered with the value, the flags, the clock and the poison found. An
answer without poison reaches the waiting handler with the value, the clock and the flags; one with poison as a pool fault. -/
def Obligations.PoolHome : Prop :=
  ∀ (s : State) (m p k n slot num : Nat) (key : PoolKey) (d : PoolDecl) (fresh counted settle pair : Bool) (b : HomeBasin) (v : BitVec 64)
      (clk : DWord) (f : Flags) (bad : Option Nat) (ty : Option PoolType),
      let s0 := s.unpost m
      let r := s0.region p
      (s.ready m = some (.poolDecl p k key d fresh) →
        (s0.homeHere key = true →
          let out := match r.pool key.pool with
            | none => s0.declare p key.pool key d
            | some old => s0.redeclare p old key d
          exec (.poolDeclareAtHome m) s =
            .next (out.2.poolAnswer p k (if out.1 then .answered 0 0 0 else .faulted 0x0B (poolToken 3 0 0)))) ∧
        (s0.homeHere key = false → r.pool key.pool = none → exec (.poolDeclareAtHome m) s =
          .next (s0.sendAway (s0.homePkg key) p k (.decl key d) fun tag => .poolDecl tag r.placeId key d (r.inherited key.pool d)))) ∧
      (s.net[m]? = some { src := keyPool p, body := .poolCon key slot v clk bad pair ty num } → 8 * p + 2 < 2 ^ 20 →
        s.ready m = some (.poolCon key slot v clk bad pair ty num) →
        let s1 := s0.fold key slot v clk bad pair ty
        ∃ t, exec (.poolFold m) s = .next t ∧ t.basins = s1.basins ∧ t.lanes = s1.lanes ∧
          (t.region p).pconOut = (s1.region p).pconOut - 1) ∧
      (s.ready m = some (.gather p k key counted settle) → s.homeHere key = true → s.basin key = some b → s.gatherAhead m key = false →
        (counted = true → b.gath = none → b.decl.count ≤ b.arr) →
        let g := b.gath.getD (s.beginGather b)
        let here (l : Lane) : Bool := l.key == b.key && l.order == n
        (nextLane b.key g.pos s.lanes = some n → settle = false →
          exec (.poolGather m) s = .next (s.setBasin { b with gath := some ((s.lanes.filter here).foldl (GatherState.take b) g) })) ∧
        (nextLane b.key g.pos s.lanes = some n → settle = true → ∃ t b2, exec (.poolGather m) s = .next t ∧ t.basin key = some b2 ∧
          t.lanes = s.lanes.filter (fun l => !here l) ∧ b2.gath = some ((s.lanes.filter here).foldl (GatherState.take b) g) ∧ t.mem = s.mem) ∧
        (nextLane b.key g.pos s.lanes = none → g.asked = none → g.pkgs = [] →
          exec (.poolGather m) s =
            .next ((s0.gatherEnd b g settle).2.gatherDone p k key (s0.gatherEnd b g settle).1 counted))) ∧
      (s.ready m = some (.completion p k v f clk none counted) → ((s0.region p).handler k).wait = .posted →
        ∃ t, exec (.poolCompletionWord m) s = .next t ∧ ((t.region p).handler k).wait = .answered v clk f ∧
          (t.region p).regs = (s.region p).regs ∧ t.mem = s.mem) ∧
      (∀ a, s.ready m = some (.completion p k v f clk (some (slot, a)) counted) → ((s0.region p).handler k).wait = .posted →
        ∃ t, exec (.poolCompletionWord m) s = .next t ∧ ((t.region p).handler k).wait = .faulted 0x0B (poolToken 0 a slot) ∧ t.mem = s.mem)

/-- A contribution folds as R362 says. At a declared instance, a contribution without failure and of the declared type to a lane that is empty makes it hold the value;
to a lane that holds one, the operator applied to the old value and the new; a poisoned lane keeps its value. A failure, or a
contribution of another type (cause 1), poisons the lane with its cause and keeps an earlier cause. The lane's count rises by one,
to at most 2^32 - 1. Where this package holds the instance's home, the home's count rises by one and its clock to that of the
contribution; where another does, the home here is as it was. -/
def Obligations.PoolFolds : Prop :=
  ∀ (s : State) (key : PoolKey) (slot : Nat) (v : BitVec 64) (clk : DWord) (bad : Option Nat) (ty : Option PoolType) (b : HomeBasin),
      let l := s.lane key slot
      let x := BitVec.ofNat 64 (v.toNat % 2 ^ poolWidth b.decl.ty)
      let t := s.fold key slot v clk bad false ty
      let ok : Prop := bad = none ∧ ∀ y, ty = some y → y = b.decl.ty
      s.attach = [] → s.basin key = some b →
      ∃ b2 l2, t.basin key = some b2 ∧ b2.value = b.value ∧
        (s.homeHere key = true → b2.arr = b.arr + 1 ∧ b2.clk = maxClk b.clk clk) ∧ (s.homeHere key = false → b2 = b) ∧
        t.lanes = insertLane l2 s.lanes ∧ l2.slot = l.slot ∧ l2.n = min (l.n + 1) (2 ^ 32 - 1) ∧
        (ok → l2.p = l.p ∧ l2.cause = l.cause ∧
          (l.p = true → l2.value = l.value ∧ l2.v = l.v) ∧
          (l.p = false → l2.v = true ∧ l2.value = if l.v then (poolApply b.decl.ty b.decl.op l.value x).1 else x)) ∧
        (¬ ok → l2.p = true ∧ l2.value = l.value ∧ l2.v = l.v ∧ l2.cause = if l.p then l.cause else bad.getD 1)

/-- The events of an edge port move its binding on by one action. In a region that moves, a read port emits what it may and then passes a marker of its link on or starts the next entry of its
queue, waits for a group's handle, or moves its binding on by one step and emits again; a write port and a mamo port do the same
with what they take, mamo when its result can leave. A binding whose elements have all been read or written, whose trains and weir
tokens can leave and whose lines have reached their home, and whose handle then advances, leaves its port and the region's live
bindings, and with ENDS the port owes an eos; while a line is still dirty it is written back (log entries 17 and 31). An xlat port
takes a token and with the second of a pair translates the pair. A msgout port posts a burst of 6 to 24 tokens, an even number,
that is bound and finds room. A due head of a spillway whose page now translates is performed and leaves it; a stalled element
whose page still does not translate walks again 1,024 cycles later, and one whose page translates goes on; while a relatch token
stands at the port neither event changes anything. A relatch token acts on its port and emerges once nothing translated before it
is outstanding, the pairs of R215 among it (log entry 48). -/
def Obligations.PortEvents : Prop :=
  ∀ (s : State) (p n i k pa : Nat) (cls : Bool) (b : Running) (t a : Token) (c : EngClass) (e : Spilled) (rest : List Spilled) (d : Nat) (op : RelatchOp),
      let r := s.region p
      let x := s.port p n
      let s0 := s.portOut p n
      let y := s0.port p n
      let side := s.side p n
      let write (ev : Instr) (mine : CellWord → Bool) : Prop := mine x.word = true → mine y.word = true →
        (y.word.op = .mamo → y.selectsResult n = false ∨ y.queue = []) →
        (y.run = none → exec ev s = .next (s0.portIdle p n)) ∧
        (y.run = some b → s0.mayRun p n b = true → exec ev s = .next ((s0.portWriteStep p n b).portOut p n))
      let allMoved : Prop := x.run = some b ∧ b.faulted = false ∧ x.stopped = false ∧ b.idx = some i ∧ b.b.pat.count ≤ b.n ∧ b.b.groups ≤ b.group + 1 ∧
        b.pair = [] ∧ s.portQuiet p n b = true ∧ s.portClear p n = true
      let need : Need := if b.b.kind.reads then .read else .write
      r.moves = true →
      (portReads x.word = true → portReads y.word = true →
        (y.run = none → y.fed = true → (s0.portHead p n).map (·.kind) = some kMarker →
          exec (.portEmitToken p n) s = .next (s0.portMarker p n)) ∧
        (y.run = none → (y.fed = false ∨ (s0.portHead p n).map (·.kind) ≠ some kMarker) →
          exec (.portEmitToken p n) s = .next (s0.portStart p n)) ∧
        (y.run = some b → s0.mayRun p n b = true →
          exec (.portEmitToken p n) s = .next (if b.idx = none then s0.portGroup p n b else (s0.portReadStep p n b).portOut p n))) ∧
      write (.portTakeToken p n) (fun w => w.op == .mst || (w.op == .mov && !movReads w)) ∧
      write (.mamoAccess p n) (fun w => w.op == .mamo) ∧
      (allMoved → s.linesHome p b.lines = false → exec (.bindingComplete p n) s = .next (s.writeBackLines p b.lines)) ∧
      (allMoved → s.linesHome p b.lines = true →
        k = (match b.b.gate with
          | .slot => 1 | .whole => b.b.slots | .hold => 0 | .none => 0) →
        (if k = 0 then (true, s) else s.portAdvance p n b k).1 = true →
        ∃ t, exec (.bindingComplete p n) s = .next t ∧ (t.port p n).run = none ∧ (∀ l ∈ (t.region p).live, l.1 ≠ b.b.seq) ∧
          (b.b.ends = true → (t.port p n).queue.getLast? = some eosToken)) ∧
      (x.word.op = .xlat → y.word.op = .xlat → y.stopped = false → y.closing = false → y.queue = [] → (s0.side p n).relatch = false →
        y.held.length < 2 → s0.portConst p n = none → s0.portHead p n = some t → isDataToken t = true →
        let s1 := s0.portTakes p n
        (y.held = [] → exec (.xlatTranslate p n) s = .next (s1.setPort p n { s1.port p n with held := [t] })) ∧
        (y.held = [a] → exec (.xlatTranslate p n) s =
          .next (((s1.setPort p n { s1.port p n with held := [a, t] }).xlatPair p n a.payload t.payload).portOut p n))) ∧
      (x.word.op = .msgout → x.stopped = false → x.ended = false → x.held.getLast?.map (·.kind) = some kLast → x.held.length % 2 = 0 →
        6 ≤ x.held.length → x.held.length ≤ 24 → side.cls = some c → s.inboxRoom p c = true →
        exec (.msgoutPost p n) s = .next ((s.setPort p n { x with held := [] }).postEngine p (keyOut p n) c (wordsOfTokens x.held) none)) ∧
      (x.run = some b → b.faulted = false → x.posted = false → side.relatch = false → r.dropsSpills n = false → side.spill.count = 0 →
        side.spill.queue = e :: rest → side.spill.retryAt ≠ 0 → side.spill.retryAt ≤ s.tide → (s.portTranslate p n e.va need).1 = .ok pa cls →
        let done := (s.portTranslate p n e.va need).2.replayAt p n pa cls b e
        done.1 = .ok () → exec (.spillwayRetry p n) s = .next (done.2.setSide p n { done.2.side p n with
          spill := { (done.2.side p n).spill with queue := rest, since := s.tide, retryAt := 0 } })) ∧
      (x.run = some b → b.faulted = false → side.relatch = false → side.stallVa = some pa → side.stallAt ≤ s.tide →
        let s1 := (s.portTranslate p n pa need).2
        ((s.portTranslate p n pa need).1 = .fault d →
          exec (.stalledPortRetry p n) s = .next (s1.setSide p n { s1.side p n with stallAt := side.stallAt + s.cyclesAt p 1024 })) ∧
        ((s.portTranslate p n pa need).1 = .ok i cls →
          let s3 := s1.setSide p n { s1.side p n with stallVa := none }
          exec (.stalledPortRetry p n) s = .next (if b.b.kind.reads then s3.portReadStep p n b else s3.portWriteStep p n b))) ∧
      (side.relatch = true → exec (.spillwayRetry p n) s = .next s ∧ exec (.stalledPortRetry p n) s = .next s) ∧
      ((s.die (dieOfPlace p)).relatch = some op → side.relatch = true → x.posted = false → (∀ z, x.run = some z → z.outstanding = 0) →
        let s1 := s.setSide p n (side.relatched op.base (2 ^ (op.log + 12)))
        (∀ q ∈ side.pairs, ¬ (op.base ≤ q.va ∧ q.va < op.base + 2 ^ (op.log + 12) ∧ s1.pairLives p q = true)) →
        exec (.relatchTokenAtPort p n) s = .next (s1.relatchEmerges p n))

/-- A cell fires exactly when every counted input holds a token and its result can leave. A cell of an operation other than join that may fire makes a data firing with the tokens at its inputs; with an operand that is
read and selects nothing, an open value stands there. A cell may fire in a region that moves when it has not stopped or ended, no
cut holds it, it has no token left to emit, its result can leave, no token that faults waits at its side port, and every counted
input holds a token of data. With a counted input empty it makes no firing, nor does a cell that has stopped or ended, whose
result cannot leave or whose region does not move. -/
def Obligations.CellReadiness : Prop :=
  ∀ (s : State) (p c : Nat) (w : CellWord),
      let r := s.region p
      let x := r.cell c
      (s.mayFire p c w → w.op ≠ .join → s.prepare p c w.op = .fire (s.atFiring w) x w (s.firingTokens p c w)) ∧
      (x.word = some w →
        (x.stopped = true ∨ x.ended = true ∨ r.moves = false ∨ (x.canEmit = false ∧ w.op ≠ .xfn) ∨ ∃ i ∈ s.firingInputs p c w, x.at_ w i = none) →
        ∀ s1 y v ts, s.prepare p c w.op ≠ .fire s1 y v ts)

/-- The lane-wise operations, mov, sel and rcpe take one token from each input and emit one result. A cell of one of these operations that may fire completes a firing: one token leaves each counted input, the result of the
operation on the tokens' lanes, with false lanes as R186 gives them, is emitted as one data token, the flags raised join the
region's fpflags, and the firing is counted. mov of a bfp stream passes the headers and mantissas of a well-formed block
unchanged; sel of two bfp streams of equal blocks passes the header or the mantissas of the stream that the predicate at the
block's head chose, false lanes from its first operand. -/
def Obligations.LaneCells : Prop :=
  ∀ (s : State) (p c : Nat) (w : CellWord) (b : Option Nat),
      let x := (s.region p).cell c
      let ts := s.firingTokens p c w
      let s1 := s.atFiring w
      let y := x.takeAll w (countedInputs w)
      let r := tokenOp w (payloadAt ts 0) (payloadAt ts 1) (payloadAt ts 2) (predOf w ts)
      let done : Out := .next ((s1.raiseFlags p x.step r.2).fired p c (y.push [mkToken kData r.1]))
      let lanes (i : Instr) (op : CellOp) : Prop := w.op = op → exec i s = done
      let head : Bool := kindAt ts 0 == kHeader
      s.mayFire p c w →
      lanes (.cellAdd p c) .add ∧ lanes (.cellSub p c) .sub ∧ lanes (.cellMul p c) .mul ∧ lanes (.cellFma p c) .fma ∧
      lanes (.cellMin p c) .min ∧ lanes (.cellMax p c) .max ∧ lanes (.cellAbs p c) .abs ∧ lanes (.cellNeg p c) .neg ∧
      lanes (.cellAnd p c) .and ∧ lanes (.cellOr p c) .or ∧ lanes (.cellXor p c) .xor ∧ lanes (.cellShl p c) .shl ∧
      lanes (.cellShr p c) .shr ∧ lanes (.cellSra p c) .sra ∧ lanes (.cellCmp p c) .cmp ∧ lanes (.cellScale p c) .scale ∧
      lanes (.cellPopc p c) .popc ∧ lanes (.cellClz p c) .clz ∧
      (w.fmt ≠ .bfp → lanes (.cellMov p c) .mov ∧ lanes (.cellSel p c) .sel) ∧
      (w.op = .mov → w.fmt = .bfp → bfpBlock w x.mem.block ((ts[0]?).getD (mkToken kData 0)) = some b →
        exec (.cellMov p c) s = .next (s1.fired p c (Cell.push { y with mem := { y.mem with block := b } }
          [mkToken (if head then kHeader else kData) (payloadAt ts 0)]))) ∧
      (w.op = .sel → w.fmt = .bfp → bfpBlock w x.mem.block ((ts[0]?).getD (mkToken kData 0)) = some b →
        bfpBlock w x.mem.block ((ts[1]?).getD (mkToken kData 0)) = some b →
        let first : Bool := if head then payloadAt ts 2 != 0 else x.mem.chosenA
        let z := x.takeAll w (if head then countedInputs w else (countedInputs w).filter (· != 2))
        exec (.cellSel p c) s = .next (s1.fired p c (Cell.push { z with mem := { z.mem with block := b, chosenA := first } }
          [mkToken (if head then kHeader else kData)
            (maskLanes (laneBits w.width) (predOf w ts) (payloadAt ts 0) (if first then payloadAt ts 0 else payloadAt ts 1))]))) ∧
      (w.op = .rcpe → exec (.cellRcpe p c) s = .next
        ((s1.raiseFlags p x.step (rcpeValue (payloadAt ts 0)).2).fired p c (y.push [mkToken kData (rcpeValue (payloadAt ts 0)).1])))

/-- The operations that keep something complete a firing as their rules say. A cell that may fire completes: cvt and dqn within a burst convert the elements of the token under the codes in force; qnt within
a block collects the elements of the token until the block is full; acc folds each true lane and keeps the fold; runacc opens a
run with its first pair, of a key equal to that of the open run folds into it, and of another key emits the run's pair and opens a
run; cnt emits its lanes and counts on, until its total; nfin makes its flag sticky; stat counts the elements of a true token and
passes it, while its trains have room; poolc passes a token whose predicate is false, and contributes a true token to the declared
pool and passes it, when no earlier contribution to the lane is on its way from a former step. -/
def Obligations.KeepingCells : Prop :=
  ∀ (s : State) (p c : Nat) (w : CellWord) (k r : Word) (z : RegionPool),
      let x := (s.region p).cell c
      let ts := s.firingTokens p c w
      let s1 := s.atFiring w
      let y := x.takeAll w (countedInputs w)
      let codes := x.mem.codes.getD (w.rnd, w.sat)
      let fires (op : CellOp) : Prop := s.mayFire p c w ∧ w.op = op
      (fires .cvt → x.mem.boundary = false →
        let rs := (splitLanes (fmtBits w.fmt) (payloadAt ts 0)).map fun e => convertElem w.fmt (cvtTarget w) codes.1 codes.2 e
        let o := packTokens (fmtBits (cvtTarget w)) 8 (x.mem.elems ++ rs.map (·.1))
        exec (.cellCvt p c) s = .next ((s1.raiseFlags p x.step (rs.foldl (fun f r => f ||| r.2) 0)).fired p c
          (Cell.push { y with mem := { y.mem with elems := o.2, boundary := kindAt ts 0 == kLast } } (o.1.map (mkToken kData))))) ∧
      (fires .qnt → x.mem.elems ≠ [] → (w.sub.val = 1 → s1.trainRoom p (16 + c) = true) →
        let es := x.mem.elems ++ splitLanes (fmtBits w.fmt) (payloadAt ts 0)
        let z : Cell := { y with mem := { y.mem with elems := es } }
        exec (.cellQnt p c) s = .next (if es.length < 4 * 2 ^ w.bl.val then s1.fired p c z
          else (s1.qntEmit p c z w).2.fired p c (s1.qntEmit p c z w).1)) ∧
      (∀ b, fires .dqn → kindAt ts 0 ≠ kHeader → bfpBlock w x.mem.block ((ts[0]?).getD (mkToken kData 0)) = some b →
        let rs := (splitLanes 8 (payloadAt ts 0)).map fun e => dqnElem ((floatFmtOf w.fmt).getD fmtF32) (w.bw.val + 2) x.mem.blockE codes.1 codes.2 e
        let out := (packTokens (fmtBits w.fmt) 8 (rs.map (·.1))).1
        exec (.cellDqn p c) s = .next ((s1.raiseFlags p x.step (rs.foldl (fun f r => f ||| r.2) 0)).fired p c
          (Cell.push { y with mem := { y.mem with block := b } } (if b = none then burstTokens out else out.map (mkToken kData))))) ∧
      (fires .acc → exec (.cellAcc p c) s = .next (State.accFire p c s1 x w ts)) ∧
      (fires .runacc →
        let a := BitVec.ofNat 32 (payloadAt ts 0)
        let key := BitVec.ofNat 32 (payloadAt ts 1)
        let fold := foldOp w.fmt w.sub.val w.rnd w.sat r.toNat a.toNat
        (x.mem.run = none → exec (.cellRunacc p c) s = .next (s1.fired p c { y with mem := { y.mem with run := some (key, a) } })) ∧
        (x.mem.run = some (k, r) → key = k → exec (.cellRunacc p c) s = .next
          ((s1.raiseFlags p x.step fold.2).fired p c { y with mem := { y.mem with run := some (k, BitVec.ofNat 32 fold.1) } })) ∧
        (x.mem.run = some (k, r) → key ≠ k → exec (.cellRunacc p c) s = .next (s1.fired p c
          (Cell.push { y with mem := { y.mem with run := some (key, a), pairs := (runTokens x w k r).2 } } (runTokens x w k r).1)))) ∧
      (fires .cnt → (if w.ina = .none then x.mem.emitted < cntTotal w else countedInputs w ≠ [] ∨ (s.region p).quiet x.step = false) →
        exec (.cellCnt p c) s = .next (State.cntFire p c s1 x w ts)) ∧
      (fires .nfin →
        let found := wholeTrue w ts && (splitLanes (laneBits w.width) (payloadAt ts 0)).any fun e =>
          !(((floatFmtOf w.fmt).getD fmtF32).value e).isFinite
        exec (.cellNfin p c) s = .next (s1.fired p c { y with mem := { y.mem with sticky := y.mem.sticky || found } })) ∧
      (fires .stat → s1.trainRoom p (16 + c) = true → exec (.cellStat p c) s = .next (State.statFire p c s1 x w ts)) ∧
      (∀ t, fires .poolc → ts[0]? = some t → t.kind ≠ kPoison → kindAt ts 3 ≠ kPoison →
        let pool := w.index.toNat / 2 ^ 10
        let lane := w.index.toNat / 2 ^ 6 % 16
        (wholeTrue w ts = false → exec (.cellPoolc p c) s = .next (s1.fired p c (y.push [t]))) ∧
        (wholeTrue w ts = true → (s.region p).pool pool = some z → s1.laneHeld p x.step pool lane = false →
          exec (.cellPoolc p c) s =
            .next ((s1.contribute p (16 + c) x.step pool lane (poolTypeOfFmt w.fmt) t.payload none).2.fired p c (y.push [t]))))

/-- Column units grant in turn and answer 12 cycles later; joins, eos and marker firings; router outputs. A column function unit grants the first row after the one granted last whose request is ready and whose reply queue has room: the
token is taken, and the reply is due 12 cycles later. A due reply enters the reply queue with its flags. A join with two heads,
neither a marker nor both eos nor out of order, makes one firing. A cell whose counted inputs all hold eos, and is quiet, takes
them, emits what it keeps and then eos; one whose inputs hold markers, or markers and eos, takes the markers and emits one. For an
output that is on, whose latch is free and that has not ended, in a region that moves: pass moves the token of its source; steer
takes source and control and places the source's token when the control matches, and drops both when not; merge, once a control
token has been taken, places the token of the source that it chose; carry outside its loop places the initial token and enters the
loop, whatever stands at its control (log entry 52); repeat with nothing held takes and holds the source's token; drop at the
start of a burst takes the control token and discards or passes the burst. What the latch then holds is delivered when the path's
end is free. -/
def Obligations.ColumnsJoinsEndsAndRouters : Prop :=
  (∀ (s : State) (p c col row : Nat) (pre post : List Nat) (w : CellWord) (f : InFlight) (rest : List InFlight) (a b : Token),
       let r := s.region p
       let g := 32 * row + col
       let z := r.cell c
       (rowsAfter (Tbl.look r.columns col Column.init).last = pre ++ row :: post → (∀ q ∈ pre, s.prepare p (32 * q + col) .xfn = .no) →
         s.mayFire p g w → w.op = .xfn → (r.cell g).mem.replies.length + (r.cell g).mem.flight.length < 12 →
         let y := (r.cell g).takeAll w (countedInputs w)
         let s2 := (s.atFiring w).fired p g { y with mem := { y.mem with
           flight := y.mem.flight ++ [{ due := s.tide + s.cyclesAt p 12, value := BitVec.ofNat 32 (payloadAt (s.firingTokens p g w) 0) }] } }
         exec (.xfnGrant p col) s =
           .next (s2.setRegion p { s2.region p with columns := Tbl.put (s2.region p).columns col { last := row } })) ∧
       (z.word = some w → w.op = .xfn → r.mode ≠ .frozen → z.mem.flight = f :: rest → f.due ≤ s.tide →
         exec (.xfnReply p c) s = .next ((s.raiseFlags p z.step (xfnReply w f.value.toNat).2).setCell p c { z with
           mem := { z.mem with flight := rest, replies := z.mem.replies ++ [BitVec.ofNat 32 (xfnReply w f.value.toNat).1] } })) ∧
       (z.word = some w → w.op = .join → r.moves = true → z.stopped = false → z.ended = false → s.cutHolds p z = false → z.mem.queue = [] →
         z.canEmit = true → opensValue w = false → r.comps = [] → countedInputs w ≠ [] →
         joinHead s z w 0 = some a → joinHead s z w 1 = some b → (∀ i ∈ [0, 1], ∀ t, z.at_ w i = some t → isDataToken t = true ∨ t.kind = kEos) →
         a.kind ≠ kMarker → b.kind ≠ kMarker → ¬ (a.kind = kEos ∧ b.kind = kEos) →
         exec (.cellJoin p c) s = .next (s.joinFire p c z w a b)) ∧
       (z.word = some w → s.quietCell p c z w = true → countedInputs w ≠ [] → w.op.hasSide = false →
         (∀ i ∈ countedInputs w, (z.at_ w i).map (·.kind) = some kEos) →
         let q := s.flushCell p c (z.takeAll w (countedInputs w)) w
         exec (.cellEosFiring p c) s = .next ((q.2.setCell p c (q.1.push [eosToken])).settle p c)) ∧
       (z.word = some w → s.quietCell p c z w = true → z.marked = false → countedInputs w ≠ [] → w.op.hasSide = false → reportsTile w = false →
         (∀ i ∈ countedInputs w, (z.at_ w i).map (·.kind) = some kMarker) →
         exec (.cellMarkerFiring p c) s = .next (s.setCell p c
           (Cell.push { z.takeAll w (countedInputs w) with marked := true } [markerToken])))) ∧
  (∀ (s : State) (p c : Nat) (d : Dir) (o : RouterOut) (a q : RSrc) (t h : Token),
       let x := s.cell p c
       let st := x.out d
       let k : OutCtx := { x := x, rd := 4 + dirNo d, o := o, st := st }
       let goes (y : Cell) (o' : OutState) : Out := .next ((s.setCell p c (y.setOut d o')).deliverOut p c d)
       let data (u : Token) : Prop := isDataToken u = true
       (s.region p).moves = true → x.router.out d = some o → st.latch = none → st.stopped = false → st.eosSent = false →
       (o.op = .pass → k.head o.src = some t → exec (.routerPass p c d) s = goes (k.take [o.src]) { st with latch := some t }) ∧
       (o.op = .steer q → k.head o.src = some t → k.head q = some h → data t → data h → exec (.routerSteer p c d) s =
         if (h.payload != 0) = o.sense then goes (k.take [o.src, q]) { st with latch := some t } else goes (k.take [o.src, q]) st) ∧
       (o.op = .merge a q → st.ctlTaken = some h → k.head (if (h.payload != 0) = o.sense then o.src else a) = some t → data t →
         exec (.routerMerge p c d) s =
           goes (k.take [if (h.payload != 0) = o.sense then o.src else a]) { st with latch := some t, ctlTaken := none }) ∧
       (o.op = .carry a q → st.loop = false → k.head a = some t → data t → k.head o.src = none →
         exec (.routerCarry p c d) s = goes (k.take [a]) { st with latch := some t, loop := true }) ∧
       (o.op = .repeat q → st.held = none → k.head o.src = some t → data t → k.head q = none →
         exec (.routerRepeat p c d) s = goes (k.take [o.src]) { st with held := some t }) ∧
       (o.op = .drop q → st.drop = .start → k.head o.src = some t → k.head q = some h → data t → data h →
         exec (.routerDrop p c d) s =
           goes (k.take [q]) { st with drop := if (h.payload != 0) = o.sense then .discarding else .passing }))

/-- The events of the matrix unit. In a region that moves: with the feeding ports served, a vector that its source holds complete enters the macros, once the earlier
commands, the unit, an open cut and its accumulator rows let it, and the operation at the head of the channel begins before the
unit takes a token for it; in a region that moves, and in one that a debugger holds (R459), a vector whose planes have entered and
whose results are due leaves the flight, its results stand in the accumulator and its flags join fpflags, or the flags kept for a
chained successor once the unit has passed to its step (log entry 32); a held region does no more, and one that moves then sends
what its drains can; a dispatched load whose slots are filled and read puts its tile into the shadow bank, pops its slots and
leaves the channel; a unit whose step is over passes to the next step, owing an eos on every mz port that the step read and
waiting for one at every ma port that it drove; a marker firing with no operation takes the loose markers and no other token, and
with an open cut it marks a handle-sourced operation that drains to no port, when it stands at a vector boundary. -/
def Obligations.MatrixEvents : Prop :=
  ∀ (s : State) (p i h slots tr tc wb y x n : Nat) (col bm pack : Bool) (a : MatArgs) (v : MatSource) (e : MatEntry) (hd hd2 : Handle)
      (bs : List Byte) (w : VecInFlight) (rest : List VecInFlight),
      let r := s.region p
      (let s1 := ((s.matrixSettle p).beginHead p).maPorts p
        let m1 := (s1.region p).matrix
        s.matrixHeld p = false → m1.current = some (col, a) → m1.faulted = false → opBlocked m1.channel = false → m1.freeAt ≤ s1.tide →
        (a.asrc = true ∨ m1.marked = true ∨ s1.cutReady p = false) →
        m1.rowBusy ((a.zbase.toNat + m1.vec * ceilDiv (m1.active.outLen col) 512) % 256) (m1.active.outLen col) = false →
        let x2 := s1.takeVector p a (m1.active.epp col)
        x2.1 = .ok v → exec (.matrixVectorStart p) s = .next ((x2.2.enterVector p col a v).matrixSettle p)) ∧
      ((s.matrixSettle p).region p = r → r.matrix.current = some (col, a) → r.matrix.faulted = false → opBlocked r.matrix.channel = false →
        r.matrix.channel.any (fun e => e.step == r.matrix.step && e.cmd.isOp && e.started) = false →
        (s.matrixSettle p).beginHead p = (s.matrixSettle p).beginOp p col a) ∧
      (r.mode = .held ∨ r.moves = true → r.matrix.flight = w :: rest → w.advanced = true → (∀ q ∈ rest, q.advanced = true) → w.due ≤ s.tide →
        let t := (s.advanceVector p).finishVector p
        (t.region p).matrix.flight = rest ∧ (t.region p).matrix.acc = (r.matrix.store w.row w.vals).acc ∧ t.mem = s.mem ∧
        (r.succ ≠ some r.matrix.step → (t.region p).fpflags = r.fpflags ||| w.flags) ∧
        (r.succ = some r.matrix.step → (t.region p).succFlags = r.succFlags ||| w.flags) ∧
        (r.mode = .held → exec (.matrixVectorDone p) s = .next t)) ∧
      (r.moves = true → exec (.matrixVectorDone p) s =
        let q := (s.advanceVector p).finishVector p
        let f := Matrix.drainFabric (q.region p).matrix.drains [] (q.region p).matrix
        .next ((((q.setRegion p { q.region p with matrix := { f.2 with drains := f.1 } }).drainFront p).deliverMz p).matrixSettle p)) ∧
      (let s0 := s.matrixSettle p
        let m := (s0.region p).matrix
        s.matrixHeld p = false → m.channel.findIdx? (fun e => e.step == m.step && e.started && (match e.cmd with
          | .load _ _ _ _ _ _ _ => true
          | _ => false)) = some i →
        m.channel[i]? = some e → e.cmd = .load h slots bm pack wb tr tc → e.orgY = y → e.orgX = x → m.faulted = false →
        (m.channel.take i).any (fun e => e.cmd.names h) = false → m.holds h = false →
        let x1 := s0.handleNow p h (.waitFilled slots)
        x1.1 = .ok hd → let x2 := State.readTile p hd (tileSlots hd.lsz (tileBytes tr tc wb bm)) [] x1.2
        x2.1 = .ok bs → let x3 := x2.2.handleNow p h (.pop slots)
        x3.1 = .ok hd2 → let m3 := (x3.2.region p).matrix.setShadow (tileBank bs tr tc wb pack bm y x)
        exec (.mloadComplete p) s =
          .next ((x3.2.setRegion p { x3.2.region p with matrix := { m3 with channel := removeAt m3.channel i } }).matrixSettle p)) ∧
      (r.moves = true → r.matrixMayPass = true → r.matrixIdle = true → r.matrix.step = n →
        let recs := match r.steps.find? (fun z => z.num == n) with
          | some z => s.slotConf z
          | none => []
        exec (.matrixStepPass p) s =
          .next (((s.setRegion p { r with matrix := { r.matrix.startStep (n + 1) with
            owed := (r.matrix.startStep (n + 1)).owed ++ (confReadsMz recs).map (fun k => (k, eosToken)),
            maWait := (r.matrix.startStep (n + 1)).maWait ++ (confDrivesMa recs).filter fun k => !r.matrix.maEos.contains k } }).deliverMz
              p).matrixSettle p)) ∧
      (r.moves = true → r.matrix.current = none → ∃ t, exec (.matrixMarkerFiring p) s = .next t ∧ t.mem = s.mem ∧
        (t.region p).matrix.flight = r.matrix.flight ∧ (∀ q ∈ (t.region p).matrix.ma, q ∈ r.matrix.ma) ∧
        ∀ q ∈ r.matrix.ma, q ∈ (t.region p).matrix.ma ∨
          (Tbl.find r.matrix.ma q.1).map (·.kind) = some kMarker ∧ r.matrix.needsPort q.1 = false) ∧
      (r.moves = true → r.matrix.current = some (col, a) → a.asrc = false → a.dr ≠ .fabric → s.cutReady p = true → r.matrix.marked = false →
        r.matrix.flight = [] → r.matrix.drains = [] → r.matrix.ma = [] →
        exec (.matrixMarkerFiring p) s = .next ((s.setRegion p { r with matrix := { r.matrix with marked := true } }).deliverMz p))

/-- Elements, updates and acknowledgements are performed at their home. With the message of the event at its home, in this package: an element of one of its ports that writes through no graph, with no
update of its address under way, stores its value at its address and counts off at its port, and is acknowledged when its binding
is armed; one that reads brings the word at its address back to its port. With no debugger attached, an rmw update of a line that
is not poisoned stores old + value as f32, as integers, or the f32 maximum of the two, in one action, joins its flags to the
region's and counts off. An acknowledgement of a synchronisation word that its line gives unpoisoned, with a CNT and a TGT that
fit, adds a quarter of its bytes to CNT and tests the word. -/
def Obligations.WeirElements : Prop :=
  ∀ (s : State) (m p n k pa va i bytes : Nat) (vs : List Word) (v : Word) (ack : Option (Nat × Nat)) (clk : DWord) (op : CellOp) (ev : Instr) (again : Bool),
      let s0 := s.unpost m
      (isAway p = false → s.ready m = some (.weirElem p n k 0 pa va i vs ack clk false again) → s.updatePending pa = false → s.weirCtx k 0 = none →
        exec (.weirGraphElement m) s =
          .next ((({ s0 with mem := Memory.writeLE s.mem pa 4 (vs.headD 0).toNat } : State).elementDone p n).acknowledge p ack 4 clk)) ∧
      (isAway p = false → s.ready m = some (.weirElem p n k 0 pa va i vs ack clk true again) → s.updatePending pa = false → s.weirCtx k 0 = none →
        s.homePoisoned (lineOf pa) = false → exec (.weirGraphElement m) s =
          .next ((s0.pairRead p n pa).portGets p n i [{ kind := kData, payload := BitVec.ofNat 32 (Memory.readLE s.mem pa 4), cause := 0 }])) ∧
      ((ev, op) ∈ [(Instr.rmwFadd m, CellOp.rmwFadd), (.rmwIadd m, .rmwIadd), (.rmwFmax m, .rmwFmax)] →
        s.ready m = some (.rmw op p n k va pa v ack clk again) → s.homePoisoned (lineOf pa) = false → s.attach = [] →
        let old := Memory.readLE s.mem pa 4
        let new : Nat × Flags := match op with
          | .rmwFadd => fAdd fmtF32 .rne .ieee old v.toNat
          | .rmwFmax => fMax fmtF32 old v.toNat
          | _ => ((old + v.toNat) % 2 ^ 32, 0)
        exec ev s = .next ((((({ s0 with mem := Memory.writeLE s.mem pa 4 new.1 } : State).raiseFlags p 0 new.2).elementDone p n)).acknowledge
          p ack 4 clk)) ∧
      (s.ready m = some (.ack p va pa bytes clk) → s.elsewhere pa = false → s.attach = [] →
        let g := (s0.markHome (lineOf pa)).homeTake pa 8 clk
        g.2.2.1 = false → syncCnt g.1 + bytes / 4 < 2 ^ 24 → syncTgt g.1 < 2 ^ 24 →
        exec (.syncwAck m) s =
          .next (g.2.2.2.homeWrite pa 8 (syncTest (syncGen g.1) (syncTgt g.1) (syncCnt g.1 + bytes / 4)) g.2.1).2)

/-- Trains climb the rill, are applied and sealed, and generation words arrive. A train that reaches an empty adder node is held there for the node's window of main-clock cycles (log entry 61); one of the same
GEN8 as the train held merges into it, and one of another takes its place once the train held has gone to the root (log entry 26);
at the window's end the node passes its train to the die's root, and the root sends on a train whose window is over. A train that
reaches an allocated record that is not poisoned adds its histogram; with another generation's GEN8 it adds one to LATE, and with
the record's own it adds its saturations, and reaching SATTH from below sets RSC. The last marker of a seal at home seals the
record and sends its generation words. A generation word that arrives at a copy it is not older than replaces its GEN and SCALE,
and an older one changes nothing. -/
def Obligations.GaugeEvents : Prop :=
  ∀ (s : State) (m p k u id g g2 d j w1 : Nat) (ws ws0 : List Nat) (nd : RillNode) (t : RootTrain) (op : SealOp) (gen : Word) (sc : BitVec 8)
      (c : GenCopy),
      let s0 := s.unpost m
      let r := s.region p
      (s.ready m = some (.train (some (p, k)) u id g ws) → Tbl.find r.rill k = some nd →
        (nd.train = none → exec (.rillNodeTakeTrain m) s = .next (s0.setRegion p { r with
          rill := Tbl.put r.rill k { nd with train := some (g, ws), expiry := s.tide + cycles nd.grec.wait } })) ∧
        (nd.train = some (g, ws0) → exec (.rillNodeTakeTrain m) s =
          .next (s0.setRegion p { r with rill := Tbl.put r.rill k { nd with train := some (g, mergeTrains ws0 ws) } })) ∧
        (nd.train = some (g2, ws0) → g2 ≠ g → exec (.rillNodeTakeTrain m) s =
          let s1 := s0.nodeFlush p k
          .next (s1.setRegion p { s1.region p with
            rill := Tbl.put (s1.region p).rill k { nd with train := some (g, ws), expiry := s1.tide + cycles nd.grec.wait } }))) ∧
      (Tbl.find r.rill k = some nd → nd.train = some (g, ws) → nd.expiry ≤ s.tide → s.recordOf p nd.grec.decl = some id →
        exec (.rillWindowExpiry p k) s =
          .next ((s.setRegion p { r with rill := Tbl.put r.rill k { nd with train := none } }).rootTake (dieOfPlace p) id g ws)) ∧
      ((s.die d).rillRoot[j]? = some t → t.expiry ≤ s.tide → exec (.rillRootWindowExpiry d j) s =
        .next ((s.setDie d { s.die d with rillRoot := removeAt (s.die d).rillRoot j }).post (keyRoot d) (.train none 0 t.id t.gen8 t.words))) ∧
      (s.ready m = some (.train none u id g2 ws) → (s.record id).psn = false → (s.record id).alloc = true →
        ((s.record id).gen.toNat % 256 ≠ g2 → ∃ t, exec (.trainApply m) s = .next t ∧ t.mem = s.mem ∧
          (∀ i < 32, (t.record id).live.getD i 0 = satAdd32 ((halfWords (s.record id).live).getD i 0) (ws.getD i 0)) ∧
          (t.record id).live.getD 37 0 = satAdd32 ((halfWords (s.record id).live).getD 37 0) 1 ∧ (t.record id).sealed = (s.record id).sealed) ∧
        ((s.record id).gen.toNat % 256 = g2 → (s.record id).satth = 0 → ∃ t, exec (.trainApply m) s = .next t ∧ t.mem = s.mem ∧
          (∀ i < 32, (t.record id).live.getD i 0 = satAdd32 ((halfWords (s.record id).live).getD i 0) (ws.getD i 0)) ∧
          (t.record id).live.getD 37 0 = (halfWords (s.record id).live).getD 37 0 ∧ (t.record id).rsc = (s.record id).rsc ∧
          (t.record id).live.getD 38 0 = satAdd32 ((halfWords (s.record id).live).getD 38 0) (ws.getD 34 0) ∧
          (t.record id).gen = (s.record id).gen) ∧
        ((s.record id).gen.toNat % 256 = g2 → (s.record id).autoSeal = false → (s.record id).satth ≠ 0 →
          (halfWords (s.record id).live).getD 38 0 < (s.record id).satth.toNat →
          (s.record id).satth.toNat ≤ satAdd32 ((halfWords (s.record id).live).getD 38 0) (ws.getD 34 0) → ∃ t,
          exec (.trainApply m) s = .next t ∧ (t.record id).rsc = true ∧
          ∀ q ∈ s.copyHolders (s.record id).image, ∃ x ∈ t.net, x.body = .rescale q id)) ∧
      (s.ready m = some (.sealMark none w1) → Tbl.find s.seals (w1 / 2 ^ 40) = some op → op.marks.filter (· != w1 % 2 ^ 40) = [] →
        (s.record op.id).psn = false → exec (.sealAction m) s =
          .next ((({ s0 with seals := Tbl.put s.seals (w1 / 2 ^ 40) { op with marks := [] } } : State).sealNow op.id (some (w1 / 2 ^ 40))).sealAnswer
            (w1 / 2 ^ 40))) ∧
      (s.ready m = some (.genWord p id gen sc none) → Tbl.find r.gens id = some c →
        ((gen - c.gen).toNat < 2 ^ 31 → ∃ t, exec (.generationWordArrive m) s = .next t ∧
          (t.region p).genOf id = { gen := gen, scale := sc } ∧ (∀ q, q ≠ p → t.region q = s.region q) ∧ t.mem = s.mem) ∧
        (2 ^ 31 ≤ (gen - c.gen).toNat → exec (.generationWordArrive m) s = .next s0))

/-- Timers, waits and rescale events reach the sequencer, and a region drains, clears and is released. Once the tide has reached a non-zero timer of a live region, event 3 becomes pending, the timer returns to 0 and EV is set. Once
it has reached the value for which an active handler waits at a waitt, its sequencer issues next. A rescale event makes event 2
pending in a region that declares handler 2, and sets EV; in another region it enters a rescale fault, unless an entry of the same
record still stands. A draining region that has drained clears and writes back its dirty lines; once its write-backs are home and
nothing that it sent is on its way or stands in a train at one of its nodes, it retires, or first asks for what pools of other
packages and settled pools of its own still owe. When RETTO has passed since done it is cleared by force, FCLR counts one more,
elements that no array has reached are dropped, and the vectors that the matrix unit has begun are ended. Once every region of an
index with a chained successor has retired and what it inherits has been released, the successor's index is placed in the same
rectangle (that it waits for the whole index is log entry 32). -/
def Obligations.SequencerAndRetiring : Prop :=
  (∀ (s : State) (m p k id : Nat) (w : Word) (ra : Reg),
       let r := s.region p
       (r.timer ≠ 0 → r.timer.toNat ≤ s.tide / 8000 % 2 ^ 64 → r.modeUnder.live = true →
         exec (.timerExpiry p) s = .next (s.setRegion p { r with timer := 0, timerEv := true, ev := true })) ∧
       ((r.handler k).st = .active → s.fetch p k (r.handler k).ia = some w → decodeConduct w.toNat = .ok (.waitt ra) →
         (r.get ra).toNat ≤ s.tide / 8000 % 2 ^ 64 → exec (.waittExpiry p k) s = .next { s with agenda := .issue p :: s.agenda }) ∧
       (s.ready m = some (.rescale p id) → r.mode ≠ .free →
         ((r.handler 2).decl = true → exec (.rescaleEventArrive m) s =
           .next ((s.unpost m).setRegion p { r with rescale := true, ev := r.ev || !r.rescale })) ∧
         ((r.handler 2).decl = false →
           let stands := r.faults.any fun w => faultField w 56 8 == Cause.rescale.code && faultField w 96 32 == id % 2 ^ 32
           exec (.rescaleEventArrive m) s = .next (if stands then s.unpost m else (s.unpost m).weirFault p (id / 2 ^ 16) 0 .rescale id)))) ∧
  (∀ (s : State) (p : Nat) (i : Instance) (l : Launch),
       let d := dieOfPlace p
       let r := s.region p
       let x := s.die d
       (r.mode = .draining → r.stage = 2 → s.drained p = true → exec (.retireClear p) s = .next (s.clearRegion p)) ∧
       (r.mode = .draining → r.stage ≠ 2 → r.wbOut = 0 → s.inFlight p = false → s.trainsHeld p = false → exec (.retireClear p) s =
         .next (if (s.heldAway p).isEmpty && (s.toSettle p).isEmpty then s.retire p else s.askReleases p)) ∧
       (r.mode = .draining → r.stage = 2 → x.retTo ≠ 0 → r.doneAt + 8000000 * x.retTo.toNat ≤ s.tide →
         exec (.forcedClear p) s = .next ((((s.setDie d { x with fclr := x.fclr + 1 }).dropElements p).unitEnds p).clearRegion p)) ∧
       (r.mode = .retired → Tbl.find x.insts r.inst = some i → i.places.length ≤ i.retired.length → (x.preempt.map (·.inst)) ≠ some r.inst →
         Tbl.find x.launches i.launch = some l → l.isOver = false → l.chain.contains i.index = true → (i.places.any fun q => s.inheritWaits q) = false →
         exec (.successorStart p) s = .next (((s.setDie d { x with
             insts := Tbl.drop x.insts r.inst,
             launches := Tbl.put x.launches i.launch { l with chain := l.chain.filter (· != i.index) } }).dropAttach d r.inst).placeAt d i.launch i.index
           (i.places.headD 0 % 64) (i.places.map (· % 64)))))

/-- Pre-emptions begin, take their three forms, and resume; a snap's cut closes or freezes. A request that names a placed instance, while no other is under way, starts its pre-emption, as AUTOP does for the instance placed
last in the way of an anchored launch of class 3. A region at a splice point whose steps have torn down is saved there. At SPLTO
markers enter the instance's other regions. A closed cut is saved, for a snap or a pre-emption; at SNAPTO after that a region that
stands at no splice point freezes, and one frozen under a snap, once all that it has sent is performed and its dirty lines are
home, saves as it stands and resumes in place. A pre-empted instance whose placement is the next in the service order resumes on
its rectangle. -/
def Obligations.PreemptionEvents : Prop :=
  ∀ (s : State) (d p iid u o : Nat) (v : BitVec 64) (i : Instance) (l : Launch) (w : Preempt) (tried rect : List Nat) (op : SnapOp)
      (named : Nat × Instance → Bool) (e : Nat × Launch),
      let x := s.die d
      let r := s.region p
      (named = (fun e => e.2.placed && e.2.index == fld v.toNat 48 12 && (match x.launchRecOf e.2 with
          | some l => l.recd.job == fld v.toNat 0 32 && l.recd.asid.toNat == fld v.toNat 32 16 && !l.recd.sys
          | none => false)) →
        x.busy = false → v.toNat < 2 ^ 60 → x.insts.find? named = some (iid, i) → exec (.preemptRequest d v) s = .next (s.startPreempt d iid i)) ∧
      (x.autop = true → x.busy = false → x.order.find? (fun e => e.2.anchored && e.2.cls == 3) = some e →
        s.firstFit d e.1 e.2 (s.couldFree d) = some (o, rect) → (iid, i) ∈ s.inTheWay d rect →
        (∀ f ∈ s.inTheWay d rect, f ≠ (iid, i) → f.2.stamp < i.stamp) →
        exec (.autoPreempt d) s = .next (s.startPreempt d iid i)) ∧
      (s.saving p = some w → r.modeUnder = .running → r.mode = .running → r.atSplice = true → s.tornAll p = true →
        exec (.splicePointSave p) s = .next (s.saveWhenSettled p 0)) ∧
      (x.preempt = some w → Tbl.find x.insts w.inst = some i → w.start + w.splTo ≤ s.tide → 
        let ps := i.places.filter fun q => decide (q < 256) && (s.region q).inst == w.inst &&
          ((s.region q).modeUnder.live || (s.region q).modeUnder == .draining) && !(s.region q).atSplice && !w.marked.contains q
        ps ≠ [] → exec (.preemptMarkerInject d) s = .next (s.setDie d { x with preempt := some { w with marked := w.marked ++ ps } })) ∧
      (r.moves = true → s.cutReady p = true → r.marksTaken = true →
        (r.sif.snap = some op → exec (.cutClose p) s = .next (s.snapSave p op 1)) ∧
        (r.sif.snap = none → s.saving p = some w → r.mode ≠ .stopped → r.latchesClosed = true →
          exec (.cutClose p) s = .next ((s.endRegionTiles p).saveWhenSettled p 1))) ∧
      (s.saving p = some w → r.modeUnder = .running → (∀ op, r.sif.snap = some op → op.frozen = false) →
        r.atSplice = false → w.start + w.splTo + w.snapTo ≤ s.tide → ∃ t, exec (.freeze p) s = .next t ∧ (t.region p).mode = .frozen) ∧
      (s.saving p = none → r.sif.snap = some op →
        (op.frozen = false → r.moves = true → op.since + 8000000 * (s.die (dieOfPlace p)).snapTo.toNat ≤ s.tide →
          ∃ t, exec (.freeze p) s = .next t ∧ (t.region p).mode = .frozen ∧ (t.region p).sif.snap = some { op with frozen := true }) ∧
        (op.frozen = true → r.mode = .frozen → (∀ l ∈ r.stash, l.dirty = false) → s.settled p = true →
          exec (.freeze p) s = .next ((s.snapSave p op 2).thaw p))) ∧
      (s.nextPlacement d x.allowed [] = some (u, l, tried, o, rect) → l.resume = some iid → Tbl.find x.insts iid = some i →
        (s.wakeClusters d rect).1 = true →
        let s2 := (s.wakeClusters d rect).2.markPlaced d u tried
        let y : Die := { s2.die d with launches := Tbl.drop (s2.die d).launches u }
        exec (.preemptResume d) s = .next ((s2.setDie d y.turns).resumeInstance d iid i rect))

/-- Clusters gate and return, and domain clocks move by one step. A cluster that is on, whose four regions have been free for GATEDLY and which holds no home basin, enters gating, for 8 us; an
entry that is due leaves it gated, and an exit that is due leaves it on. A domain entry whose write is not refused takes EN, FCODE
and its rectangle and clears ERR; a refused one sets ERR and takes nothing else. At its time FCUR moves one step toward FCODE, and
another step follows 2 us later while the two differ. Nothing outside the die's record changes. -/
def Obligations.PowerEvents : Prop :=
  ∀ (s : State) (d c j due t f : Nat) (v : BitVec 64),
      let x := s.die d
      let k := x.cluster c
      let o := x.domain j
      (c < 16 → k.power = .on → x.gateDly ≠ 0 → (∀ n ∈ regionsOfCluster c, s.regionFree d n = true) → s.basinIn d c = false →
        k.freeFrom + 8000000 * x.gateDly.toNat ≤ s.tide →
        exec (.clusterGate d c) s = .next (s.setDie d (x.setCluster c { k with power := .entering (s.tide + 64000000) }))) ∧
      (k.power = .entering due → due ≤ s.tide → exec (.clusterGateEntryComplete d c) s = .next (s.setDie d (x.setCluster c { k with power := .gated }))) ∧
      (k.power = .leaving due → due ≤ s.tide →
        exec (.clusterExitComplete d c) s = .next (s.setDie d (x.setCluster c { power := .on, freeFrom := s.tide }))) ∧
      (j < 8 → s.domainRefused d j v.toNat = true → exec (.domainEntryWrite d j v) s = .next (s.setDie d (x.setDomain j { o with err := true }))) ∧
      (j < 8 → s.domainRefused d j v.toNat = false → ∃ y, exec (.domainEntryWrite d j v) s = .next (s.setDie d (x.setDomain j y)) ∧
        y.en = bit v.toNat 31 ∧ y.err = false ∧ y.fcode = fld v.toNat 12 4 ∧ y.fcur = o.fcur ∧ y.ch = fld v.toNat 6 2 ∧ y.cw = fld v.toNat 4 2 ∧
        y.cy = fld v.toNat 2 2 ∧ y.cx = fld v.toNat 0 2) ∧
      (o.stepAt = some t → t ≤ s.tide → o.fcur ≠ o.fcode → f = (if o.fcur < o.fcode then o.fcur + 1 else o.fcur - 1) →
        exec (.domainClockStep d j) s = .next (s.setDie d (x.setDomain j { o with fcur := f, stepAt := if f = o.fcode then none else some (t + 16000000) })))

/-- Starts run their stages, and the host reads and writes device memory once the device runs. Power-on of a machine that is STARTING runs a cold start over the firmware's image; a cold start of a machine that has started
runs all stages, and a warm start runs warm when a record is saved. A start in which no stage fails ends in RUN at stage 7 with
every device byte read as zero, every course and job gone and PCIe-visible registers at reset; one in which a stage fails ends in
recovery with that stage in FAIL. In RUN a host store of bytes within one line writes exactly them, after the owner has been
recalled, and a host load recalls each line's owner, which keeps a lease, and brings the bytes that the homes then hold, or poison
where a line of them is poisoned. Outside RUN a load completes with poison and a store is dropped. What a start finds again, the
image, the routes and the domain among it, is log entry 47 (DEDUCED); the stop of a range that leaves the package's device memory,
with the host-address fault, is the model's choice (log entry 58). -/
def Obligations.StartsAndHostAccesses : Prop :=
  ∀ (s : State) (a n : Nat) (bytes : List Byte) (warm : Bool),
      let pa := s.well.pkg * 2 ^ 39 + a
      (s.boot.st = 0 → exec .powerOn s =
        .next (({ s with fw := { s.fw with image := Config.firmwareImage 3 s.fw.starts } } : State).start false)) ∧
      (s.boot.st ≠ 0 → exec .coldStart s = .next (s.start false) ∧ exec .warmStart s = .next (s.start s.fw.saved)) ∧
      (s.stopped.failedStage warm = 0 → (s.start warm).boot = { stage := 7, warm := warm, fail := 0, st := 1 } ∧
        (s.start warm).regions = [] ∧ (s.start warm).dies = [] ∧ (s.start warm).net = [] ∧ (s.start warm).tide = s.tide ∧
        (∀ c ∈ (s.start warm).mem, s.deviceMemory c.1 = false)) ∧
      (s.stopped.failedStage warm ≠ 0 → (s.start warm).boot = { stage := s.stopped.failedStage warm, warm := warm, fail := s.stopped.failedStage warm, st := 2 } ∧
        (s.start warm).mem = s.mem) ∧
      (s.boot.st = 1 → a + n ≤ 2 ^ 39 →
        let s1 := (linesOf pa n).foldl (fun s l => s.recallNow l false) s
        exec (.hostMemLoad a n) s =
          .next (s1.hostGets (if (linesOf pa n).any s1.homePoisoned then none else some (Memory.bytes s1.mem pa n)))) ∧
      (s.boot.st ≠ 1 → a + n ≤ 2 ^ 39 → exec (.hostMemLoad a n) s = .next (s.hostGets none)) ∧
      (s.boot.st ≠ 1 → a + bytes.length ≤ 2 ^ 39 → exec (.hostMemStore a bytes) s = .next s) ∧
      (s.boot.st = 1 → a + bytes.length ≤ 2 ^ 39 → pa < 2 ^ 57 → bytes ≠ [] → a % 64 + bytes.length ≤ 64 → ∃ t, exec (.hostMemStore a bytes) s = .next t ∧
        t.mem = Memory.writeLE (s.recallNow (lineOf pa) true).mem pa bytes.length (leValue bytes)) ∧
      (2 ^ 39 < a + n → exec (.hostMemLoad a n) s = .fault .hostAddress) ∧
      (2 ^ 39 < a + bytes.length → exec (.hostMemStore a bytes) s = .fault .hostAddress)

/-- The requests of the root mailbox. In RUN with no request being served (the states in which the model serves them are log entry 47): ASID_LIVE of a free ASID below
2^16 with a page-aligned root below 2^52 makes it LIVE at that root; ASID_RELEASE makes a LIVE one RETIRING; ASID_DEBUG sets or
clears DBG of a LIVE one; each ends with RES 0, and with RES 1 when the ASID is in another state. INVALIDATE drops the matching
entries on each die of its mask, is busy until every one has completed, and RES is written then. A RETIRING ASID of which nothing
remains, and whose own invalidations have completed, becomes FREE; an invalidation first has the copies of its pages written back
and dropped, and completes once the accesses translated before it have been performed and those write-backs are home (log entry
65). Under the same condition GROUP installs the 1,024 bits that stand at its address; CHANNEL gives a free channel to an ASID, or
frees an owned one, when no chmap subscribes it, and the channel is then empty (log entry 47); QUEUE_PRIVILEGE sets PRIV of a
queue; SAVE_AREA sets SAVEBASE and SAVEN of a die none of whose slots is in use, to a 2 MiB aligned base on the die's own memory;
each ends with RES 0. An image that does not pass its check leaves MANAGEMENT_IMAGE with RES 3, and one that does replaces the
image and starts the device, warm when a record is saved. -/
def Obligations.MailboxRequests : Prop :=
  (∀ (s : State) (a root n j : Nat) (x : Invalidation),
       let w (k : Nat) : DWord := BitVec.ofNat 64 k
       let e := s.asidOf a
       (s.boot.st = 1 → s.fw.root.busy = false → a < 2 ^ 16 →
         (e.st = .free → root % 4096 = 0 → root < 2 ^ 52 → exec (.asidLive (w a) (w root)) s =
           .next ((s.setAsid a { root := root, dbg := false, st := .live }).rootDone 0x01 [w a, w root] 0)) ∧
         (e.st ≠ .free → root % 4096 = 0 → root < 2 ^ 52 → exec (.asidLive (w a) (w root)) s = .next (s.rootDone 0x01 [w a, w root] 1)) ∧
         (e.st = .live → exec (.asidRelease (w a)) s = .next ((s.setAsid a { e with st := .retiring }).rootDone 0x02 [w a] 0)) ∧
         (e.st ≠ .live → exec (.asidRelease (w a)) s = .next (s.rootDone 0x02 [w a] 1)) ∧
         (e.st = .live → exec (.asidDebug (w (a + 2 ^ 16))) s = .next ((s.setAsid a { e with dbg := true }).rootDone 0x09 [w (a + 2 ^ 16)] 0)) ∧
         (e.st = .live → (∀ y ∈ s.attach, y.2.asid.toNat ≠ a) →
           exec (.asidDebug (w a)) s = .next ((s.setAsid a { e with dbg := false }).rootDone 0x09 [w a] 0))) ∧
       (s.boot.st = 1 → s.fw.root.busy = false → n < 2 ^ 27 → root < 2 ^ 57 → ∃ t, exec (.invalidate (w n) (w root)) s = .next t ∧
         t.fw.root.busy = ((List.range 4).any fun d => n.testBit (16 + d)) ∧ t.mem = s.mem ∧ (t.fw.root.busy = true → t.fw.root.res = s.fw.root.res) ∧
         t.invals.length = s.invals.length + ((List.range 4).filter fun d => n.testBit (16 + d)).length) ∧
       (a < 2 ^ 16 → e.st = .retiring → s.asidRemains (BitVec.ofNat 16 a) = false → (∃ y ∈ s.invals, y.2.whole = true ∧ y.2.asid = BitVec.ofNat 16 a) →
         (∀ y ∈ s.invals, y.2.whole = true → y.2.asid = BitVec.ofNat 16 a → y.2.done = true) →
         ∃ t, exec (.asidFree a) s = .next t ∧ (t.asidOf a).st = .free ∧ (t.asidOf a).root = e.root ∧ ∀ b, b ≠ a → t.asidOf b = s.asidOf b) ∧
       (Tbl.find s.invals j = some x → x.done = false → s.translatedPending x = false →
         (s.holding x ≠ [] → exec (.invalidationComplete j) s = .next ((s.holding x).foldl (fun s e => s.dropPages x e.1) s)) ∧
         (s.holding x = [] → s.writingBack x = false →
           (x.whole = true → exec (.invalidationComplete j) s = .next { s with invals := Tbl.put s.invals j { x with done := true } }) ∧
           (x.whole = false → let left := Tbl.drop s.invals j
             (left.any (fun e => !e.2.whole) = true → exec (.invalidationComplete j) s = .next { s with invals := left }) ∧
             (left.any (fun e => !e.2.whole) = false → s.fw.root.busy = true → exec (.invalidationComplete j) s =
               .next { s with invals := left, fw := { s.fw with root := { s.fw.root with busy := false, res := 0 } } }))))) ∧
  (∀ (s : State) (g base n d ch q k asid : Nat),
       let w (k : Nat) : DWord := BitVec.ofNat 64 k
       let x := s.die d
       s.boot.st = 1 → s.fw.root.busy = false → base < 2 ^ 52 → d < 4 →
       (g < 2 ^ 10 → exec (.group (w g) (w base)) s =
         let t := (s.rootRead base 128).2
         .next (({ t with well := { t.well with groups := Tbl.put t.well.groups g (BitVec.ofNat 1024 (leValue (s.rootRead base 128).1)) } } : State).rootDone
           0x04 [w g, w base] 0)) ∧
       (ch < 2 ^ 8 → asid < 2 ^ 16 → (x.chan ch).sub = none →
         ((x.chan ch).owner = none → exec (.channel (w (d + 4 * ch + 2 ^ 10 * asid))) s =
           .next ((s.setDie d (x.setChan ch { owner := some (BitVec.ofNat 16 asid), words := [], sub := none, kept := (x.chan ch).kept })).rootDone 0x05
             [w (d + 4 * ch + 2 ^ 10 * asid)] 0)) ∧
         ((x.chan ch).owner ≠ none → exec (.channel (w (d + 4 * ch + 2 ^ 26))) s =
           .next ((s.setDie d (x.setChan ch { owner := none, words := [], sub := none, kept := (x.chan ch).kept })).rootDone 0x05 [w (d + 4 * ch + 2 ^ 26)] 0))) ∧
       (q < 32 → exec (.queuePrivilege (w (d + 4 * q + 2 ^ 7))) s =
         .next ((s.setDie d (x.setQueue q { x.queue q with priv := true })).rootDone 0x06 [w (d + 4 * q + 2 ^ 7)] 0)) ∧
       (k ≤ 4096 → base % 2 ^ 21 = 0 → s.deviceMemory base = true → dieOf base = d → paOk base = true → x.slotsUsed = [] →
         exec (.saveArea (w (d + 4 * k)) (w base)) s =
           .next (((s.setDie d { x with saveBase := base, saveN := k }).startWaiting d).rootDone 0x07 [w (d + 4 * k), w base] 0)) ∧
       (n ≤ 2 ^ 26 → exec (.managementImage (w base) (w n)) s =
         let bs := (s.rootRead base n).1
         let t := (s.rootRead base n).2
         .next (if signatureOk bs = true
           then ({ t with fw := { t.fw with image := bs, verified := some (sha512 bs) } } : State).start t.fw.saved
           else s.rootDone 0x08 [w base, w n] 3)))

/-- The debug requests of the management mailbox. In RUN, for the regions that a place names among those of the attachments whose ASID has DBG: a breakpoint of a kind arms one free
comparator of each, in the model the lowest free (log entry 7), and one that is armed is dropped; a stop holds them, and a resume
lets those go on that stand still, one of whose handlers does, or that have halted; a read of a gauge record of the ASID of the
first of them writes its image to host memory. A trace and the end of a trace act on the attachment made last, under DBG: a trace
takes the lowest free of 16 indices, and one that stands is dropped (both the model's choice, log entry 7). A detach ends its
attachment. In RUN an attach request whose job, ASID and index name an instance that no attachment names, under an ASID with DBG,
with a page-aligned ring of 1 to 4,096 units, makes an attachment to it whose producer index and dropped count are 0, in the
machine and in the ring's header, and ends with RES 0. -/
def Obligations.DebugRequests : Prop :=
  (∀ (s : State) (a place kind k : Nat) (x : Attachment) (w1 w2 w3 w4 : DWord),
       let named := s.allNamed place
       let n := w1.toNat
       s.boot.st = 1 → s.attached = some (a, x) → Tbl.find s.attach a = some x →
       (n < 2 ^ 14 → named ≠ [] → fld n 4 10 = place →
         (n % 16 = kind → breakOk kind w2.toNat = true → (∀ p ∈ named, (s.region p).freeComparator ≠ none) → ∃ t,
           exec (.breakArm w1 w2) s = .next (t.mgmtDone 0x03 [w1, w2] 0) ∧ t.mem = s.mem ∧
           t = named.foldl (fun s p => match (s.region p).freeComparator with
             | some k => s.setRegion p { s.region p with comps := Tbl.put (s.region p).comps k { kind := kind, w2 := w2, hits := 0 } }
             | none => s) s) ∧
         (n % 16 = k → k < 4 → (∃ p ∈ named, Tbl.find (s.region p).comps k ≠ none) → exec (.breakDisarm w1) s =
           .next ((named.foldl (fun s p => s.setRegion p { s.region p with comps := Tbl.drop (s.region p).comps k }) s).mgmtDone 0x04 [w1] 0)) ∧
         (n % 16 = 0 → exec (.debugStop w1) s = .next ((named.foldl (fun s p => s.setRegion p (s.region p).hold) s).mgmtDone 0x05 [w1] 0)) ∧
         (n % 16 = 0 → (∃ p ∈ named, (s.region p).mode = .held ∨ (s.region p).mode = .halted ∨ (s.region p).stops ≠ []) → exec (.debugResume w1) s =
           .next (((named.filter fun p => (s.region p).standsStill).foldl State.letGo s).mgmtDone 0x06 [w1] 0))) ∧
       (n < 2 ^ 16 → named ≠ [] → n % 16 = 0 → fld n 4 10 = place → fld n 14 2 = 1 → w3.toNat + w4.toNat ≤ 2 ^ 51 → w2.toNat < 2 ^ 20 →
         (s.record w2.toNat).alloc = true → (s.record w2.toNat).asid = (s.region (named.headD 0)).asid → exec (.debugRead w1 w2 w3 w4) s =
           .next ((s.toHost w3.toNat ((s.record w2.toNat).image512.take w4.toNat)).mgmtDone 0x07 [w1, w2, w3, w4] 0)) ∧
       ((s.asidOf x.asid.toNat).dbg = true → n ≤ 3 → k < 16 → (∀ i < k, Tbl.find x.traces i ≠ none) → Tbl.find x.traces k = none → exec (.debugTrace w1 w2 w3) s =
         .next (({ s with attach := Tbl.put s.attach a { x with traces := Tbl.put x.traces k { kind := n, obj := w2, len := w3 } } } : State).mgmtDone
           0x08 [w1, w2, w3] 0)) ∧
       ((s.asidOf x.asid.toNat).dbg = true → n < 16 → Tbl.find x.traces n ≠ none → exec (.debugUntrace w1) s =
         .next (({ s with attach := Tbl.put s.attach a { x with traces := Tbl.drop x.traces n } } : State).mgmtDone 0x09 [w1] 0)) ∧
       exec (.detach a) s = .next ((s.detachNow a x).mgmtDone 0x02 [] 0)) ∧
  (∀ (s : State) (w1 w2 w3 : DWord) (found : List (Nat × Nat)),
       let n := w1.toNat
       let asid : BitVec 16 := BitVec.ofNat 16 (fld n 32 16)
       found = ((List.range 4).flatMap fun d => ((s.die d).insts.filter fun e => e.2.index == fld n 48 12 && (match (s.die d).launchRecOf e.2 with
         | some l => l.recd.job == fld n 0 32 && l.recd.asid == asid
         | none => false)).map fun e => (d, e.1)) →
       s.boot.st = 1 → fld n 60 4 = 0 → w2.toNat % 4096 = 0 → w2.toNat < 2 ^ 51 → 1 ≤ w3.toNat → w3.toNat ≤ 4096 → found ≠ [] →
       (s.asidOf asid.toNat).dbg = true → (∀ e ∈ s.attach, ∀ i ∈ e.2.insts, i ∉ found) → ∃ t, exec (.attach w1 w2 w3) s = .next t ∧
         t.attach = Tbl.put s.attach (Tbl.nextKey s.attach)
           { insts := found, asid := asid, base := w2.toNat, size := w3.toNat, prod := 0, dropped := 0, traces := [] } ∧
         t.mem = Memory.writeLE (Memory.writeLE s.mem (2 ^ 51 + w2.toNat) 4 0) (2 ^ 51 + w2.toNat + 8) 4 0 ∧ t.fw.mgmt.res = 0)

/-- The responder answers each attestation request, and a soft error marks where it is found. In RUN each attestation request appends one response and changes nothing else but the record of the negotiation: the version and
the capabilities at any time, the one algorithm set where the requester offers it and an error where not, digests, the chosen part
of the certificate chain of slot 0, the answer to a challenge and the measurement blocks once the algorithms have been negotiated,
and an error response when they have not (its codes and this order are PRESUMED, log entry 6). An uncorrectable error marks the
line at its home, the line of a stash, the accumulator row (log entry 62), the lane, the home basin or the record in which it is
found; in a cell's word it faults the cell, in a sequencer it stops the region. -/
def Obligations.AttestationAndErrors : Prop :=
  ∀ (s : State) (l p c i off len slot index : Nat) (nonce : List Byte) (signed : Bool),
      let answers (code : Nat) (body : List Byte) : Out := .next { s with fw := { s.fw with spdm := s.fw.spdm ++ [(code, body)] } }
      let x := s.cell p c
      (s.boot.st = 1 →
        exec .getVersion s = answers 0x04 (Config.spdmBody 0x84 []) ∧ exec .getCapabilities s = answers 0x61 (Config.spdmBody 0xE1 []) ∧
        (bit s.fw.offer.1 5 = true → bit s.fw.offer.2 2 = true → exec .negotiateAlgorithms s = .next { s with fw := { s.fw with
          negotiated := true, spdm := s.fw.spdm ++ [(0x63, leBytes 4 (2 ^ 5) ++ leBytes 4 (2 ^ 2) ++ Config.spdmBody 0xE3 [])] } }) ∧
        ((bit s.fw.offer.1 5 && bit s.fw.offer.2 2) = false → exec .negotiateAlgorithms s = answers 0x7F []) ∧
        (s.fw.negotiated = true →
          exec .getDigests s = answers 0x01 (leBytes 64 (sha512 Config.certificateChain).toNat) ∧
          exec (.getCertificate 0 off len) s = answers 0x02 ((Config.certificateChain.drop off).take len) ∧
          exec (.challenge 0 nonce) s = answers 0x03 (Config.spdmBody 0x83 nonce ++ Config.signature (Config.spdmBody 0x83 nonce ++ nonce)) ∧
          (1 ≤ index → index ≤ 4 →
            let b := leBytes 64 (s.fw.log.getD (index - 1) 0).toNat
            exec (.getMeasurements index signed nonce) s = answers 0x60 (if signed then b ++ Config.signature (b ++ nonce) else b))) ∧
        (s.fw.negotiated = false → ∀ q ∈ [Instr.getDigests, .getCertificate slot off len, .challenge slot nonce, .getMeasurements index signed nonce],
          exec q s = answers 0x7F [])) ∧
      (∃ t, exec (.softErrorDetect (.home l)) s = .next t ∧ t.homePoisoned l = true ∧ t.mem = s.mem ∧ t.regions = s.regions) ∧
      (∃ t, exec (.softErrorDetect (.stash p l)) s = .next t ∧ (∀ y ∈ (t.region p).stash, y.line = l → y.poison = true) ∧ t.mem = s.mem) ∧
      (∃ t, exec (.softErrorDetect (.accRow p i)) s = .next t ∧ (t.region p).matrix.accBad.contains (i % 256) = true ∧ t.mem = s.mem) ∧
      (∀ ln, s.lanes[i]? = some ln → ∃ t, exec (.softErrorDetect (.lane i)) s = .next t ∧ t.lanes[i]? = some (ln.poisonWith 4) ∧
        (∀ j, j ≠ i → t.lanes[j]? = s.lanes[j]?) ∧ t.mem = s.mem ∧ t.regions = s.regions) ∧
      (∀ b, s.basins[i]? = some b → ∃ t, exec (.softErrorDetect (.homeBasin i)) s = .next t ∧ t.basins[i]? = some { b with hpsn := true } ∧
        (∀ j, j ≠ i → t.basins[j]? = s.basins[j]?) ∧ t.mem = s.mem ∧ t.lanes = s.lanes) ∧
      exec (.softErrorDetect (.record i)) s = .next (s.setRecord i { s.record i with psn := true }) ∧
      (c < 512 → Tbl.find (s.region p).cells c = some x → x.word ≠ none → exec (.softErrorDetect (.cellWord p c)) s = .next ((s.setCell p c x).cellFault p c .soft 1 0 0 none)) ∧
      exec (.softErrorDetect (.sequencer p)) s = .next ((s.unitFault p .soft 0 0 2 0 0 none 0).stopRegion p)
end

