-- ==== Sys2Proof/Laws/Memory.lean ====
section
/-! SUPPORT. Memory as bytes: reading after writing, and the canonical form that every memory operation keeps. -/
namespace Sys2Proof.Machine

/-! ### The canonical form -/

theorem Memory.wf_tail {e : Host.Cell} {t : List Host.Cell} (h : Memory.wf (e :: t) = true) : Memory.wf t = true := by
  cases t with
  | nil => rfl
  | cons f u => obtain ⟨a, v⟩ := e; obtain ⟨b, w⟩ := f; simp [Memory.wf] at h; exact h.2

theorem Memory.wf_cons (a : Nat) (v : Byte) (t : List Host.Cell) :
    Memory.wf ((a, v) :: t) = true ↔ v ≠ Memory.unlisted ∧ Memory.wf t = true ∧ ∀ e, t.head? = some e → a < e.1 := by
  cases t with
  | nil => simp [Memory.wf]
  | cons f u =>
    obtain ⟨b, w⟩ := f
    simp only [Memory.wf, Bool.and_eq_true, decide_eq_true_eq, bne_iff_ne, List.head?_cons, Option.some.injEq, forall_eq']
    constructor
    · rintro ⟨⟨h1, h2⟩, h3⟩; exact ⟨h2, h3, h1⟩
    · rintro ⟨h2, h3, h1⟩; exact ⟨⟨h1, h2⟩, h3⟩

/-- The head of a memory after a write stands no lower than the lower of the old head and the address written. -/
theorem Memory.head_write (m : List Host.Cell) (a : Nat) (b : Byte) (n : Nat) (hn : n < a)
    (h : ∀ e, m.head? = some e → n < e.1) (hw : Memory.wf m = true) : ∀ e, (Memory.write m a b).head? = some e → n < e.1 := by
  cases m with
  | nil => simp only [Memory.write]; split <;> simp; exact hn
  | cons f u =>
    obtain ⟨k, v⟩ := f
    have hk : n < k := h (k, v) rfl
    rw [Memory.wf_cons] at hw
    simp only [Memory.write]
    split
    · split
      · intro e he; exact Nat.lt_trans hk (hw.2.2 e he)
      · simp; exact hn
    · split
      · split
        · exact h
        · simp; exact hn
      · simp; exact hk

@[simp] theorem Memory.wf_write (m : List Host.Cell) (a : Nat) (b : Byte) (h : Memory.wf m = true) : Memory.wf (Memory.write m a b) = true := by
  induction m with
  | nil => simp only [Memory.write]; split <;> simp_all [Memory.wf]
  | cons f u ih =>
    obtain ⟨k, v⟩ := f
    have hw := (Memory.wf_cons k v u).1 h
    simp only [Memory.write]
    split
    · next hk =>
      split
      · exact hw.2.1
      · next hb => exact (Memory.wf_cons _ _ _).2 ⟨hb, hw.2.1, hk ▸ hw.2.2⟩
    · split
      · next hlt =>
        split
        · exact h
        · next hb => exact (Memory.wf_cons _ _ _).2 ⟨hb, h, by simpa using hlt⟩
      · next hne hge =>
        exact (Memory.wf_cons _ _ _).2 ⟨hw.1, ih hw.2.1, Memory.head_write u a b k (by omega) hw.2.2 hw.2.1⟩

@[simp] theorem Memory.wf_writeLE (n : Nat) : ∀ (m : List Host.Cell) (a v : Nat), Memory.wf m = true → Memory.wf (Memory.writeLE m a n v) = true := by
  induction n with
  | zero => intro m a v h; exact h
  | succ n ih => intro m a v h; exact ih _ _ _ (Memory.wf_write _ _ _ h)

@[simp] theorem Memory.wf_writeBytes (bs : List Byte) : ∀ (m : List Host.Cell) (a : Nat), Memory.wf m = true →
    Memory.wf (Memory.writeBytes m a bs) = true := by
  induction bs with
  | nil => intro m a h; exact h
  | cons b t ih => intro m a h; exact ih _ _ (Memory.wf_write _ _ _ h)

@[simp] theorem Memory.wf_filter (f : Host.Cell → Bool) (m : List Host.Cell) (h : Memory.wf m = true) : Memory.wf (m.filter f) = true := by
  have low : ∀ (m : List Host.Cell) (n : Nat), Memory.wf m = true → (∀ e, m.head? = some e → n < e.1) →
      ∀ e, (m.filter f).head? = some e → n < e.1 := by
    intro m
    induction m with
    | nil => simp
    | cons x u ih =>
      intro n hw hn e
      obtain ⟨k, v⟩ := x
      have h2 := (Memory.wf_cons k v u).1 hw
      have hk : n < k := hn (k, v) rfl
      by_cases hf : f (k, v) = true
      · simp only [List.filter_cons, hf, if_true, List.head?_cons, Option.some.injEq]; rintro rfl; exact hk
      · simp only [List.filter_cons, hf]; exact ih n h2.2.1 (fun e he => Nat.lt_trans hk (h2.2.2 e he)) e
  induction m with
  | nil => rfl
  | cons x u ih =>
    obtain ⟨k, v⟩ := x
    have h2 := (Memory.wf_cons k v u).1 h
    by_cases hf : f (k, v) = true
    · simp only [List.filter_cons, hf, if_true]
      exact (Memory.wf_cons _ _ _).2 ⟨h2.1, ih h2.2.1, low u k h2.2.1 h2.2.2⟩
    · simp only [List.filter_cons, hf]; exact ih h2.2.1

/-! ### Reading after writing -/

theorem Memory.read_low (m : List Host.Cell) (a : Nat) (h : ∀ e, m.head? = some e → a < e.1) : Memory.read m a = Memory.unlisted := by
  cases m with
  | nil => rfl
  | cons e t =>
    obtain ⟨k, v⟩ := e
    have : a < k := h (k, v) rfl
    simp [Memory.read, this, Nat.ne_of_gt this]

theorem Memory.read_write_same (m : List Host.Cell) (a : Nat) (b : Byte) (h : Memory.wf m = true) :
    Memory.read (Memory.write m a b) a = b := by
  induction m with
  | nil => simp only [Memory.write]; split <;> simp_all [Memory.read]
  | cons e t ih =>
    obtain ⟨k, v⟩ := e
    have hw := (Memory.wf_cons k v t).1 h
    simp only [Memory.write]
    split
    · next hk =>
      split
      · next hb => rw [hb]; exact Memory.read_low t a (hk ▸ hw.2.2)
      · simp [Memory.read]
    · split
      · next hk hlt =>
        split
        · next hb => simp [Memory.read, hk, hlt, hb]
        · simp [Memory.read]
      · next hk hlt => simp [Memory.read, hk, hlt, ih hw.2.1]

theorem Memory.read_write_other (m : List Host.Cell) (a c : Nat) (b : Byte) (h : Memory.wf m = true) (hc : c ≠ a) :
    Memory.read (Memory.write m a b) c = Memory.read m c := by
  induction m with
  | nil =>
    simp only [Memory.write]
    split
    · rfl
    · simp [Memory.read, Ne.symm hc]
  | cons e t ih =>
    obtain ⟨k, v⟩ := e
    have hw := (Memory.wf_cons k v t).1 h
    simp only [Memory.write]
    split
    · next hk =>
      subst hk
      split
      · simp only [Memory.read, Ne.symm hc, if_false]
        split
        · next hlt => exact Memory.read_low t c (fun e he => Nat.lt_trans hlt (hw.2.2 e he))
        · rfl
      · simp [Memory.read, Ne.symm hc]
    · split
      · next hk hlt =>
        split
        · rfl
        · simp only [Memory.read, Ne.symm hc, if_false]
          split
          · next hca =>
            have h1 : k ≠ c := by omega
            have h2 : c < k := by omega
            simp [h1, h2]
          · rfl
      · simp only [Memory.read, ih hw.2.1]

theorem Memory.read_write (m : List Host.Cell) (a c : Nat) (b : Byte) (h : Memory.wf m = true) :
    Memory.read (Memory.write m a b) c = if c = a then b else Memory.read m c := by
  split
  · next hc => rw [hc]; exact Memory.read_write_same m a b h
  · next hc => exact Memory.read_write_other m a c b h hc

/-- A wide write leaves every byte outside it. -/
theorem Memory.read_writeLE_other (n : Nat) : ∀ (m : List Host.Cell) (a v c : Nat), Memory.wf m = true → (c < a ∨ a + n ≤ c) →
    Memory.read (Memory.writeLE m a n v) c = Memory.read m c := by
  induction n with
  | zero => intros; rfl
  | succ n ih =>
    intro m a v c h hc
    simp only [Memory.writeLE]
    rw [ih _ _ _ _ (Memory.wf_write _ _ _ h) (by omega), Memory.read_write_other _ _ _ _ h (by omega)]

/-- A wide write stores the bytes of its value, the lowest first (R1). -/
theorem Memory.read_writeLE (n : Nat) : ∀ (m : List Host.Cell) (a v i : Nat), Memory.wf m = true → i < n →
    Memory.read (Memory.writeLE m a n v) (a + i) = BitVec.ofNat 8 (v / 256 ^ i % 256) := by
  induction n with
  | zero => intro _ _ _ _ _ h; omega
  | succ n ih =>
    intro m a v i h hi
    simp only [Memory.writeLE]
    cases i with
    | zero =>
      rw [Memory.read_writeLE_other _ _ _ _ _ (Memory.wf_write _ _ _ h) (by omega), Nat.add_zero, Memory.read_write_same _ _ _ h]
      simp
    | succ i =>
      have := ih (Memory.write m a (BitVec.ofNat 8 (v % 256))) (a + 1) (v / 256) i (Memory.wf_write _ _ _ h) (by omega)
      rw [show a + (i + 1) = a + 1 + i by omega, this, Nat.div_div_eq_div_mul, Nat.pow_succ, Nat.mul_comm 256]

theorem Memory.readLE_congr (n : Nat) : ∀ (m m' : List Host.Cell) (a : Nat), (∀ i < n, Memory.read m (a + i) = Memory.read m' (a + i)) →
    Memory.readLE m a n = Memory.readLE m' a n := by
  induction n with
  | zero => intros; rfl
  | succ n ih =>
    intro m m' a h
    simp only [Memory.readLE]
    rw [ih m m' (a + 1) (fun i hi => by have := h (i + 1) (by omega); rwa [show a + (i + 1) = a + 1 + i by omega] at this)]
    have := h 0 (by omega)
    simp only [Nat.add_zero] at this
    rw [this]

/-- A wide read after a wide write to the same place gives the low bytes of the value. -/
theorem Memory.readLE_writeLE (n : Nat) : ∀ (m : List Host.Cell) (a v : Nat), Memory.wf m = true →
    Memory.readLE (Memory.writeLE m a n v) a n = v % 256 ^ n := by
  induction n with
  | zero => intro m a v _; simp [Memory.readLE, Nat.mod_one]
  | succ n ih =>
    intro m a v h
    simp only [Memory.readLE, Memory.writeLE]
    rw [Memory.read_writeLE_other _ _ _ _ _ (Memory.wf_write _ _ _ h) (by omega), Memory.read_write_same _ _ _ h,
      ih _ _ _ (Memory.wf_write _ _ _ h)]
    rw [BitVec.toNat_ofNat, Nat.mod_mod_of_dvd _ (by decide : 2 ^ 8 ∣ 256), Nat.pow_succ (n := 256), Nat.mul_comm (256 ^ n) 256,
      Nat.mod_mul]
    all_goals rfl

end Sys2Proof.Machine
end

