-- ==== Sys2Proof/Laws/Tables.lean ====
section
/-! SUPPORT. What tables give back after an entry has been set or removed, and the accessors of the state's tables. -/
namespace Sys2Proof.Machine

/-! ### Read after write -/

@[simp] theorem Tbl.find_put_same {α : Type} (t : Tbl α) (i : Nat) (v : α) : Tbl.find (Tbl.put t i v) i = some v := by
  induction t with
  | nil => simp [Tbl.put, Tbl.find]
  | cons e t ih =>
    obtain ⟨k, w⟩ := e
    simp only [Tbl.put]
    split
    · simp [Tbl.find]
    · split
      · simp [Tbl.find]
      · next h1 h2 => simp [Tbl.find, ih, Ne.symm h2]

theorem Tbl.find_put_other {α : Type} (t : Tbl α) (i j : Nat) (v : α) (h : j ≠ i) :
    Tbl.find (Tbl.put t i v) j = Tbl.find t j := by
  induction t with
  | nil => simp [Tbl.put, Tbl.find, Ne.symm h]
  | cons e t ih =>
    obtain ⟨k, w⟩ := e
    simp only [Tbl.put]
    split
    · simp [Tbl.find, Ne.symm h]
    · split
      · next h1 h2 => subst h2; simp [Tbl.find, Ne.symm h]
      · simp [Tbl.find, ih]

theorem Tbl.find_put {α : Type} (t : Tbl α) (i j : Nat) (v : α) :
    Tbl.find (Tbl.put t i v) j = if j = i then some v else Tbl.find t j := by
  split
  · next h => subst h; simp
  · next h => exact Tbl.find_put_other t i j v h

@[simp] theorem Tbl.look_put_same {α : Type} (t : Tbl α) (i : Nat) (v d : α) : Tbl.look (Tbl.put t i v) i d = v := by
  simp [Tbl.look]

theorem Tbl.look_put_other {α : Type} (t : Tbl α) (i j : Nat) (v d : α) (h : j ≠ i) :
    Tbl.look (Tbl.put t i v) j d = Tbl.look t j d := by
  simp [Tbl.look, Tbl.find_put_other t i j v h]

theorem Tbl.look_put {α : Type} (t : Tbl α) (i j : Nat) (v d : α) :
    Tbl.look (Tbl.put t i v) j d = if j = i then v else Tbl.look t j d := by
  split
  · next h => subst h; simp
  · next h => exact Tbl.look_put_other t i j v d h

/-- An entry set twice holds what was set last. -/
@[simp] theorem Tbl.put_put {α : Type} (t : Tbl α) (i : Nat) (v w : α) : Tbl.put (Tbl.put t i v) i w = Tbl.put t i w := by
  induction t with
  | nil => simp [Tbl.put]
  | cons e t ih =>
    obtain ⟨k, x⟩ := e
    by_cases h1 : i < k
    · simp [Tbl.put, h1]
    · by_cases h2 : i = k
      · simp [Tbl.put, h2]
      · simp [Tbl.put, h1, h2, ih]

theorem Tbl.find_drop_other {α : Type} (t : Tbl α) (i j : Nat) (h : j ≠ i) : Tbl.find (Tbl.drop t i) j = Tbl.find t j := by
  induction t with
  | nil => rfl
  | cons e t ih =>
    obtain ⟨k, w⟩ := e
    simp only [Tbl.drop]
    split
    · next hk => subst hk; simp [Tbl.find, Ne.symm h, ih]
    · simp [Tbl.find, ih]

/-- A key that has been removed is not listed. -/
@[simp] theorem Tbl.find_drop_same {α : Type} (t : Tbl α) (i : Nat) : Tbl.find (Tbl.drop t i) i = none := by
  induction t with
  | nil => rfl
  | cons e t ih =>
    obtain ⟨k, w⟩ := e
    simp only [Tbl.drop]
    split
    · exact ih
    · next h => simp [Tbl.find, h, ih]

theorem Tbl.look_drop_other {α : Type} (t : Tbl α) (i j : Nat) (d : α) (h : j ≠ i) :
    Tbl.look (Tbl.drop t i) j d = Tbl.look t j d := by
  simp [Tbl.look, Tbl.find_drop_other t i j h]

theorem Tbl.find_map {α β : Type} (t : Tbl α) (f : Nat → α → β) (i : Nat) :
    Tbl.find (t.map fun e => (e.1, f e.1 e.2)) i = (Tbl.find t i).map (f i) := by
  induction t with
  | nil => rfl
  | cons e t ih =>
    obtain ⟨k, w⟩ := e
    simp only [List.map_cons, Tbl.find]
    split
    · next h => subst h; rfl
    · exact ih

/-! ### The state's tables -/

@[simp] theorem State.setRegion_region (s : State) (p : Nat) (r : Region) : (s.setRegion p r).region p = r := by
  simp [State.setRegion, State.region]

theorem State.setRegion_region_other (s : State) (p q : Nat) (r : Region) (h : q ≠ p) :
    (s.setRegion p r).region q = s.region q := by
  simp [State.setRegion, State.region, Tbl.look_put_other _ _ _ _ _ h]

@[simp] theorem State.setRegion_setRegion (s : State) (p : Nat) (r x : Region) :
    (s.setRegion p r).setRegion p x = s.setRegion p x := by
  simp [State.setRegion]

@[simp] theorem State.setDie_die (s : State) (d : Nat) (x : Die) : (s.setDie d x).die d = x := by
  simp [State.setDie, State.die]

theorem State.setDie_die_other (s : State) (d e : Nat) (x : Die) (h : e ≠ d) : (s.setDie d x).die e = s.die e := by
  simp [State.setDie, State.die, Tbl.look_put_other _ _ _ _ _ h]

@[simp] theorem State.setDie_setDie (s : State) (d : Nat) (x y : Die) : (s.setDie d x).setDie d y = s.setDie d y := by
  simp [State.setDie]

@[simp] theorem State.setArray_array (s : State) (k : Nat) (a : WeirArray) : (s.setArray k a).array k = a := by
  simp [State.setArray, State.array]

@[simp] theorem State.setLine_line (s : State) (l : Nat) (h : HomeLine) : (s.setLine l h).line l = h := by
  simp [State.setLine, State.line]

theorem State.setLine_line_other (s : State) (l m : Nat) (h : HomeLine) (hm : m ≠ l) :
    (s.setLine l h).line m = s.line m := by
  simp [State.setLine, State.line, Tbl.look_put_other _ _ _ _ _ hm]

@[simp] theorem State.setRecord_record (s : State) (i : Nat) (g : GaugeRec) : (s.setRecord i g).record i = g := by
  simp [State.setRecord, State.record]

theorem State.setRecord_record_other (s : State) (i j : Nat) (g : GaugeRec) (h : j ≠ i) :
    (s.setRecord i g).record j = s.record j := by
  simp [State.setRecord, State.record, Tbl.look_put_other _ _ _ _ _ h]

@[simp] theorem Region.setHandler_handler (r : Region) (k : Nat) (h : Handler) : (r.setHandler k h).handler k = h := by
  simp [Region.setHandler, Region.handler]

theorem Region.setHandler_handler_other (r : Region) (k j : Nat) (h : Handler) (hj : j ≠ k) :
    (r.setHandler k h).handler j = r.handler j := by
  simp [Region.setHandler, Region.handler, Tbl.look_put_other _ _ _ _ _ hj]

@[simp] theorem Region.setHandler_setHandler (r : Region) (k : Nat) (h g : Handler) :
    (r.setHandler k h).setHandler k g = r.setHandler k g := by
  simp [Region.setHandler]

@[simp] theorem Region.setHandle_handle (r : Region) (n : Nat) (h : Handle) : (r.setHandle n h).handle n = h := by
  simp [Region.setHandle, Region.handle]

theorem Region.setHandle_handle_other (r : Region) (n m : Nat) (h : Handle) (hm : m ≠ n) :
    (r.setHandle n h).handle m = r.handle m := by
  simp [Region.setHandle, Region.handle, Tbl.look_put_other _ _ _ _ _ hm]

@[simp] theorem Region.setSide_side (r : Region) (n : Nat) (x : PortSide) : (r.setSide n x).side n = x := by
  simp [Region.setSide, Region.side]

theorem Region.setSide_side_other (r : Region) (n m : Nat) (x : PortSide) (h : m ≠ n) :
    (r.setSide n x).side m = r.side m := by
  simp [Region.setSide, Region.side, Tbl.look_put_other _ _ _ _ _ h]

@[simp] theorem Die.setChan_chan (d : Die) (c : Nat) (x : Channel) : (d.setChan c x).chan c = x := by
  simp [Die.setChan, Die.chan]

theorem Die.setChan_chan_other (d : Die) (c e : Nat) (x : Channel) (h : e ≠ c) : (d.setChan c x).chan e = d.chan e := by
  simp [Die.setChan, Die.chan, Tbl.look_put_other _ _ _ _ _ h]

@[simp] theorem Die.setQueue_queue (d : Die) (q : Nat) (x : Queue) : (d.setQueue q x).queue q = x := by
  simp [Die.setQueue, Die.queue]

theorem Die.setQueue_queue_other (d : Die) (q j : Nat) (x : Queue) (h : j ≠ q) : (d.setQueue q x).queue j = d.queue j := by
  simp [Die.setQueue, Die.queue, Tbl.look_put_other _ _ _ _ _ h]

@[simp] theorem Die.setDomain_domain (d : Die) (j : Nat) (x : Domain) : (d.setDomain j x).domain j = x := by
  simp [Die.setDomain, Die.domain]

@[simp] theorem Die.setCluster_cluster (d : Die) (c : Nat) (x : Cluster) : (d.setCluster c x).cluster c = x := by
  simp [Die.setCluster, Die.cluster]

end Sys2Proof.Machine
end

