-- ==== Sys2Proof/Laws/State.lean ====
section
/-! SUPPORT. What each update of the state leaves as it was, one lemma for each field and update. -/
namespace Sys2Proof.Machine

/-! ### State.setRegion -/

@[simp] theorem State.setRegion_tide (s : State) (p : Nat) (r : Region) : (s.setRegion p r).tide = s.tide := rfl
@[simp] theorem State.setRegion_mem (s : State) (p : Nat) (r : Region) : (s.setRegion p r).mem = s.mem := rfl
@[simp] theorem State.setRegion_lines (s : State) (p : Nat) (r : Region) : (s.setRegion p r).lines = s.lines := rfl
@[simp] theorem State.setRegion_poison (s : State) (p : Nat) (r : Region) : (s.setRegion p r).poison = s.poison := rfl
@[simp] theorem State.setRegion_homeWords (s : State) (p : Nat) (r : Region) : (s.setRegion p r).homeWords = s.homeWords := rfl
@[simp] theorem State.setRegion_walks (s : State) (p : Nat) (r : Region) : (s.setRegion p r).walks = s.walks := rfl
@[simp] theorem State.setRegion_asids (s : State) (p : Nat) (r : Region) : (s.setRegion p r).asids = s.asids := rfl
@[simp] theorem State.setRegion_prot (s : State) (p : Nat) (r : Region) : (s.setRegion p r).prot = s.prot := rfl
@[simp] theorem State.setRegion_invals (s : State) (p : Nat) (r : Region) : (s.setRegion p r).invals = s.invals := rfl
@[simp] theorem State.setRegion_records (s : State) (p : Nat) (r : Region) : (s.setRegion p r).records = s.records := rfl
@[simp] theorem State.setRegion_seals (s : State) (p : Nat) (r : Region) : (s.setRegion p r).seals = s.seals := rfl
@[simp] theorem State.setRegion_basins (s : State) (p : Nat) (r : Region) : (s.setRegion p r).basins = s.basins := rfl
@[simp] theorem State.setRegion_lanes (s : State) (p : Nat) (r : Region) : (s.setRegion p r).lanes = s.lanes := rfl
@[simp] theorem State.setRegion_images (s : State) (p : Nat) (r : Region) : (s.setRegion p r).images = s.images := rfl
@[simp] theorem State.setRegion_dies (s : State) (p : Nat) (r : Region) : (s.setRegion p r).dies = s.dies := rfl
@[simp] theorem State.setRegion_arrays (s : State) (p : Nat) (r : Region) : (s.setRegion p r).arrays = s.arrays := rfl
@[simp] theorem State.setRegion_well (s : State) (p : Nat) (r : Region) : (s.setRegion p r).well = s.well := rfl
@[simp] theorem State.setRegion_boot (s : State) (p : Nat) (r : Region) : (s.setRegion p r).boot = s.boot := rfl
@[simp] theorem State.setRegion_fw (s : State) (p : Nat) (r : Region) : (s.setRegion p r).fw = s.fw := rfl
@[simp] theorem State.setRegion_attach (s : State) (p : Nat) (r : Region) : (s.setRegion p r).attach = s.attach := rfl
@[simp] theorem State.setRegion_net (s : State) (p : Nat) (r : Region) : (s.setRegion p r).net = s.net := rfl
@[simp] theorem State.setRegion_agenda (s : State) (p : Nat) (r : Region) : (s.setRegion p r).agenda = s.agenda := rfl
@[simp] theorem State.setRegion_picks (s : State) (p : Nat) (r : Region) : (s.setRegion p r).picks = s.picks := rfl
@[simp] theorem State.setRegion_fresh (s : State) (p : Nat) (r : Region) : (s.setRegion p r).fresh = s.fresh := rfl
@[simp] theorem State.setRegion_cur (s : State) (p : Nat) (r : Region) : (s.setRegion p r).cur = s.cur := rfl
@[simp] theorem State.setRegion_stalled (s : State) (p : Nat) (r : Region) : (s.setRegion p r).stalled = s.stalled := rfl

/-! ### State.setDie -/

@[simp] theorem State.setDie_tide (s : State) (d : Nat) (x : Die) : (s.setDie d x).tide = s.tide := rfl
@[simp] theorem State.setDie_mem (s : State) (d : Nat) (x : Die) : (s.setDie d x).mem = s.mem := rfl
@[simp] theorem State.setDie_lines (s : State) (d : Nat) (x : Die) : (s.setDie d x).lines = s.lines := rfl
@[simp] theorem State.setDie_poison (s : State) (d : Nat) (x : Die) : (s.setDie d x).poison = s.poison := rfl
@[simp] theorem State.setDie_homeWords (s : State) (d : Nat) (x : Die) : (s.setDie d x).homeWords = s.homeWords := rfl
@[simp] theorem State.setDie_walks (s : State) (d : Nat) (x : Die) : (s.setDie d x).walks = s.walks := rfl
@[simp] theorem State.setDie_asids (s : State) (d : Nat) (x : Die) : (s.setDie d x).asids = s.asids := rfl
@[simp] theorem State.setDie_prot (s : State) (d : Nat) (x : Die) : (s.setDie d x).prot = s.prot := rfl
@[simp] theorem State.setDie_invals (s : State) (d : Nat) (x : Die) : (s.setDie d x).invals = s.invals := rfl
@[simp] theorem State.setDie_records (s : State) (d : Nat) (x : Die) : (s.setDie d x).records = s.records := rfl
@[simp] theorem State.setDie_seals (s : State) (d : Nat) (x : Die) : (s.setDie d x).seals = s.seals := rfl
@[simp] theorem State.setDie_basins (s : State) (d : Nat) (x : Die) : (s.setDie d x).basins = s.basins := rfl
@[simp] theorem State.setDie_lanes (s : State) (d : Nat) (x : Die) : (s.setDie d x).lanes = s.lanes := rfl
@[simp] theorem State.setDie_images (s : State) (d : Nat) (x : Die) : (s.setDie d x).images = s.images := rfl
@[simp] theorem State.setDie_regions (s : State) (d : Nat) (x : Die) : (s.setDie d x).regions = s.regions := rfl
@[simp] theorem State.setDie_arrays (s : State) (d : Nat) (x : Die) : (s.setDie d x).arrays = s.arrays := rfl
@[simp] theorem State.setDie_well (s : State) (d : Nat) (x : Die) : (s.setDie d x).well = s.well := rfl
@[simp] theorem State.setDie_boot (s : State) (d : Nat) (x : Die) : (s.setDie d x).boot = s.boot := rfl
@[simp] theorem State.setDie_fw (s : State) (d : Nat) (x : Die) : (s.setDie d x).fw = s.fw := rfl
@[simp] theorem State.setDie_attach (s : State) (d : Nat) (x : Die) : (s.setDie d x).attach = s.attach := rfl
@[simp] theorem State.setDie_net (s : State) (d : Nat) (x : Die) : (s.setDie d x).net = s.net := rfl
@[simp] theorem State.setDie_agenda (s : State) (d : Nat) (x : Die) : (s.setDie d x).agenda = s.agenda := rfl
@[simp] theorem State.setDie_picks (s : State) (d : Nat) (x : Die) : (s.setDie d x).picks = s.picks := rfl
@[simp] theorem State.setDie_fresh (s : State) (d : Nat) (x : Die) : (s.setDie d x).fresh = s.fresh := rfl
@[simp] theorem State.setDie_cur (s : State) (d : Nat) (x : Die) : (s.setDie d x).cur = s.cur := rfl
@[simp] theorem State.setDie_stalled (s : State) (d : Nat) (x : Die) : (s.setDie d x).stalled = s.stalled := rfl

/-! ### State.setArray -/

@[simp] theorem State.setArray_tide (s : State) (k : Nat) (a : WeirArray) : (s.setArray k a).tide = s.tide := rfl
@[simp] theorem State.setArray_mem (s : State) (k : Nat) (a : WeirArray) : (s.setArray k a).mem = s.mem := rfl
@[simp] theorem State.setArray_lines (s : State) (k : Nat) (a : WeirArray) : (s.setArray k a).lines = s.lines := rfl
@[simp] theorem State.setArray_poison (s : State) (k : Nat) (a : WeirArray) : (s.setArray k a).poison = s.poison := rfl
@[simp] theorem State.setArray_homeWords (s : State) (k : Nat) (a : WeirArray) : (s.setArray k a).homeWords = s.homeWords := rfl
@[simp] theorem State.setArray_walks (s : State) (k : Nat) (a : WeirArray) : (s.setArray k a).walks = s.walks := rfl
@[simp] theorem State.setArray_asids (s : State) (k : Nat) (a : WeirArray) : (s.setArray k a).asids = s.asids := rfl
@[simp] theorem State.setArray_prot (s : State) (k : Nat) (a : WeirArray) : (s.setArray k a).prot = s.prot := rfl
@[simp] theorem State.setArray_invals (s : State) (k : Nat) (a : WeirArray) : (s.setArray k a).invals = s.invals := rfl
@[simp] theorem State.setArray_records (s : State) (k : Nat) (a : WeirArray) : (s.setArray k a).records = s.records := rfl
@[simp] theorem State.setArray_seals (s : State) (k : Nat) (a : WeirArray) : (s.setArray k a).seals = s.seals := rfl
@[simp] theorem State.setArray_basins (s : State) (k : Nat) (a : WeirArray) : (s.setArray k a).basins = s.basins := rfl
@[simp] theorem State.setArray_lanes (s : State) (k : Nat) (a : WeirArray) : (s.setArray k a).lanes = s.lanes := rfl
@[simp] theorem State.setArray_images (s : State) (k : Nat) (a : WeirArray) : (s.setArray k a).images = s.images := rfl
@[simp] theorem State.setArray_dies (s : State) (k : Nat) (a : WeirArray) : (s.setArray k a).dies = s.dies := rfl
@[simp] theorem State.setArray_regions (s : State) (k : Nat) (a : WeirArray) : (s.setArray k a).regions = s.regions := rfl
@[simp] theorem State.setArray_well (s : State) (k : Nat) (a : WeirArray) : (s.setArray k a).well = s.well := rfl
@[simp] theorem State.setArray_boot (s : State) (k : Nat) (a : WeirArray) : (s.setArray k a).boot = s.boot := rfl
@[simp] theorem State.setArray_fw (s : State) (k : Nat) (a : WeirArray) : (s.setArray k a).fw = s.fw := rfl
@[simp] theorem State.setArray_attach (s : State) (k : Nat) (a : WeirArray) : (s.setArray k a).attach = s.attach := rfl
@[simp] theorem State.setArray_net (s : State) (k : Nat) (a : WeirArray) : (s.setArray k a).net = s.net := rfl
@[simp] theorem State.setArray_agenda (s : State) (k : Nat) (a : WeirArray) : (s.setArray k a).agenda = s.agenda := rfl
@[simp] theorem State.setArray_picks (s : State) (k : Nat) (a : WeirArray) : (s.setArray k a).picks = s.picks := rfl
@[simp] theorem State.setArray_fresh (s : State) (k : Nat) (a : WeirArray) : (s.setArray k a).fresh = s.fresh := rfl
@[simp] theorem State.setArray_cur (s : State) (k : Nat) (a : WeirArray) : (s.setArray k a).cur = s.cur := rfl
@[simp] theorem State.setArray_stalled (s : State) (k : Nat) (a : WeirArray) : (s.setArray k a).stalled = s.stalled := rfl

/-! ### State.setLine -/

@[simp] theorem State.setLine_tide (s : State) (l : Nat) (h : HomeLine) : (s.setLine l h).tide = s.tide := rfl
@[simp] theorem State.setLine_mem (s : State) (l : Nat) (h : HomeLine) : (s.setLine l h).mem = s.mem := rfl
@[simp] theorem State.setLine_poison (s : State) (l : Nat) (h : HomeLine) : (s.setLine l h).poison = s.poison := rfl
@[simp] theorem State.setLine_homeWords (s : State) (l : Nat) (h : HomeLine) : (s.setLine l h).homeWords = s.homeWords := rfl
@[simp] theorem State.setLine_walks (s : State) (l : Nat) (h : HomeLine) : (s.setLine l h).walks = s.walks := rfl
@[simp] theorem State.setLine_asids (s : State) (l : Nat) (h : HomeLine) : (s.setLine l h).asids = s.asids := rfl
@[simp] theorem State.setLine_prot (s : State) (l : Nat) (h : HomeLine) : (s.setLine l h).prot = s.prot := rfl
@[simp] theorem State.setLine_invals (s : State) (l : Nat) (h : HomeLine) : (s.setLine l h).invals = s.invals := rfl
@[simp] theorem State.setLine_records (s : State) (l : Nat) (h : HomeLine) : (s.setLine l h).records = s.records := rfl
@[simp] theorem State.setLine_seals (s : State) (l : Nat) (h : HomeLine) : (s.setLine l h).seals = s.seals := rfl
@[simp] theorem State.setLine_basins (s : State) (l : Nat) (h : HomeLine) : (s.setLine l h).basins = s.basins := rfl
@[simp] theorem State.setLine_lanes (s : State) (l : Nat) (h : HomeLine) : (s.setLine l h).lanes = s.lanes := rfl
@[simp] theorem State.setLine_images (s : State) (l : Nat) (h : HomeLine) : (s.setLine l h).images = s.images := rfl
@[simp] theorem State.setLine_dies (s : State) (l : Nat) (h : HomeLine) : (s.setLine l h).dies = s.dies := rfl
@[simp] theorem State.setLine_regions (s : State) (l : Nat) (h : HomeLine) : (s.setLine l h).regions = s.regions := rfl
@[simp] theorem State.setLine_arrays (s : State) (l : Nat) (h : HomeLine) : (s.setLine l h).arrays = s.arrays := rfl
@[simp] theorem State.setLine_well (s : State) (l : Nat) (h : HomeLine) : (s.setLine l h).well = s.well := rfl
@[simp] theorem State.setLine_boot (s : State) (l : Nat) (h : HomeLine) : (s.setLine l h).boot = s.boot := rfl
@[simp] theorem State.setLine_fw (s : State) (l : Nat) (h : HomeLine) : (s.setLine l h).fw = s.fw := rfl
@[simp] theorem State.setLine_attach (s : State) (l : Nat) (h : HomeLine) : (s.setLine l h).attach = s.attach := rfl
@[simp] theorem State.setLine_net (s : State) (l : Nat) (h : HomeLine) : (s.setLine l h).net = s.net := rfl
@[simp] theorem State.setLine_agenda (s : State) (l : Nat) (h : HomeLine) : (s.setLine l h).agenda = s.agenda := rfl
@[simp] theorem State.setLine_picks (s : State) (l : Nat) (h : HomeLine) : (s.setLine l h).picks = s.picks := rfl
@[simp] theorem State.setLine_fresh (s : State) (l : Nat) (h : HomeLine) : (s.setLine l h).fresh = s.fresh := rfl
@[simp] theorem State.setLine_cur (s : State) (l : Nat) (h : HomeLine) : (s.setLine l h).cur = s.cur := rfl
@[simp] theorem State.setLine_stalled (s : State) (l : Nat) (h : HomeLine) : (s.setLine l h).stalled = s.stalled := rfl

/-! ### State.setRecord -/

@[simp] theorem State.setRecord_tide (s : State) (i : Nat) (g : GaugeRec) : (s.setRecord i g).tide = s.tide := rfl
@[simp] theorem State.setRecord_mem (s : State) (i : Nat) (g : GaugeRec) : (s.setRecord i g).mem = s.mem := rfl
@[simp] theorem State.setRecord_lines (s : State) (i : Nat) (g : GaugeRec) : (s.setRecord i g).lines = s.lines := rfl
@[simp] theorem State.setRecord_poison (s : State) (i : Nat) (g : GaugeRec) : (s.setRecord i g).poison = s.poison := rfl
@[simp] theorem State.setRecord_homeWords (s : State) (i : Nat) (g : GaugeRec) : (s.setRecord i g).homeWords = s.homeWords := rfl
@[simp] theorem State.setRecord_walks (s : State) (i : Nat) (g : GaugeRec) : (s.setRecord i g).walks = s.walks := rfl
@[simp] theorem State.setRecord_asids (s : State) (i : Nat) (g : GaugeRec) : (s.setRecord i g).asids = s.asids := rfl
@[simp] theorem State.setRecord_prot (s : State) (i : Nat) (g : GaugeRec) : (s.setRecord i g).prot = s.prot := rfl
@[simp] theorem State.setRecord_invals (s : State) (i : Nat) (g : GaugeRec) : (s.setRecord i g).invals = s.invals := rfl
@[simp] theorem State.setRecord_seals (s : State) (i : Nat) (g : GaugeRec) : (s.setRecord i g).seals = s.seals := rfl
@[simp] theorem State.setRecord_basins (s : State) (i : Nat) (g : GaugeRec) : (s.setRecord i g).basins = s.basins := rfl
@[simp] theorem State.setRecord_lanes (s : State) (i : Nat) (g : GaugeRec) : (s.setRecord i g).lanes = s.lanes := rfl
@[simp] theorem State.setRecord_images (s : State) (i : Nat) (g : GaugeRec) : (s.setRecord i g).images = s.images := rfl
@[simp] theorem State.setRecord_dies (s : State) (i : Nat) (g : GaugeRec) : (s.setRecord i g).dies = s.dies := rfl
@[simp] theorem State.setRecord_regions (s : State) (i : Nat) (g : GaugeRec) : (s.setRecord i g).regions = s.regions := rfl
@[simp] theorem State.setRecord_arrays (s : State) (i : Nat) (g : GaugeRec) : (s.setRecord i g).arrays = s.arrays := rfl
@[simp] theorem State.setRecord_well (s : State) (i : Nat) (g : GaugeRec) : (s.setRecord i g).well = s.well := rfl
@[simp] theorem State.setRecord_boot (s : State) (i : Nat) (g : GaugeRec) : (s.setRecord i g).boot = s.boot := rfl
@[simp] theorem State.setRecord_fw (s : State) (i : Nat) (g : GaugeRec) : (s.setRecord i g).fw = s.fw := rfl
@[simp] theorem State.setRecord_attach (s : State) (i : Nat) (g : GaugeRec) : (s.setRecord i g).attach = s.attach := rfl
@[simp] theorem State.setRecord_net (s : State) (i : Nat) (g : GaugeRec) : (s.setRecord i g).net = s.net := rfl
@[simp] theorem State.setRecord_agenda (s : State) (i : Nat) (g : GaugeRec) : (s.setRecord i g).agenda = s.agenda := rfl
@[simp] theorem State.setRecord_picks (s : State) (i : Nat) (g : GaugeRec) : (s.setRecord i g).picks = s.picks := rfl
@[simp] theorem State.setRecord_fresh (s : State) (i : Nat) (g : GaugeRec) : (s.setRecord i g).fresh = s.fresh := rfl
@[simp] theorem State.setRecord_cur (s : State) (i : Nat) (g : GaugeRec) : (s.setRecord i g).cur = s.cur := rfl
@[simp] theorem State.setRecord_stalled (s : State) (i : Nat) (g : GaugeRec) : (s.setRecord i g).stalled = s.stalled := rfl

/-! ### State.post -/

@[simp] theorem State.post_tide (s : State) (k : Option Nat) (b : Body) : (s.post k b).tide = s.tide := rfl
@[simp] theorem State.post_mem (s : State) (k : Option Nat) (b : Body) : (s.post k b).mem = s.mem := rfl
@[simp] theorem State.post_lines (s : State) (k : Option Nat) (b : Body) : (s.post k b).lines = s.lines := rfl
@[simp] theorem State.post_poison (s : State) (k : Option Nat) (b : Body) : (s.post k b).poison = s.poison := rfl
@[simp] theorem State.post_homeWords (s : State) (k : Option Nat) (b : Body) : (s.post k b).homeWords = s.homeWords := rfl
@[simp] theorem State.post_walks (s : State) (k : Option Nat) (b : Body) : (s.post k b).walks = s.walks := rfl
@[simp] theorem State.post_asids (s : State) (k : Option Nat) (b : Body) : (s.post k b).asids = s.asids := rfl
@[simp] theorem State.post_prot (s : State) (k : Option Nat) (b : Body) : (s.post k b).prot = s.prot := rfl
@[simp] theorem State.post_invals (s : State) (k : Option Nat) (b : Body) : (s.post k b).invals = s.invals := rfl
@[simp] theorem State.post_records (s : State) (k : Option Nat) (b : Body) : (s.post k b).records = s.records := rfl
@[simp] theorem State.post_seals (s : State) (k : Option Nat) (b : Body) : (s.post k b).seals = s.seals := rfl
@[simp] theorem State.post_basins (s : State) (k : Option Nat) (b : Body) : (s.post k b).basins = s.basins := rfl
@[simp] theorem State.post_lanes (s : State) (k : Option Nat) (b : Body) : (s.post k b).lanes = s.lanes := rfl
@[simp] theorem State.post_images (s : State) (k : Option Nat) (b : Body) : (s.post k b).images = s.images := rfl
@[simp] theorem State.post_dies (s : State) (k : Option Nat) (b : Body) : (s.post k b).dies = s.dies := rfl
@[simp] theorem State.post_regions (s : State) (k : Option Nat) (b : Body) : (s.post k b).regions = s.regions := rfl
@[simp] theorem State.post_arrays (s : State) (k : Option Nat) (b : Body) : (s.post k b).arrays = s.arrays := rfl
@[simp] theorem State.post_well (s : State) (k : Option Nat) (b : Body) : (s.post k b).well = s.well := rfl
@[simp] theorem State.post_boot (s : State) (k : Option Nat) (b : Body) : (s.post k b).boot = s.boot := rfl
@[simp] theorem State.post_fw (s : State) (k : Option Nat) (b : Body) : (s.post k b).fw = s.fw := rfl
@[simp] theorem State.post_attach (s : State) (k : Option Nat) (b : Body) : (s.post k b).attach = s.attach := rfl
@[simp] theorem State.post_agenda (s : State) (k : Option Nat) (b : Body) : (s.post k b).agenda = s.agenda := rfl
@[simp] theorem State.post_picks (s : State) (k : Option Nat) (b : Body) : (s.post k b).picks = s.picks := rfl
@[simp] theorem State.post_fresh (s : State) (k : Option Nat) (b : Body) : (s.post k b).fresh = s.fresh := rfl
@[simp] theorem State.post_cur (s : State) (k : Option Nat) (b : Body) : (s.post k b).cur = s.cur := rfl
@[simp] theorem State.post_stalled (s : State) (k : Option Nat) (b : Body) : (s.post k b).stalled = s.stalled := rfl

/-! ### State.unpost -/

@[simp] theorem State.unpost_tide (s : State) (m : Nat) : (s.unpost m).tide = s.tide := rfl
@[simp] theorem State.unpost_mem (s : State) (m : Nat) : (s.unpost m).mem = s.mem := rfl
@[simp] theorem State.unpost_lines (s : State) (m : Nat) : (s.unpost m).lines = s.lines := rfl
@[simp] theorem State.unpost_poison (s : State) (m : Nat) : (s.unpost m).poison = s.poison := rfl
@[simp] theorem State.unpost_homeWords (s : State) (m : Nat) : (s.unpost m).homeWords = s.homeWords := rfl
@[simp] theorem State.unpost_walks (s : State) (m : Nat) : (s.unpost m).walks = s.walks := rfl
@[simp] theorem State.unpost_asids (s : State) (m : Nat) : (s.unpost m).asids = s.asids := rfl
@[simp] theorem State.unpost_prot (s : State) (m : Nat) : (s.unpost m).prot = s.prot := rfl
@[simp] theorem State.unpost_invals (s : State) (m : Nat) : (s.unpost m).invals = s.invals := rfl
@[simp] theorem State.unpost_records (s : State) (m : Nat) : (s.unpost m).records = s.records := rfl
@[simp] theorem State.unpost_seals (s : State) (m : Nat) : (s.unpost m).seals = s.seals := rfl
@[simp] theorem State.unpost_basins (s : State) (m : Nat) : (s.unpost m).basins = s.basins := rfl
@[simp] theorem State.unpost_lanes (s : State) (m : Nat) : (s.unpost m).lanes = s.lanes := rfl
@[simp] theorem State.unpost_images (s : State) (m : Nat) : (s.unpost m).images = s.images := rfl
@[simp] theorem State.unpost_dies (s : State) (m : Nat) : (s.unpost m).dies = s.dies := rfl
@[simp] theorem State.unpost_regions (s : State) (m : Nat) : (s.unpost m).regions = s.regions := rfl
@[simp] theorem State.unpost_arrays (s : State) (m : Nat) : (s.unpost m).arrays = s.arrays := rfl
@[simp] theorem State.unpost_well (s : State) (m : Nat) : (s.unpost m).well = s.well := rfl
@[simp] theorem State.unpost_boot (s : State) (m : Nat) : (s.unpost m).boot = s.boot := rfl
@[simp] theorem State.unpost_fw (s : State) (m : Nat) : (s.unpost m).fw = s.fw := rfl
@[simp] theorem State.unpost_attach (s : State) (m : Nat) : (s.unpost m).attach = s.attach := rfl
@[simp] theorem State.unpost_agenda (s : State) (m : Nat) : (s.unpost m).agenda = s.agenda := rfl
@[simp] theorem State.unpost_picks (s : State) (m : Nat) : (s.unpost m).picks = s.picks := rfl
@[simp] theorem State.unpost_fresh (s : State) (m : Nat) : (s.unpost m).fresh = s.fresh := rfl
@[simp] theorem State.unpost_cur (s : State) (m : Nat) : (s.unpost m).cur = s.cur := rfl
@[simp] theorem State.unpost_stalled (s : State) (m : Nat) : (s.unpost m).stalled = s.stalled := rfl

/-! ### State.wake -/

@[simp] theorem State.wake_tide (s : State) (l : Nat) : (s.wake l).tide = s.tide := rfl
@[simp] theorem State.wake_mem (s : State) (l : Nat) : (s.wake l).mem = s.mem := rfl
@[simp] theorem State.wake_lines (s : State) (l : Nat) : (s.wake l).lines = s.lines := rfl
@[simp] theorem State.wake_poison (s : State) (l : Nat) : (s.wake l).poison = s.poison := rfl
@[simp] theorem State.wake_homeWords (s : State) (l : Nat) : (s.wake l).homeWords = s.homeWords := rfl
@[simp] theorem State.wake_walks (s : State) (l : Nat) : (s.wake l).walks = s.walks := rfl
@[simp] theorem State.wake_asids (s : State) (l : Nat) : (s.wake l).asids = s.asids := rfl
@[simp] theorem State.wake_prot (s : State) (l : Nat) : (s.wake l).prot = s.prot := rfl
@[simp] theorem State.wake_invals (s : State) (l : Nat) : (s.wake l).invals = s.invals := rfl
@[simp] theorem State.wake_records (s : State) (l : Nat) : (s.wake l).records = s.records := rfl
@[simp] theorem State.wake_seals (s : State) (l : Nat) : (s.wake l).seals = s.seals := rfl
@[simp] theorem State.wake_basins (s : State) (l : Nat) : (s.wake l).basins = s.basins := rfl
@[simp] theorem State.wake_lanes (s : State) (l : Nat) : (s.wake l).lanes = s.lanes := rfl
@[simp] theorem State.wake_images (s : State) (l : Nat) : (s.wake l).images = s.images := rfl
@[simp] theorem State.wake_dies (s : State) (l : Nat) : (s.wake l).dies = s.dies := rfl
@[simp] theorem State.wake_regions (s : State) (l : Nat) : (s.wake l).regions = s.regions := rfl
@[simp] theorem State.wake_arrays (s : State) (l : Nat) : (s.wake l).arrays = s.arrays := rfl
@[simp] theorem State.wake_well (s : State) (l : Nat) : (s.wake l).well = s.well := rfl
@[simp] theorem State.wake_boot (s : State) (l : Nat) : (s.wake l).boot = s.boot := rfl
@[simp] theorem State.wake_fw (s : State) (l : Nat) : (s.wake l).fw = s.fw := rfl
@[simp] theorem State.wake_attach (s : State) (l : Nat) : (s.wake l).attach = s.attach := rfl
@[simp] theorem State.wake_net (s : State) (l : Nat) : (s.wake l).net = s.net := rfl
@[simp] theorem State.wake_picks (s : State) (l : Nat) : (s.wake l).picks = s.picks := rfl
@[simp] theorem State.wake_fresh (s : State) (l : Nat) : (s.wake l).fresh = s.fresh := rfl
@[simp] theorem State.wake_cur (s : State) (l : Nat) : (s.wake l).cur = s.cur := rfl
@[simp] theorem State.wake_stalled (s : State) (l : Nat) : (s.wake l).stalled = s.stalled := rfl

/-! ### Region.setHandler -/

@[simp] theorem Region.setHandler_mode (r : Region) (k : Nat) (h : Handler) : (r.setHandler k h).mode = r.mode := rfl
@[simp] theorem Region.setHandler_inst (r : Region) (k : Nat) (h : Handler) : (r.setHandler k h).inst = r.inst := rfl
@[simp] theorem Region.setHandler_launch (r : Region) (k : Nat) (h : Handler) : (r.setHandler k h).launch = r.launch := rfl
@[simp] theorem Region.setHandler_image (r : Region) (k : Nat) (h : Handler) : (r.setHandler k h).image = r.image := rfl
@[simp] theorem Region.setHandler_sys (r : Region) (k : Nat) (h : Handler) : (r.setHandler k h).sys = r.sys := rfl
@[simp] theorem Region.setHandler_job (r : Region) (k : Nat) (h : Handler) : (r.setHandler k h).job = r.job := rfl
@[simp] theorem Region.setHandler_instIdx (r : Region) (k : Nat) (h : Handler) : (r.setHandler k h).instIdx = r.instIdx := rfl
@[simp] theorem Region.setHandler_placeId (r : Region) (k : Nat) (h : Handler) : (r.setHandler k h).placeId = r.placeId := rfl
@[simp] theorem Region.setHandler_origin (r : Region) (k : Nat) (h : Handler) : (r.setHandler k h).origin = r.origin := rfl
@[simp] theorem Region.setHandler_spanW (r : Region) (k : Nat) (h : Handler) : (r.setHandler k h).spanW = r.spanW := rfl
@[simp] theorem Region.setHandler_spanH (r : Region) (k : Nat) (h : Handler) : (r.setHandler k h).spanH = r.spanH := rfl
@[simp] theorem Region.setHandler_group (r : Region) (k : Nat) (h : Handler) : (r.setHandler k h).group = r.group := rfl
@[simp] theorem Region.setHandler_reach (r : Region) (k : Nat) (h : Handler) : (r.setHandler k h).reach = r.reach := rfl
@[simp] theorem Region.setHandler_elastic (r : Region) (k : Nat) (h : Handler) : (r.setHandler k h).elastic = r.elastic := rfl
@[simp] theorem Region.setHandler_regs (r : Region) (k : Nat) (h : Handler) : (r.setHandler k h).regs = r.regs := rfl
@[simp] theorem Region.setHandler_cc (r : Region) (k : Nat) (h : Handler) : (r.setHandler k h).cc = r.cc := rfl
@[simp] theorem Region.setHandler_ic (r : Region) (k : Nat) (h : Handler) : (r.setHandler k h).ic = r.ic := rfl
@[simp] theorem Region.setHandler_icend (r : Region) (k : Nat) (h : Handler) : (r.setHandler k h).icend = r.icend := rfl
@[simp] theorem Region.setHandler_widBase (r : Region) (k : Nat) (h : Handler) : (r.setHandler k h).widBase = r.widBase := rfl
@[simp] theorem Region.setHandler_shape (r : Region) (k : Nat) (h : Handler) : (r.setHandler k h).shape = r.shape := rfl
@[simp] theorem Region.setHandler_slot (r : Region) (k : Nat) (h : Handler) : (r.setHandler k h).slot = r.slot := rfl
@[simp] theorem Region.setHandler_asid (r : Region) (k : Nat) (h : Handler) : (r.setHandler k h).asid = r.asid := rfl
@[simp] theorem Region.setHandler_fpflags (r : Region) (k : Nat) (h : Handler) : (r.setHandler k h).fpflags = r.fpflags := rfl
@[simp] theorem Region.setHandler_ev (r : Region) (k : Nat) (h : Handler) : (r.setHandler k h).ev = r.ev := rfl
@[simp] theorem Region.setHandler_rescale (r : Region) (k : Nat) (h : Handler) : (r.setHandler k h).rescale = r.rescale := rfl
@[simp] theorem Region.setHandler_timer (r : Region) (k : Nat) (h : Handler) : (r.setHandler k h).timer = r.timer := rfl
@[simp] theorem Region.setHandler_timerEv (r : Region) (k : Nat) (h : Handler) : (r.setHandler k h).timerEv = r.timerEv := rfl
@[simp] theorem Region.setHandler_lclk (r : Region) (k : Nat) (h : Handler) : (r.setHandler k h).lclk = r.lclk := rfl
@[simp] theorem Region.setHandler_faults (r : Region) (k : Nat) (h : Handler) : (r.setHandler k h).faults = r.faults := rfl
@[simp] theorem Region.setHandler_faultsAt (r : Region) (k : Nat) (h : Handler) : (r.setHandler k h).faultsAt = r.faultsAt := rfl
@[simp] theorem Region.setHandler_faultsIn (r : Region) (k : Nat) (h : Handler) : (r.setHandler k h).faultsIn = r.faultsIn := rfl
@[simp] theorem Region.setHandler_chmap (r : Region) (k : Nat) (h : Handler) : (r.setHandler k h).chmap = r.chmap := rfl
@[simp] theorem Region.setHandler_handles (r : Region) (k : Nat) (h : Handler) : (r.setHandler k h).handles = r.handles := rfl
@[simp] theorem Region.setHandler_cmdQ (r : Region) (k : Nat) (h : Handler) : (r.setHandler k h).cmdQ = r.cmdQ := rfl
@[simp] theorem Region.setHandler_sif (r : Region) (k : Nat) (h : Handler) : (r.setHandler k h).sif = r.sif := rfl
@[simp] theorem Region.setHandler_bindSeq (r : Region) (k : Nat) (h : Handler) : (r.setHandler k h).bindSeq = r.bindSeq := rfl
@[simp] theorem Region.setHandler_live (r : Region) (k : Nat) (h : Handler) : (r.setHandler k h).live = r.live := rfl
@[simp] theorem Region.setHandler_pools (r : Region) (k : Nat) (h : Handler) : (r.setHandler k h).pools = r.pools := rfl
@[simp] theorem Region.setHandler_pconOut (r : Region) (k : Nat) (h : Handler) : (r.setHandler k h).pconOut = r.pconOut := rfl
@[simp] theorem Region.setHandler_steps (r : Region) (k : Nat) (h : Handler) : (r.setHandler k h).steps = r.steps := rfl
@[simp] theorem Region.setHandler_stepNo (r : Region) (k : Nat) (h : Handler) : (r.setHandler k h).stepNo = r.stepNo := rfl
@[simp] theorem Region.setHandler_cells (r : Region) (k : Nat) (h : Handler) : (r.setHandler k h).cells = r.cells := rfl
@[simp] theorem Region.setHandler_ports (r : Region) (k : Nat) (h : Handler) : (r.setHandler k h).ports = r.ports := rfl
@[simp] theorem Region.setHandler_sides (r : Region) (k : Nat) (h : Handler) : (r.setHandler k h).sides = r.sides := rfl
@[simp] theorem Region.setHandler_columns (r : Region) (k : Nat) (h : Handler) : (r.setHandler k h).columns = r.columns := rfl
@[simp] theorem Region.setHandler_matrix (r : Region) (k : Nat) (h : Handler) : (r.setHandler k h).matrix = r.matrix := rfl
@[simp] theorem Region.setHandler_stash (r : Region) (k : Nat) (h : Handler) : (r.setHandler k h).stash = r.stash := rfl
@[simp] theorem Region.setHandler_wbOut (r : Region) (k : Nat) (h : Handler) : (r.setHandler k h).wbOut = r.wbOut := rfl
@[simp] theorem Region.setHandler_asked (r : Region) (k : Nat) (h : Handler) : (r.setHandler k h).asked = r.asked := rfl
@[simp] theorem Region.setHandler_tlb (r : Region) (k : Nat) (h : Handler) : (r.setHandler k h).tlb = r.tlb := rfl
@[simp] theorem Region.setHandler_rill (r : Region) (k : Nat) (h : Handler) : (r.setHandler k h).rill = r.rill := rfl
@[simp] theorem Region.setHandler_gens (r : Region) (k : Nat) (h : Handler) : (r.setHandler k h).gens = r.gens := rfl
@[simp] theorem Region.setHandler_comps (r : Region) (k : Nat) (h : Handler) : (r.setHandler k h).comps = r.comps := rfl
@[simp] theorem Region.setHandler_doneAt (r : Region) (k : Nat) (h : Handler) : (r.setHandler k h).doneAt = r.doneAt := rfl
@[simp] theorem Region.setHandler_stage (r : Region) (k : Nat) (h : Handler) : (r.setHandler k h).stage = r.stage := rfl
@[simp] theorem Region.setHandler_finished (r : Region) (k : Nat) (h : Handler) : (r.setHandler k h).finished = r.finished := rfl
@[simp] theorem Region.setHandler_lateFault (r : Region) (k : Nat) (h : Handler) : (r.setHandler k h).lateFault = r.lateFault := rfl
@[simp] theorem Region.setHandler_halter (r : Region) (k : Nat) (h : Handler) : (r.setHandler k h).halter = r.halter := rfl
@[simp] theorem Region.setHandler_before (r : Region) (k : Nat) (h : Handler) : (r.setHandler k h).before = r.before := rfl
@[simp] theorem Region.setHandler_kept (r : Region) (k : Nat) (h : Handler) : (r.setHandler k h).kept = r.kept := rfl
@[simp] theorem Region.setHandler_stampNo (r : Region) (k : Nat) (h : Handler) : (r.setHandler k h).stampNo = r.stampNo := rfl
@[simp] theorem Region.setHandler_stops (r : Region) (k : Nat) (h : Handler) : (r.setHandler k h).stops = r.stops := rfl
@[simp] theorem Region.setHandler_passing (r : Region) (k : Nat) (h : Handler) : (r.setHandler k h).passing = r.passing := rfl
@[simp] theorem Region.setHandler_picked (r : Region) (k : Nat) (h : Handler) : (r.setHandler k h).picked = r.picked := rfl
@[simp] theorem Region.setHandler_storing (r : Region) (k : Nat) (h : Handler) : (r.setHandler k h).storing = r.storing := rfl
@[simp] theorem Region.setHandler_inherit (r : Region) (k : Nat) (h : Handler) : (r.setHandler k h).inherit = r.inherit := rfl
@[simp] theorem Region.setHandler_succ (r : Region) (k : Nat) (h : Handler) : (r.setHandler k h).succ = r.succ := rfl
@[simp] theorem Region.setHandler_succFlags (r : Region) (k : Nat) (h : Handler) : (r.setHandler k h).succFlags = r.succFlags := rfl
@[simp] theorem Region.setHandler_dropTo (r : Region) (k : Nat) (h : Handler) : (r.setHandler k h).dropTo = r.dropTo := rfl

/-! ### Region.setHandle -/

@[simp] theorem Region.setHandle_mode (r : Region) (n : Nat) (h : Handle) : (r.setHandle n h).mode = r.mode := rfl
@[simp] theorem Region.setHandle_inst (r : Region) (n : Nat) (h : Handle) : (r.setHandle n h).inst = r.inst := rfl
@[simp] theorem Region.setHandle_launch (r : Region) (n : Nat) (h : Handle) : (r.setHandle n h).launch = r.launch := rfl
@[simp] theorem Region.setHandle_image (r : Region) (n : Nat) (h : Handle) : (r.setHandle n h).image = r.image := rfl
@[simp] theorem Region.setHandle_sys (r : Region) (n : Nat) (h : Handle) : (r.setHandle n h).sys = r.sys := rfl
@[simp] theorem Region.setHandle_job (r : Region) (n : Nat) (h : Handle) : (r.setHandle n h).job = r.job := rfl
@[simp] theorem Region.setHandle_instIdx (r : Region) (n : Nat) (h : Handle) : (r.setHandle n h).instIdx = r.instIdx := rfl
@[simp] theorem Region.setHandle_placeId (r : Region) (n : Nat) (h : Handle) : (r.setHandle n h).placeId = r.placeId := rfl
@[simp] theorem Region.setHandle_origin (r : Region) (n : Nat) (h : Handle) : (r.setHandle n h).origin = r.origin := rfl
@[simp] theorem Region.setHandle_spanW (r : Region) (n : Nat) (h : Handle) : (r.setHandle n h).spanW = r.spanW := rfl
@[simp] theorem Region.setHandle_spanH (r : Region) (n : Nat) (h : Handle) : (r.setHandle n h).spanH = r.spanH := rfl
@[simp] theorem Region.setHandle_group (r : Region) (n : Nat) (h : Handle) : (r.setHandle n h).group = r.group := rfl
@[simp] theorem Region.setHandle_reach (r : Region) (n : Nat) (h : Handle) : (r.setHandle n h).reach = r.reach := rfl
@[simp] theorem Region.setHandle_elastic (r : Region) (n : Nat) (h : Handle) : (r.setHandle n h).elastic = r.elastic := rfl
@[simp] theorem Region.setHandle_regs (r : Region) (n : Nat) (h : Handle) : (r.setHandle n h).regs = r.regs := rfl
@[simp] theorem Region.setHandle_cc (r : Region) (n : Nat) (h : Handle) : (r.setHandle n h).cc = r.cc := rfl
@[simp] theorem Region.setHandle_ic (r : Region) (n : Nat) (h : Handle) : (r.setHandle n h).ic = r.ic := rfl
@[simp] theorem Region.setHandle_icend (r : Region) (n : Nat) (h : Handle) : (r.setHandle n h).icend = r.icend := rfl
@[simp] theorem Region.setHandle_widBase (r : Region) (n : Nat) (h : Handle) : (r.setHandle n h).widBase = r.widBase := rfl
@[simp] theorem Region.setHandle_shape (r : Region) (n : Nat) (h : Handle) : (r.setHandle n h).shape = r.shape := rfl
@[simp] theorem Region.setHandle_slot (r : Region) (n : Nat) (h : Handle) : (r.setHandle n h).slot = r.slot := rfl
@[simp] theorem Region.setHandle_asid (r : Region) (n : Nat) (h : Handle) : (r.setHandle n h).asid = r.asid := rfl
@[simp] theorem Region.setHandle_fpflags (r : Region) (n : Nat) (h : Handle) : (r.setHandle n h).fpflags = r.fpflags := rfl
@[simp] theorem Region.setHandle_ev (r : Region) (n : Nat) (h : Handle) : (r.setHandle n h).ev = r.ev := rfl
@[simp] theorem Region.setHandle_rescale (r : Region) (n : Nat) (h : Handle) : (r.setHandle n h).rescale = r.rescale := rfl
@[simp] theorem Region.setHandle_timer (r : Region) (n : Nat) (h : Handle) : (r.setHandle n h).timer = r.timer := rfl
@[simp] theorem Region.setHandle_timerEv (r : Region) (n : Nat) (h : Handle) : (r.setHandle n h).timerEv = r.timerEv := rfl
@[simp] theorem Region.setHandle_lclk (r : Region) (n : Nat) (h : Handle) : (r.setHandle n h).lclk = r.lclk := rfl
@[simp] theorem Region.setHandle_faults (r : Region) (n : Nat) (h : Handle) : (r.setHandle n h).faults = r.faults := rfl
@[simp] theorem Region.setHandle_faultsAt (r : Region) (n : Nat) (h : Handle) : (r.setHandle n h).faultsAt = r.faultsAt := rfl
@[simp] theorem Region.setHandle_faultsIn (r : Region) (n : Nat) (h : Handle) : (r.setHandle n h).faultsIn = r.faultsIn := rfl
@[simp] theorem Region.setHandle_handlers (r : Region) (n : Nat) (h : Handle) : (r.setHandle n h).handlers = r.handlers := rfl
@[simp] theorem Region.setHandle_chmap (r : Region) (n : Nat) (h : Handle) : (r.setHandle n h).chmap = r.chmap := rfl
@[simp] theorem Region.setHandle_cmdQ (r : Region) (n : Nat) (h : Handle) : (r.setHandle n h).cmdQ = r.cmdQ := rfl
@[simp] theorem Region.setHandle_sif (r : Region) (n : Nat) (h : Handle) : (r.setHandle n h).sif = r.sif := rfl
@[simp] theorem Region.setHandle_bindSeq (r : Region) (n : Nat) (h : Handle) : (r.setHandle n h).bindSeq = r.bindSeq := rfl
@[simp] theorem Region.setHandle_live (r : Region) (n : Nat) (h : Handle) : (r.setHandle n h).live = r.live := rfl
@[simp] theorem Region.setHandle_pools (r : Region) (n : Nat) (h : Handle) : (r.setHandle n h).pools = r.pools := rfl
@[simp] theorem Region.setHandle_pconOut (r : Region) (n : Nat) (h : Handle) : (r.setHandle n h).pconOut = r.pconOut := rfl
@[simp] theorem Region.setHandle_steps (r : Region) (n : Nat) (h : Handle) : (r.setHandle n h).steps = r.steps := rfl
@[simp] theorem Region.setHandle_stepNo (r : Region) (n : Nat) (h : Handle) : (r.setHandle n h).stepNo = r.stepNo := rfl
@[simp] theorem Region.setHandle_cells (r : Region) (n : Nat) (h : Handle) : (r.setHandle n h).cells = r.cells := rfl
@[simp] theorem Region.setHandle_ports (r : Region) (n : Nat) (h : Handle) : (r.setHandle n h).ports = r.ports := rfl
@[simp] theorem Region.setHandle_sides (r : Region) (n : Nat) (h : Handle) : (r.setHandle n h).sides = r.sides := rfl
@[simp] theorem Region.setHandle_columns (r : Region) (n : Nat) (h : Handle) : (r.setHandle n h).columns = r.columns := rfl
@[simp] theorem Region.setHandle_matrix (r : Region) (n : Nat) (h : Handle) : (r.setHandle n h).matrix = r.matrix := rfl
@[simp] theorem Region.setHandle_stash (r : Region) (n : Nat) (h : Handle) : (r.setHandle n h).stash = r.stash := rfl
@[simp] theorem Region.setHandle_wbOut (r : Region) (n : Nat) (h : Handle) : (r.setHandle n h).wbOut = r.wbOut := rfl
@[simp] theorem Region.setHandle_asked (r : Region) (n : Nat) (h : Handle) : (r.setHandle n h).asked = r.asked := rfl
@[simp] theorem Region.setHandle_tlb (r : Region) (n : Nat) (h : Handle) : (r.setHandle n h).tlb = r.tlb := rfl
@[simp] theorem Region.setHandle_rill (r : Region) (n : Nat) (h : Handle) : (r.setHandle n h).rill = r.rill := rfl
@[simp] theorem Region.setHandle_gens (r : Region) (n : Nat) (h : Handle) : (r.setHandle n h).gens = r.gens := rfl
@[simp] theorem Region.setHandle_comps (r : Region) (n : Nat) (h : Handle) : (r.setHandle n h).comps = r.comps := rfl
@[simp] theorem Region.setHandle_doneAt (r : Region) (n : Nat) (h : Handle) : (r.setHandle n h).doneAt = r.doneAt := rfl
@[simp] theorem Region.setHandle_stage (r : Region) (n : Nat) (h : Handle) : (r.setHandle n h).stage = r.stage := rfl
@[simp] theorem Region.setHandle_finished (r : Region) (n : Nat) (h : Handle) : (r.setHandle n h).finished = r.finished := rfl
@[simp] theorem Region.setHandle_lateFault (r : Region) (n : Nat) (h : Handle) : (r.setHandle n h).lateFault = r.lateFault := rfl
@[simp] theorem Region.setHandle_halter (r : Region) (n : Nat) (h : Handle) : (r.setHandle n h).halter = r.halter := rfl
@[simp] theorem Region.setHandle_before (r : Region) (n : Nat) (h : Handle) : (r.setHandle n h).before = r.before := rfl
@[simp] theorem Region.setHandle_kept (r : Region) (n : Nat) (h : Handle) : (r.setHandle n h).kept = r.kept := rfl
@[simp] theorem Region.setHandle_stampNo (r : Region) (n : Nat) (h : Handle) : (r.setHandle n h).stampNo = r.stampNo := rfl
@[simp] theorem Region.setHandle_stops (r : Region) (n : Nat) (h : Handle) : (r.setHandle n h).stops = r.stops := rfl
@[simp] theorem Region.setHandle_passing (r : Region) (n : Nat) (h : Handle) : (r.setHandle n h).passing = r.passing := rfl
@[simp] theorem Region.setHandle_picked (r : Region) (n : Nat) (h : Handle) : (r.setHandle n h).picked = r.picked := rfl
@[simp] theorem Region.setHandle_storing (r : Region) (n : Nat) (h : Handle) : (r.setHandle n h).storing = r.storing := rfl
@[simp] theorem Region.setHandle_inherit (r : Region) (n : Nat) (h : Handle) : (r.setHandle n h).inherit = r.inherit := rfl
@[simp] theorem Region.setHandle_succ (r : Region) (n : Nat) (h : Handle) : (r.setHandle n h).succ = r.succ := rfl
@[simp] theorem Region.setHandle_succFlags (r : Region) (n : Nat) (h : Handle) : (r.setHandle n h).succFlags = r.succFlags := rfl
@[simp] theorem Region.setHandle_dropTo (r : Region) (n : Nat) (h : Handle) : (r.setHandle n h).dropTo = r.dropTo := rfl

/-! ### Region.setSide -/

@[simp] theorem Region.setSide_mode (r : Region) (n : Nat) (x : PortSide) : (r.setSide n x).mode = r.mode := rfl
@[simp] theorem Region.setSide_inst (r : Region) (n : Nat) (x : PortSide) : (r.setSide n x).inst = r.inst := rfl
@[simp] theorem Region.setSide_launch (r : Region) (n : Nat) (x : PortSide) : (r.setSide n x).launch = r.launch := rfl
@[simp] theorem Region.setSide_image (r : Region) (n : Nat) (x : PortSide) : (r.setSide n x).image = r.image := rfl
@[simp] theorem Region.setSide_sys (r : Region) (n : Nat) (x : PortSide) : (r.setSide n x).sys = r.sys := rfl
@[simp] theorem Region.setSide_job (r : Region) (n : Nat) (x : PortSide) : (r.setSide n x).job = r.job := rfl
@[simp] theorem Region.setSide_instIdx (r : Region) (n : Nat) (x : PortSide) : (r.setSide n x).instIdx = r.instIdx := rfl
@[simp] theorem Region.setSide_placeId (r : Region) (n : Nat) (x : PortSide) : (r.setSide n x).placeId = r.placeId := rfl
@[simp] theorem Region.setSide_origin (r : Region) (n : Nat) (x : PortSide) : (r.setSide n x).origin = r.origin := rfl
@[simp] theorem Region.setSide_spanW (r : Region) (n : Nat) (x : PortSide) : (r.setSide n x).spanW = r.spanW := rfl
@[simp] theorem Region.setSide_spanH (r : Region) (n : Nat) (x : PortSide) : (r.setSide n x).spanH = r.spanH := rfl
@[simp] theorem Region.setSide_group (r : Region) (n : Nat) (x : PortSide) : (r.setSide n x).group = r.group := rfl
@[simp] theorem Region.setSide_reach (r : Region) (n : Nat) (x : PortSide) : (r.setSide n x).reach = r.reach := rfl
@[simp] theorem Region.setSide_elastic (r : Region) (n : Nat) (x : PortSide) : (r.setSide n x).elastic = r.elastic := rfl
@[simp] theorem Region.setSide_regs (r : Region) (n : Nat) (x : PortSide) : (r.setSide n x).regs = r.regs := rfl
@[simp] theorem Region.setSide_cc (r : Region) (n : Nat) (x : PortSide) : (r.setSide n x).cc = r.cc := rfl
@[simp] theorem Region.setSide_ic (r : Region) (n : Nat) (x : PortSide) : (r.setSide n x).ic = r.ic := rfl
@[simp] theorem Region.setSide_icend (r : Region) (n : Nat) (x : PortSide) : (r.setSide n x).icend = r.icend := rfl
@[simp] theorem Region.setSide_widBase (r : Region) (n : Nat) (x : PortSide) : (r.setSide n x).widBase = r.widBase := rfl
@[simp] theorem Region.setSide_shape (r : Region) (n : Nat) (x : PortSide) : (r.setSide n x).shape = r.shape := rfl
@[simp] theorem Region.setSide_slot (r : Region) (n : Nat) (x : PortSide) : (r.setSide n x).slot = r.slot := rfl
@[simp] theorem Region.setSide_asid (r : Region) (n : Nat) (x : PortSide) : (r.setSide n x).asid = r.asid := rfl
@[simp] theorem Region.setSide_fpflags (r : Region) (n : Nat) (x : PortSide) : (r.setSide n x).fpflags = r.fpflags := rfl
@[simp] theorem Region.setSide_ev (r : Region) (n : Nat) (x : PortSide) : (r.setSide n x).ev = r.ev := rfl
@[simp] theorem Region.setSide_rescale (r : Region) (n : Nat) (x : PortSide) : (r.setSide n x).rescale = r.rescale := rfl
@[simp] theorem Region.setSide_timer (r : Region) (n : Nat) (x : PortSide) : (r.setSide n x).timer = r.timer := rfl
@[simp] theorem Region.setSide_timerEv (r : Region) (n : Nat) (x : PortSide) : (r.setSide n x).timerEv = r.timerEv := rfl
@[simp] theorem Region.setSide_lclk (r : Region) (n : Nat) (x : PortSide) : (r.setSide n x).lclk = r.lclk := rfl
@[simp] theorem Region.setSide_faults (r : Region) (n : Nat) (x : PortSide) : (r.setSide n x).faults = r.faults := rfl
@[simp] theorem Region.setSide_faultsAt (r : Region) (n : Nat) (x : PortSide) : (r.setSide n x).faultsAt = r.faultsAt := rfl
@[simp] theorem Region.setSide_faultsIn (r : Region) (n : Nat) (x : PortSide) : (r.setSide n x).faultsIn = r.faultsIn := rfl
@[simp] theorem Region.setSide_handlers (r : Region) (n : Nat) (x : PortSide) : (r.setSide n x).handlers = r.handlers := rfl
@[simp] theorem Region.setSide_chmap (r : Region) (n : Nat) (x : PortSide) : (r.setSide n x).chmap = r.chmap := rfl
@[simp] theorem Region.setSide_handles (r : Region) (n : Nat) (x : PortSide) : (r.setSide n x).handles = r.handles := rfl
@[simp] theorem Region.setSide_cmdQ (r : Region) (n : Nat) (x : PortSide) : (r.setSide n x).cmdQ = r.cmdQ := rfl
@[simp] theorem Region.setSide_sif (r : Region) (n : Nat) (x : PortSide) : (r.setSide n x).sif = r.sif := rfl
@[simp] theorem Region.setSide_bindSeq (r : Region) (n : Nat) (x : PortSide) : (r.setSide n x).bindSeq = r.bindSeq := rfl
@[simp] theorem Region.setSide_live (r : Region) (n : Nat) (x : PortSide) : (r.setSide n x).live = r.live := rfl
@[simp] theorem Region.setSide_pools (r : Region) (n : Nat) (x : PortSide) : (r.setSide n x).pools = r.pools := rfl
@[simp] theorem Region.setSide_pconOut (r : Region) (n : Nat) (x : PortSide) : (r.setSide n x).pconOut = r.pconOut := rfl
@[simp] theorem Region.setSide_steps (r : Region) (n : Nat) (x : PortSide) : (r.setSide n x).steps = r.steps := rfl
@[simp] theorem Region.setSide_stepNo (r : Region) (n : Nat) (x : PortSide) : (r.setSide n x).stepNo = r.stepNo := rfl
@[simp] theorem Region.setSide_cells (r : Region) (n : Nat) (x : PortSide) : (r.setSide n x).cells = r.cells := rfl
@[simp] theorem Region.setSide_ports (r : Region) (n : Nat) (x : PortSide) : (r.setSide n x).ports = r.ports := rfl
@[simp] theorem Region.setSide_columns (r : Region) (n : Nat) (x : PortSide) : (r.setSide n x).columns = r.columns := rfl
@[simp] theorem Region.setSide_matrix (r : Region) (n : Nat) (x : PortSide) : (r.setSide n x).matrix = r.matrix := rfl
@[simp] theorem Region.setSide_stash (r : Region) (n : Nat) (x : PortSide) : (r.setSide n x).stash = r.stash := rfl
@[simp] theorem Region.setSide_wbOut (r : Region) (n : Nat) (x : PortSide) : (r.setSide n x).wbOut = r.wbOut := rfl
@[simp] theorem Region.setSide_asked (r : Region) (n : Nat) (x : PortSide) : (r.setSide n x).asked = r.asked := rfl
@[simp] theorem Region.setSide_tlb (r : Region) (n : Nat) (x : PortSide) : (r.setSide n x).tlb = r.tlb := rfl
@[simp] theorem Region.setSide_rill (r : Region) (n : Nat) (x : PortSide) : (r.setSide n x).rill = r.rill := rfl
@[simp] theorem Region.setSide_gens (r : Region) (n : Nat) (x : PortSide) : (r.setSide n x).gens = r.gens := rfl
@[simp] theorem Region.setSide_comps (r : Region) (n : Nat) (x : PortSide) : (r.setSide n x).comps = r.comps := rfl
@[simp] theorem Region.setSide_doneAt (r : Region) (n : Nat) (x : PortSide) : (r.setSide n x).doneAt = r.doneAt := rfl
@[simp] theorem Region.setSide_stage (r : Region) (n : Nat) (x : PortSide) : (r.setSide n x).stage = r.stage := rfl
@[simp] theorem Region.setSide_finished (r : Region) (n : Nat) (x : PortSide) : (r.setSide n x).finished = r.finished := rfl
@[simp] theorem Region.setSide_lateFault (r : Region) (n : Nat) (x : PortSide) : (r.setSide n x).lateFault = r.lateFault := rfl
@[simp] theorem Region.setSide_halter (r : Region) (n : Nat) (x : PortSide) : (r.setSide n x).halter = r.halter := rfl
@[simp] theorem Region.setSide_before (r : Region) (n : Nat) (x : PortSide) : (r.setSide n x).before = r.before := rfl
@[simp] theorem Region.setSide_kept (r : Region) (n : Nat) (x : PortSide) : (r.setSide n x).kept = r.kept := rfl
@[simp] theorem Region.setSide_stampNo (r : Region) (n : Nat) (x : PortSide) : (r.setSide n x).stampNo = r.stampNo := rfl
@[simp] theorem Region.setSide_stops (r : Region) (n : Nat) (x : PortSide) : (r.setSide n x).stops = r.stops := rfl
@[simp] theorem Region.setSide_passing (r : Region) (n : Nat) (x : PortSide) : (r.setSide n x).passing = r.passing := rfl
@[simp] theorem Region.setSide_picked (r : Region) (n : Nat) (x : PortSide) : (r.setSide n x).picked = r.picked := rfl
@[simp] theorem Region.setSide_storing (r : Region) (n : Nat) (x : PortSide) : (r.setSide n x).storing = r.storing := rfl
@[simp] theorem Region.setSide_inherit (r : Region) (n : Nat) (x : PortSide) : (r.setSide n x).inherit = r.inherit := rfl
@[simp] theorem Region.setSide_succ (r : Region) (n : Nat) (x : PortSide) : (r.setSide n x).succ = r.succ := rfl
@[simp] theorem Region.setSide_succFlags (r : Region) (n : Nat) (x : PortSide) : (r.setSide n x).succFlags = r.succFlags := rfl
@[simp] theorem Region.setSide_dropTo (r : Region) (n : Nat) (x : PortSide) : (r.setSide n x).dropTo = r.dropTo := rfl

/-! ### Region.putStash -/

@[simp] theorem Region.putStash_mode (r : Region) (l : StashLine) : (r.putStash l).mode = r.mode := rfl
@[simp] theorem Region.putStash_inst (r : Region) (l : StashLine) : (r.putStash l).inst = r.inst := rfl
@[simp] theorem Region.putStash_launch (r : Region) (l : StashLine) : (r.putStash l).launch = r.launch := rfl
@[simp] theorem Region.putStash_image (r : Region) (l : StashLine) : (r.putStash l).image = r.image := rfl
@[simp] theorem Region.putStash_sys (r : Region) (l : StashLine) : (r.putStash l).sys = r.sys := rfl
@[simp] theorem Region.putStash_job (r : Region) (l : StashLine) : (r.putStash l).job = r.job := rfl
@[simp] theorem Region.putStash_instIdx (r : Region) (l : StashLine) : (r.putStash l).instIdx = r.instIdx := rfl
@[simp] theorem Region.putStash_placeId (r : Region) (l : StashLine) : (r.putStash l).placeId = r.placeId := rfl
@[simp] theorem Region.putStash_origin (r : Region) (l : StashLine) : (r.putStash l).origin = r.origin := rfl
@[simp] theorem Region.putStash_spanW (r : Region) (l : StashLine) : (r.putStash l).spanW = r.spanW := rfl
@[simp] theorem Region.putStash_spanH (r : Region) (l : StashLine) : (r.putStash l).spanH = r.spanH := rfl
@[simp] theorem Region.putStash_group (r : Region) (l : StashLine) : (r.putStash l).group = r.group := rfl
@[simp] theorem Region.putStash_reach (r : Region) (l : StashLine) : (r.putStash l).reach = r.reach := rfl
@[simp] theorem Region.putStash_elastic (r : Region) (l : StashLine) : (r.putStash l).elastic = r.elastic := rfl
@[simp] theorem Region.putStash_regs (r : Region) (l : StashLine) : (r.putStash l).regs = r.regs := rfl
@[simp] theorem Region.putStash_cc (r : Region) (l : StashLine) : (r.putStash l).cc = r.cc := rfl
@[simp] theorem Region.putStash_ic (r : Region) (l : StashLine) : (r.putStash l).ic = r.ic := rfl
@[simp] theorem Region.putStash_icend (r : Region) (l : StashLine) : (r.putStash l).icend = r.icend := rfl
@[simp] theorem Region.putStash_widBase (r : Region) (l : StashLine) : (r.putStash l).widBase = r.widBase := rfl
@[simp] theorem Region.putStash_shape (r : Region) (l : StashLine) : (r.putStash l).shape = r.shape := rfl
@[simp] theorem Region.putStash_slot (r : Region) (l : StashLine) : (r.putStash l).slot = r.slot := rfl
@[simp] theorem Region.putStash_asid (r : Region) (l : StashLine) : (r.putStash l).asid = r.asid := rfl
@[simp] theorem Region.putStash_fpflags (r : Region) (l : StashLine) : (r.putStash l).fpflags = r.fpflags := rfl
@[simp] theorem Region.putStash_ev (r : Region) (l : StashLine) : (r.putStash l).ev = r.ev := rfl
@[simp] theorem Region.putStash_rescale (r : Region) (l : StashLine) : (r.putStash l).rescale = r.rescale := rfl
@[simp] theorem Region.putStash_timer (r : Region) (l : StashLine) : (r.putStash l).timer = r.timer := rfl
@[simp] theorem Region.putStash_timerEv (r : Region) (l : StashLine) : (r.putStash l).timerEv = r.timerEv := rfl
@[simp] theorem Region.putStash_lclk (r : Region) (l : StashLine) : (r.putStash l).lclk = r.lclk := rfl
@[simp] theorem Region.putStash_faults (r : Region) (l : StashLine) : (r.putStash l).faults = r.faults := rfl
@[simp] theorem Region.putStash_faultsAt (r : Region) (l : StashLine) : (r.putStash l).faultsAt = r.faultsAt := rfl
@[simp] theorem Region.putStash_faultsIn (r : Region) (l : StashLine) : (r.putStash l).faultsIn = r.faultsIn := rfl
@[simp] theorem Region.putStash_handlers (r : Region) (l : StashLine) : (r.putStash l).handlers = r.handlers := rfl
@[simp] theorem Region.putStash_chmap (r : Region) (l : StashLine) : (r.putStash l).chmap = r.chmap := rfl
@[simp] theorem Region.putStash_handles (r : Region) (l : StashLine) : (r.putStash l).handles = r.handles := rfl
@[simp] theorem Region.putStash_cmdQ (r : Region) (l : StashLine) : (r.putStash l).cmdQ = r.cmdQ := rfl
@[simp] theorem Region.putStash_sif (r : Region) (l : StashLine) : (r.putStash l).sif = r.sif := rfl
@[simp] theorem Region.putStash_bindSeq (r : Region) (l : StashLine) : (r.putStash l).bindSeq = r.bindSeq := rfl
@[simp] theorem Region.putStash_live (r : Region) (l : StashLine) : (r.putStash l).live = r.live := rfl
@[simp] theorem Region.putStash_pools (r : Region) (l : StashLine) : (r.putStash l).pools = r.pools := rfl
@[simp] theorem Region.putStash_pconOut (r : Region) (l : StashLine) : (r.putStash l).pconOut = r.pconOut := rfl
@[simp] theorem Region.putStash_steps (r : Region) (l : StashLine) : (r.putStash l).steps = r.steps := rfl
@[simp] theorem Region.putStash_stepNo (r : Region) (l : StashLine) : (r.putStash l).stepNo = r.stepNo := rfl
@[simp] theorem Region.putStash_cells (r : Region) (l : StashLine) : (r.putStash l).cells = r.cells := rfl
@[simp] theorem Region.putStash_ports (r : Region) (l : StashLine) : (r.putStash l).ports = r.ports := rfl
@[simp] theorem Region.putStash_sides (r : Region) (l : StashLine) : (r.putStash l).sides = r.sides := rfl
@[simp] theorem Region.putStash_columns (r : Region) (l : StashLine) : (r.putStash l).columns = r.columns := rfl
@[simp] theorem Region.putStash_matrix (r : Region) (l : StashLine) : (r.putStash l).matrix = r.matrix := rfl
@[simp] theorem Region.putStash_wbOut (r : Region) (l : StashLine) : (r.putStash l).wbOut = r.wbOut := rfl
@[simp] theorem Region.putStash_asked (r : Region) (l : StashLine) : (r.putStash l).asked = r.asked := rfl
@[simp] theorem Region.putStash_tlb (r : Region) (l : StashLine) : (r.putStash l).tlb = r.tlb := rfl
@[simp] theorem Region.putStash_rill (r : Region) (l : StashLine) : (r.putStash l).rill = r.rill := rfl
@[simp] theorem Region.putStash_gens (r : Region) (l : StashLine) : (r.putStash l).gens = r.gens := rfl
@[simp] theorem Region.putStash_comps (r : Region) (l : StashLine) : (r.putStash l).comps = r.comps := rfl
@[simp] theorem Region.putStash_doneAt (r : Region) (l : StashLine) : (r.putStash l).doneAt = r.doneAt := rfl
@[simp] theorem Region.putStash_stage (r : Region) (l : StashLine) : (r.putStash l).stage = r.stage := rfl
@[simp] theorem Region.putStash_finished (r : Region) (l : StashLine) : (r.putStash l).finished = r.finished := rfl
@[simp] theorem Region.putStash_lateFault (r : Region) (l : StashLine) : (r.putStash l).lateFault = r.lateFault := rfl
@[simp] theorem Region.putStash_halter (r : Region) (l : StashLine) : (r.putStash l).halter = r.halter := rfl
@[simp] theorem Region.putStash_before (r : Region) (l : StashLine) : (r.putStash l).before = r.before := rfl
@[simp] theorem Region.putStash_kept (r : Region) (l : StashLine) : (r.putStash l).kept = r.kept := rfl
@[simp] theorem Region.putStash_stops (r : Region) (l : StashLine) : (r.putStash l).stops = r.stops := rfl
@[simp] theorem Region.putStash_passing (r : Region) (l : StashLine) : (r.putStash l).passing = r.passing := rfl
@[simp] theorem Region.putStash_picked (r : Region) (l : StashLine) : (r.putStash l).picked = r.picked := rfl
@[simp] theorem Region.putStash_storing (r : Region) (l : StashLine) : (r.putStash l).storing = r.storing := rfl
@[simp] theorem Region.putStash_inherit (r : Region) (l : StashLine) : (r.putStash l).inherit = r.inherit := rfl
@[simp] theorem Region.putStash_succ (r : Region) (l : StashLine) : (r.putStash l).succ = r.succ := rfl
@[simp] theorem Region.putStash_succFlags (r : Region) (l : StashLine) : (r.putStash l).succFlags = r.succFlags := rfl
@[simp] theorem Region.putStash_dropTo (r : Region) (l : StashLine) : (r.putStash l).dropTo = r.dropTo := rfl

/-! ### Region.dropStash -/

@[simp] theorem Region.dropStash_mode (r : Region) (l : Nat) : (r.dropStash l).mode = r.mode := rfl
@[simp] theorem Region.dropStash_inst (r : Region) (l : Nat) : (r.dropStash l).inst = r.inst := rfl
@[simp] theorem Region.dropStash_launch (r : Region) (l : Nat) : (r.dropStash l).launch = r.launch := rfl
@[simp] theorem Region.dropStash_image (r : Region) (l : Nat) : (r.dropStash l).image = r.image := rfl
@[simp] theorem Region.dropStash_sys (r : Region) (l : Nat) : (r.dropStash l).sys = r.sys := rfl
@[simp] theorem Region.dropStash_job (r : Region) (l : Nat) : (r.dropStash l).job = r.job := rfl
@[simp] theorem Region.dropStash_instIdx (r : Region) (l : Nat) : (r.dropStash l).instIdx = r.instIdx := rfl
@[simp] theorem Region.dropStash_placeId (r : Region) (l : Nat) : (r.dropStash l).placeId = r.placeId := rfl
@[simp] theorem Region.dropStash_origin (r : Region) (l : Nat) : (r.dropStash l).origin = r.origin := rfl
@[simp] theorem Region.dropStash_spanW (r : Region) (l : Nat) : (r.dropStash l).spanW = r.spanW := rfl
@[simp] theorem Region.dropStash_spanH (r : Region) (l : Nat) : (r.dropStash l).spanH = r.spanH := rfl
@[simp] theorem Region.dropStash_group (r : Region) (l : Nat) : (r.dropStash l).group = r.group := rfl
@[simp] theorem Region.dropStash_reach (r : Region) (l : Nat) : (r.dropStash l).reach = r.reach := rfl
@[simp] theorem Region.dropStash_elastic (r : Region) (l : Nat) : (r.dropStash l).elastic = r.elastic := rfl
@[simp] theorem Region.dropStash_regs (r : Region) (l : Nat) : (r.dropStash l).regs = r.regs := rfl
@[simp] theorem Region.dropStash_cc (r : Region) (l : Nat) : (r.dropStash l).cc = r.cc := rfl
@[simp] theorem Region.dropStash_ic (r : Region) (l : Nat) : (r.dropStash l).ic = r.ic := rfl
@[simp] theorem Region.dropStash_icend (r : Region) (l : Nat) : (r.dropStash l).icend = r.icend := rfl
@[simp] theorem Region.dropStash_widBase (r : Region) (l : Nat) : (r.dropStash l).widBase = r.widBase := rfl
@[simp] theorem Region.dropStash_shape (r : Region) (l : Nat) : (r.dropStash l).shape = r.shape := rfl
@[simp] theorem Region.dropStash_slot (r : Region) (l : Nat) : (r.dropStash l).slot = r.slot := rfl
@[simp] theorem Region.dropStash_asid (r : Region) (l : Nat) : (r.dropStash l).asid = r.asid := rfl
@[simp] theorem Region.dropStash_fpflags (r : Region) (l : Nat) : (r.dropStash l).fpflags = r.fpflags := rfl
@[simp] theorem Region.dropStash_ev (r : Region) (l : Nat) : (r.dropStash l).ev = r.ev := rfl
@[simp] theorem Region.dropStash_rescale (r : Region) (l : Nat) : (r.dropStash l).rescale = r.rescale := rfl
@[simp] theorem Region.dropStash_timer (r : Region) (l : Nat) : (r.dropStash l).timer = r.timer := rfl
@[simp] theorem Region.dropStash_timerEv (r : Region) (l : Nat) : (r.dropStash l).timerEv = r.timerEv := rfl
@[simp] theorem Region.dropStash_lclk (r : Region) (l : Nat) : (r.dropStash l).lclk = r.lclk := rfl
@[simp] theorem Region.dropStash_faults (r : Region) (l : Nat) : (r.dropStash l).faults = r.faults := rfl
@[simp] theorem Region.dropStash_faultsAt (r : Region) (l : Nat) : (r.dropStash l).faultsAt = r.faultsAt := rfl
@[simp] theorem Region.dropStash_faultsIn (r : Region) (l : Nat) : (r.dropStash l).faultsIn = r.faultsIn := rfl
@[simp] theorem Region.dropStash_handlers (r : Region) (l : Nat) : (r.dropStash l).handlers = r.handlers := rfl
@[simp] theorem Region.dropStash_chmap (r : Region) (l : Nat) : (r.dropStash l).chmap = r.chmap := rfl
@[simp] theorem Region.dropStash_handles (r : Region) (l : Nat) : (r.dropStash l).handles = r.handles := rfl
@[simp] theorem Region.dropStash_cmdQ (r : Region) (l : Nat) : (r.dropStash l).cmdQ = r.cmdQ := rfl
@[simp] theorem Region.dropStash_sif (r : Region) (l : Nat) : (r.dropStash l).sif = r.sif := rfl
@[simp] theorem Region.dropStash_bindSeq (r : Region) (l : Nat) : (r.dropStash l).bindSeq = r.bindSeq := rfl
@[simp] theorem Region.dropStash_live (r : Region) (l : Nat) : (r.dropStash l).live = r.live := rfl
@[simp] theorem Region.dropStash_pools (r : Region) (l : Nat) : (r.dropStash l).pools = r.pools := rfl
@[simp] theorem Region.dropStash_pconOut (r : Region) (l : Nat) : (r.dropStash l).pconOut = r.pconOut := rfl
@[simp] theorem Region.dropStash_steps (r : Region) (l : Nat) : (r.dropStash l).steps = r.steps := rfl
@[simp] theorem Region.dropStash_stepNo (r : Region) (l : Nat) : (r.dropStash l).stepNo = r.stepNo := rfl
@[simp] theorem Region.dropStash_cells (r : Region) (l : Nat) : (r.dropStash l).cells = r.cells := rfl
@[simp] theorem Region.dropStash_ports (r : Region) (l : Nat) : (r.dropStash l).ports = r.ports := rfl
@[simp] theorem Region.dropStash_sides (r : Region) (l : Nat) : (r.dropStash l).sides = r.sides := rfl
@[simp] theorem Region.dropStash_columns (r : Region) (l : Nat) : (r.dropStash l).columns = r.columns := rfl
@[simp] theorem Region.dropStash_matrix (r : Region) (l : Nat) : (r.dropStash l).matrix = r.matrix := rfl
@[simp] theorem Region.dropStash_wbOut (r : Region) (l : Nat) : (r.dropStash l).wbOut = r.wbOut := rfl
@[simp] theorem Region.dropStash_asked (r : Region) (l : Nat) : (r.dropStash l).asked = r.asked := rfl
@[simp] theorem Region.dropStash_tlb (r : Region) (l : Nat) : (r.dropStash l).tlb = r.tlb := rfl
@[simp] theorem Region.dropStash_rill (r : Region) (l : Nat) : (r.dropStash l).rill = r.rill := rfl
@[simp] theorem Region.dropStash_gens (r : Region) (l : Nat) : (r.dropStash l).gens = r.gens := rfl
@[simp] theorem Region.dropStash_comps (r : Region) (l : Nat) : (r.dropStash l).comps = r.comps := rfl
@[simp] theorem Region.dropStash_doneAt (r : Region) (l : Nat) : (r.dropStash l).doneAt = r.doneAt := rfl
@[simp] theorem Region.dropStash_stage (r : Region) (l : Nat) : (r.dropStash l).stage = r.stage := rfl
@[simp] theorem Region.dropStash_finished (r : Region) (l : Nat) : (r.dropStash l).finished = r.finished := rfl
@[simp] theorem Region.dropStash_lateFault (r : Region) (l : Nat) : (r.dropStash l).lateFault = r.lateFault := rfl
@[simp] theorem Region.dropStash_halter (r : Region) (l : Nat) : (r.dropStash l).halter = r.halter := rfl
@[simp] theorem Region.dropStash_before (r : Region) (l : Nat) : (r.dropStash l).before = r.before := rfl
@[simp] theorem Region.dropStash_kept (r : Region) (l : Nat) : (r.dropStash l).kept = r.kept := rfl
@[simp] theorem Region.dropStash_stampNo (r : Region) (l : Nat) : (r.dropStash l).stampNo = r.stampNo := rfl
@[simp] theorem Region.dropStash_stops (r : Region) (l : Nat) : (r.dropStash l).stops = r.stops := rfl
@[simp] theorem Region.dropStash_passing (r : Region) (l : Nat) : (r.dropStash l).passing = r.passing := rfl
@[simp] theorem Region.dropStash_picked (r : Region) (l : Nat) : (r.dropStash l).picked = r.picked := rfl
@[simp] theorem Region.dropStash_storing (r : Region) (l : Nat) : (r.dropStash l).storing = r.storing := rfl
@[simp] theorem Region.dropStash_inherit (r : Region) (l : Nat) : (r.dropStash l).inherit = r.inherit := rfl
@[simp] theorem Region.dropStash_succ (r : Region) (l : Nat) : (r.dropStash l).succ = r.succ := rfl
@[simp] theorem Region.dropStash_succFlags (r : Region) (l : Nat) : (r.dropStash l).succFlags = r.succFlags := rfl
@[simp] theorem Region.dropStash_dropTo (r : Region) (l : Nat) : (r.dropStash l).dropTo = r.dropTo := rfl

/-! ### Die.setChan -/

@[simp] theorem Die.setChan_inbw (d : Die) (c : Nat) (x : Channel) : (d.setChan c x).inbw = d.inbw := rfl
@[simp] theorem Die.setChan_stallMax (d : Die) (c : Nat) (x : Channel) : (d.setChan c x).stallMax = d.stallMax := rfl
@[simp] theorem Die.setChan_admwd (d : Die) (c : Nat) (x : Channel) : (d.setChan c x).admwd = d.admwd := rfl
@[simp] theorem Die.setChan_snapTo (d : Die) (c : Nat) (x : Channel) : (d.setChan c x).snapTo = d.snapTo := rfl
@[simp] theorem Die.setChan_splTo (d : Die) (c : Nat) (x : Channel) : (d.setChan c x).splTo = d.splTo := rfl
@[simp] theorem Die.setChan_saveBase (d : Die) (c : Nat) (x : Channel) : (d.setChan c x).saveBase = d.saveBase := rfl
@[simp] theorem Die.setChan_saveN (d : Die) (c : Nat) (x : Channel) : (d.setChan c x).saveN = d.saveN := rfl
@[simp] theorem Die.setChan_autop (d : Die) (c : Nat) (x : Channel) : (d.setChan c x).autop = d.autop := rfl
@[simp] theorem Die.setChan_retTo (d : Die) (c : Nat) (x : Channel) : (d.setChan c x).retTo = d.retTo := rfl
@[simp] theorem Die.setChan_gateDly (d : Die) (c : Nat) (x : Channel) : (d.setChan c x).gateDly = d.gateDly := rfl
@[simp] theorem Die.setChan_pcap (d : Die) (c : Nat) (x : Channel) : (d.setChan c x).pcap = d.pcap := rfl
@[simp] theorem Die.setChan_fclr (d : Die) (c : Nat) (x : Channel) : (d.setChan c x).fclr = d.fclr := rfl
@[simp] theorem Die.setChan_domains (d : Die) (c : Nat) (x : Channel) : (d.setChan c x).domains = d.domains := rfl
@[simp] theorem Die.setChan_queues (d : Die) (c : Nat) (x : Channel) : (d.setChan c x).queues = d.queues := rfl
@[simp] theorem Die.setChan_served (d : Die) (c : Nat) (x : Channel) : (d.setChan c x).served = d.served := rfl
@[simp] theorem Die.setChan_credit (d : Die) (c : Nat) (x : Channel) : (d.setChan c x).credit = d.credit := rfl
@[simp] theorem Die.setChan_turn (d : Die) (c : Nat) (x : Channel) : (d.setChan c x).turn = d.turn := rfl
@[simp] theorem Die.setChan_inboxLast (d : Die) (c : Nat) (x : Channel) : (d.setChan c x).inboxLast = d.inboxLast := rfl
@[simp] theorem Die.setChan_launches (d : Die) (c : Nat) (x : Channel) : (d.setChan c x).launches = d.launches := rfl
@[simp] theorem Die.setChan_insts (d : Die) (c : Nat) (x : Channel) : (d.setChan c x).insts = d.insts := rfl
@[simp] theorem Die.setChan_inbox (d : Die) (c : Nat) (x : Channel) : (d.setChan c x).inbox = d.inbox := rfl
@[simp] theorem Die.setChan_copyIn (d : Die) (c : Nat) (x : Channel) : (d.setChan c x).copyIn = d.copyIn := rfl
@[simp] theorem Die.setChan_weirIn (d : Die) (c : Nat) (x : Channel) : (d.setChan c x).weirIn = d.weirIn := rfl
@[simp] theorem Die.setChan_copyEng (d : Die) (c : Nat) (x : Channel) : (d.setChan c x).copyEng = d.copyEng := rfl
@[simp] theorem Die.setChan_weirJobs (d : Die) (c : Nat) (x : Channel) : (d.setChan c x).weirJobs = d.weirJobs := rfl
@[simp] theorem Die.setChan_holders (d : Die) (c : Nat) (x : Channel) : (d.setChan c x).holders = d.holders := rfl
@[simp] theorem Die.setChan_arrivals (d : Die) (c : Nat) (x : Channel) : (d.setChan c x).arrivals = d.arrivals := rfl
@[simp] theorem Die.setChan_hclk (d : Die) (c : Nat) (x : Channel) : (d.setChan c x).hclk = d.hclk := rfl
@[simp] theorem Die.setChan_preempt (d : Die) (c : Nat) (x : Channel) : (d.setChan c x).preempt = d.preempt := rfl
@[simp] theorem Die.setChan_preqWait (d : Die) (c : Nat) (x : Channel) : (d.setChan c x).preqWait = d.preqWait := rfl
@[simp] theorem Die.setChan_slotsUsed (d : Die) (c : Nat) (x : Channel) : (d.setChan c x).slotsUsed = d.slotsUsed := rfl
@[simp] theorem Die.setChan_clusters (d : Die) (c : Nat) (x : Channel) : (d.setChan c x).clusters = d.clusters := rfl
@[simp] theorem Die.setChan_etc (d : Die) (c : Nat) (x : Channel) : (d.setChan c x).etc = d.etc := rfl
@[simp] theorem Die.setChan_rillRoot (d : Die) (c : Nat) (x : Channel) : (d.setChan c x).rillRoot = d.rillRoot := rfl
@[simp] theorem Die.setChan_relatch (d : Die) (c : Nat) (x : Channel) : (d.setChan c x).relatch = d.relatch := rfl
@[simp] theorem Die.setChan_noLatch (d : Die) (c : Nat) (x : Channel) : (d.setChan c x).noLatch = d.noLatch := rfl

/-! ### Die.setQueue -/

@[simp] theorem Die.setQueue_inbw (d : Die) (q : Nat) (x : Queue) : (d.setQueue q x).inbw = d.inbw := rfl
@[simp] theorem Die.setQueue_stallMax (d : Die) (q : Nat) (x : Queue) : (d.setQueue q x).stallMax = d.stallMax := rfl
@[simp] theorem Die.setQueue_admwd (d : Die) (q : Nat) (x : Queue) : (d.setQueue q x).admwd = d.admwd := rfl
@[simp] theorem Die.setQueue_snapTo (d : Die) (q : Nat) (x : Queue) : (d.setQueue q x).snapTo = d.snapTo := rfl
@[simp] theorem Die.setQueue_splTo (d : Die) (q : Nat) (x : Queue) : (d.setQueue q x).splTo = d.splTo := rfl
@[simp] theorem Die.setQueue_saveBase (d : Die) (q : Nat) (x : Queue) : (d.setQueue q x).saveBase = d.saveBase := rfl
@[simp] theorem Die.setQueue_saveN (d : Die) (q : Nat) (x : Queue) : (d.setQueue q x).saveN = d.saveN := rfl
@[simp] theorem Die.setQueue_autop (d : Die) (q : Nat) (x : Queue) : (d.setQueue q x).autop = d.autop := rfl
@[simp] theorem Die.setQueue_retTo (d : Die) (q : Nat) (x : Queue) : (d.setQueue q x).retTo = d.retTo := rfl
@[simp] theorem Die.setQueue_gateDly (d : Die) (q : Nat) (x : Queue) : (d.setQueue q x).gateDly = d.gateDly := rfl
@[simp] theorem Die.setQueue_pcap (d : Die) (q : Nat) (x : Queue) : (d.setQueue q x).pcap = d.pcap := rfl
@[simp] theorem Die.setQueue_fclr (d : Die) (q : Nat) (x : Queue) : (d.setQueue q x).fclr = d.fclr := rfl
@[simp] theorem Die.setQueue_domains (d : Die) (q : Nat) (x : Queue) : (d.setQueue q x).domains = d.domains := rfl
@[simp] theorem Die.setQueue_served (d : Die) (q : Nat) (x : Queue) : (d.setQueue q x).served = d.served := rfl
@[simp] theorem Die.setQueue_credit (d : Die) (q : Nat) (x : Queue) : (d.setQueue q x).credit = d.credit := rfl
@[simp] theorem Die.setQueue_turn (d : Die) (q : Nat) (x : Queue) : (d.setQueue q x).turn = d.turn := rfl
@[simp] theorem Die.setQueue_inboxLast (d : Die) (q : Nat) (x : Queue) : (d.setQueue q x).inboxLast = d.inboxLast := rfl
@[simp] theorem Die.setQueue_launches (d : Die) (q : Nat) (x : Queue) : (d.setQueue q x).launches = d.launches := rfl
@[simp] theorem Die.setQueue_insts (d : Die) (q : Nat) (x : Queue) : (d.setQueue q x).insts = d.insts := rfl
@[simp] theorem Die.setQueue_inbox (d : Die) (q : Nat) (x : Queue) : (d.setQueue q x).inbox = d.inbox := rfl
@[simp] theorem Die.setQueue_copyIn (d : Die) (q : Nat) (x : Queue) : (d.setQueue q x).copyIn = d.copyIn := rfl
@[simp] theorem Die.setQueue_weirIn (d : Die) (q : Nat) (x : Queue) : (d.setQueue q x).weirIn = d.weirIn := rfl
@[simp] theorem Die.setQueue_copyEng (d : Die) (q : Nat) (x : Queue) : (d.setQueue q x).copyEng = d.copyEng := rfl
@[simp] theorem Die.setQueue_weirJobs (d : Die) (q : Nat) (x : Queue) : (d.setQueue q x).weirJobs = d.weirJobs := rfl
@[simp] theorem Die.setQueue_holders (d : Die) (q : Nat) (x : Queue) : (d.setQueue q x).holders = d.holders := rfl
@[simp] theorem Die.setQueue_arrivals (d : Die) (q : Nat) (x : Queue) : (d.setQueue q x).arrivals = d.arrivals := rfl
@[simp] theorem Die.setQueue_chans (d : Die) (q : Nat) (x : Queue) : (d.setQueue q x).chans = d.chans := rfl
@[simp] theorem Die.setQueue_hclk (d : Die) (q : Nat) (x : Queue) : (d.setQueue q x).hclk = d.hclk := rfl
@[simp] theorem Die.setQueue_preempt (d : Die) (q : Nat) (x : Queue) : (d.setQueue q x).preempt = d.preempt := rfl
@[simp] theorem Die.setQueue_preqWait (d : Die) (q : Nat) (x : Queue) : (d.setQueue q x).preqWait = d.preqWait := rfl
@[simp] theorem Die.setQueue_slotsUsed (d : Die) (q : Nat) (x : Queue) : (d.setQueue q x).slotsUsed = d.slotsUsed := rfl
@[simp] theorem Die.setQueue_clusters (d : Die) (q : Nat) (x : Queue) : (d.setQueue q x).clusters = d.clusters := rfl
@[simp] theorem Die.setQueue_etc (d : Die) (q : Nat) (x : Queue) : (d.setQueue q x).etc = d.etc := rfl
@[simp] theorem Die.setQueue_rillRoot (d : Die) (q : Nat) (x : Queue) : (d.setQueue q x).rillRoot = d.rillRoot := rfl
@[simp] theorem Die.setQueue_relatch (d : Die) (q : Nat) (x : Queue) : (d.setQueue q x).relatch = d.relatch := rfl
@[simp] theorem Die.setQueue_noLatch (d : Die) (q : Nat) (x : Queue) : (d.setQueue q x).noLatch = d.noLatch := rfl

/-! ### Die.setDomain -/

@[simp] theorem Die.setDomain_inbw (d : Die) (j : Nat) (x : Domain) : (d.setDomain j x).inbw = d.inbw := rfl
@[simp] theorem Die.setDomain_stallMax (d : Die) (j : Nat) (x : Domain) : (d.setDomain j x).stallMax = d.stallMax := rfl
@[simp] theorem Die.setDomain_admwd (d : Die) (j : Nat) (x : Domain) : (d.setDomain j x).admwd = d.admwd := rfl
@[simp] theorem Die.setDomain_snapTo (d : Die) (j : Nat) (x : Domain) : (d.setDomain j x).snapTo = d.snapTo := rfl
@[simp] theorem Die.setDomain_splTo (d : Die) (j : Nat) (x : Domain) : (d.setDomain j x).splTo = d.splTo := rfl
@[simp] theorem Die.setDomain_saveBase (d : Die) (j : Nat) (x : Domain) : (d.setDomain j x).saveBase = d.saveBase := rfl
@[simp] theorem Die.setDomain_saveN (d : Die) (j : Nat) (x : Domain) : (d.setDomain j x).saveN = d.saveN := rfl
@[simp] theorem Die.setDomain_autop (d : Die) (j : Nat) (x : Domain) : (d.setDomain j x).autop = d.autop := rfl
@[simp] theorem Die.setDomain_retTo (d : Die) (j : Nat) (x : Domain) : (d.setDomain j x).retTo = d.retTo := rfl
@[simp] theorem Die.setDomain_gateDly (d : Die) (j : Nat) (x : Domain) : (d.setDomain j x).gateDly = d.gateDly := rfl
@[simp] theorem Die.setDomain_pcap (d : Die) (j : Nat) (x : Domain) : (d.setDomain j x).pcap = d.pcap := rfl
@[simp] theorem Die.setDomain_fclr (d : Die) (j : Nat) (x : Domain) : (d.setDomain j x).fclr = d.fclr := rfl
@[simp] theorem Die.setDomain_queues (d : Die) (j : Nat) (x : Domain) : (d.setDomain j x).queues = d.queues := rfl
@[simp] theorem Die.setDomain_served (d : Die) (j : Nat) (x : Domain) : (d.setDomain j x).served = d.served := rfl
@[simp] theorem Die.setDomain_credit (d : Die) (j : Nat) (x : Domain) : (d.setDomain j x).credit = d.credit := rfl
@[simp] theorem Die.setDomain_turn (d : Die) (j : Nat) (x : Domain) : (d.setDomain j x).turn = d.turn := rfl
@[simp] theorem Die.setDomain_inboxLast (d : Die) (j : Nat) (x : Domain) : (d.setDomain j x).inboxLast = d.inboxLast := rfl
@[simp] theorem Die.setDomain_launches (d : Die) (j : Nat) (x : Domain) : (d.setDomain j x).launches = d.launches := rfl
@[simp] theorem Die.setDomain_insts (d : Die) (j : Nat) (x : Domain) : (d.setDomain j x).insts = d.insts := rfl
@[simp] theorem Die.setDomain_inbox (d : Die) (j : Nat) (x : Domain) : (d.setDomain j x).inbox = d.inbox := rfl
@[simp] theorem Die.setDomain_copyIn (d : Die) (j : Nat) (x : Domain) : (d.setDomain j x).copyIn = d.copyIn := rfl
@[simp] theorem Die.setDomain_weirIn (d : Die) (j : Nat) (x : Domain) : (d.setDomain j x).weirIn = d.weirIn := rfl
@[simp] theorem Die.setDomain_copyEng (d : Die) (j : Nat) (x : Domain) : (d.setDomain j x).copyEng = d.copyEng := rfl
@[simp] theorem Die.setDomain_weirJobs (d : Die) (j : Nat) (x : Domain) : (d.setDomain j x).weirJobs = d.weirJobs := rfl
@[simp] theorem Die.setDomain_holders (d : Die) (j : Nat) (x : Domain) : (d.setDomain j x).holders = d.holders := rfl
@[simp] theorem Die.setDomain_arrivals (d : Die) (j : Nat) (x : Domain) : (d.setDomain j x).arrivals = d.arrivals := rfl
@[simp] theorem Die.setDomain_chans (d : Die) (j : Nat) (x : Domain) : (d.setDomain j x).chans = d.chans := rfl
@[simp] theorem Die.setDomain_hclk (d : Die) (j : Nat) (x : Domain) : (d.setDomain j x).hclk = d.hclk := rfl
@[simp] theorem Die.setDomain_preempt (d : Die) (j : Nat) (x : Domain) : (d.setDomain j x).preempt = d.preempt := rfl
@[simp] theorem Die.setDomain_preqWait (d : Die) (j : Nat) (x : Domain) : (d.setDomain j x).preqWait = d.preqWait := rfl
@[simp] theorem Die.setDomain_slotsUsed (d : Die) (j : Nat) (x : Domain) : (d.setDomain j x).slotsUsed = d.slotsUsed := rfl
@[simp] theorem Die.setDomain_clusters (d : Die) (j : Nat) (x : Domain) : (d.setDomain j x).clusters = d.clusters := rfl
@[simp] theorem Die.setDomain_etc (d : Die) (j : Nat) (x : Domain) : (d.setDomain j x).etc = d.etc := rfl
@[simp] theorem Die.setDomain_rillRoot (d : Die) (j : Nat) (x : Domain) : (d.setDomain j x).rillRoot = d.rillRoot := rfl
@[simp] theorem Die.setDomain_relatch (d : Die) (j : Nat) (x : Domain) : (d.setDomain j x).relatch = d.relatch := rfl
@[simp] theorem Die.setDomain_noLatch (d : Die) (j : Nat) (x : Domain) : (d.setDomain j x).noLatch = d.noLatch := rfl

/-! ### Die.setCluster -/

@[simp] theorem Die.setCluster_inbw (d : Die) (c : Nat) (x : Cluster) : (d.setCluster c x).inbw = d.inbw := rfl
@[simp] theorem Die.setCluster_stallMax (d : Die) (c : Nat) (x : Cluster) : (d.setCluster c x).stallMax = d.stallMax := rfl
@[simp] theorem Die.setCluster_admwd (d : Die) (c : Nat) (x : Cluster) : (d.setCluster c x).admwd = d.admwd := rfl
@[simp] theorem Die.setCluster_snapTo (d : Die) (c : Nat) (x : Cluster) : (d.setCluster c x).snapTo = d.snapTo := rfl
@[simp] theorem Die.setCluster_splTo (d : Die) (c : Nat) (x : Cluster) : (d.setCluster c x).splTo = d.splTo := rfl
@[simp] theorem Die.setCluster_saveBase (d : Die) (c : Nat) (x : Cluster) : (d.setCluster c x).saveBase = d.saveBase := rfl
@[simp] theorem Die.setCluster_saveN (d : Die) (c : Nat) (x : Cluster) : (d.setCluster c x).saveN = d.saveN := rfl
@[simp] theorem Die.setCluster_autop (d : Die) (c : Nat) (x : Cluster) : (d.setCluster c x).autop = d.autop := rfl
@[simp] theorem Die.setCluster_retTo (d : Die) (c : Nat) (x : Cluster) : (d.setCluster c x).retTo = d.retTo := rfl
@[simp] theorem Die.setCluster_gateDly (d : Die) (c : Nat) (x : Cluster) : (d.setCluster c x).gateDly = d.gateDly := rfl
@[simp] theorem Die.setCluster_pcap (d : Die) (c : Nat) (x : Cluster) : (d.setCluster c x).pcap = d.pcap := rfl
@[simp] theorem Die.setCluster_fclr (d : Die) (c : Nat) (x : Cluster) : (d.setCluster c x).fclr = d.fclr := rfl
@[simp] theorem Die.setCluster_domains (d : Die) (c : Nat) (x : Cluster) : (d.setCluster c x).domains = d.domains := rfl
@[simp] theorem Die.setCluster_queues (d : Die) (c : Nat) (x : Cluster) : (d.setCluster c x).queues = d.queues := rfl
@[simp] theorem Die.setCluster_served (d : Die) (c : Nat) (x : Cluster) : (d.setCluster c x).served = d.served := rfl
@[simp] theorem Die.setCluster_credit (d : Die) (c : Nat) (x : Cluster) : (d.setCluster c x).credit = d.credit := rfl
@[simp] theorem Die.setCluster_turn (d : Die) (c : Nat) (x : Cluster) : (d.setCluster c x).turn = d.turn := rfl
@[simp] theorem Die.setCluster_inboxLast (d : Die) (c : Nat) (x : Cluster) : (d.setCluster c x).inboxLast = d.inboxLast := rfl
@[simp] theorem Die.setCluster_launches (d : Die) (c : Nat) (x : Cluster) : (d.setCluster c x).launches = d.launches := rfl
@[simp] theorem Die.setCluster_insts (d : Die) (c : Nat) (x : Cluster) : (d.setCluster c x).insts = d.insts := rfl
@[simp] theorem Die.setCluster_inbox (d : Die) (c : Nat) (x : Cluster) : (d.setCluster c x).inbox = d.inbox := rfl
@[simp] theorem Die.setCluster_copyIn (d : Die) (c : Nat) (x : Cluster) : (d.setCluster c x).copyIn = d.copyIn := rfl
@[simp] theorem Die.setCluster_weirIn (d : Die) (c : Nat) (x : Cluster) : (d.setCluster c x).weirIn = d.weirIn := rfl
@[simp] theorem Die.setCluster_copyEng (d : Die) (c : Nat) (x : Cluster) : (d.setCluster c x).copyEng = d.copyEng := rfl
@[simp] theorem Die.setCluster_weirJobs (d : Die) (c : Nat) (x : Cluster) : (d.setCluster c x).weirJobs = d.weirJobs := rfl
@[simp] theorem Die.setCluster_holders (d : Die) (c : Nat) (x : Cluster) : (d.setCluster c x).holders = d.holders := rfl
@[simp] theorem Die.setCluster_arrivals (d : Die) (c : Nat) (x : Cluster) : (d.setCluster c x).arrivals = d.arrivals := rfl
@[simp] theorem Die.setCluster_chans (d : Die) (c : Nat) (x : Cluster) : (d.setCluster c x).chans = d.chans := rfl
@[simp] theorem Die.setCluster_hclk (d : Die) (c : Nat) (x : Cluster) : (d.setCluster c x).hclk = d.hclk := rfl
@[simp] theorem Die.setCluster_preempt (d : Die) (c : Nat) (x : Cluster) : (d.setCluster c x).preempt = d.preempt := rfl
@[simp] theorem Die.setCluster_preqWait (d : Die) (c : Nat) (x : Cluster) : (d.setCluster c x).preqWait = d.preqWait := rfl
@[simp] theorem Die.setCluster_slotsUsed (d : Die) (c : Nat) (x : Cluster) : (d.setCluster c x).slotsUsed = d.slotsUsed := rfl
@[simp] theorem Die.setCluster_etc (d : Die) (c : Nat) (x : Cluster) : (d.setCluster c x).etc = d.etc := rfl
@[simp] theorem Die.setCluster_rillRoot (d : Die) (c : Nat) (x : Cluster) : (d.setCluster c x).rillRoot = d.rillRoot := rfl
@[simp] theorem Die.setCluster_relatch (d : Die) (c : Nat) (x : Cluster) : (d.setCluster c x).relatch = d.relatch := rfl
@[simp] theorem Die.setCluster_noLatch (d : Die) (c : Nat) (x : Cluster) : (d.setCluster c x).noLatch = d.noLatch := rfl

/-! ### The accessors of one table after an update of another -/

@[simp] theorem State.setRegion_die (s : State) (a : Nat) (x : Region) (n : Nat) : (s.setRegion a x).die n = s.die n := rfl
@[simp] theorem State.setRegion_array (s : State) (a : Nat) (x : Region) (n : Nat) : (s.setRegion a x).array n = s.array n := rfl
@[simp] theorem State.setRegion_line (s : State) (a : Nat) (x : Region) (n : Nat) : (s.setRegion a x).line n = s.line n := rfl
@[simp] theorem State.setRegion_record (s : State) (a : Nat) (x : Region) (n : Nat) : (s.setRegion a x).record n = s.record n := rfl
@[simp] theorem State.setDie_region (s : State) (a : Nat) (x : Die) (n : Nat) : (s.setDie a x).region n = s.region n := rfl
@[simp] theorem State.setDie_array (s : State) (a : Nat) (x : Die) (n : Nat) : (s.setDie a x).array n = s.array n := rfl
@[simp] theorem State.setDie_line (s : State) (a : Nat) (x : Die) (n : Nat) : (s.setDie a x).line n = s.line n := rfl
@[simp] theorem State.setDie_record (s : State) (a : Nat) (x : Die) (n : Nat) : (s.setDie a x).record n = s.record n := rfl
@[simp] theorem State.setArray_region (s : State) (a : Nat) (x : WeirArray) (n : Nat) : (s.setArray a x).region n = s.region n := rfl
@[simp] theorem State.setArray_die (s : State) (a : Nat) (x : WeirArray) (n : Nat) : (s.setArray a x).die n = s.die n := rfl
@[simp] theorem State.setArray_line (s : State) (a : Nat) (x : WeirArray) (n : Nat) : (s.setArray a x).line n = s.line n := rfl
@[simp] theorem State.setArray_record (s : State) (a : Nat) (x : WeirArray) (n : Nat) : (s.setArray a x).record n = s.record n := rfl
@[simp] theorem State.setLine_region (s : State) (a : Nat) (x : HomeLine) (n : Nat) : (s.setLine a x).region n = s.region n := rfl
@[simp] theorem State.setLine_die (s : State) (a : Nat) (x : HomeLine) (n : Nat) : (s.setLine a x).die n = s.die n := rfl
@[simp] theorem State.setLine_array (s : State) (a : Nat) (x : HomeLine) (n : Nat) : (s.setLine a x).array n = s.array n := rfl
@[simp] theorem State.setLine_record (s : State) (a : Nat) (x : HomeLine) (n : Nat) : (s.setLine a x).record n = s.record n := rfl
@[simp] theorem State.setRecord_region (s : State) (a : Nat) (x : GaugeRec) (n : Nat) : (s.setRecord a x).region n = s.region n := rfl
@[simp] theorem State.setRecord_die (s : State) (a : Nat) (x : GaugeRec) (n : Nat) : (s.setRecord a x).die n = s.die n := rfl
@[simp] theorem State.setRecord_array (s : State) (a : Nat) (x : GaugeRec) (n : Nat) : (s.setRecord a x).array n = s.array n := rfl
@[simp] theorem State.setRecord_line (s : State) (a : Nat) (x : GaugeRec) (n : Nat) : (s.setRecord a x).line n = s.line n := rfl
@[simp] theorem State.post_region (s : State) (a : Option Nat) (x : Body) (n : Nat) : (s.post a x).region n = s.region n := rfl
@[simp] theorem State.post_die (s : State) (a : Option Nat) (x : Body) (n : Nat) : (s.post a x).die n = s.die n := rfl
@[simp] theorem State.post_array (s : State) (a : Option Nat) (x : Body) (n : Nat) : (s.post a x).array n = s.array n := rfl
@[simp] theorem State.post_line (s : State) (a : Option Nat) (x : Body) (n : Nat) : (s.post a x).line n = s.line n := rfl
@[simp] theorem State.post_record (s : State) (a : Option Nat) (x : Body) (n : Nat) : (s.post a x).record n = s.record n := rfl
@[simp] theorem State.unpost_region (s : State) (a : Nat) (n : Nat) : (s.unpost a).region n = s.region n := rfl
@[simp] theorem State.unpost_die (s : State) (a : Nat) (n : Nat) : (s.unpost a).die n = s.die n := rfl
@[simp] theorem State.unpost_array (s : State) (a : Nat) (n : Nat) : (s.unpost a).array n = s.array n := rfl
@[simp] theorem State.unpost_line (s : State) (a : Nat) (n : Nat) : (s.unpost a).line n = s.line n := rfl
@[simp] theorem State.unpost_record (s : State) (a : Nat) (n : Nat) : (s.unpost a).record n = s.record n := rfl
@[simp] theorem State.wake_region (s : State) (a : Nat) (n : Nat) : (s.wake a).region n = s.region n := rfl
@[simp] theorem State.wake_die (s : State) (a : Nat) (n : Nat) : (s.wake a).die n = s.die n := rfl
@[simp] theorem State.wake_array (s : State) (a : Nat) (n : Nat) : (s.wake a).array n = s.array n := rfl
@[simp] theorem State.wake_line (s : State) (a : Nat) (n : Nat) : (s.wake a).line n = s.line n := rfl
@[simp] theorem State.wake_record (s : State) (a : Nat) (n : Nat) : (s.wake a).record n = s.record n := rfl

/-! ### Registers, modes and the words of a handler -/

@[simp] theorem Region.set_regs_get (r : Region) (i : Reg) (v : DWord) (h : i.val ≠ 0) : (r.set i v).get i = v := by
  simp [Region.set, Region.get, h]

theorem Region.set_zero (r : Region) (i : Reg) (v : DWord) (h : i.val = 0) : r.set i v = r := by
  simp [Region.set, h]

theorem Region.set_get_other (r : Region) (i j : Reg) (v : DWord) (h : j ≠ i) : (r.set i v).get j = r.get j := by
  have : i.val ≠ j.val := fun e => h (Fin.ext e.symm)
  by_cases h0 : i.val = 0 <;> simp [Region.set, Region.get, h0, this]

/-- Writing a register changes the registers alone. -/
theorem Region.set_eq (r : Region) (i : Reg) (v : DWord) : r.set i v = { r with regs := (r.set i v).regs } := by
  by_cases h : i.val = 0 <;> simp [Region.set, h]

@[simp] theorem Region.set_mode (r : Region) (i : Reg) (v : DWord) : (r.set i v).mode = r.mode := by rw [Region.set_eq]
@[simp] theorem Region.set_inst (r : Region) (i : Reg) (v : DWord) : (r.set i v).inst = r.inst := by rw [Region.set_eq]
@[simp] theorem Region.set_launch (r : Region) (i : Reg) (v : DWord) : (r.set i v).launch = r.launch := by rw [Region.set_eq]
@[simp] theorem Region.set_image (r : Region) (i : Reg) (v : DWord) : (r.set i v).image = r.image := by rw [Region.set_eq]
@[simp] theorem Region.set_sys (r : Region) (i : Reg) (v : DWord) : (r.set i v).sys = r.sys := by rw [Region.set_eq]
@[simp] theorem Region.set_job (r : Region) (i : Reg) (v : DWord) : (r.set i v).job = r.job := by rw [Region.set_eq]
@[simp] theorem Region.set_instIdx (r : Region) (i : Reg) (v : DWord) : (r.set i v).instIdx = r.instIdx := by rw [Region.set_eq]
@[simp] theorem Region.set_placeId (r : Region) (i : Reg) (v : DWord) : (r.set i v).placeId = r.placeId := by rw [Region.set_eq]
@[simp] theorem Region.set_origin (r : Region) (i : Reg) (v : DWord) : (r.set i v).origin = r.origin := by rw [Region.set_eq]
@[simp] theorem Region.set_spanW (r : Region) (i : Reg) (v : DWord) : (r.set i v).spanW = r.spanW := by rw [Region.set_eq]
@[simp] theorem Region.set_spanH (r : Region) (i : Reg) (v : DWord) : (r.set i v).spanH = r.spanH := by rw [Region.set_eq]
@[simp] theorem Region.set_group (r : Region) (i : Reg) (v : DWord) : (r.set i v).group = r.group := by rw [Region.set_eq]
@[simp] theorem Region.set_reach (r : Region) (i : Reg) (v : DWord) : (r.set i v).reach = r.reach := by rw [Region.set_eq]
@[simp] theorem Region.set_elastic (r : Region) (i : Reg) (v : DWord) : (r.set i v).elastic = r.elastic := by rw [Region.set_eq]
@[simp] theorem Region.set_cc (r : Region) (i : Reg) (v : DWord) : (r.set i v).cc = r.cc := by rw [Region.set_eq]
@[simp] theorem Region.set_ic (r : Region) (i : Reg) (v : DWord) : (r.set i v).ic = r.ic := by rw [Region.set_eq]
@[simp] theorem Region.set_icend (r : Region) (i : Reg) (v : DWord) : (r.set i v).icend = r.icend := by rw [Region.set_eq]
@[simp] theorem Region.set_widBase (r : Region) (i : Reg) (v : DWord) : (r.set i v).widBase = r.widBase := by rw [Region.set_eq]
@[simp] theorem Region.set_shape (r : Region) (i : Reg) (v : DWord) : (r.set i v).shape = r.shape := by rw [Region.set_eq]
@[simp] theorem Region.set_slot (r : Region) (i : Reg) (v : DWord) : (r.set i v).slot = r.slot := by rw [Region.set_eq]
@[simp] theorem Region.set_asid (r : Region) (i : Reg) (v : DWord) : (r.set i v).asid = r.asid := by rw [Region.set_eq]
@[simp] theorem Region.set_fpflags (r : Region) (i : Reg) (v : DWord) : (r.set i v).fpflags = r.fpflags := by rw [Region.set_eq]
@[simp] theorem Region.set_ev (r : Region) (i : Reg) (v : DWord) : (r.set i v).ev = r.ev := by rw [Region.set_eq]
@[simp] theorem Region.set_rescale (r : Region) (i : Reg) (v : DWord) : (r.set i v).rescale = r.rescale := by rw [Region.set_eq]
@[simp] theorem Region.set_timer (r : Region) (i : Reg) (v : DWord) : (r.set i v).timer = r.timer := by rw [Region.set_eq]
@[simp] theorem Region.set_timerEv (r : Region) (i : Reg) (v : DWord) : (r.set i v).timerEv = r.timerEv := by rw [Region.set_eq]
@[simp] theorem Region.set_lclk (r : Region) (i : Reg) (v : DWord) : (r.set i v).lclk = r.lclk := by rw [Region.set_eq]
@[simp] theorem Region.set_faults (r : Region) (i : Reg) (v : DWord) : (r.set i v).faults = r.faults := by rw [Region.set_eq]
@[simp] theorem Region.set_faultsAt (r : Region) (i : Reg) (v : DWord) : (r.set i v).faultsAt = r.faultsAt := by rw [Region.set_eq]
@[simp] theorem Region.set_faultsIn (r : Region) (i : Reg) (v : DWord) : (r.set i v).faultsIn = r.faultsIn := by rw [Region.set_eq]
@[simp] theorem Region.set_handlers (r : Region) (i : Reg) (v : DWord) : (r.set i v).handlers = r.handlers := by rw [Region.set_eq]
@[simp] theorem Region.set_chmap (r : Region) (i : Reg) (v : DWord) : (r.set i v).chmap = r.chmap := by rw [Region.set_eq]
@[simp] theorem Region.set_handles (r : Region) (i : Reg) (v : DWord) : (r.set i v).handles = r.handles := by rw [Region.set_eq]
@[simp] theorem Region.set_cmdQ (r : Region) (i : Reg) (v : DWord) : (r.set i v).cmdQ = r.cmdQ := by rw [Region.set_eq]
@[simp] theorem Region.set_sif (r : Region) (i : Reg) (v : DWord) : (r.set i v).sif = r.sif := by rw [Region.set_eq]
@[simp] theorem Region.set_bindSeq (r : Region) (i : Reg) (v : DWord) : (r.set i v).bindSeq = r.bindSeq := by rw [Region.set_eq]
@[simp] theorem Region.set_live (r : Region) (i : Reg) (v : DWord) : (r.set i v).live = r.live := by rw [Region.set_eq]
@[simp] theorem Region.set_pools (r : Region) (i : Reg) (v : DWord) : (r.set i v).pools = r.pools := by rw [Region.set_eq]
@[simp] theorem Region.set_pconOut (r : Region) (i : Reg) (v : DWord) : (r.set i v).pconOut = r.pconOut := by rw [Region.set_eq]
@[simp] theorem Region.set_steps (r : Region) (i : Reg) (v : DWord) : (r.set i v).steps = r.steps := by rw [Region.set_eq]
@[simp] theorem Region.set_stepNo (r : Region) (i : Reg) (v : DWord) : (r.set i v).stepNo = r.stepNo := by rw [Region.set_eq]
@[simp] theorem Region.set_cells (r : Region) (i : Reg) (v : DWord) : (r.set i v).cells = r.cells := by rw [Region.set_eq]
@[simp] theorem Region.set_ports (r : Region) (i : Reg) (v : DWord) : (r.set i v).ports = r.ports := by rw [Region.set_eq]
@[simp] theorem Region.set_sides (r : Region) (i : Reg) (v : DWord) : (r.set i v).sides = r.sides := by rw [Region.set_eq]
@[simp] theorem Region.set_columns (r : Region) (i : Reg) (v : DWord) : (r.set i v).columns = r.columns := by rw [Region.set_eq]
@[simp] theorem Region.set_matrix (r : Region) (i : Reg) (v : DWord) : (r.set i v).matrix = r.matrix := by rw [Region.set_eq]
@[simp] theorem Region.set_stash (r : Region) (i : Reg) (v : DWord) : (r.set i v).stash = r.stash := by rw [Region.set_eq]
@[simp] theorem Region.set_wbOut (r : Region) (i : Reg) (v : DWord) : (r.set i v).wbOut = r.wbOut := by rw [Region.set_eq]
@[simp] theorem Region.set_asked (r : Region) (i : Reg) (v : DWord) : (r.set i v).asked = r.asked := by rw [Region.set_eq]
@[simp] theorem Region.set_tlb (r : Region) (i : Reg) (v : DWord) : (r.set i v).tlb = r.tlb := by rw [Region.set_eq]
@[simp] theorem Region.set_rill (r : Region) (i : Reg) (v : DWord) : (r.set i v).rill = r.rill := by rw [Region.set_eq]
@[simp] theorem Region.set_gens (r : Region) (i : Reg) (v : DWord) : (r.set i v).gens = r.gens := by rw [Region.set_eq]
@[simp] theorem Region.set_comps (r : Region) (i : Reg) (v : DWord) : (r.set i v).comps = r.comps := by rw [Region.set_eq]
@[simp] theorem Region.set_doneAt (r : Region) (i : Reg) (v : DWord) : (r.set i v).doneAt = r.doneAt := by rw [Region.set_eq]
@[simp] theorem Region.set_stage (r : Region) (i : Reg) (v : DWord) : (r.set i v).stage = r.stage := by rw [Region.set_eq]
@[simp] theorem Region.set_finished (r : Region) (i : Reg) (v : DWord) : (r.set i v).finished = r.finished := by rw [Region.set_eq]
@[simp] theorem Region.set_lateFault (r : Region) (i : Reg) (v : DWord) : (r.set i v).lateFault = r.lateFault := by rw [Region.set_eq]
@[simp] theorem Region.set_halter (r : Region) (i : Reg) (v : DWord) : (r.set i v).halter = r.halter := by rw [Region.set_eq]
@[simp] theorem Region.set_before (r : Region) (i : Reg) (v : DWord) : (r.set i v).before = r.before := by rw [Region.set_eq]
@[simp] theorem Region.set_kept (r : Region) (i : Reg) (v : DWord) : (r.set i v).kept = r.kept := by rw [Region.set_eq]
@[simp] theorem Region.set_stampNo (r : Region) (i : Reg) (v : DWord) : (r.set i v).stampNo = r.stampNo := by rw [Region.set_eq]
@[simp] theorem Region.set_stops (r : Region) (i : Reg) (v : DWord) : (r.set i v).stops = r.stops := by rw [Region.set_eq]
@[simp] theorem Region.set_passing (r : Region) (i : Reg) (v : DWord) : (r.set i v).passing = r.passing := by rw [Region.set_eq]
@[simp] theorem Region.set_picked (r : Region) (i : Reg) (v : DWord) : (r.set i v).picked = r.picked := by rw [Region.set_eq]
@[simp] theorem Region.set_storing (r : Region) (i : Reg) (v : DWord) : (r.set i v).storing = r.storing := by rw [Region.set_eq]
@[simp] theorem Region.set_inherit (r : Region) (i : Reg) (v : DWord) : (r.set i v).inherit = r.inherit := by rw [Region.set_eq]
@[simp] theorem Region.set_succ (r : Region) (i : Reg) (v : DWord) : (r.set i v).succ = r.succ := by rw [Region.set_eq]
@[simp] theorem Region.set_succFlags (r : Region) (i : Reg) (v : DWord) : (r.set i v).succFlags = r.succFlags := by rw [Region.set_eq]
@[simp] theorem Region.set_dropTo (r : Region) (i : Reg) (v : DWord) : (r.set i v).dropTo = r.dropTo := by rw [Region.set_eq]

@[simp] theorem Region.set_handler (r : Region) (i : Reg) (v : DWord) (k : Nat) : (r.set i v).handler k = r.handler k := by
  simp [Region.handler]

end Sys2Proof.Machine
end

