-- ==== Sys2Proof/Laws/Ops.lean ====
section
/-! SUPPORT. What the shared operations of a region do: completing a word, a transfer of control, the words and events that a
stopped region leaves behind, the end of a course. -/
namespace Sys2Proof.Machine

@[simp] theorem State.mine_setRegion (s : State) (r : Region) : (s.setRegion s.cur.1 r).mine = r := by simp [State.mine]

@[simp] theorem State.wentTo_mine (s : State) (r : Region) (t : Nat) :
    (s.wentTo r t).mine = r.setHandler s.cur.2 { r.handler s.cur.2 with ia := t, wait := .none } := by simp [State.wentTo]

@[simp] theorem State.wentTo_mem (s : State) (r : Region) (t : Nat) : (s.wentTo r t).mem = s.mem := rfl

theorem State.wentTo_region_other (s : State) (r : Region) (t q : Nat) (h : q ≠ s.cur.1) : (s.wentTo r t).region q = s.region q := by
  simp [State.wentTo, State.setRegion_region_other _ _ _ _ h]

/-- A word that completes leaves its region as given, with the handler at the following word. -/
theorem State.complete_eq (s : State) (r : Region) (h : r.handlers = s.mine.handlers) :
    s.complete r = .next (s.wentTo r (s.here + 4)) := by
  simp [State.complete, State.wentTo, Region.advance, State.here, Region.handler, h, State.mine]

theorem State.writes_eq (s : State) (rd : Reg) (v : DWord) : s.writes rd v = .next (s.wrote rd v) := by
  simp [State.writes, State.wrote, State.complete_eq]

theorem State.writesFlags_eq (s : State) (rd : Reg) (v : DWord) (f : Flags) :
    s.writesFlags rd v f = .next (s.wroteFlags rd v f) := by
  simp [State.writesFlags, State.wroteFlags, State.complete_eq]

/-- A transfer of control continues at its target, or takes the fetch-bound fault (R156). -/
theorem State.transfer_eq (s : State) (r : Region) (t : Int) : s.transfer r t =
    if s.inCode t then .next (s.wentTo r t.toNat) else .next (s.takeFault .fetchBound 0 0 s.here) := by
  simp only [State.transfer, State.raise, State.wentTo]

theorem State.raise_eq (s : State) (c : Cause) (detail addr : Nat) : s.raise c detail addr = .next (s.takeFault c detail addr s.here) := rfl

theorem State.stall_eq (s : State) : s.stall = .next { s with stalled := true } := rfl

/-! ### Messages of stopped handlers -/

@[simp] theorem State.orphan_tide (s : State) (p : Nat) (k : Option Nat) (g : Bool) : (s.orphan p k g).tide = s.tide := rfl
@[simp] theorem State.orphan_mem (s : State) (p : Nat) (k : Option Nat) (g : Bool) : (s.orphan p k g).mem = s.mem := rfl
@[simp] theorem State.orphan_lines (s : State) (p : Nat) (k : Option Nat) (g : Bool) : (s.orphan p k g).lines = s.lines := rfl
@[simp] theorem State.orphan_poison (s : State) (p : Nat) (k : Option Nat) (g : Bool) : (s.orphan p k g).poison = s.poison := rfl
@[simp] theorem State.orphan_homeWords (s : State) (p : Nat) (k : Option Nat) (g : Bool) : (s.orphan p k g).homeWords = s.homeWords := rfl
@[simp] theorem State.orphan_walks (s : State) (p : Nat) (k : Option Nat) (g : Bool) : (s.orphan p k g).walks = s.walks := rfl
@[simp] theorem State.orphan_asids (s : State) (p : Nat) (k : Option Nat) (g : Bool) : (s.orphan p k g).asids = s.asids := rfl
@[simp] theorem State.orphan_prot (s : State) (p : Nat) (k : Option Nat) (g : Bool) : (s.orphan p k g).prot = s.prot := rfl
@[simp] theorem State.orphan_invals (s : State) (p : Nat) (k : Option Nat) (g : Bool) : (s.orphan p k g).invals = s.invals := rfl
@[simp] theorem State.orphan_records (s : State) (p : Nat) (k : Option Nat) (g : Bool) : (s.orphan p k g).records = s.records := rfl
@[simp] theorem State.orphan_seals (s : State) (p : Nat) (k : Option Nat) (g : Bool) : (s.orphan p k g).seals = s.seals := rfl
@[simp] theorem State.orphan_basins (s : State) (p : Nat) (k : Option Nat) (g : Bool) : (s.orphan p k g).basins = s.basins := rfl
@[simp] theorem State.orphan_lanes (s : State) (p : Nat) (k : Option Nat) (g : Bool) : (s.orphan p k g).lanes = s.lanes := rfl
@[simp] theorem State.orphan_images (s : State) (p : Nat) (k : Option Nat) (g : Bool) : (s.orphan p k g).images = s.images := rfl
@[simp] theorem State.orphan_regions (s : State) (p : Nat) (k : Option Nat) (g : Bool) : (s.orphan p k g).regions = s.regions := rfl
@[simp] theorem State.orphan_arrays (s : State) (p : Nat) (k : Option Nat) (g : Bool) : (s.orphan p k g).arrays = s.arrays := rfl
@[simp] theorem State.orphan_boot (s : State) (p : Nat) (k : Option Nat) (g : Bool) : (s.orphan p k g).boot = s.boot := rfl
@[simp] theorem State.orphan_fw (s : State) (p : Nat) (k : Option Nat) (g : Bool) : (s.orphan p k g).fw = s.fw := rfl
@[simp] theorem State.orphan_attach (s : State) (p : Nat) (k : Option Nat) (g : Bool) : (s.orphan p k g).attach = s.attach := rfl
@[simp] theorem State.orphan_agenda (s : State) (p : Nat) (k : Option Nat) (g : Bool) : (s.orphan p k g).agenda = s.agenda := rfl
@[simp] theorem State.orphan_picks (s : State) (p : Nat) (k : Option Nat) (g : Bool) : (s.orphan p k g).picks = s.picks := rfl
@[simp] theorem State.orphan_fresh (s : State) (p : Nat) (k : Option Nat) (g : Bool) : (s.orphan p k g).fresh = s.fresh := rfl
@[simp] theorem State.orphan_cur (s : State) (p : Nat) (k : Option Nat) (g : Bool) : (s.orphan p k g).cur = s.cur := rfl
@[simp] theorem State.orphan_stalled (s : State) (p : Nat) (k : Option Nat) (g : Bool) : (s.orphan p k g).stalled = s.stalled := rfl
@[simp] theorem State.orphan_region (s : State) (p : Nat) (k : Option Nat) (g : Bool) (q : Nat) : (s.orphan p k g).region q = s.region q := rfl

@[simp] theorem Region.dropSpills_mode (r : Region) : r.dropSpills.mode = r.mode := rfl
@[simp] theorem Region.dropSpills_inst (r : Region) : r.dropSpills.inst = r.inst := rfl
@[simp] theorem Region.dropSpills_launch (r : Region) : r.dropSpills.launch = r.launch := rfl
@[simp] theorem Region.dropSpills_image (r : Region) : r.dropSpills.image = r.image := rfl
@[simp] theorem Region.dropSpills_sys (r : Region) : r.dropSpills.sys = r.sys := rfl
@[simp] theorem Region.dropSpills_job (r : Region) : r.dropSpills.job = r.job := rfl
@[simp] theorem Region.dropSpills_instIdx (r : Region) : r.dropSpills.instIdx = r.instIdx := rfl
@[simp] theorem Region.dropSpills_placeId (r : Region) : r.dropSpills.placeId = r.placeId := rfl
@[simp] theorem Region.dropSpills_origin (r : Region) : r.dropSpills.origin = r.origin := rfl
@[simp] theorem Region.dropSpills_spanW (r : Region) : r.dropSpills.spanW = r.spanW := rfl
@[simp] theorem Region.dropSpills_spanH (r : Region) : r.dropSpills.spanH = r.spanH := rfl
@[simp] theorem Region.dropSpills_group (r : Region) : r.dropSpills.group = r.group := rfl
@[simp] theorem Region.dropSpills_reach (r : Region) : r.dropSpills.reach = r.reach := rfl
@[simp] theorem Region.dropSpills_elastic (r : Region) : r.dropSpills.elastic = r.elastic := rfl
@[simp] theorem Region.dropSpills_regs (r : Region) : r.dropSpills.regs = r.regs := rfl
@[simp] theorem Region.dropSpills_cc (r : Region) : r.dropSpills.cc = r.cc := rfl
@[simp] theorem Region.dropSpills_ic (r : Region) : r.dropSpills.ic = r.ic := rfl
@[simp] theorem Region.dropSpills_icend (r : Region) : r.dropSpills.icend = r.icend := rfl
@[simp] theorem Region.dropSpills_widBase (r : Region) : r.dropSpills.widBase = r.widBase := rfl
@[simp] theorem Region.dropSpills_shape (r : Region) : r.dropSpills.shape = r.shape := rfl
@[simp] theorem Region.dropSpills_slot (r : Region) : r.dropSpills.slot = r.slot := rfl
@[simp] theorem Region.dropSpills_asid (r : Region) : r.dropSpills.asid = r.asid := rfl
@[simp] theorem Region.dropSpills_fpflags (r : Region) : r.dropSpills.fpflags = r.fpflags := rfl
@[simp] theorem Region.dropSpills_ev (r : Region) : r.dropSpills.ev = r.ev := rfl
@[simp] theorem Region.dropSpills_rescale (r : Region) : r.dropSpills.rescale = r.rescale := rfl
@[simp] theorem Region.dropSpills_timer (r : Region) : r.dropSpills.timer = r.timer := rfl
@[simp] theorem Region.dropSpills_timerEv (r : Region) : r.dropSpills.timerEv = r.timerEv := rfl
@[simp] theorem Region.dropSpills_lclk (r : Region) : r.dropSpills.lclk = r.lclk := rfl
@[simp] theorem Region.dropSpills_faults (r : Region) : r.dropSpills.faults = r.faults := rfl
@[simp] theorem Region.dropSpills_handlers (r : Region) : r.dropSpills.handlers = r.handlers := rfl
@[simp] theorem Region.dropSpills_chmap (r : Region) : r.dropSpills.chmap = r.chmap := rfl
@[simp] theorem Region.dropSpills_handles (r : Region) : r.dropSpills.handles = r.handles := rfl
@[simp] theorem Region.dropSpills_cmdQ (r : Region) : r.dropSpills.cmdQ = r.cmdQ := rfl
@[simp] theorem Region.dropSpills_sif (r : Region) : r.dropSpills.sif = r.sif := rfl
@[simp] theorem Region.dropSpills_bindSeq (r : Region) : r.dropSpills.bindSeq = r.bindSeq := rfl
@[simp] theorem Region.dropSpills_live (r : Region) : r.dropSpills.live = r.live := rfl
@[simp] theorem Region.dropSpills_pools (r : Region) : r.dropSpills.pools = r.pools := rfl
@[simp] theorem Region.dropSpills_pconOut (r : Region) : r.dropSpills.pconOut = r.pconOut := rfl
@[simp] theorem Region.dropSpills_steps (r : Region) : r.dropSpills.steps = r.steps := rfl
@[simp] theorem Region.dropSpills_stepNo (r : Region) : r.dropSpills.stepNo = r.stepNo := rfl
@[simp] theorem Region.dropSpills_cells (r : Region) : r.dropSpills.cells = r.cells := rfl
@[simp] theorem Region.dropSpills_columns (r : Region) : r.dropSpills.columns = r.columns := rfl
@[simp] theorem Region.dropSpills_matrix (r : Region) : r.dropSpills.matrix = r.matrix := rfl
@[simp] theorem Region.dropSpills_stash (r : Region) : r.dropSpills.stash = r.stash := rfl
@[simp] theorem Region.dropSpills_wbOut (r : Region) : r.dropSpills.wbOut = r.wbOut := rfl
@[simp] theorem Region.dropSpills_asked (r : Region) : r.dropSpills.asked = r.asked := rfl
@[simp] theorem Region.dropSpills_tlb (r : Region) : r.dropSpills.tlb = r.tlb := rfl
@[simp] theorem Region.dropSpills_rill (r : Region) : r.dropSpills.rill = r.rill := rfl
@[simp] theorem Region.dropSpills_gens (r : Region) : r.dropSpills.gens = r.gens := rfl
@[simp] theorem Region.dropSpills_comps (r : Region) : r.dropSpills.comps = r.comps := rfl
@[simp] theorem Region.dropSpills_doneAt (r : Region) : r.dropSpills.doneAt = r.doneAt := rfl
@[simp] theorem Region.dropSpills_stage (r : Region) : r.dropSpills.stage = r.stage := rfl
@[simp] theorem Region.dropSpills_finished (r : Region) : r.dropSpills.finished = r.finished := rfl
@[simp] theorem Region.dropSpills_lateFault (r : Region) : r.dropSpills.lateFault = r.lateFault := rfl
@[simp] theorem Region.dropSpills_halter (r : Region) : r.dropSpills.halter = r.halter := rfl
@[simp] theorem Region.dropSpills_before (r : Region) : r.dropSpills.before = r.before := rfl
@[simp] theorem Region.dropSpills_kept (r : Region) : r.dropSpills.kept = r.kept := rfl
@[simp] theorem Region.dropSpills_stampNo (r : Region) : r.dropSpills.stampNo = r.stampNo := rfl
@[simp] theorem Region.dropSpills_inherit (r : Region) : r.dropSpills.inherit = r.inherit := rfl
@[simp] theorem Region.dropSpills_succ (r : Region) : r.dropSpills.succ = r.succ := rfl

@[simp] theorem Region.setMode_inst (r : Region) (m : RegionMode) : (r.setMode m).inst = r.inst := by unfold Region.setMode; split <;> rfl
@[simp] theorem Region.setMode_launch (r : Region) (m : RegionMode) : (r.setMode m).launch = r.launch := by unfold Region.setMode; split <;> rfl
@[simp] theorem Region.setMode_image (r : Region) (m : RegionMode) : (r.setMode m).image = r.image := by unfold Region.setMode; split <;> rfl
@[simp] theorem Region.setMode_sys (r : Region) (m : RegionMode) : (r.setMode m).sys = r.sys := by unfold Region.setMode; split <;> rfl
@[simp] theorem Region.setMode_job (r : Region) (m : RegionMode) : (r.setMode m).job = r.job := by unfold Region.setMode; split <;> rfl
@[simp] theorem Region.setMode_instIdx (r : Region) (m : RegionMode) : (r.setMode m).instIdx = r.instIdx := by unfold Region.setMode; split <;> rfl
@[simp] theorem Region.setMode_placeId (r : Region) (m : RegionMode) : (r.setMode m).placeId = r.placeId := by unfold Region.setMode; split <;> rfl
@[simp] theorem Region.setMode_origin (r : Region) (m : RegionMode) : (r.setMode m).origin = r.origin := by unfold Region.setMode; split <;> rfl
@[simp] theorem Region.setMode_spanW (r : Region) (m : RegionMode) : (r.setMode m).spanW = r.spanW := by unfold Region.setMode; split <;> rfl
@[simp] theorem Region.setMode_spanH (r : Region) (m : RegionMode) : (r.setMode m).spanH = r.spanH := by unfold Region.setMode; split <;> rfl
@[simp] theorem Region.setMode_group (r : Region) (m : RegionMode) : (r.setMode m).group = r.group := by unfold Region.setMode; split <;> rfl
@[simp] theorem Region.setMode_reach (r : Region) (m : RegionMode) : (r.setMode m).reach = r.reach := by unfold Region.setMode; split <;> rfl
@[simp] theorem Region.setMode_elastic (r : Region) (m : RegionMode) : (r.setMode m).elastic = r.elastic := by unfold Region.setMode; split <;> rfl
@[simp] theorem Region.setMode_regs (r : Region) (m : RegionMode) : (r.setMode m).regs = r.regs := by unfold Region.setMode; split <;> rfl
@[simp] theorem Region.setMode_cc (r : Region) (m : RegionMode) : (r.setMode m).cc = r.cc := by unfold Region.setMode; split <;> rfl
@[simp] theorem Region.setMode_ic (r : Region) (m : RegionMode) : (r.setMode m).ic = r.ic := by unfold Region.setMode; split <;> rfl
@[simp] theorem Region.setMode_icend (r : Region) (m : RegionMode) : (r.setMode m).icend = r.icend := by unfold Region.setMode; split <;> rfl
@[simp] theorem Region.setMode_widBase (r : Region) (m : RegionMode) : (r.setMode m).widBase = r.widBase := by unfold Region.setMode; split <;> rfl
@[simp] theorem Region.setMode_shape (r : Region) (m : RegionMode) : (r.setMode m).shape = r.shape := by unfold Region.setMode; split <;> rfl
@[simp] theorem Region.setMode_slot (r : Region) (m : RegionMode) : (r.setMode m).slot = r.slot := by unfold Region.setMode; split <;> rfl
@[simp] theorem Region.setMode_asid (r : Region) (m : RegionMode) : (r.setMode m).asid = r.asid := by unfold Region.setMode; split <;> rfl
@[simp] theorem Region.setMode_fpflags (r : Region) (m : RegionMode) : (r.setMode m).fpflags = r.fpflags := by unfold Region.setMode; split <;> rfl
@[simp] theorem Region.setMode_ev (r : Region) (m : RegionMode) : (r.setMode m).ev = r.ev := by unfold Region.setMode; split <;> rfl
@[simp] theorem Region.setMode_rescale (r : Region) (m : RegionMode) : (r.setMode m).rescale = r.rescale := by unfold Region.setMode; split <;> rfl
@[simp] theorem Region.setMode_timer (r : Region) (m : RegionMode) : (r.setMode m).timer = r.timer := by unfold Region.setMode; split <;> rfl
@[simp] theorem Region.setMode_timerEv (r : Region) (m : RegionMode) : (r.setMode m).timerEv = r.timerEv := by unfold Region.setMode; split <;> rfl
@[simp] theorem Region.setMode_lclk (r : Region) (m : RegionMode) : (r.setMode m).lclk = r.lclk := by unfold Region.setMode; split <;> rfl
@[simp] theorem Region.setMode_faults (r : Region) (m : RegionMode) : (r.setMode m).faults = r.faults := by unfold Region.setMode; split <;> rfl
@[simp] theorem Region.setMode_handlers (r : Region) (m : RegionMode) : (r.setMode m).handlers = r.handlers := by unfold Region.setMode; split <;> rfl
@[simp] theorem Region.setMode_chmap (r : Region) (m : RegionMode) : (r.setMode m).chmap = r.chmap := by unfold Region.setMode; split <;> rfl
@[simp] theorem Region.setMode_handles (r : Region) (m : RegionMode) : (r.setMode m).handles = r.handles := by unfold Region.setMode; split <;> rfl
@[simp] theorem Region.setMode_cmdQ (r : Region) (m : RegionMode) : (r.setMode m).cmdQ = r.cmdQ := by unfold Region.setMode; split <;> rfl
@[simp] theorem Region.setMode_sif (r : Region) (m : RegionMode) : (r.setMode m).sif = r.sif := by unfold Region.setMode; split <;> rfl
@[simp] theorem Region.setMode_bindSeq (r : Region) (m : RegionMode) : (r.setMode m).bindSeq = r.bindSeq := by unfold Region.setMode; split <;> rfl
@[simp] theorem Region.setMode_live (r : Region) (m : RegionMode) : (r.setMode m).live = r.live := by unfold Region.setMode; split <;> rfl
@[simp] theorem Region.setMode_pools (r : Region) (m : RegionMode) : (r.setMode m).pools = r.pools := by unfold Region.setMode; split <;> rfl
@[simp] theorem Region.setMode_pconOut (r : Region) (m : RegionMode) : (r.setMode m).pconOut = r.pconOut := by unfold Region.setMode; split <;> rfl
@[simp] theorem Region.setMode_steps (r : Region) (m : RegionMode) : (r.setMode m).steps = r.steps := by unfold Region.setMode; split <;> rfl
@[simp] theorem Region.setMode_stepNo (r : Region) (m : RegionMode) : (r.setMode m).stepNo = r.stepNo := by unfold Region.setMode; split <;> rfl
@[simp] theorem Region.setMode_cells (r : Region) (m : RegionMode) : (r.setMode m).cells = r.cells := by unfold Region.setMode; split <;> rfl
@[simp] theorem Region.setMode_ports (r : Region) (m : RegionMode) : (r.setMode m).ports = r.ports := by unfold Region.setMode; split <;> rfl
@[simp] theorem Region.setMode_sides (r : Region) (m : RegionMode) : (r.setMode m).sides = r.sides := by unfold Region.setMode; split <;> rfl
@[simp] theorem Region.setMode_columns (r : Region) (m : RegionMode) : (r.setMode m).columns = r.columns := by unfold Region.setMode; split <;> rfl
@[simp] theorem Region.setMode_matrix (r : Region) (m : RegionMode) : (r.setMode m).matrix = r.matrix := by unfold Region.setMode; split <;> rfl
@[simp] theorem Region.setMode_stash (r : Region) (m : RegionMode) : (r.setMode m).stash = r.stash := by unfold Region.setMode; split <;> rfl
@[simp] theorem Region.setMode_wbOut (r : Region) (m : RegionMode) : (r.setMode m).wbOut = r.wbOut := by unfold Region.setMode; split <;> rfl
@[simp] theorem Region.setMode_asked (r : Region) (m : RegionMode) : (r.setMode m).asked = r.asked := by unfold Region.setMode; split <;> rfl
@[simp] theorem Region.setMode_tlb (r : Region) (m : RegionMode) : (r.setMode m).tlb = r.tlb := by unfold Region.setMode; split <;> rfl
@[simp] theorem Region.setMode_rill (r : Region) (m : RegionMode) : (r.setMode m).rill = r.rill := by unfold Region.setMode; split <;> rfl
@[simp] theorem Region.setMode_gens (r : Region) (m : RegionMode) : (r.setMode m).gens = r.gens := by unfold Region.setMode; split <;> rfl
@[simp] theorem Region.setMode_comps (r : Region) (m : RegionMode) : (r.setMode m).comps = r.comps := by unfold Region.setMode; split <;> rfl
@[simp] theorem Region.setMode_doneAt (r : Region) (m : RegionMode) : (r.setMode m).doneAt = r.doneAt := by unfold Region.setMode; split <;> rfl
@[simp] theorem Region.setMode_stage (r : Region) (m : RegionMode) : (r.setMode m).stage = r.stage := by unfold Region.setMode; split <;> rfl
@[simp] theorem Region.setMode_finished (r : Region) (m : RegionMode) : (r.setMode m).finished = r.finished := by unfold Region.setMode; split <;> rfl
@[simp] theorem Region.setMode_lateFault (r : Region) (m : RegionMode) : (r.setMode m).lateFault = r.lateFault := by unfold Region.setMode; split <;> rfl
@[simp] theorem Region.setMode_halter (r : Region) (m : RegionMode) : (r.setMode m).halter = r.halter := by unfold Region.setMode; split <;> rfl
@[simp] theorem Region.setMode_kept (r : Region) (m : RegionMode) : (r.setMode m).kept = r.kept := by unfold Region.setMode; split <;> rfl
@[simp] theorem Region.setMode_stampNo (r : Region) (m : RegionMode) : (r.setMode m).stampNo = r.stampNo := by unfold Region.setMode; split <;> rfl
@[simp] theorem Region.setMode_inherit (r : Region) (m : RegionMode) : (r.setMode m).inherit = r.inherit := by unfold Region.setMode; split <;> rfl
@[simp] theorem Region.setMode_succ (r : Region) (m : RegionMode) : (r.setMode m).succ = r.succ := by unfold Region.setMode; split <;> rfl
@[simp] theorem Region.setMode_dropTo (r : Region) (m : RegionMode) : (r.setMode m).dropTo = r.dropTo := by unfold Region.setMode; split <;> rfl

@[simp] theorem Region.setMode_modeUnder (r : Region) (m : RegionMode) (h : m ≠ .held) : (r.setMode m).modeUnder = m := by
  cases hm : r.mode <;> simp [Region.setMode, Region.modeUnder, hm] <;> (cases m <;> simp_all)

/-! ### The end of a course (R144, R167, R435) -/

theorem State.startDone_region_other (s : State) (p q : Nat) (k : Bool) (h : q ≠ p) : (s.startDone p k).region q = s.region q := by
  simp [State.startDone, State.setRegion_region_other _ _ _ _ h]

@[simp] theorem State.startDone_cur (s : State) (p : Nat) (k : Bool) : (s.startDone p k).cur = s.cur := rfl
@[simp] theorem State.startDone_stalled (s : State) (p : Nat) (k : Bool) : (s.startDone p k).stalled = s.stalled := rfl

/-- What `done` leaves of the region: it drains, its handlers have stopped, its registers stay. -/
theorem State.startDone_region (s : State) (p : Nat) (k : Bool) :
    ((s.startDone p k).region p).modeUnder = .draining ∧ ((s.startDone p k).region p).regs = (s.region p).regs ∧
    ((s.startDone p k).region p).faults = (if k then (s.region p).faults else []) ∧
    ((s.startDone p k).region p).handlers =
      (s.region p).handlers.map (fun e => (e.1, { e.2 with st := .stopped, wait := .none, latch := none })) := by
  refine ⟨?_, ?_, ?_, ?_⟩
  · cases hm : (s.region p).mode <;> simp [State.startDone, Region.setMode, Region.modeUnder, hm]
  · simp [State.startDone]
  · simp [State.startDone]
  · simp [State.startDone]

/-- No handler of a list whose entries have all stopped is active or suspended. -/
theorem handler_stopped (l : Tbl Handler) (f : Handler → Handler) (hf : ∀ h, (f h).st = .stopped) (r : Region)
    (hr : r.handlers = l.map fun e => (e.1, f e.2)) (k : Nat) : (r.handler k).st ≠ .active ∧ (r.handler k).st ≠ .suspended := by
  have hm := Tbl.find_map l (fun _ => f) k
  simp only [Region.handler, Tbl.look, hr]
  rw [hm]
  cases Tbl.find l k with
  | none => simp [Handler.undeclared]
  | some h => simp [hf]

@[simp] theorem State.markFaulted_region (s : State) (d l i q : Nat) : (s.markFaulted d l i).region q = s.region q := rfl
@[simp] theorem State.markFailed_region (s : State) (p q : Nat) : (s.markFailed p).region q = s.region q := rfl
@[simp] theorem State.markFailed_cur (s : State) (p : Nat) : (s.markFailed p).cur = s.cur := rfl
@[simp] theorem State.markFailed_stalled (s : State) (p : Nat) : (s.markFailed p).stalled = s.stalled := rfl

/-- What leaves the word under execution, and its stall mark, alone may be repeated over a list. -/
theorem foldl_cur {α : Type} (f : State → α → State) (hf : ∀ s a, (f s a).cur = s.cur ∧ (f s a).stalled = s.stalled) (l : List α)
    (s : State) : (l.foldl f s).cur = s.cur ∧ (l.foldl f s).stalled = s.stalled := by
  induction l generalizing s with
  | nil => exact ⟨rfl, rfl⟩
  | cons a l ih =>
    obtain ⟨h1, h2⟩ := ih (f s a)
    obtain ⟨h3, h4⟩ := hf s a
    exact ⟨h1.trans h3, h2.trans h4⟩

theorem State.endInstance_cur (s : State) (p : Nat) : (s.endInstance p).cur = s.cur ∧ (s.endInstance p).stalled = s.stalled := by
  simp only [State.endInstance]
  split
  · simp
  · refine (foldl_cur _ (fun u q => ?_) _ _).imp (fun h => h.trans rfl) (fun h => h.trans rfl)
    split <;> simp

theorem State.stopRegion_cur (s : State) (p : Nat) : (s.stopRegion p).cur = s.cur ∧ (s.stopRegion p).stalled = s.stalled := by
  simp only [State.stopRegion]
  repeat' split
  all_goals first
    | exact ⟨rfl, rfl⟩
    | exact (State.endInstance_cur _ _).imp (fun h => h.trans rfl) (fun h => h.trans rfl)

theorem State.logTo_cur (s : State) (a kind place : Nat) (tells : List Nat) :
    (s.logTo a kind place tells).cur = s.cur ∧ (s.logTo a kind place tells).stalled = s.stalled := by
  simp only [State.logTo]
  split
  · exact ⟨rfl, rfl⟩
  · split <;> exact ⟨rfl, rfl⟩

theorem State.traceFor_cur (s : State) (mine : Attachment → Bool) (kind place : Nat) (tells : List Nat) (hit : Trace → Bool) :
    (s.traceFor mine kind place tells hit).cur = s.cur ∧ (s.traceFor mine kind place tells hit).stalled = s.stalled := by
  simp only [State.traceFor]
  refine foldl_cur _ (fun u e => ?_) _ _
  split
  · exact foldl_cur _ (fun v _ => State.logTo_cur _ _ _ _ _) _ _
  · exact ⟨rfl, rfl⟩

theorem State.trace_cur (s : State) (p kind place : Nat) (tells : List Nat) (hit : Trace → Bool) :
    (s.trace p kind place tells hit).cur = s.cur ∧ (s.trace p kind place tells hit).stalled = s.stalled :=
  State.traceFor_cur _ _ _ _ _ _

theorem State.faultSeen_cur (s : State) (p : Nat) (w : BitVec 256) :
    (s.faultSeen p w).cur = s.cur ∧ (s.faultSeen p w).stalled = s.stalled := by
  simp only [State.faultSeen]
  refine (State.trace_cur _ _ _ _ _ _).imp (fun h => h.trans ?_) (fun h => h.trans ?_) <;> split <;> rfl

theorem State.enterFault_cur (s : State) (p : Nat) (w : BitVec 256) :
    (s.enterFault p w).cur = s.cur ∧ (s.enterFault p w).stalled = s.stalled := by
  simp only [State.enterFault]
  repeat' split
  · exact ⟨rfl, rfl⟩
  · exact (State.faultSeen_cur _ _ _).imp (fun h => h.trans rfl) (fun h => h.trans rfl)
  · exact ⟨rfl, rfl⟩
  · exact State.stopRegion_cur _ _
  · exact (State.faultSeen_cur _ _ _).imp (fun h => h.trans rfl) (fun h => h.trans rfl)
  · exact ⟨((State.stopRegion_cur _ _).1.trans (State.faultSeen_cur _ _ _).1).trans rfl,
      ((State.stopRegion_cur _ _).2.trans (State.faultSeen_cur _ _ _).2).trans rfl⟩

/-- Taking a fault leaves the mark of the word under execution as it was: the word has not stalled. -/
theorem State.takeFault_cur (s : State) (c : Cause) (detail addr token : Nat) :
    (s.takeFault c detail addr token).cur = s.cur ∧ (s.takeFault c detail addr token).stalled = s.stalled := by
  simp only [State.takeFault]
  split
  · refine (State.stopRegion_cur _ _).imp (fun h => h.trans ?_) (fun h => h.trans ?_)
    · exact (State.enterFault_cur _ _ _).1.trans rfl
    · exact (State.enterFault_cur _ _ _).2.trans rfl
  · exact (State.enterFault_cur _ _ _).imp (fun h => h.trans rfl) (fun h => h.trans rfl)

end Sys2Proof.Machine
end

