-- ==== Sys2Proof/Laws/MemoryKept.lean ====
section
/-! SUPPORT. What each operation leaves of memory: unchanged (`_mem`), or in its canonical form (`_wf`). -/
namespace Sys2Proof.Machine

@[simp] theorem foldl_mem {α : Type} (f : State → α → State) (l : List α) (s : State) (h : ∀ s x, (f s x).mem = s.mem) :
    (l.foldl f s).mem = s.mem := by
  induction l generalizing s with
  | nil => rfl
  | cons x t ih => simp [ih, h]

@[simp] theorem foldl_wf {α : Type} (f : State → α → State) (l : List α) (s : State)
    (h : ∀ s x, Memory.wf s.mem = true → Memory.wf (f s x).mem = true) (hs : Memory.wf s.mem = true) :
    Memory.wf (l.foldl f s).mem = true := by
  induction l generalizing s with
  | nil => exact hs
  | cons x t ih => exact ih _ (h _ _ hs)

@[simp] theorem foldr_mem {α : Type} (f : α → State → State) (l : List α) (s : State) (h : ∀ x s, (f x s).mem = s.mem) :
    (l.foldr f s).mem = s.mem := by
  induction l generalizing s with
  | nil => rfl
  | cons x t ih => simp [ih, h]

@[simp] theorem foldr_wf {α : Type} (f : α → State → State) (l : List α) (s : State)
    (h : ∀ x s, Memory.wf s.mem = true → Memory.wf (f x s).mem = true) (hs : Memory.wf s.mem = true) :
    Memory.wf (l.foldr f s).mem = true := by
  induction l generalizing s with
  | nil => exact hs
  | cons x t ih => exact h _ _ (ih _ hs)

@[simp] theorem ite_mem (c : Prop) [Decidable c] (s t : State) (m : List Host.Cell) (h : s.mem = m) (h2 : t.mem = m) :
    (if c then s else t).mem = m := by split <;> assumption

@[simp] theorem ite_wf (c : Prop) [Decidable c] (s t : State) (h : Memory.wf s.mem = true) (h2 : Memory.wf t.mem = true) :
    Memory.wf (if c then s else t).mem = true := by split <;> assumption

@[simp] theorem State.putLine_wf (s : State) (line : Nat) (d : Vector Byte 64) (h0 : Memory.wf s.mem = true) :
    Memory.wf (State.putLine s line d).mem = true := by simp [State.putLine, h0]

@[simp] theorem State.markPoison_mem (s : State) (line : Nat) (bad : Bool) : (State.markPoison s line bad).mem = s.mem := rfl

@[simp] theorem State.applyWriteBack_wf (s : State) (l : StashLine) (h0 : Memory.wf s.mem = true) : Memory.wf (State.applyWriteBack s l).mem = true := by simp [State.applyWriteBack, h0]

@[simp] theorem State.performWriteBack_wf (s : State) (p : Nat) (l : StashLine) (h0 : Memory.wf s.mem = true) :
    Memory.wf (State.performWriteBack s p l).mem = true := by simp [State.performWriteBack, h0]

@[simp] theorem State.flushLine_wf (s : State) (line : Nat) (h0 : Memory.wf s.mem = true) : Memory.wf (State.flushLine s line).mem = true := by
  simp only [State.flushLine]
  exact foldl_wf _ _ _ (fun _ _ h => by simp [h]) (by simp [h0])

@[simp] theorem State.cancelOwn_mem (s : State) (o : Nat) (line : Nat) : (State.cancelOwn s o line).mem = s.mem := rfl

@[simp] theorem State.recallNow_wf (s : State) (line : Nat) (drop : Bool) (h0 : Memory.wf s.mem = true) :
    Memory.wf (State.recallNow s line drop).mem = true := by
  simp only [State.recallNow]
  (repeat' split) <;> simp (maxDischargeDepth := 20) [h0]

@[simp] theorem State.markHome_wf (s : State) (line : Nat) (h0 : Memory.wf s.mem = true) : Memory.wf (State.markHome s line).mem = true := by simp [State.markHome, h0]

@[simp] theorem State.homeRead_wf (s : State) (pa : Nat) (n : Nat) (clk : DWord) (h0 : Memory.wf s.mem = true) :
    Memory.wf (State.homeRead s pa n clk).2.2.2.mem = true := by simp (maxDischargeDepth := 20) [State.homeRead, h0]

@[simp] theorem State.homeTake_wf (s : State) (pa : Nat) (n : Nat) (clk : DWord) (h0 : Memory.wf s.mem = true) :
    Memory.wf (State.homeTake s pa n clk).2.2.2.mem = true := by simp [State.homeTake, h0]

@[simp] theorem State.homeWrite_wf (s : State) (pa : Nat) (n : Nat) (v : Nat) (clk : DWord) (h0 : Memory.wf s.mem = true) :
    Memory.wf (State.homeWrite s pa n v clk).2.mem = true := by simp (maxDischargeDepth := 20) [State.homeWrite, h0]

@[simp] theorem State.writeBackAll_mem (s : State) (p : Nat) : (s.writeBackAll p).mem = s.mem := by
  simp only [State.writeBackAll]
  rw [foldl_mem _ _ _ (fun _ _ => by simp)]; simp

@[simp] theorem State.writeBackLine_mem (s : State) (p : Nat) (line : Nat) : (State.writeBackLine s p line).mem = s.mem := by
  simp only [State.writeBackLine]
  (repeat' split) <;> simp

@[simp] theorem State.fillStash_mem (s : State) (p : Nat) (l : StashLine) : (State.fillStash s p l).mem = s.mem := by
  simp only [State.fillStash]
  (repeat' split) <;> simp

@[simp] theorem State.walkOne_mem (s : State) (d : Nat) (asid : BitVec 16) (va : Nat) : (State.walkOne s d asid va).2.mem = s.mem := by simp only [State.walkOne]; split <;> simp

@[simp] theorem State.walkDown_mem (s : State) (d : Nat) (asid : BitVec 16) (va n : Nat) : (s.walkDown d asid va n).mem = s.mem := by
  induction n generalizing s with
  | zero => rfl
  | succ n ih =>
    simp only [State.walkDown]
    split
    · next h => rw [ih]; have h1 := congrArg (fun q => q.2.mem) h; simpa using h1.symm
    · rfl

@[simp] theorem State.translateRegion_mem (s : State) (p : Nat) (asid : BitVec 16) (va : Nat) : (State.translateRegion s p asid va).2.mem = s.mem := by
  simp only [State.translateRegion]
  repeat' (split <;> (try (rename_i e1; have e2 := congrArg Prod.snd e1; simp only at e2; (try subst e2); clear e1)))
  all_goals simp

@[simp] theorem State.translateEngine_mem (s : State) (d : Nat) (asid : BitVec 16) (va : Nat) : (State.translateEngine s d asid va).2.mem = s.mem := by
  (try simp only [State.translateEngine])
  (try simp)
  all_goals (repeat' (split <;> (try (rename_i e1; have e2 := congrArg Prod.snd e1; simp only at e2; (try subst e2); clear e1))))
  all_goals (try (simp; done))
  all_goals (try (refine (foldl_mem _ _ _ (fun s1 x1 => ?_)).trans ?_ <;> (try dsimp only) <;> (repeat' split) <;> simp; done))

@[simp] theorem State.accessRegion_mem (s : State) (p : Nat) (va : Nat) (need : Need) : (State.accessRegion s p va need).2.mem = s.mem := by
  simp only [State.accessRegion]
  repeat' (split <;> (try (rename_i e1; have e2 := congrArg Prod.snd e1; simp only at e2; (try subst e2); clear e1)))
  all_goals simp

@[simp] theorem State.accessNow_mem (s : State) (p : Nat) (va : Nat) (need : Need) : (State.accessNow s p va need).2.mem = s.mem := by
  (try simp only [State.accessNow])
  (try simp)
  all_goals (repeat' (split <;> (try (rename_i e1; have e2 := congrArg Prod.snd e1; simp only at e2; (try subst e2); clear e1))))
  all_goals (try (simp; done))
  all_goals (try (refine (foldl_mem _ _ _ (fun s1 x1 => ?_)).trans ?_ <;> (try dsimp only) <;> (repeat' split) <;> simp; done))

@[simp] theorem State.accessConduct_mem (s : State) (p : Nat) (va : Nat) (size : Nat) (need : Need) :
    (State.accessConduct s p va size need).2.mem = s.mem := by
  simp only [State.accessConduct]
  repeat' (split <;> (try (rename_i e1; have e2 := congrArg Prod.snd e1; simp only at e2; (try subst e2); clear e1)))
  all_goals simp

@[simp] theorem State.breakAt_mem (s : State) (p : Nat) (kind : Nat) (hit : DWord → Bool) : (State.breakAt s p kind hit).2.mem = s.mem := by
  simp only [State.breakAt]
  (repeat' split) <;> simp

@[simp] theorem State.logTo_wf (s : State) (a kind place : Nat) (tells : List Nat) (h0 : Memory.wf s.mem = true) :
    Memory.wf (State.logTo s a kind place tells).mem = true := by
  simp only [State.logTo]
  (repeat' split) <;> simp (maxDischargeDepth := 20) [h0]

@[simp] theorem State.traceFor_wf (s : State) (mine : Attachment → Bool) (kind place : Nat) (tells : List Nat) (hit : Trace → Bool)
    (h0 : Memory.wf s.mem = true) : Memory.wf (State.traceFor s mine kind place tells hit).mem = true := by
  simp only [State.traceFor]
  repeat' (split <;> (try (rename_i e1; have e2 := congrArg Prod.snd e1; simp only at e2; (try subst e2); clear e1)))
  all_goals simp (maxDischargeDepth := 20) (contextual := true) [h0]

@[simp] theorem State.trace_wf (s : State) (p kind place : Nat) (tells : List Nat) (hit : Trace → Bool)
    (h0 : Memory.wf s.mem = true) : Memory.wf (State.trace s p kind place tells hit).mem = true :=
  State.traceFor_wf _ _ _ _ _ _ h0

@[simp] theorem State.traceFold_wf (s : State) (key : PoolKey) (slot : Nat) (v : BitVec 64) (n : Nat)
    (h0 : Memory.wf s.mem = true) : Memory.wf (State.traceFold s key slot v n).mem = true :=
  State.traceFor_wf _ _ _ _ _ _ h0

@[simp] theorem State.stopHandler_mem (s : State) (p k : Nat) : (State.stopHandler s p k).mem = s.mem := rfl

@[simp] theorem State.hasPassed_mem (s : State) (p k : Nat) (passing : Bool) : (State.hasPassed s p k passing).mem = s.mem := by
  simp only [State.hasPassed]; split <;> rfl

@[simp] theorem State.draw_mem (s : State) : (State.draw s).2.mem = s.mem := rfl

@[simp] theorem State.raiseEv_mem (s : State) (p : Nat) : (State.raiseEv s p).mem = s.mem := rfl

@[simp] theorem State.raiseFlags_mem (s : State) (p step : Nat) (f : Flags) : (State.raiseFlags s p step f).mem = s.mem := by
  simp only [State.raiseFlags]; split <;> rfl

@[simp] theorem State.startDone_mem (s : State) (p : Nat) (keepFaults : Bool) : (State.startDone s p keepFaults).mem = s.mem := rfl

@[simp] theorem State.markFaulted_mem (s : State) (d : Nat) (launch : Nat) (index : Nat) : (State.markFaulted s d launch index).mem = s.mem := rfl

@[simp] theorem State.markFailed_mem (s : State) (p : Nat) : (State.markFailed s p).mem = s.mem := rfl

@[simp] theorem State.endInstance_mem (s : State) (p : Nat) : (State.endInstance s p).mem = s.mem := by simp only [State.endInstance]; split <;> simp

@[simp] theorem State.stopRegion_mem (s : State) (p : Nat) : (State.stopRegion s p).mem = s.mem := by
  simp only [State.stopRegion]
  (repeat' split) <;> simp

@[simp] theorem State.faultSeen_wf (s : State) (p : Nat) (w : BitVec 256) (h0 : Memory.wf s.mem = true) :
    Memory.wf (s.faultSeen p w).mem = true := by
  simp only [State.faultSeen]; split <;> simp [h0]

@[simp] theorem State.enterFault_wf (s : State) (p : Nat) (w : BitVec 256) (h0 : Memory.wf s.mem = true) :
    Memory.wf (State.enterFault s p w).mem = true := by simp (maxDischargeDepth := 20) [State.enterFault, h0]

@[simp] theorem State.faultAt_wf (s : State) (p : Nat) (place : Nat) (c : Cause) (unit : Nat) (coord : Nat) (detail : Nat) (addr : Nat) (token : Nat) (tkind : Option Nat) (sel : Nat) (h0 : Memory.wf s.mem = true) :
    Memory.wf (State.faultAt s p place c unit coord detail addr token tkind sel).mem = true := by simp [State.faultAt, h0]

@[simp] theorem State.unitFault_wf (s : State) (p : Nat) (c : Cause) (unit : Nat) (coord : Nat) (detail : Nat) (addr : Nat) (token : Nat) (tkind : Option Nat) (sel : Nat) (h0 : Memory.wf s.mem = true) :
    Memory.wf (State.unitFault s p c unit coord detail addr token tkind sel).mem = true := by simp [State.unitFault, h0]

@[simp] theorem State.weirFault_wf (s : State) (p : Nat) (k : Nat) (i : Nat) (c : Cause) (token : Nat) (h0 : Memory.wf s.mem = true) :
    Memory.wf (State.weirFault s p k i c token).mem = true := by simp [State.weirFault, h0]

@[simp] theorem State.takeFault_wf (s : State) (c : Cause) (detail : Nat) (addr : Nat) (token : Nat) (h0 : Memory.wf s.mem = true) :
    Memory.wf (State.takeFault s c detail addr token).mem = true := by simp [State.takeFault, h0]

@[simp] theorem State.channelRefused_wf (s : State) (p : Nat) (unit : Nat) (die : Nat) (ch : Nat) (h0 : Memory.wf s.mem = true) :
    Memory.wf (State.channelRefused s p unit die ch).mem = true := by simp [State.channelRefused, h0]

@[simp] theorem State.replyRefused_wf (s : State) (m : EngMsg) (die : Nat) (ch : Nat) (h0 : Memory.wf s.mem = true) :
    Memory.wf (State.replyRefused s m die ch).mem = true := by simp [State.replyRefused, h0]

@[simp] theorem State.resumeHandler_mem (s : State) (p : Nat) (k : Nat) (skip : Bool) : (State.resumeHandler s p k skip).mem = s.mem := by simp [State.resumeHandler]

@[simp] theorem State.returnFrom_mem (s : State) (p : Nat) (k : Nat) : (State.returnFrom s p k).mem = s.mem := rfl

@[simp] theorem State.setWait_mem (s : State) (w : Wait) : (State.setWait s w).mem = s.mem := rfl

/-- A step is what its action gives, or leaves memory as it was (R322). -/
theorem State.walked_next (s t : State) (least : Nat) (o : Out) (h : s.walked least o = .next t) : o = .next t ∨ t.mem = s.mem := by
  unfold State.walked at h
  split at h
  · split at h
    · split at h
      · cases h; exact .inr rfl
      · exact .inl h
    · exact .inl h
  · exact .inl h
  · exact .inl h

@[simp] theorem State.queueFlit_mem (s : State) (src : Nat) (dst : Nat) (cls : Fin 4) (b : FlitBody) : (State.queueFlit s src dst cls b).mem = s.mem := rfl

@[simp] theorem State.emitTo_mem (s : State) (dst : Nat) (cls : Fin 4) (b : FlitBody) : (State.emitTo s dst cls b).mem = s.mem := by simp [State.emitTo]

@[simp] theorem State.sendAway_mem (s : State) (pkg p k : Nat) (what : Sent) (b : Nat → FlitBody) (cls : Fin 4) :
    (s.sendAway pkg p k what b cls).mem = s.mem := by simp [State.sendAway]

@[simp] theorem State.askMemory_mem (s : State) (pa p k : Nat) (what : Sent) (op : AwayOp) (clk : DWord) :
    (s.askMemory pa p k what op clk).mem = s.mem := by simp [State.askMemory]

@[simp] theorem State.farAsk_mem (s : State) (p who pa : Nat) (op : AwayOp) (clk : DWord) : (s.farAsk p who pa op clk).mem = s.mem := by
  simp only [State.farAsk]; split <;> simp

@[simp] theorem State.farDrop_mem (s : State) (p : Nat) (mine : Nat → AwayOp → Bool) : (s.farDrop p mine).mem = s.mem := rfl

@[simp] theorem State.farStore_mem (s : State) (p pa n v : Nat) : (s.farStore p pa n v).mem = s.mem := by simp [State.farStore]

@[simp] theorem State.farLoad_mem (s : State) (p unit pa n : Nat) : (s.farLoad p unit pa n).2.mem = s.mem := by
  simp only [State.farLoad]; split <;> simp

@[simp] theorem State.ask_wf (s : State) (p : Nat) (line : Nat) (store whole : Bool) (h0 : Memory.wf s.mem = true) :
    Memory.wf (State.ask s p line store whole).mem = true := by simp [State.ask, h0]

@[simp] theorem State.stashRead_wf (s : State) (p : Nat) (va : Nat) (pa : Nat) (n unit : Nat) (h0 : Memory.wf s.mem = true) :
    Memory.wf (State.stashRead s p va pa n unit).2.mem = true := by
  simp only [State.stashRead]
  (repeat' split) <;> simp (maxDischargeDepth := 20) [h0]

@[simp] theorem State.stashWrite_wf (s : State) (p : Nat) (va : Nat) (pa : Nat) (n : Nat) (v : Nat) (whole : Bool) (h0 : Memory.wf s.mem = true) :
    Memory.wf (State.stashWrite s p va pa n v whole).2.mem = true := by
  simp only [State.stashWrite]
  (repeat' split) <;> simp (maxDischargeDepth := 20) [h0]

@[simp] theorem State.atomicAtHome_wf (s : State) (op : AtomOp) (wide : Bool) (pa : Nat) (v : DWord) (clk : DWord) (h0 : Memory.wf s.mem = true) :
    Memory.wf (State.atomicAtHome s op wide pa v clk).2.mem = true := by
  simp only [State.atomicAtHome]
  (repeat' split) <;> simp (maxDischargeDepth := 20) [h0]

@[simp] theorem State.answer_wf (s : State) (who : Asker) (v : DWord) (clk : DWord) (flags : Flags) (bad : Option Nat) (h0 : Memory.wf s.mem = true) :
    Memory.wf (State.answer s who v clk flags bad).mem = true := by simp only [State.answer]; split <;> simp [h0]

@[simp] theorem State.headerAt_mem (s : State) (p : Nat) (h : Handle) (need : Need) : (State.headerAt s p h need).2.mem = s.mem := by
  simp only [State.headerAt]
  repeat' (split <;> (try (rename_i e1; have e2 := congrArg Prod.snd e1; simp only at e2; (try subst e2); clear e1)))
  all_goals simp

@[simp] theorem State.headerAction_wf (s : State) (m : Nat) (who : Asker) (h : Nat) (pa : Nat) (op : HeaderOp) (clk : DWord) (h0 : Memory.wf s.mem = true) :
    Memory.wf (State.headerAction s m who h pa op clk).mem = true := by
  simp only [State.headerAction]
  (repeat' split) <;> simp (maxDischargeDepth := 20) [h0]

@[simp] theorem State.setConduit_mem (s : State) (n : Nat) (x : ConduitPort) : (State.setConduit s n x).mem = s.mem := rfl

theorem State.sentOf_mem (s : State) (tag : Nat) (v : Nat × Nat × Sent) (t : State) (h : s.sentOf tag = some (v, t)) : t.mem = s.mem := by
  simp only [State.sentOf] at h
  repeat' split at h
  all_goals first | (cases h; rfl) | cases h

@[simp] theorem State.poolAnswer_wf (s : State) (p : Nat) (k : Nat) (w : Wait) (h0 : Memory.wf s.mem = true) :
    Memory.wf (State.poolAnswer s p k w).mem = true := by simp [State.poolAnswer, h0]

@[simp] theorem State.enterChannel_mem (s : State) (d : Nat) (ch : Nat) (v : DWord) (clk : DWord) : (State.enterChannel s d ch v clk).mem = s.mem := by
  simp only [State.enterChannel]
  (repeat' split) <;> simp

@[simp] theorem State.setBasin_mem (s : State) (b : HomeBasin) : (State.setBasin s b).mem = s.mem := rfl

@[simp] theorem State.setLane_mem (s : State) (l : Lane) : (State.setLane s l).mem = s.mem := rfl

@[simp] theorem State.emptyLanes_mem (s : State) (key : PoolKey) : (State.emptyLanes s key).mem = s.mem := rfl

@[simp] theorem State.poisonLanes_mem (s : State) (key : PoolKey) (place : Nat) (cause : Nat) : (State.poisonLanes s key place cause).mem = s.mem := by
  simp only [State.poisonLanes]
  rw [foldl_mem _ _ _ (fun _ _ => by simp)]; try simp

@[simp] theorem State.fold_wf (s : State) (key : PoolKey) (slot : Nat) (v : BitVec 64) (clk : DWord) (bad : Option Nat) (pair : Bool) (ty : Option PoolType) (h0 : Memory.wf s.mem = true) :
    Memory.wf (State.fold s key slot v clk bad pair ty).mem = true := by simp only [State.fold]; split <;> simp [h0]

@[simp] theorem State.contributeAt_mem (s : State) (p : Nat) (u : Nat) (place : Nat) (step : Nat) (pool : Nat) (lane : Nat) (ty : PoolType) (v : Word) (bad : Option Nat) (clk : DWord) :
    (State.contributeAt s p u place step pool lane ty v bad clk).2.mem = s.mem := by simp only [State.contributeAt]; split <;> simp

@[simp] theorem State.contribute_mem (s : State) (p : Nat) (u : Nat) (step : Nat) (pool : Nat) (lane : Nat) (ty : PoolType) (v : Word) (bad : Option Nat) :
    (State.contribute s p u step pool lane ty v bad).2.mem = s.mem := by simp [State.contribute]

@[simp] theorem State.declare_mem (s : State) (p : Nat) (pool : Nat) (key : PoolKey) (d : PoolDecl) : (State.declare s p pool key d).2.mem = s.mem := by
  simp only [State.declare]
  (repeat' split) <;> simp

@[simp] theorem State.redeclare_mem (s : State) (p : Nat) (old : RegionPool) (key : PoolKey) (d : PoolDecl) :
    (State.redeclare s p old key d).2.mem = s.mem := by
  simp only [State.redeclare]
  (repeat' split) <;> simp

@[simp] theorem State.declareHere_mem (s : State) (p : Nat) (key : PoolKey) (d : PoolDecl) : (State.declareHere s p key d).mem = s.mem := by simp only [State.declareHere]; split <;> simp

@[simp] theorem State.declareAway_mem (s : State) (q : Nat) (key : PoolKey) (d : PoolDecl) (v : Option (BitVec 64)) :
    (State.declareAway s q key d v).2.mem = s.mem := by
  simp only [State.declareAway]
  (repeat' split) <;> simp

@[simp] theorem State.declared_wf (s : State) (p : Nat) (k : Nat) (key : PoolKey) (d : PoolDecl) (ok : Bool) (h0 : Memory.wf s.mem = true) :
    Memory.wf (State.declared s p k key d ok).mem = true := by simp (maxDischargeDepth := 20) [State.declared, h0]

@[simp] theorem State.declareFromImage_wf (s : State) (p : Nat) (pool : Nat) (d : PoolDecl) (h0 : Memory.wf s.mem = true) :
    Memory.wf (State.declareFromImage s p pool d).mem = true := by
  simp only [State.declareFromImage]
  (repeat' split) <;> simp (maxDischargeDepth := 20) [h0]

@[simp] theorem State.askHome_mem (s : State) (p pool : Nat) (d : PoolDecl) : (s.askHome p pool d).mem = s.mem := by
  simp only [State.askHome]; split <;> simp

@[simp] theorem State.passValue_mem (s : State) (b : HomeBasin) (v : Option (BitVec 64)) : (s.passValue b v).mem = s.mem := by
  simp only [State.passValue]; split <;> rfl

@[simp] theorem State.dropGathers_mem (s : State) (p : Nat) : (s.dropGathers p).mem = s.mem := by
  simp only [State.dropGathers]
  rw [foldl_mem _ _ _ (fun _ _ => by simp)]

theorem State.gatherStep_mem (s : State) (b : HomeBasin) (g : GatherState) (settle : Bool) (t : State)
    (h : s.gatherStep b g settle = some t) : t.mem = s.mem := by
  simp only [State.gatherStep, Option.map_eq_some_iff] at h
  obtain ⟨k, _, rfl⟩ := h
  split <;> simp

@[simp] theorem State.gatherEnd_wf (s : State) (b : HomeBasin) (g : GatherState) (settle : Bool) (h0 : Memory.wf s.mem = true) :
    Memory.wf (State.gatherEnd s b g settle).2.mem = true := by simp [State.gatherEnd, h0]

theorem State.gatherAll_wf (settle : Bool) (key : PoolKey) (fuel : Nat) (s : State) (v : DWord × Flags × DWord × Option (Nat × Nat)) (t : State)
    (h0 : Memory.wf s.mem = true) (h : State.gatherAll settle key fuel s = some (v, t)) : Memory.wf t.mem = true := by
  induction fuel generalizing s with
  | zero => cases h
  | succ n ih =>
    simp only [State.gatherAll] at h
    repeat' split at h
    · cases h
    · next h1 => exact ih _ (by rw [State.gatherStep_mem _ _ _ _ _ h1]; exact h0) h
    · simp only [Option.some.injEq] at h
      have h1 := congrArg (fun q => q.2.mem) h
      simp only at h1
      rw [← h1]
      simp [h0]

@[simp] theorem State.freeInstance_mem (s : State) (key : PoolKey) : (State.freeInstance s key).mem = s.mem := rfl

@[simp] theorem State.endPool_mem (s : State) (b : HomeBasin) (v : Option (BitVec 64)) : (s.endPool b v).mem = s.mem := by
  simp only [State.endPool]; split <;> simp

@[simp] theorem State.poolFreed_mem (s : State) (key : PoolKey) (v : Option (BitVec 64)) : (s.poolFreed key v).mem = s.mem := by
  simp only [State.poolFreed]; split <;> simp

@[simp] theorem State.finishAway_wf (s : State) (q : Nat) (tag : Nat) (b : HomeBasin) (bad : Bool) (h0 : Memory.wf s.mem = true) :
    Memory.wf (State.finishAway s q tag b bad).mem = true := by simp [State.finishAway, h0]

@[simp] theorem State.gatherDone_wf (s : State) (p : Nat) (k : Nat) (key : PoolKey) (res : DWord × Flags × DWord × Option (Nat × Nat)) (counted : Bool) (h0 : Memory.wf s.mem = true) :
    Memory.wf (State.gatherDone s p k key res counted).mem = true := by
  simp only [State.gatherDone]
  (repeat' split) <;> simp (maxDischargeDepth := 20) [h0]

@[simp] theorem State.laneAsked_wf (s : State) (src : Nat) (key : PoolKey) (pos : Nat) (settle : Bool) (h0 : Memory.wf s.mem = true) :
    Memory.wf (State.laneAsked s src key pos settle).mem = true := by simp only [State.laneAsked]; split <;> simp [h0]

@[simp] theorem State.lanesCame_mem (s : State) (src : Nat) (key : PoolKey) (found : List LaneTaken) : (State.lanesCame s src key found).mem = s.mem := by
  simp only [State.lanesCame]
  (repeat' split) <;> simp

@[simp] theorem State.releaseChannel_mem (s : State) (p : Nat) (k : Nat) : (State.releaseChannel s p k).mem = s.mem := rfl

@[simp] theorem State.rootTake_mem (s : State) (d : Nat) (id : Nat) (gen8 : Nat) (words : List Nat) : (State.rootTake s d id gen8 words).mem = s.mem := rfl

@[simp] theorem State.rootFlush_mem (s : State) (d : Nat) (id : Nat) : (State.rootFlush s d id).mem = s.mem := by
  simp only [State.rootFlush]
  rw [foldl_mem _ _ _ (fun _ _ => by simp)]; try simp

@[simp] theorem State.sendTrain_mem (s : State) (p : Nat) (u : Nat) (step : Nat) (id : Nat) (words : List Nat) :
    (State.sendTrain s p u step id words).mem = s.mem := by simp only [State.sendTrain]; split <;> simp

@[simp] theorem State.nodeFlush_mem (s : State) (p : Nat) (k : Nat) : (State.nodeFlush s p k).mem = s.mem := by
  simp only [State.nodeFlush]
  (repeat' split) <;> simp

@[simp] theorem State.sealNow_mem (s : State) (id : Nat) (op : Option Nat) : (State.sealNow s id op).mem = s.mem := by
  simp only [State.sealNow]
  split <;> exact (foldl_mem _ _ _ (fun _ _ => by simp)).trans (by simp)

@[simp] theorem State.sealAnswer_mem (s : State) (j : Nat) : (State.sealAnswer s j).mem = s.mem := by
  simp only [State.sealAnswer]
  (repeat' split) <;> simp

@[simp] theorem State.startSeal_mem (s : State) (p id tmpl : Nat) (ch : Option Nat) : (s.startSeal p id tmpl ch).mem = s.mem := by
  simp only [State.startSeal]
  rw [foldl_mem _ _ _ (fun _ _ => by simp), foldl_mem _ _ _ (fun _ _ => by simp)]

@[simp] theorem State.engAt_mem (s : State) (d : Nat) (asid : BitVec 16) (va : Nat) (need : Need) : (State.engAt s d asid va need).2.mem = s.mem := by
  simp only [State.engAt]
  repeat' (split <;> (try (rename_i e1; have e2 := congrArg Prod.snd e1; simp only at e2; (try subst e2); clear e1)))
  all_goals simp

@[simp] theorem State.engRead_wf (s : State) (pa : Nat) (n : Nat) (clk : DWord) (h0 : Memory.wf s.mem = true) :
    Memory.wf (State.engRead s pa n clk).2.mem = true := by simp [State.engRead, h0]

@[simp] theorem State.engWrite_wf (s : State) (pa : Nat) (n : Nat) (v : Nat) (clk : DWord) (h0 : Memory.wf s.mem = true) :
    Memory.wf (State.engWrite s pa n v clk).2.mem = true := by simp only [State.engWrite]; split <;> simp [h0]

@[simp] theorem State.engineFault_wf (s : State) (m : EngMsg) (status : Nat) (h0 : Memory.wf s.mem = true) :
    Memory.wf (State.engineFault s m status).mem = true := by simp [State.engineFault, h0]

@[simp] theorem State.engPut_mem (s : State) (j : Job) (pa : Nat) (op : AwayOp) (clk : DWord) : (s.engPut j pa op clk).mem = s.mem := by
  simp [State.engPut]

@[simp] theorem State.engUsed_mem (s : State) (j : Job) : (s.engUsed j).mem = s.mem := rfl

theorem State.engEnd_mem (s : State) (j : Job) (status failed st : Nat) (clk : DWord) (t : State)
    (h : s.engEnd j status failed = some (st, clk, t)) : t.mem = s.mem := by
  simp only [State.engEnd] at h
  split at h
  · cases h
  · cases h; rfl

@[simp] theorem State.engLine_wf (s : State) (j : Job) (pa n v : Nat) (clk : DWord) (h0 : Memory.wf s.mem = true) :
    Memory.wf (s.engLine j pa n v clk).2.mem = true := by simp only [State.engLine]; split <;> simp [h0]

@[simp] theorem State.engFar_mem (s : State) (j : Job) (pa : Nat) (op : AwayOp) : (s.engFar j pa op).2.mem = s.mem := by
  simp only [State.engFar]; split <;> simp

@[simp] theorem State.replyRecordAt_wf (s : State) (m : EngMsg) (d : Nat) (va : Nat) (status : Nat) (clk : DWord) (h0 : Memory.wf s.mem = true) :
    Memory.wf (State.replyRecordAt s m d va status clk).mem = true := by
  simp only [State.replyRecordAt]
  repeat' (split <;> (try (rename_i e1; have e2 := congrArg Prod.snd e1; simp only at e2; (try subst e2); clear e1)))
  all_goals simp (maxDischargeDepth := 20) [h0]

theorem State.reply_wf (s : State) (d : Nat) (m : EngMsg) (status : Nat) (clk : DWord) (t : State) (h0 : Memory.wf s.mem = true)
    (h : s.reply d m status clk = .sent t) : Memory.wf t.mem = true := by
  simp only [State.reply] at h
  repeat' split at h
  all_goals first | cases h | skip
  all_goals (repeat' split)
  all_goals simp (maxDischargeDepth := 20) [h0]

@[simp] theorem State.completeHolder_mem (s : State) (d : Nat) (id : Nat) (clk : DWord) : (State.completeHolder s d id clk).mem = s.mem := rfl

@[simp] theorem State.completeBindings_mem (s : State) (p : Nat) : (State.completeBindings s p).mem = s.mem := by
  simp only [State.completeBindings]
  rw [foldl_mem _ _ _ (fun _ _ => by simp)]; try simp

@[simp] theorem State.giveJobs_mem (s : State) (d : Nat) : (State.giveJobs s d).mem = s.mem := rfl

@[simp] theorem State.jobEnds_mem (s : State) (d : Nat) (m : EngMsg) (clk : DWord) : (s.jobEnds d m clk).mem = s.mem := by
  simp only [State.jobEnds]; split <;> simp

@[simp] theorem State.replyNow_wf (s : State) (d : Nat) (m : EngMsg) (status : Nat) (clk : DWord) (h0 : Memory.wf s.mem = true) :
    Memory.wf (s.replyNow d m status clk).mem = true := by
  simp only [State.replyNow]
  split
  · simpa using h0
  split
  · next h => simpa using State.reply_wf _ _ _ _ _ _ h0 h
  · simpa using h0

@[simp] theorem State.endDropped_wf (s : State) (d : Nat) (m : EngMsg) (h0 : Memory.wf s.mem = true) : Memory.wf (State.endDropped s d m).mem = true := by
  simp [State.endDropped, h0]

@[simp] theorem State.dropHolder_wf (s : State) (d : Nat) (o : Holder) (h0 : Memory.wf s.mem = true) : Memory.wf (State.dropHolder s d o).mem = true := by
  simp only [State.dropHolder]
  (repeat' split) <;> simp (maxDischargeDepth := 20) [h0]

@[simp] theorem State.setCell_mem (s : State) (p : Nat) (c : Nat) (x : Cell) : (State.setCell s p c x).mem = s.mem := rfl

@[simp] theorem State.walkRange_mem (d : Nat) (asid : BitVec 16) (fuel va left : Nat) (acc : Option (Nat × Bool × Bool)) (s : State) :
    (State.walkRange d asid fuel va left acc s).2.mem = s.mem := by
  induction fuel generalizing va left acc s with
  | zero => rfl
  | succ n ih =>
    simp only [State.walkRange]
    repeat' (split <;> (try (rename_i e1; have e2 := congrArg Prod.snd e1; simp only at e2; (try subst e2); clear e1)))
    all_goals (try rw [ih])
    all_goals simp

@[simp] theorem State.latchWindow_mem (s : State) (d : Nat) (asid : BitVec 16) (w : WindowRec) :
    (s.latchWindow d asid w).2.mem = s.mem := by
  simp only [State.latchWindow]
  repeat' (split <;> (try (rename_i e1; have e2 := congrArg Prod.snd e1; simp only at e2; (try subst e2); clear e1)))
  all_goals simp

@[simp] theorem State.latchWindows_mem (d : Nat) (asid : BitVec 16) (l : List WindowRec) (acc : List Window) (s : State) :
    (State.latchWindows d asid l acc s).2.mem = s.mem := by
  induction l generalizing acc s with
  | nil => rfl
  | cons w t ih => simp [State.latchWindows, ih]

@[simp] theorem State.releaseGraph_mem (s : State) (ctx : Nat) : (State.releaseGraph s ctx).mem = s.mem := rfl

@[simp] theorem State.installPort_wf (s0 : State) (p : Nat) (n : Nat) (x : StepSlot) (recs : List ConfRec) (w : CellWord) (ro : RouterWord) (h0 : Memory.wf s0.mem = true) :
    Memory.wf (State.installPort s0 p n x recs w ro).mem = true := by
  (try simp only [State.installPort])
  (try simp (maxDischargeDepth := 20) (contextual := true) [h0])
  all_goals (repeat' (split <;> (try (rename_i e1; have e2 := congrArg Prod.snd e1; simp only at e2; (try subst e2); clear e1))))
  all_goals (try (simp (maxDischargeDepth := 20) (contextual := true) [h0]; done))
  all_goals (try (refine foldl_wf _ _ _ (fun s1 x1 hs1 => ?_) ?_ <;> (try dsimp only) <;> (repeat' split) <;> simp (maxDischargeDepth := 20) (contextual := true) [*]; done))

@[simp] theorem State.advanceIn_wf (p node : Nat) (l : List StepSlot) (o : Option Nat) (s : State) (h0 : Memory.wf s.mem = true) :
    Memory.wf (s.advanceIn p node l o).mem = true := by
  induction l generalizing o with
  | nil => cases o <;> simp only [State.advanceIn] <;> (repeat' split) <;> simp [h0]
  | cons x t ih => simp only [State.advanceIn]; repeat' split
                   all_goals simp [h0, ih]

@[simp] theorem State.advanceNode_wf (s : State) (p : Nat) (node : Nat) (h0 : Memory.wf s.mem = true) :
    Memory.wf (State.advanceNode s p node).mem = true := by simp [State.advanceNode, h0]

@[simp] theorem State.settle_wf (s : State) (p : Nat) (c : Nat) (h0 : Memory.wf s.mem = true) : Memory.wf (State.settle s p c).mem = true := by simp [State.settle, h0]

@[simp] theorem State.advanceAll_wf (s : State) (p : Nat) (h0 : Memory.wf s.mem = true) : Memory.wf (State.advanceAll s p).mem = true := by
  simp only [State.advanceAll]
  exact foldl_wf _ _ _ (fun _ _ h => by simp [h]) (by simp [h0])

@[simp] theorem State.cellFault_wf (s : State) (p : Nat) (c : Nat) (cause : Cause) (detail : Nat) (sel : Nat) (token : Nat) (tkind : Option Nat) (h0 : Memory.wf s.mem = true) :
    Memory.wf (State.cellFault s p c cause detail sel token tkind).mem = true := by
  simp only [State.cellFault]
  (repeat' split) <;> simp (maxDischargeDepth := 20) [h0]

@[simp] theorem State.cellFaultToken_wf (s : State) (p : Nat) (c : Nat) (cause : Cause) (sel : Nat) (t : Token) (h0 : Memory.wf s.mem = true) :
    Memory.wf (State.cellFaultToken s p c cause sel t).mem = true := by simp [State.cellFaultToken, h0]

/-- What a firing's readiness leaves of memory. -/

def Ready.wf (q : Ready) : Prop := match q with
  | .no => True
  | .act t => Memory.wf t.mem = true
  | .fire t _ _ _ => Memory.wf t.mem = true

theorem State.readyAt_wf (s : State) (p c : Nat) (x : Cell) (w : CellWord) (inputs : List Nat) (h0 : Memory.wf s.mem = true) :
    (s.readyAt p c x w inputs).wf := by
  simp only [State.readyAt]
  repeat' (split <;> (try (rename_i e1; have e2 := congrArg Prod.snd e1; simp only at e2; (try subst e2); clear e1)))
  all_goals simp (maxDischargeDepth := 20) [h0, Ready.wf]

theorem State.prepare_wf (s : State) (p c : Nat) (op : CellOp) (h0 : Memory.wf s.mem = true) : (s.prepare p c op).wf := by
  simp only [State.prepare]
  repeat' split
  all_goals first
    | exact State.readyAt_wf _ _ _ _ _ _ h0
    | simp (maxDischargeDepth := 20) [h0, Ready.wf]

theorem State.prepare_act (s : State) (p c : Nat) (op : CellOp) (t : State) (h : s.prepare p c op = .act t)
    (h0 : Memory.wf s.mem = true) : Memory.wf t.mem = true := by
  have h1 := s.prepare_wf p c op h0; rw [h] at h1; exact h1

theorem State.prepare_fire (s : State) (p c : Nat) (op : CellOp) (t : State) (x : Cell) (w : CellWord) (ts : List Token)
    (h : s.prepare p c op = .fire t x w ts) (h0 : Memory.wf s.mem = true) : Memory.wf t.mem = true := by
  have h1 := s.prepare_wf p c op h0; rw [h] at h1; exact h1

@[simp] theorem State.fired_wf (s : State) (p : Nat) (c : Nat) (x : Cell) (h0 : Memory.wf s.mem = true) : Memory.wf (State.fired s p c x).mem = true := by simp [State.fired, h0]

@[simp] theorem State.lanesFire_wf (p : Nat) (c : Nat) (s : State) (x : Cell) (w : CellWord) (ts : List Token) (h0 : Memory.wf s.mem = true) :
    Memory.wf (State.lanesFire p c s x w ts).mem = true := by simp [State.lanesFire, h0]

@[simp] theorem State.bfpFault_wf (s : State) (p : Nat) (c : Nat) (x : Cell) (w : CellWord) (ts : List Token) (i : Nat) (h0 : Memory.wf s.mem = true) :
    Memory.wf (State.bfpFault s p c x w ts i).mem = true := by simp [State.bfpFault, h0]

@[simp] theorem State.movFire_wf (p : Nat) (c : Nat) (s : State) (x : Cell) (w : CellWord) (ts : List Token) (h0 : Memory.wf s.mem = true) :
    Memory.wf (State.movFire p c s x w ts).mem = true := by
  simp only [State.movFire]
  (repeat' split) <;> simp (maxDischargeDepth := 20) [h0]

@[simp] theorem State.selFire_wf (p : Nat) (c : Nat) (s : State) (x : Cell) (w : CellWord) (ts : List Token) (h0 : Memory.wf s.mem = true) :
    Memory.wf (State.selFire p c s x w ts).mem = true := by
  simp only [State.selFire]
  (repeat' split) <;> simp (maxDischargeDepth := 20) [h0]

@[simp] theorem State.atBoundary_wf (s : State) (p c : Nat) (x : Cell) (w : CellWord) (k : Cell → State)
    (hk : ∀ y, Memory.wf (k y).mem = true) (h0 : Memory.wf s.mem = true) : Memory.wf (s.atBoundary p c x w k).mem = true := by
  simp only [State.atBoundary]
  repeat' split
  all_goals first | exact hk _ | simp (maxDischargeDepth := 20) [h0]

@[simp] theorem State.cvtFire_wf (p : Nat) (c : Nat) (s : State) (x : Cell) (w : CellWord) (ts : List Token) (h0 : Memory.wf s.mem = true) :
    Memory.wf (State.cvtFire p c s x w ts).mem = true := by simp (maxDischargeDepth := 20) [State.cvtFire, h0]

@[simp] theorem State.endTile_mem (s : State) (p : Nat) (c : Nat) (x : Cell) (w : CellWord) : (State.endTile s p c x w).2.mem = s.mem := by
  simp only [State.endTile]
  (repeat' split) <;> simp

@[simp] theorem State.qntEmit_mem (s : State) (p : Nat) (c : Nat) (x : Cell) (w : CellWord) : (State.qntEmit s p c x w).2.mem = s.mem := by
  simp only [State.qntEmit]
  (repeat' split) <;> simp

@[simp] theorem State.qntFire_wf (p : Nat) (c : Nat) (s : State) (x : Cell) (w : CellWord) (ts : List Token) (h0 : Memory.wf s.mem = true) :
    Memory.wf (State.qntFire p c s x w ts).mem = true := by simp (maxDischargeDepth := 20) [State.qntFire, h0]

@[simp] theorem State.dqnFire_wf (p c : Nat) (s : State) (x : Cell) (w : CellWord) (ts : List Token) (h0 : Memory.wf s.mem = true) :
    Memory.wf (State.dqnFire p c s x w ts).mem = true := by
  simp only [State.dqnFire]
  repeat' split
  all_goals first | (simp (maxDischargeDepth := 20) [h0]; done) | skip
  refine State.atBoundary_wf _ _ _ _ _ _ (fun y => ?_) h0
  repeat' split
  all_goals simp (maxDischargeDepth := 20) [h0]

@[simp] theorem State.accFire_wf (p : Nat) (c : Nat) (s : State) (x : Cell) (w : CellWord) (ts : List Token) (h0 : Memory.wf s.mem = true) :
    Memory.wf (State.accFire p c s x w ts).mem = true := by simp [State.accFire, h0]

@[simp] theorem State.runaccFire_wf (p : Nat) (c : Nat) (s : State) (x : Cell) (w : CellWord) (ts : List Token) (h0 : Memory.wf s.mem = true) :
    Memory.wf (State.runaccFire p c s x w ts).mem = true := by simp only [State.runaccFire]; split <;> simp [h0]

@[simp] theorem State.cntFire_wf (p : Nat) (c : Nat) (s : State) (x : Cell) (w : CellWord) (_ts : List Token) (h0 : Memory.wf s.mem = true) :
    Memory.wf (State.cntFire p c s x w _ts).mem = true := by simp [State.cntFire, h0]

@[simp] theorem State.joinFire_wf (s : State) (p : Nat) (c : Nat) (x : Cell) (w : CellWord) (a : Token) (b : Token) (h0 : Memory.wf s.mem = true) :
    Memory.wf (State.joinFire s p c x w a b).mem = true := by simp (maxDischargeDepth := 20) [State.joinFire, h0]

@[simp] theorem State.poolcFire_wf (p : Nat) (c : Nat) (s : State) (x : Cell) (w : CellWord) (ts : List Token) (h0 : Memory.wf s.mem = true) :
    Memory.wf (State.poolcFire p c s x w ts).mem = true := by
  simp only [State.poolcFire]
  repeat' (split <;> (try (rename_i e1; have e2 := congrArg Prod.snd e1; simp only at e2; (try subst e2); clear e1)))
  all_goals simp (maxDischargeDepth := 20) [h0]

@[simp] theorem State.statFire_wf (p : Nat) (c : Nat) (s : State) (x : Cell) (w : CellWord) (ts : List Token) (h0 : Memory.wf s.mem = true) :
    Memory.wf (State.statFire p c s x w ts).mem = true := by
  simp only [State.statFire]
  (repeat' split) <;> simp (maxDischargeDepth := 20) [h0]

@[simp] theorem State.nfinFire_wf (p : Nat) (c : Nat) (s : State) (x : Cell) (w : CellWord) (ts : List Token) (h0 : Memory.wf s.mem = true) :
    Memory.wf (State.nfinFire p c s x w ts).mem = true := by simp [State.nfinFire, h0]

@[simp] theorem State.flushCell_wf (s : State) (p : Nat) (c : Nat) (x : Cell) (w : CellWord) (h0 : Memory.wf s.mem = true) :
    Memory.wf (State.flushCell s p c x w).2.mem = true := by
  simp only [State.flushCell]
  (repeat' split) <;> simp (maxDischargeDepth := 20) [h0]

theorem State.land_mem (s : State) (p : Nat) (to_ : Land) (t : Token) (s1 : State) (h : s.land p to_ t = some s1) : s1.mem = s.mem := by
  simp only [State.land] at h
  repeat' split at h
  all_goals first | (cases h; rfl) | cases h

@[simp] theorem State.deliverOut_wf (s : State) (p c : Nat) (d : Dir) (h0 : Memory.wf s.mem = true) :
    Memory.wf (s.deliverOut p c d).mem = true := by
  simp only [State.deliverOut]
  repeat' split
  all_goals first | exact h0 | skip
  next h => have h1 := State.land_mem _ _ _ _ _ h; rw [← h1] at h0; simp (maxDischargeDepth := 20) [h0]

@[simp] theorem State.unitAccess_mem (s : State) (p : Nat) (va : Nat) (need : Need) : (State.unitAccess s p va need).2.mem = s.mem := by
  simp only [State.unitAccess]
  repeat' (split <;> (try (rename_i e1; have e2 := congrArg Prod.snd e1; simp only at e2; (try subst e2); clear e1)))
  all_goals simp

@[simp] theorem State.unitNow_mem (s : State) (p : Nat) (va : Nat) (need : Need) : (State.unitNow s p va need).2.mem = s.mem := by
  simp only [State.unitNow]
  repeat' (split <;> (try (rename_i e1; have e2 := congrArg Prod.snd e1; simp only at e2; (try subst e2); clear e1)))
  all_goals simp

@[simp] theorem State.readPieces_wf (p : Nat) (home : Bool) (l : List (Nat × Nat)) (acc : List (List Byte)) (s : State)
    (h0 : Memory.wf s.mem = true) : Memory.wf (State.readPieces p home l acc s).2.mem = true := by
  induction l generalizing acc s with
  | nil => exact h0
  | cons x t ih =>
    simp only [State.readPieces]
    repeat' (split <;> (try (rename_i e1; have e2 := congrArg Prod.snd e1; simp only at e2; (try subst e2); clear e1)))
    all_goals (try apply ih)
    all_goals simp (maxDischargeDepth := 20) [h0]

@[simp] theorem State.unitRead_wf (s : State) (p : Nat) (home : Bool) (va : Nat) (n : Nat) (h0 : Memory.wf s.mem = true) :
    Memory.wf (State.unitRead s p home va n).2.mem = true := by simp [State.unitRead, h0]

@[simp] theorem State.ownPieces_wf (p : Nat) (home strict : Bool) (l : List (Nat × Nat)) (acc : List (Nat × Nat × Nat)) (s : State)
    (h0 : Memory.wf s.mem = true) : Memory.wf (State.ownPieces p home strict l acc s).2.mem = true := by
  induction l generalizing acc s with
  | nil => exact h0
  | cons x t ih =>
    simp only [State.ownPieces]
    repeat' (split <;> (try (rename_i e1; have e2 := congrArg Prod.snd e1; simp only at e2; (try subst e2); clear e1)))
    all_goals (try apply ih)
    all_goals simp (maxDischargeDepth := 20) [h0]

@[simp] theorem State.writePieces_wf (p : Nat) (home : Bool) (l : List (Nat × Nat × Nat)) (bs : List Byte) (s : State)
    (h0 : Memory.wf s.mem = true) : Memory.wf (State.writePieces p home l bs s).mem = true := by
  induction l generalizing bs s with
  | nil => exact h0
  | cons x t ih =>
    simp only [State.writePieces]
    apply ih
    split <;> simp (maxDischargeDepth := 20) [h0]

@[simp] theorem State.unitWrite_wf (s : State) (p : Nat) (home : Bool) (strict : Bool) (va : Nat) (bs : List Byte) (h0 : Memory.wf s.mem = true) :
    Memory.wf (State.unitWrite s p home strict va bs).2.mem = true := by
  simp only [State.unitWrite]
  repeat' (split <;> (try (rename_i e1; have e2 := congrArg Prod.snd e1; simp only at e2; (try subst e2); clear e1)))
  all_goals simp (maxDischargeDepth := 20) [h0]

@[simp] theorem State.headerNow_wf (s : State) (p : Nat) (h : Nat) (op : HeaderOp) (h0 : Memory.wf s.mem = true) :
    Memory.wf (State.headerNow s p h op).2.mem = true := by
  simp only [State.headerNow]
  repeat' (split <;> (try (rename_i e1; have e2 := congrArg Prod.snd e1; simp only at e2; (try subst e2); clear e1)))
  all_goals simp (maxDischargeDepth := 20) [h0]

@[simp] theorem State.handleNow_wf (s : State) (p : Nat) (h : Nat) (op : HeaderOp) (h0 : Memory.wf s.mem = true) :
    Memory.wf (State.handleNow s p h op).2.mem = true := by
  simp only [State.handleNow]
  (repeat' split) <;> simp (maxDischargeDepth := 20) [h0]

@[simp] theorem State.matrixFault_wf (s : State) (p : Nat) (c : Cause) (port : Nat) (detail : Nat) (addr : Nat) (token : Nat) (tkind : Option Nat) (h0 : Memory.wf s.mem = true) :
    Memory.wf (State.matrixFault s p c port detail addr token tkind).mem = true := by
  simp only [State.matrixFault]
  repeat' (split <;> (try (rename_i e1; have e2 := congrArg Prod.snd e1; simp only at e2; (try subst e2); clear e1)))
  all_goals simp (maxDischargeDepth := 20) (contextual := true) [h0]

@[simp] theorem State.matrixFaultToken_wf (s : State) (p : Nat) (c : Cause) (k : Nat) (t : Token) (h0 : Memory.wf s.mem = true) :
    Memory.wf (State.matrixFaultToken s p c k t).mem = true := by simp [State.matrixFaultToken, h0]

@[simp] theorem State.matrixSettle_wf (s : State) (p : Nat) (h0 : Memory.wf s.mem = true) : Memory.wf (State.matrixSettle s p).mem = true := by simp [State.matrixSettle, h0]

@[simp] theorem State.dropMa_mem (s : State) (p : Nat) (k : Nat) : (State.dropMa s p k).mem = s.mem := rfl

@[simp] theorem State.takeMaEos_mem (s : State) (p : Nat) (k : Nat) : (State.takeMaEos s p k).mem = s.mem := rfl

@[simp] theorem State.maToken_wf (s : State) (p : Nat) (k : Nat) (a : MatArgs) (epp : Nat) (t : Token) (h0 : Memory.wf s.mem = true) :
    Memory.wf (State.maToken s p k a epp t).mem = true := by
  simp only [State.maToken]
  (repeat' split) <;> simp (maxDischargeDepth := 20) [h0]

@[simp] theorem State.maPorts_wf (s : State) (p : Nat) (h0 : Memory.wf s.mem = true) : Memory.wf (State.maPorts s p).mem = true := by
  simp only [State.maPorts]
  refine foldl_wf _ _ _ (fun s k h => ?_) h0
  (repeat' split) <;> simp [h]

@[simp] theorem State.slotAtC_wf (s : State) (p : Nat) (h : Nat) (n : Nat) (h0 : Memory.wf s.mem = true) :
    Memory.wf (State.slotAtC s p h n).2.mem = true := by
  simp only [State.slotAtC]
  repeat' (split <;> (try (rename_i e1; have e2 := congrArg Prod.snd e1; simp only at e2; (try subst e2); clear e1)))
  all_goals simp (maxDischargeDepth := 20) [h0]

@[simp] theorem State.takeVector_wf (s : State) (p : Nat) (a : MatArgs) (epp : Nat) (h0 : Memory.wf s.mem = true) :
    Memory.wf (State.takeVector s p a epp).2.mem = true := by
  simp only [State.takeVector]
  repeat' (split <;> (try (rename_i e1; have e2 := congrArg Prod.snd e1; simp only at e2; (try subst e2); clear e1)))
  all_goals simp (maxDischargeDepth := 20) [h0]

@[simp] theorem State.beginOp_wf (s : State) (p : Nat) (col : Bool) (a : MatArgs) (h0 : Memory.wf s.mem = true) :
    Memory.wf (State.beginOp s p col a).mem = true := by simp [State.beginOp, h0]

@[simp] theorem State.enterVector_mem (s : State) (p : Nat) (col : Bool) (a : MatArgs) (v : MatSource) : (State.enterVector s p col a v).mem = s.mem := rfl

@[simp] theorem State.beginHead_wf (s : State) (p : Nat) (h0 : Memory.wf s.mem = true) : Memory.wf (State.beginHead s p).mem = true := by
  simp only [State.beginHead]
  repeat' split
  all_goals simp [h0]

@[simp] theorem State.startVector_wf (s : State) (p : Nat) (h0 : Memory.wf s.mem = true) : Memory.wf (State.startVector s p).mem = true := by
  simp only [State.startVector]
  repeat' (split <;> (try (rename_i e1; have e2 := congrArg Prod.snd e1; simp only at e2; (try subst e2); clear e1)))
  all_goals simp (maxDischargeDepth := 20) [h0]

@[simp] theorem State.drainPool_mem (s : State) (p : Nat) (d : DrainState) (vals : List Word) : (s.drainPool p d vals).1.mem = s.mem := by
  simp only [State.drainPool]
  generalize (s.region p).matrix = m
  generalize vals.zip (List.range vals.length) = l
  refine (?_ : ∀ q : State × Bool, (l.foldl _ q).1.mem = q.1.mem) (s, true)
  induction l with
  | nil => exact fun q => rfl
  | cons v t ih =>
    intro q
    rw [List.foldl_cons, ih]
    split <;> simp

@[simp] theorem State.poisonSlot_mem (s : State) (p : Nat) (home : Bool) (va n : Nat) : (s.poisonSlot p home va n).mem = s.mem := by
  simp only [State.poisonSlot]
  rw [foldl_mem _ _ _ (fun _ _ => ?_)]
  split
  all_goals (rename_i e1; have e2 := congrArg Prod.snd e1; simp only at e2; (try subst e2); clear e1)
  · (repeat' split) <;> simp
  · simp

@[simp] theorem State.drainFront_wf (s : State) (p : Nat) (h0 : Memory.wf s.mem = true) : Memory.wf (s.drainFront p).mem = true := by
  simp only [State.drainFront]
  split
  · exact h0
  · split
    · repeat' (split <;> (try (rename_i e1; have e2 := congrArg Prod.snd e1; simp only at e2; (try subst e2); clear e1)))
      all_goals simp (maxDischargeDepth := 20) [h0]
    · split
      · exact h0
      split
      all_goals (rename_i e1; have e2 := congrArg Prod.fst e1; simp only at e2; (try subst e2); clear e1)
      all_goals simp (maxDischargeDepth := 20) [h0]
    · exact h0

@[simp] theorem State.deliverMz_mem (s : State) (p : Nat) : (s.deliverMz p).mem = s.mem := by
  simp only [State.deliverMz]
  refine foldl_mem _ _ _ (fun s1 k => ?_)
  repeat' split
  all_goals first
    | (next h => have h1 := State.land_mem _ _ _ _ _ h; simp [h1]; done)
    | (simp; done)
    | rfl

@[simp] theorem State.matrixPop_wf (s : State) (p : Nat) (h : Nat) (port tmpl : Nat) (h0 : Memory.wf s.mem = true) :
    Memory.wf (State.matrixPop s p h port tmpl).mem = true := by
  simp only [State.matrixPop]
  repeat' (split <;> (try (rename_i e1; have e2 := congrArg Prod.snd e1; simp only at e2; (try subst e2); clear e1)))
  all_goals simp (maxDischargeDepth := 20) [h0]

@[simp] theorem State.advanceVector_wf (s : State) (p : Nat) (h0 : Memory.wf s.mem = true) : Memory.wf (State.advanceVector s p).mem = true := by
  simp only [State.advanceVector]
  (repeat' split) <;> simp (maxDischargeDepth := 20) [h0]

@[simp] theorem State.finishVector_wf (s : State) (p : Nat) (h0 : Memory.wf s.mem = true) : Memory.wf (State.finishVector s p).mem = true := by simp only [State.finishVector]; split <;> simp [h0]

@[simp] theorem State.vectorsEnd_wf (s : State) (p : Nat) (h0 : Memory.wf s.mem = true) : Memory.wf (State.vectorsEnd s p).mem = true := by
  simp only [State.vectorsEnd]
  exact foldl_wf _ _ _ (fun _ _ h => by simp [h]) (by simp [h0])

@[simp] theorem State.unitEnds_wf (s : State) (p : Nat) (h0 : Memory.wf s.mem = true) : Memory.wf (State.unitEnds s p).mem = true := by
  simp only [State.unitEnds]
  exact foldl_wf _ _ _ (fun _ _ h => by simp [h]) (by simp [h0])

@[simp] theorem State.readTile_wf (p : Nat) (hd : Handle) (l : List (Nat × Nat)) (acc : List (List Byte)) (s : State)
    (h0 : Memory.wf s.mem = true) : Memory.wf (State.readTile p hd l acc s).2.mem = true := by
  induction l generalizing acc s with
  | nil => exact h0
  | cons x t ih =>
    simp only [State.readTile]
    repeat' (split <;> (try (rename_i e1; have e2 := congrArg Prod.snd e1; simp only at e2; (try subst e2); clear e1)))
    all_goals (try apply ih)
    all_goals simp (maxDischargeDepth := 20) [h0]

@[simp] theorem State.preload_mem (s : State) (p : Nat) : (State.preload s p).mem = s.mem := by simp only [State.preload]; split <;> simp

@[simp] theorem State.pruneSteps_mem (s : State) (p : Nat) : (State.pruneSteps s p).mem = s.mem := rfl

@[simp] theorem State.startStep_mem (s : State) (p : Nat) : (State.startStep s p).mem = s.mem := by simp only [State.startStep]; split <;> simp

@[simp] theorem State.dropLoose_mem (s : State) (p : Nat) : (State.dropLoose s p).mem = s.mem := by
  simp only [State.dropLoose]
  rw [foldl_mem _ _ _ (fun _ _ => by simp)]; try simp

@[simp] theorem State.splice_wf (s : State) (p k : Nat) (idx : Nat) (ic : Word) (h0 : Memory.wf s.mem = true) :
    Memory.wf (State.splice s p k idx ic).mem = true := by simp (maxDischargeDepth := 20) [State.splice, h0]

@[simp] theorem State.gotoFrom_mem (s : State) (p : Nat) (k : Nat) : (State.gotoFrom s p k).mem = s.mem := rfl

@[simp] theorem State.chainSplice_wf (s : State) (p : Nat) (h0 : Memory.wf s.mem = true) : Memory.wf (State.chainSplice s p).mem = true := by
  simp only [State.chainSplice]
  (repeat' split) <;> simp (maxDischargeDepth := 20) [h0]

@[simp] theorem State.declareAll_wf (s : State) (p : Nat) (h0 : Memory.wf s.mem = true) : Memory.wf (State.declareAll s p).mem = true := by
  simp only [State.declareAll]
  repeat' (split <;> (try (rename_i e1; have e2 := congrArg Prod.snd e1; simp only at e2; (try subst e2); clear e1)))
  all_goals simp (maxDischargeDepth := 20) (contextual := true) [h0]

@[simp] theorem State.askHomes_mem (s : State) (p : Nat) : (s.askHomes p).mem = s.mem := by
  simp only [State.askHomes]
  (repeat' split) <;> first | rfl | (rw [foldl_mem _ _ _ (fun _ _ => by simp)])

@[simp] theorem State.startEntry_wf (s : State) (p : Nat) (h0 : Memory.wf s.mem = true) : Memory.wf (State.startEntry s p).mem = true := by
  simp only [State.startEntry]
  (repeat' split) <;> simp (maxDischargeDepth := 20) [h0]

@[simp] theorem State.startTogether_wf (s : State) (p : Nat) (h0 : Memory.wf s.mem = true) : Memory.wf (State.startTogether s p).mem = true := by
  simp only [State.startTogether]
  repeat' (split <;> (try (rename_i e1; have e2 := congrArg Prod.snd e1; simp only at e2; (try subst e2); clear e1)))
  all_goals simp (maxDischargeDepth := 20) (contextual := true) [h0]

@[simp] theorem State.startsWaiting_wf (s : State) (p : Nat) (h0 : Memory.wf s.mem = true) : Memory.wf (s.startsWaiting p).mem = true := by
  simp only [State.startsWaiting]
  split
  · exact State.startTogether_wf _ _ h0
  · exact h0

@[simp] theorem State.claim_mem (s : State) (p : Nat) (placing : Bool) : (State.claim s p placing).2.mem = s.mem := by simp only [State.claim]; split <;> simp

def Loaded.wf (q : Loaded) : Prop := match q with
  | .wait t => Memory.wf t.mem = true
  | .command t => Memory.wf t.mem = true
  | .bad t _ _ _ => Memory.wf t.mem = true
  | .ok t _ => Memory.wf t.mem = true

theorem State.loadGraph_wf (s : State) (p mask nrec va : Nat) (h0 : Memory.wf s.mem = true) : (s.loadGraph p mask nrec va).wf := by
  simp only [State.loadGraph]
  split
  · exact h0
  · split
    all_goals (rename_i e1; have e2 := congrArg Prod.snd e1; simp only at e2; (try subst e2); clear e1)
    · simp [Loaded.wf, h0]
    · simp [Loaded.wf, h0]
    · repeat' split
      all_goals simp only [Loaded.wf]
      · simp [h0]
      · simp [h0]
      · rw [foldl_mem _ _ _ (fun _ _ => by simp)]; simp [h0]

@[simp] theorem State.postHolder_mem (s : State) (p : Nat) (src : Option Nat) (job : Bool) (fs : List FootRange) (clk : DWord) :
    (State.postHolder s p src job fs clk).2.mem = s.mem := rfl

@[simp] theorem State.postFrom_mem (p : Nat) (l done : List QueuedCmd) (s : State) : (State.postFrom p done l s).mem = s.mem := by
  induction l generalizing done s with
  | nil => rfl
  | cons q t ih =>
    simp only [State.postFrom]
    repeat' split
    all_goals (try rw [ih])
    all_goals simp

@[simp] theorem State.postQueued_mem (s : State) (p : Nat) : (State.postQueued s p).mem = s.mem := by
  (try simp only [State.postQueued])
  (try simp)
  all_goals (repeat' (split <;> (try (rename_i e1; have e2 := congrArg Prod.snd e1; simp only at e2; (try subst e2); clear e1))))
  all_goals (try (simp; done))
  all_goals (try (refine (foldl_mem _ _ _ (fun s1 x1 => ?_)).trans ?_ <;> (try dsimp only) <;> (repeat' split) <;> simp; done))

@[simp] theorem State.enqueue_mem (s : State) (p : Nat) (c : Nat) (t : Nat) (ctx : Nat) : (State.enqueue s p c t ctx).mem = s.mem := by
  simp only [State.enqueue]
  (repeat' split) <;> simp

@[simp] theorem State.popCommand_wf (s : State) (p : Nat) (h0 : Memory.wf s.mem = true) : Memory.wf (State.popCommand s p).mem = true := by simp [State.popCommand, h0]

@[simp] theorem State.streamFault_wf (s : State) (p : Nat) (c : Cause) (detail : Nat) (addr : Nat) (tmpl : Nat) (h0 : Memory.wf s.mem = true) :
    Memory.wf (State.streamFault s p c detail addr tmpl).mem = true := by simp [State.streamFault, h0]

@[simp] theorem State.failCommand_wf (s : State) (c : Cause) (detail : Nat) (addr : Nat) (h0 : Memory.wf s.mem = true) :
    Memory.wf (State.failCommand s c detail addr).mem = true := by simp [State.failCommand, h0]

@[simp] theorem State.streamAcquire_mem (s : State) (clk : DWord) : (State.streamAcquire s clk).mem = s.mem := rfl

@[simp] theorem State.syncAct_wf (s : State) (p : Nat) (va : Nat) (pa : Nat) (cnt : Nat) (tgt : Nat) (clk : DWord) (h0 : Memory.wf s.mem = true) :
    Memory.wf (State.syncAct s p va pa cnt tgt clk).2.mem = true := by
  simp only [State.syncAct]
  (repeat' split) <;> simp (maxDischargeDepth := 20) [h0]

@[simp] theorem State.portFault_wf (s : State) (p : Nat) (n : Nat) (c : Cause) (detail : Nat) (addr : Nat) (token : Nat) (tkind : Option Nat) (sel : Nat) (h0 : Memory.wf s.mem = true) :
    Memory.wf (State.portFault s p n c detail addr token tkind sel).mem = true := by
  unfold State.portFault
  exact State.unitFault_wf _ _ _ _ _ _ _ _ _ _ (by simpa using h0)

@[simp] theorem State.elementDone_mem (s : State) (p : Nat) (n : Nat) : (State.elementDone s p n).mem = s.mem := rfl

@[simp] theorem State.setWeirCtx_mem (s : State) (k : Nat) (ctx : Nat) (c : WeirCtx) : (State.setWeirCtx s k ctx c).mem = s.mem := rfl

@[simp] theorem State.endWeirTile_mem (s : State) (k : Nat) (ctx : Nat) (i : Nat) : (State.endWeirTile s k ctx i).mem = s.mem := by
  simp only [State.endWeirTile]
  (repeat' split) <;> simp

@[simp] theorem State.endCtxTiles_mem (s : State) (k : Nat) (ctx : Nat) : (State.endCtxTiles s k ctx).mem = s.mem := by simp only [State.endCtxTiles]; split <;> simp

@[simp] theorem State.endGraphTiles_mem (s : State) (ctx : Nat) : (State.endGraphTiles s ctx).mem = s.mem := by simp [State.endGraphTiles]

@[simp] theorem State.endGraph_mem (s : State) (ctx : Nat) : (State.endGraph s ctx).mem = s.mem := by simp [State.endGraph]

@[simp] theorem State.tapSeen_mem (s : State) (k : Nat) (ctx : Nat) (i : Nat) (w : CellWord) (lanes : Nat) (words : List Nat → List Nat) :
    (State.tapSeen s k ctx i w lanes words).mem = s.mem := by
  simp only [State.tapSeen]
  (repeat' split) <;> simp

@[simp] theorem State.weirClip_mem (s : State) (k : Nat) (ctx : Nat) (i : Nat) (w : CellWord) (a : Word) :
    (State.weirClip s k ctx i w a).2.mem = s.mem := by simp only [State.weirClip]; split <;> simp

@[simp] theorem State.weirPool_wf (s : State) (k : Nat) (ctx : Nat) (i : Nat) (w : CellWord) (a : Word) (on : Bool) (bad : Option Nat) (clk : DWord) (h0 : Memory.wf s.mem = true) :
    Memory.wf (State.weirPool s k ctx i w a on bad clk).mem = true := by
  simp only [State.weirPool]
  repeat' (split <;> (try (rename_i e1; have e2 := congrArg Prod.snd e1; simp only at e2; (try subst e2); clear e1)))
  all_goals simp (maxDischargeDepth := 20) [h0]

@[simp] theorem State.weirNode_wf (s : State) (k : Nat) (ctx : Nat) (i : Nat) (w : CellWord) (a : Word) (b : Word) (d : Word) (pred : Option Nat) (clk : DWord) (h0 : Memory.wf s.mem = true) :
    Memory.wf (State.weirNode s k ctx i w a b d pred clk).2.mem = true := by
  simp only [State.weirNode]
  (repeat' split) <;> simp (maxDischargeDepth := 20) [h0]

@[simp] theorem State.weirNodes_wf (k ctx : Nat) (x : Word) (clk : DWord) (l : List (CellWord × Nat)) (vals : List Word) (s : State)
    (h0 : Memory.wf s.mem = true) : Memory.wf (State.weirNodes k ctx x clk l vals s).2.mem = true := by
  induction l generalizing vals s with
  | nil => exact h0
  | cons y t ih =>
    simp only [State.weirNodes]
    split
    · exact h0
    · apply ih
      repeat' split
      all_goals simp (maxDischargeDepth := 20) [h0]

@[simp] theorem State.weirElement_wf (s : State) (k : Nat) (ctx : Nat) (x : Word) (clk : DWord) (h0 : Memory.wf s.mem = true) :
    Memory.wf (State.weirElement s k ctx x clk).2.mem = true := by simp only [State.weirElement]; split <;> simp [h0]

@[simp] theorem State.tapPoison_wf (s : State) (k ctx i sel : Nat) (t : Token) (h0 : Memory.wf s.mem = true) :
    Memory.wf (s.tapPoison k ctx i sel t).mem = true := by
  simp only [State.tapPoison]
  (repeat' split) <;> simp (maxDischargeDepth := 20) [h0]

@[simp] theorem State.weirPoison_wf (s : State) (k ctx : Nat) (t : Token) (clk : DWord) (h0 : Memory.wf s.mem = true) :
    Memory.wf (s.weirPoison k ctx t clk).mem = true := by
  simp only [State.weirPoison]
  split
  · exact h0
  · refine foldl_wf _ _ _ (fun s e hs => ?_) h0
    (repeat' split) <;> simp [hs]

@[simp] theorem State.holderStops_mem (s : State) (p n k ctx : Nat) : (s.holderStops p n k ctx).mem = s.mem := by
  simp only [State.holderStops]
  (repeat' split) <;> simp

@[simp] theorem State.weirNext_wf (s : State) (k ctx : Nat) (xs : List Word) (clk : DWord) (h0 : Memory.wf s.mem = true) :
    Memory.wf (s.weirNext k ctx xs clk).2.mem = true := by
  simp only [State.weirNext]
  (repeat' split) <;> simp (maxDischargeDepth := 20) [h0]

@[simp] theorem State.pairRead_mem (s : State) (p : Nat) (n : Nat) (pa : Nat) : (State.pairRead s p n pa).mem = s.mem := by simp [State.pairRead]

@[simp] theorem State.portGets_mem (s : State) (p : Nat) (n : Nat) (i : Nat) (ts : List Token) : (State.portGets s p n i ts).mem = s.mem := rfl

@[simp] theorem State.elementFault_wf (s : State) (p : Nat) (n : Nat) (rd : Bool) (c : Cause) (va : Nat) (h0 : Memory.wf s.mem = true) :
    Memory.wf (State.elementFault s p n rd c va).mem = true := by simp [State.elementFault, h0]

@[simp] theorem State.acknowledge_mem (s : State) (p : Nat) (ack : Option (Nat × Nat)) (bytes : Nat) (clk : DWord) :
    (State.acknowledge s p ack bytes clk).mem = s.mem := by simp only [State.acknowledge]; split <;> simp

@[simp] theorem State.performRmw_wf (s : State) (op : CellOp) (p n k va pa : Nat) (v : Word) (ack : Option (Nat × Nat)) (clk : DWord)
    (again : Bool) (h0 : Memory.wf s.mem = true) : Memory.wf (State.performRmw s op p n k va pa v ack clk again).mem = true := by
  simp (maxDischargeDepth := 20) [State.performRmw, h0]

@[simp] theorem State.postEngine_mem (s : State) (p : Nat) (src : Option Nat) (c : EngClass) (words : List DWord) (latch : Option Nat) :
    (State.postEngine s p src c words latch).mem = s.mem := by simp only [State.postEngine]; split <;> simp

@[simp] theorem State.readWords_wf (p n va : Nat) (acc : List DWord) (s : State) (h0 : Memory.wf s.mem = true) :
    Memory.wf (State.readWords p n va acc s).2.mem = true := by
  induction n generalizing va acc s with
  | zero => exact h0
  | succ n ih =>
    simp only [State.readWords]
    repeat' (split <;> (try (rename_i e1; have e2 := congrArg Prod.snd e1; simp only at e2; (try subst e2); clear e1)))
    all_goals (try apply ih)
    all_goals simp (maxDischargeDepth := 20) [h0]

@[simp] theorem State.refuseMessage_wf (s : State) (d : Nat) (m : EngMsg) (h0 : Memory.wf s.mem = true) :
    Memory.wf (State.refuseMessage s d m).mem = true := by simp [State.refuseMessage, h0]

@[simp] theorem State.enterInbox_mem (s : State) (d : Nat) (m : EngMsg) : (State.enterInbox s d m).mem = s.mem := by simp only [State.enterInbox]; split <;> simp

@[simp] theorem State.jobRead_wf (s : State) (d : Nat) (j : Job) (va : Nat) (h0 : Memory.wf s.mem = true) :
    Memory.wf (State.jobRead s d j va).2.mem = true := by
  simp only [State.jobRead]
  repeat' (split <;> (try (rename_i e1; have e2 := congrArg Prod.snd e1; simp only at e2; (try subst e2); clear e1)))
  all_goals simp (maxDischargeDepth := 20) [h0]

@[simp] theorem State.weirWord_wf (s : State) (pa : Nat) (v : Nat) (clk : DWord) (h0 : Memory.wf s.mem = true) :
    Memory.wf (State.weirWord s pa v clk).2.mem = true := by
  simp only [State.weirWord]
  (repeat' split) <;> simp (maxDischargeDepth := 20) [h0]

@[simp] theorem State.jobWrite_wf (s : State) (d : Nat) (j : Job) (va : Nat) (v : Nat) (clk : DWord) (h0 : Memory.wf s.mem = true) :
    Memory.wf (State.jobWrite s d j va v clk).2.mem = true := by
  simp only [State.jobWrite]
  repeat' (split <;> (try (rename_i e1; have e2 := congrArg Prod.snd e1; simp only at e2; (try subst e2); clear e1)))
  all_goals simp (maxDischargeDepth := 20) [h0]

@[simp] theorem State.setCopyJob_mem (s : State) (d : Nat) (e : Nat) (j : Job) : (State.setCopyJob s d e j).mem = s.mem := rfl

@[simp] theorem State.endCopy_wf (s : State) (d e : Nat) (j : Job) (status : Nat) (h0 : Memory.wf s.mem = true) :
    Memory.wf (s.endCopy d e j status).mem = true := by
  simp only [State.endCopy]
  split
  · simpa using h0
  next h2 =>
  have h3 := (State.engEnd_mem _ _ _ _ _ _ _ h2).symm ▸ h0
  split
  · simpa using h3
  · next h =>
    have h1 := State.reply_wf _ _ _ _ _ _ h3 h
    repeat' split
    all_goals simp (maxDischargeDepth := 20) [h1]

@[simp] theorem State.startCopy_wf (s : State) (d : Nat) (e : Nat) (j : Job) (src : Option Nat) (dst : Nat) (len : Nat) (h0 : Memory.wf s.mem = true) :
    Memory.wf (State.startCopy s d e j src dst len).mem = true := by simp [State.startCopy, h0]

@[simp] theorem State.readDescriptor_wf (s : State) (d : Nat) (e : Nat) (j : Job) (h0 : Memory.wf s.mem = true) :
    Memory.wf (State.readDescriptor s d e j).mem = true := by
  simp only [State.readDescriptor]
  repeat' (split <;> (try (rename_i e1; have e2 := congrArg Prod.snd e1; simp only at e2; (try subst e2); clear e1)))
  all_goals simp (maxDischargeDepth := 20) [h0]

@[simp] theorem State.sourceWord_wf (s : State) (d : Nat) (j : Job) (src : Nat) (h0 : Memory.wf s.mem = true) :
    Memory.wf (State.sourceWord s d j src).2.mem = true := by simp only [State.sourceWord]; split <;> simp [h0]

@[simp] theorem State.copyWord_wf (s : State) (d : Nat) (e : Nat) (j : Job) (src : Nat) (dst : Nat) (len : Nat) (h0 : Memory.wf s.mem = true) :
    Memory.wf (State.copyWord s d e j src dst len).mem = true := by
  simp only [State.copyWord]
  repeat' (split <;> (try (rename_i e1; have e2 := congrArg Prod.snd e1; simp only at e2; (try subst e2); clear e1)))
  all_goals simp (maxDischargeDepth := 20) [h0]

@[simp] theorem State.setWeirJob_mem (s : State) (d : Nat) (i : Nat) (j : Job) : (State.setWeirJob s d i j).mem = s.mem := rfl



@[simp] theorem State.holdWeirJob_mem (s : State) (d i : Nat) (j : Job) (status : Nat) : (s.holdWeirJob d i j status).mem = s.mem := by
  simp only [State.holdWeirJob]
  split <;> simp


@[simp] theorem State.endWeirJob_wf (s : State) (d i : Nat) (j : Job) (status : Nat) (h0 : Memory.wf s.mem = true) :
    Memory.wf (s.endWeirJob d i j status).mem = true := by
  simp only [State.endWeirJob]
  split
  · simpa using h0
  next h2 =>
  split
  · simpa using h0
  · next h =>
    have h1 := State.reply_wf _ _ _ _ _ _ (by
      split at h2
      · cases h2
      · rw [State.engEnd_mem _ _ _ _ _ _ _ h2]; exact h0) h
    repeat' split
    all_goals simp (maxDischargeDepth := 20) [h1]

@[simp] theorem State.bufferLines_mem (d : Nat) (asid : BitVec 16) (l acc : List Nat) (s : State) :
    (State.bufferLines d asid l acc s).2.mem = s.mem := by
  induction l generalizing acc s with
  | nil => rfl
  | cons x t ih =>
    simp only [State.bufferLines]
    repeat' (split <;> (try (rename_i e1; have e2 := congrArg Prod.snd e1; simp only at e2; (try subst e2); clear e1)))
    all_goals (try rw [ih])
    all_goals simp

@[simp] theorem State.writeLines_wf (s : State) (j : Job) (pas : List Nat) (bs : List Byte) (clk : DWord) (h0 : Memory.wf s.mem = true) :
    Memory.wf (s.writeLines j pas bs clk).2.mem = true := by
  simp only [State.writeLines]
  generalize hq : ((0, clk, s) : Nat × DWord × State) = q
  have h1 : Memory.wf q.2.2.mem = true := by rw [← hq]; exact h0
  clear hq h0
  induction pas generalizing q with
  | nil => exact h1
  | cons x t ih => exact ih _ (by simp [h1])

@[simp] theorem State.completionAt_wf (s : State) (pa : Nat) (v : Nat) (h0 : Memory.wf s.mem = true) :
    Memory.wf (State.completionAt s pa v).mem = true := by
  simp only [State.completionAt]
  (repeat' split) <;> simp [h0]

@[simp] theorem State.completion_wf (s : State) (d : Nat) (f : LaunchRec) (src : Nat) (sasid : BitVec 16) (status : Nat) (ndone : Nat) (detail : Nat) (h0 : Memory.wf s.mem = true) :
    Memory.wf (State.completion s d f src sasid status ndone detail).mem = true := by
  simp only [State.completion]
  repeat' (split <;> (try (rename_i e1; have e2 := congrArg Prod.snd e1; simp only at e2; (try subst e2); clear e1)))
  all_goals simp (maxDischargeDepth := 20) [h0]

@[simp] theorem State.completeLaunch_wf (s : State) (d : Nat) (u : Nat) (status : Nat) (detail : Nat) (h0 : Memory.wf s.mem = true) :
    Memory.wf (State.completeLaunch s d u status detail).mem = true := by simp only [State.completeLaunch]; split <;> simp [h0]

@[simp] theorem State.takeRecord_wf (s : State) (d : Nat) (n : Nat) (src : Nat) (sender : Nat) (from_ : Option (BitVec 16 × Bool)) (h0 : Memory.wf s.mem = true) :
    Memory.wf (State.takeRecord s d n src sender from_).mem = true := by simp [State.takeRecord, h0]

@[simp] theorem State.endInbox_wf (s : State) (d : Nat) (m : EngMsg) (status : Nat) (clk : DWord) (h0 : Memory.wf s.mem = true) :
    Memory.wf (State.endInbox s d m status clk).mem = true := by simp [State.endInbox, h0]

@[simp] theorem State.readLaunch_wf (s : State) (d : Nat) (m : EngMsg) (va : Nat) (clk : DWord) (h0 : Memory.wf s.mem = true) :
    Memory.wf (s.readLaunch d m va clk).2.mem = true := by
  simp only [State.readLaunch]
  repeat' (split <;> (try (rename_i e1; have e2 := congrArg Prod.snd e1; simp only at e2; (try subst e2); clear e1)))
  all_goals simp (maxDischargeDepth := 20) [h0]

@[simp] theorem State.cancelQueue_wf (s : State) (d : Nat) (q : Nat) (h0 : Memory.wf s.mem = true) : Memory.wf (State.cancelQueue s d q).mem = true := by
  simp only [State.cancelQueue]
  exact foldl_wf _ _ _ (fun _ _ h => by simp [h]) (by simp [h0])

@[simp] theorem State.queueConfig_wf (s : State) (d : Nat) (q : Nat) (v : DWord) (h0 : Memory.wf s.mem = true) :
    Memory.wf (State.queueConfig s d q v).mem = true := by simp (maxDischargeDepth := 20) [State.queueConfig, h0]

@[simp] theorem State.retireAtOnce_mem (s : State) (p : Nat) : (State.retireAtOnce s p).mem = s.mem := rfl

@[simp] theorem State.placementClaims_mem (s : State) (ps : List Nat) : (State.placementClaims s ps).mem = s.mem := by simp [State.placementClaims]

@[simp] theorem State.placeAt_mem (s : State) (d u i origin : Nat) (rect : List Nat) : (s.placeAt d u i origin rect).mem = s.mem := by
  simp only [State.placeAt]
  repeat' split
  all_goals (try rfl)
  all_goals (try simp only [State.placementClaims_mem])
  all_goals rw [foldl_mem _ _ _ (fun _ _ => by simp)]
  all_goals simp

@[simp] theorem State.wakeClusters_mem (s : State) (d : Nat) (rect : List Nat) : (State.wakeClusters s d rect).2.mem = s.mem := rfl

@[simp] theorem State.markPlaced_mem (s : State) (d : Nat) (u : Nat) (tried : List Nat) : (State.markPlaced s d u tried).mem = s.mem := by simp only [State.markPlaced]; split <;> simp

@[simp] theorem State.startPreempt_wf (s : State) (d : Nat) (iid : Nat) (i : Instance) (h0 : Memory.wf s.mem = true) :
    Memory.wf (State.startPreempt s d iid i).mem = true := by simp [State.startPreempt, h0]

@[simp] theorem State.startWaiting_wf (s : State) (d : Nat) (h0 : Memory.wf s.mem = true) : Memory.wf (State.startWaiting s d).mem = true := by
  simp only [State.startWaiting]
  (repeat' split) <;> simp (maxDischargeDepth := 20) [h0]

@[simp] theorem State.preemptOver_wf (s : State) (d : Nat) (h0 : Memory.wf s.mem = true) : Memory.wf (State.preemptOver s d).mem = true := by
  simp only [State.preemptOver]
  (repeat' split) <;> simp (maxDischargeDepth := 20) [h0]

@[simp] theorem State.setPort_mem (s : State) (p : Nat) (n : Nat) (x : Port) : (State.setPort s p n x).mem = s.mem := rfl

@[simp] theorem State.setSide_mem (s : State) (p : Nat) (n : Nat) (x : PortSide) : (State.setSide s p n x).mem = s.mem := rfl

@[simp] theorem State.metered_mem (s : State) (p : Nat) (n : Nat) : (State.metered s p n).mem = s.mem := rfl

@[simp] theorem State.portDeliver_wf (s : State) (p : Nat) (n : Nat) (h0 : Memory.wf s.mem = true) : Memory.wf (State.portDeliver s p n).mem = true := by simp only [State.portDeliver]; split <;> simp [h0]

@[simp] theorem State.portCutTiles_mem (s : State) (p : Nat) (n : Nat) : (State.portCutTiles s p n).mem = s.mem := by simp only [State.portCutTiles]; split <;> simp

@[simp] theorem State.portOperate_wf (s : State) (p : Nat) (n : Nat) (o : RouterOut) (h0 : Memory.wf s.mem = true) :
    Memory.wf (State.portOperate s p n o).mem = true := by
  simp only [State.portOperate]
  (repeat' split) <;> simp (maxDischargeDepth := 20) [h0]

@[simp] theorem State.portMove_wf (s : State) (p : Nat) (n : Nat) (h0 : Memory.wf s.mem = true) : Memory.wf (State.portMove s p n).mem = true := by
  simp only [State.portMove]
  (repeat' split) <;> simp (maxDischargeDepth := 20) [h0]

@[simp] theorem State.portOut_wf (s : State) (p : Nat) (n : Nat) (h0 : Memory.wf s.mem = true) : Memory.wf (State.portOut s p n).mem = true := by simp (maxDischargeDepth := 20) [State.portOut, h0]

@[simp] theorem State.endPortTile_mem (s : State) (p : Nat) (n : Nat) : (State.endPortTile s p n).mem = s.mem := by simp only [State.endPortTile]; split <;> simp

@[simp] theorem State.tileAtLast_mem (s : State) (p : Nat) (n : Nat) : (State.tileAtLast s p n).mem = s.mem := by simp only [State.tileAtLast]; split <;> simp

@[simp] theorem State.portCount_mem (s : State) (p : Nat) (n : Nat) (vs : List Word) (on : Bool) : (State.portCount s p n vs on).mem = s.mem := by
  simp only [State.portCount]
  (repeat' split) <;> simp

@[simp] theorem State.portRejects_wf (s : State) (p : Nat) (n : Nat) (c : Cause) (t : Token) (sel : Nat) (h0 : Memory.wf s.mem = true) :
    Memory.wf (State.portRejects s p n c t sel).mem = true := by simp [State.portRejects, h0]

@[simp] theorem State.portTakes_mem (s : State) (p : Nat) (n : Nat) : (State.portTakes s p n).mem = s.mem := by simp only [State.portTakes]; split <;> simp

theorem State.portConst_mem (s : State) (p n : Nat) (t : Token) (s1 : State) (h : s.portConst p n = some (t, s1)) : s1.mem = s.mem := by
  simp only [State.portConst] at h
  repeat' split at h
  all_goals first | (cases h; rfl) | cases h

@[simp] theorem State.portEnds_wf (s : State) (p : Nat) (n : Nat) (h0 : Memory.wf s.mem = true) : Memory.wf (State.portEnds s p n).mem = true := by
  simp only [State.portEnds]
  split <;> simp [h0]

@[simp] theorem State.portFinal_wf (s : State) (p : Nat) (n : Nat) (h0 : Memory.wf s.mem = true) : Memory.wf (State.portFinal s p n).mem = true := by simp (maxDischargeDepth := 20) [State.portFinal, h0]

@[simp] theorem State.portMarker_mem (s : State) (p : Nat) (n : Nat) : (State.portMarker s p n).mem = s.mem := by
  simp only [State.portMarker]
  (repeat' split) <;> simp

@[simp] theorem State.latchPage_mem (s : State) (p : Nat) (n : Nat) (e : PageEntry) : (State.latchPage s p n e).mem = s.mem := by simp [State.latchPage]

@[simp] theorem State.portTranslate_mem (s : State) (p : Nat) (n : Nat) (va : Nat) (need : Need) : (State.portTranslate s p n va need).2.mem = s.mem := by
  simp only [State.portTranslate]
  repeat' (split <;> (try (rename_i e1; have e2 := congrArg Prod.snd e1; simp only at e2; (try subst e2); clear e1)))
  all_goals simp

@[simp] theorem State.portBytes_wf (p n : Nat) (l : List (Nat × Nat)) (acc : List (List Byte)) (s : State)
    (h0 : Memory.wf s.mem = true) : Memory.wf (State.portBytes p n l acc s).2.mem = true := by
  induction l generalizing acc s with
  | nil => exact h0
  | cons x t ih =>
    simp only [State.portBytes]
    repeat' (split <;> (try (rename_i e1; have e2 := congrArg Prod.snd e1; simp only at e2; (try subst e2); clear e1)))
    all_goals (try apply ih)
    all_goals simp (maxDischargeDepth := 20) [h0]

@[simp] theorem State.sendElement_mem (s : State) (p n i va pa : Nat) (clsW : Bool) (b : Running) (v : Option Word) (ack : Option (Nat × Nat)) :
    (s.sendElement p n i va pa clsW b v ack).mem = s.mem := by simp [State.sendElement]

@[simp] theorem State.portWriteAway_mem (s : State) (p n i va pa : Nat) (clsW : Bool) (b : Running) (vs : List Word) :
    (s.portWriteAway p n i va pa clsW b vs).2.mem = s.mem := by
  simp only [State.portWriteAway]
  (repeat' split) <;> simp

@[simp] theorem State.portRead_wf (s : State) (p : Nat) (n : Nat) (i : Nat) (va : Nat) (pa : Nat) (clsW : Bool) (b : Running) (h0 : Memory.wf s.mem = true) :
    Memory.wf (State.portRead s p n i va pa clsW b).2.mem = true := by
  simp only [State.portRead]
  repeat' (split <;> (try (rename_i e1; have e2 := congrArg Prod.snd e1; simp only at e2; (try subst e2); clear e1)))
  all_goals simp (maxDischargeDepth := 20) [h0]

@[simp] theorem State.mamoAt_wf (s : State) (p : Nat) (n : Nat) (va : Nat) (pa : Nat) (v : Word) (h0 : Memory.wf s.mem = true) :
    Memory.wf (State.mamoAt s p n va pa v).2.mem = true := by
  simp only [State.mamoAt]
  repeat' (split <;> (try (rename_i e1; have e2 := congrArg Prod.snd e1; simp only at e2; (try subst e2); clear e1)))
  all_goals simp (maxDischargeDepth := 20) [h0]

@[simp] theorem State.portWrite_wf (s : State) (p : Nat) (n : Nat) (i : Nat) (va : Nat) (pa : Nat) (clsW : Bool) (b : Running) (vs : List Word) (again : Bool) (h0 : Memory.wf s.mem = true) :
    Memory.wf (State.portWrite s p n i va pa clsW b vs again).2.mem = true := by
  simp only [State.portWrite]
  repeat' (split <;> (try (rename_i e1; have e2 := congrArg Prod.snd e1; simp only at e2; (try subst e2); clear e1)))
  all_goals simp (maxDischargeDepth := 20) [h0]

@[simp] theorem State.spillFault_wf (s : State) (p : Nat) (n : Nat) (h0 : Memory.wf s.mem = true) : Memory.wf (State.spillFault s p n).mem = true := by simp [State.spillFault, h0]

@[simp] theorem State.spillRefill_wf (s : State) (p : Nat) (n : Nat) (h0 : Memory.wf s.mem = true) :
    Memory.wf (State.spillRefill s p n).2.mem = true := by
  simp only [State.spillRefill]
  repeat' (split <;> (try (rename_i e1; have e2 := congrArg Prod.snd e1; simp only at e2; (try subst e2); clear e1)))
  all_goals simp (maxDischargeDepth := 20) [h0]

@[simp] theorem State.spillPlace_wf (s : State) (p : Nat) (n : Nat) (e : Spilled) (h0 : Memory.wf s.mem = true) :
    Memory.wf (State.spillPlace s p n e).2.mem = true := by
  simp only [State.spillPlace]
  repeat' (split <;> (try (rename_i e1; have e2 := congrArg Prod.snd e1; simp only at e2; (try subst e2); clear e1)))
  all_goals simp (maxDischargeDepth := 20) [h0]

@[simp] theorem State.spillPut_wf (s : State) (p : Nat) (n : Nat) (e : Spilled) (h0 : Memory.wf s.mem = true) :
    Memory.wf (State.spillPut s p n e).2.mem = true := by
  simp only [State.spillPut]
  repeat' (split <;> (try (rename_i e1; have e2 := congrArg Prod.snd e1; simp only at e2; (try subst e2); clear e1)))
  all_goals simp (maxDischargeDepth := 20) [h0]

@[simp] theorem State.dropBinding_wf (s : State) (p : Nat) (n : Nat) (b : Binding) (h0 : Memory.wf s.mem = true) :
    Memory.wf (State.dropBinding s p n b).mem = true := by simp only [State.dropBinding]; split <;> simp [h0]

@[simp] theorem State.portCommandFault_wf (s : State) (p : Nat) (n : Nat) (tmpl : Nat) (h0 : Memory.wf s.mem = true) :
    Memory.wf (State.portCommandFault s p n tmpl).mem = true := by simp [State.portCommandFault, h0]

@[simp] theorem State.startBinding_wf (s : State) (p : Nat) (n : Nat) (b : Binding) (g : Option (Option Nat)) (graph : Option (Nat × Nat)) (rest : List PortEntry) (h0 : Memory.wf s.mem = true) :
    Memory.wf (State.startBinding s p n b g graph rest).mem = true := by
  simp only [State.startBinding]
  (repeat' split) <;> simp (maxDischargeDepth := 20) [h0]

@[simp] theorem State.portStart_wf (s : State) (p : Nat) (n : Nat) (h0 : Memory.wf s.mem = true) : Memory.wf (State.portStart s p n).mem = true := by
  simp only [State.portStart]
  repeat' (split <;> (try (rename_i e1; have e2 := congrArg Prod.snd e1; simp only at e2; (try subst e2); clear e1)))
  all_goals simp (maxDischargeDepth := 20) (contextual := true) [h0]

@[simp] theorem State.portBad_wf (s : State) (p : Nat) (n : Nat) (c : Cause) (detail : Nat) (addr : Nat) (h0 : Memory.wf s.mem = true) :
    Memory.wf (State.portBad s p n c detail addr).mem = true := by simp [State.portBad, h0]

@[simp] theorem State.setRun_mem (s : State) (p : Nat) (n : Nat) (f : Running → Running) : (State.setRun s p n f).mem = s.mem := rfl

@[simp] theorem State.portGroup_wf (s : State) (p : Nat) (n : Nat) (b : Running) (h0 : Memory.wf s.mem = true) :
    Memory.wf (State.portGroup s p n b).mem = true := by
  simp only [State.portGroup]
  repeat' (split <;> (try (rename_i e1; have e2 := congrArg Prod.snd e1; simp only at e2; (try subst e2); clear e1)))
  all_goals simp (maxDischargeDepth := 20) [h0]

@[simp] theorem State.portAdvance_wf (s : State) (p : Nat) (n : Nat) (b : Running) (k : Nat) (h0 : Memory.wf s.mem = true) :
    Memory.wf (State.portAdvance s p n b k).2.mem = true := by
  simp only [State.portAdvance]
  repeat' (split <;> (try (rename_i e1; have e2 := congrArg Prod.snd e1; simp only at e2; (try subst e2); clear e1)))
  all_goals simp (maxDischargeDepth := 20) [h0]

@[simp] theorem State.portNextGroup_wf (s : State) (p : Nat) (n : Nat) (b : Running) (h0 : Memory.wf s.mem = true) :
    Memory.wf (State.portNextGroup s p n b).mem = true := by
  simp only [State.portNextGroup]
  repeat' (split <;> (try (rename_i e1; have e2 := congrArg Prod.snd e1; simp only at e2; (try subst e2); clear e1)))
  all_goals simp (maxDischargeDepth := 20) [h0]

@[simp] theorem State.portNext_mem (s : State) (p : Nat) (n : Nat) : (State.portNext s p n).mem = s.mem := by simp [State.portNext]

theorem State.portPred_wf (s : State) (p n : Nat) (f : State → State) (t : State)
    (hf : ∀ s, Memory.wf s.mem = true → Memory.wf (f s).mem = true) (h0 : Memory.wf s.mem = true)
    (h : s.portPred p n f = .state t) : Memory.wf t.mem = true := by
  simp only [State.portPred] at h
  repeat' split at h
  all_goals first | cases h | skip
  all_goals (try apply hf)
  all_goals simp (maxDischargeDepth := 20) [h0]

@[simp] theorem State.missWord_wf (s : State) (p : Nat) (n : Nat) (va : Nat) (detail : Nat) (t : Option Token) (h0 : Memory.wf s.mem = true) :
    Memory.wf (State.missWord s p n va detail t).mem = true := by
  unfold State.missWord
  exact State.unitFault_wf _ _ _ _ _ _ _ _ _ _ h0

@[simp] theorem State.portStalls_wf (s : State) (p : Nat) (n : Nat) (va : Nat) (detail : Nat) (t : Option Token) (h0 : Memory.wf s.mem = true) :
    Memory.wf (State.portStalls s p n va detail t).mem = true := by simp [State.portStalls, h0]

@[simp] theorem State.portMisses_wf (s : State) (p : Nat) (n : Nat) (va : Nat) (detail : Nat) (b : Running) (vs : List Token) (h0 : Memory.wf s.mem = true) :
    Memory.wf (State.portMisses s p n va detail b vs).mem = true := by
  simp only [State.portMisses]
  repeat' (split <;> (try (rename_i e1; have e2 := congrArg Prod.snd e1; simp only at e2; (try subst e2); clear e1)))
  all_goals simp (maxDischargeDepth := 20) [h0]

@[simp] theorem State.portAfter_wf (p n va : Nat) (q : Got Unit × State) (h0 : Memory.wf q.2.mem = true) :
    Memory.wf (State.portAfter p n va q).mem = true := by
  obtain ⟨g, s⟩ := q
  cases g <;> simp_all [State.portAfter]

@[simp] theorem State.portIndex_wf (s : State) (p : Nat) (n : Nat) (b : Running) (h0 : Memory.wf s.mem = true) :
    Memory.wf (State.portIndex s p n b).mem = true := by
  (try simp only [State.portIndex])
  (try simp (maxDischargeDepth := 20) (contextual := true) [h0])
  all_goals (repeat' (split <;> (try (rename_i e1; have e2 := congrArg Prod.snd e1; simp only at e2; (try subst e2); clear e1))))
  all_goals (try (simp (maxDischargeDepth := 20) (contextual := true) [h0]; done))
  all_goals (try (refine foldl_wf _ _ _ (fun s1 x1 hs1 => ?_) ?_ <;> (try dsimp only) <;> (repeat' split) <;> simp (maxDischargeDepth := 20) (contextual := true) [*]; done))

@[simp] theorem State.portHeader_wf (s : State) (p : Nat) (n : Nat) (b : Running) (h0 : Memory.wf s.mem = true) :
    Memory.wf (State.portHeader s p n b).mem = true := by
  (try simp only [State.portHeader])
  (try simp (maxDischargeDepth := 20) (contextual := true) [h0])
  all_goals (repeat' (split <;> (try (rename_i e1; have e2 := congrArg Prod.snd e1; simp only at e2; (try subst e2); clear e1))))
  all_goals (try (simp (maxDischargeDepth := 20) (contextual := true) [h0]; done))
  all_goals (try (refine foldl_wf _ _ _ (fun s1 x1 hs1 => ?_) ?_ <;> (try dsimp only) <;> (repeat' split) <;> simp (maxDischargeDepth := 20) (contextual := true) [*]; done))

@[simp] theorem State.portPairs_mem (s : State) (p : Nat) (n : Nat) (t : Token) : (State.portPairs s p n t).mem = s.mem := rfl

@[simp] theorem State.portTakeIndex_wf (s : State) (p n : Nat) (h0 : Memory.wf s.mem = true) :
    Memory.wf (s.portTakeIndex p n).mem = true := by
  simp only [State.portTakeIndex]
  repeat' split
  all_goals first
    | (next h => have h1 := State.portConst_mem _ _ _ _ _ h; simp [h1, h0]; done)
    | simp (maxDischargeDepth := 20) [h0]

@[simp] theorem State.portReadVa_wf (s : State) (p : Nat) (n : Nat) (va : Nat) (b : Running) (h0 : Memory.wf s.mem = true) :
    Memory.wf (State.portReadVa s p n va b).mem = true := by
  simp only [State.portReadVa]
  repeat' (split <;> (try (rename_i e1; have e2 := congrArg Prod.snd e1; simp only at e2; (try subst e2); clear e1)))
  all_goals simp (maxDischargeDepth := 20) [h0]

@[simp] theorem State.portReadIndexed_wf (s : State) (p : Nat) (n : Nat) (shift : Nat) (i : Nat) (b : Running) (h0 : Memory.wf s.mem = true) :
    Memory.wf (State.portReadIndexed s p n shift i b).mem = true := by simp [State.portReadIndexed, h0]

@[simp] theorem State.portReadElement_wf (s : State) (p : Nat) (n : Nat) (b : Running) (h0 : Memory.wf s.mem = true) :
    Memory.wf (State.portReadElement s p n b).mem = true := by
  simp only [State.portReadElement]
  repeat' (split <;> (try (rename_i e1; have e2 := congrArg Prod.snd e1; simp only at e2; (try subst e2); clear e1)))
  all_goals simp (maxDischargeDepth := 20) [h0]

@[simp] theorem State.portReadStep_wf (s : State) (p n : Nat) (b : Running) (h0 : Memory.wf s.mem = true) :
    Memory.wf (s.portReadStep p n b).mem = true := by
  simp only [State.portReadStep]
  repeat' split
  all_goals first
    | (next h => exact State.portPred_wf _ _ _ _ _ (fun _ h => h) h0 h)
    | simp (maxDischargeDepth := 20) [h0]

@[simp] theorem State.portTakeHeader_wf (s : State) (p : Nat) (n : Nat) (b : Running) (t : Token) (h0 : Memory.wf s.mem = true) :
    Memory.wf (State.portTakeHeader s p n b t).mem = true := by
  simp only [State.portTakeHeader]
  repeat' (split <;> (try (rename_i e1; have e2 := congrArg Prod.snd e1; simp only at e2; (try subst e2); clear e1)))
  all_goals simp (maxDischargeDepth := 20) [h0]

@[simp] theorem State.portWriteVa_wf (s : State) (p : Nat) (n : Nat) (va : Nat) (b : Running) (vs : List Token) (h0 : Memory.wf s.mem = true) :
    Memory.wf (State.portWriteVa s p n va b vs).mem = true := by
  simp only [State.portWriteVa]
  repeat' (split <;> (try (rename_i e1; have e2 := congrArg Prod.snd e1; simp only at e2; (try subst e2); clear e1)))
  all_goals simp (maxDischargeDepth := 20) [h0]

@[simp] theorem State.portWriteElement_wf (s : State) (p : Nat) (n : Nat) (b : Running) (h0 : Memory.wf s.mem = true) :
    Memory.wf (State.portWriteElement s p n b).mem = true := by
  simp only [State.portWriteElement]
  (repeat' split) <;> simp (maxDischargeDepth := 20) [h0]

@[simp] theorem State.portZero_wf (s : State) (p : Nat) (n : Nat) (h0 : Memory.wf s.mem = true) : Memory.wf (State.portZero s p n).mem = true := by
  simp (maxDischargeDepth := 20) [State.portZero, h0]

@[simp] theorem State.expandElement_wf (s : State) (p : Nat) (n : Nat) (b : Running) (coord : Option Nat) (h0 : Memory.wf s.mem = true) :
    Memory.wf (State.expandElement s p n b coord).mem = true := by
  simp only [State.expandElement]
  repeat' (split <;> (try (rename_i e1; have e2 := congrArg Prod.snd e1; simp only at e2; (try subst e2); clear e1)))
  all_goals simp (maxDischargeDepth := 20) [h0]

@[simp] theorem State.portTakeData_wf (s : State) (p n : Nat) (b : Running) (h0 : Memory.wf s.mem = true) :
    Memory.wf (s.portTakeData p n b).mem = true := by
  simp only [State.portTakeData]
  split
  · next h =>
    have h1 := State.portConst_mem _ _ _ _ _ h
    split <;> simp (maxDischargeDepth := 20) [h0, h1]
  · exact h0
  · repeat' split
    all_goals simp (maxDischargeDepth := 20) [h0]

@[simp] theorem State.portEos_wf (s : State) (p : Nat) (n : Nat) (b : Running) (h0 : Memory.wf s.mem = true) :
    Memory.wf (State.portEos s p n b).mem = true := by
  simp only [State.portEos]
  (repeat' split) <;> simp (maxDischargeDepth := 20) [h0]

@[simp] theorem State.portWriteStep_wf (s : State) (p n : Nat) (b : Running) (h0 : Memory.wf s.mem = true) :
    Memory.wf (s.portWriteStep p n b).mem = true := by
  simp only [State.portWriteStep]
  repeat' split
  all_goals first
    | (next h => exact State.portPred_wf _ _ _ _ _ (fun _ h => by simp [h]) h0 h)
    | simp (maxDischargeDepth := 20) [h0]

@[simp] theorem State.portIdle_wf (s : State) (p : Nat) (n : Nat) (h0 : Memory.wf s.mem = true) : Memory.wf (State.portIdle s p n).mem = true := by
  simp only [State.portIdle]
  (repeat' split) <;> simp (maxDischargeDepth := 20) [h0]

@[simp] theorem State.writeBackLines_mem (s : State) (p : Nat) (lines : List Nat) : (s.writeBackLines p lines).mem = s.mem := by
  simp only [State.writeBackLines]
  rw [foldl_mem _ _ _ (fun _ _ => by simp)]; simp

@[simp] theorem State.xlatPage_mem (s : State) (p : Nat) (n : Nat) (va : Nat) : (State.xlatPage s p n va).2.2.mem = s.mem := by
  simp only [State.xlatPage]
  repeat' (split <;> (try (rename_i e1; have e2 := congrArg Prod.snd e1; simp only at e2; (try subst e2); clear e1)))
  all_goals simp

@[simp] theorem State.xlatPair_wf (s : State) (p n : Nat) (lo hi : Word) (h0 : Memory.wf s.mem = true) :
    Memory.wf (s.xlatPair p n lo hi).mem = true := by
  simp only [State.xlatPair]
  split
  · simp [h0]
  · split
    all_goals (rename_i e1; have e2 := congrArg (fun q => q.2.2) e1; simp only at e2; (try subst e2); clear e1)
    all_goals simp (maxDischargeDepth := 20) [h0]

@[simp] theorem State.xlatGo_wf (s : State) (p : Nat) (n : Nat) (h0 : Memory.wf s.mem = true) : Memory.wf (State.xlatGo s p n).mem = true := by simp only [State.xlatGo]; split <;> simp [h0]

@[simp] theorem State.xlatTakes_wf (s : State) (p : Nat) (n : Nat) (t : Token) (h0 : Memory.wf s.mem = true) :
    Memory.wf (State.xlatTakes s p n t).mem = true := by simp [State.xlatTakes, h0]

@[simp] theorem State.replayAt_wf (s : State) (p : Nat) (n : Nat) (pa : Nat) (cls : Bool) (b : Running) (e : Spilled) (h0 : Memory.wf s.mem = true) :
    Memory.wf (State.replayAt s p n pa cls b e).2.mem = true := by simp only [State.replayAt]; (repeat' split) <;> simp [h0]

@[simp] theorem State.relatchEmerges_mem (s : State) (p : Nat) (n : Nat) : (State.relatchEmerges s p n).mem = s.mem := by
  simp only [State.relatchEmerges]
  (repeat' split) <;> simp

@[simp] theorem State.clearPort_wf (s : State) (p : Nat) (n : Nat) (h0 : Memory.wf s.mem = true) : Memory.wf (State.clearPort s p n).mem = true := by
  simp only [State.clearPort]
  repeat' (split <;> (try (rename_i e1; have e2 := congrArg Prod.snd e1; simp only at e2; (try subst e2); clear e1)))
  all_goals simp (maxDischargeDepth := 20) (contextual := true) [h0]

@[simp] theorem State.dropElements_mem (s : State) (p : Nat) : (State.dropElements s p).mem = s.mem := rfl

@[simp] theorem State.dropGraphs_mem (s : State) (p : Nat) : (State.dropGraphs s p).mem = s.mem := rfl

@[simp] theorem State.clearRegion_wf (s : State) (p : Nat) (h0 : Memory.wf s.mem = true) : Memory.wf (State.clearRegion s p).mem = true := by
  (try simp only [State.clearRegion])
  (try simp (maxDischargeDepth := 20) (contextual := true) [h0])
  all_goals (repeat' (split <;> (try (rename_i e1; have e2 := congrArg Prod.snd e1; simp only at e2; (try subst e2); clear e1))))
  all_goals (try (simp (maxDischargeDepth := 20) (contextual := true) [h0]; done))
  all_goals (try (refine foldl_wf _ _ _ (fun s1 x1 hs1 => ?_) ?_ <;> (try dsimp only) <;> (repeat' split) <;> simp (maxDischargeDepth := 20) (contextual := true) [*]; done))

@[simp] theorem State.parkLanes_mem (s : State) (p : Nat) : (State.parkLanes s p).mem = s.mem := rfl

@[simp] theorem State.releaseInstance_wf (s : State) (p : Nat) (b : HomeBasin) (h0 : Memory.wf s.mem = true) :
    Memory.wf (s.releaseInstance p b).mem = true := by
  simp only [State.releaseInstance]
  cases hb : b.ending with
  | some bad => simp only []; (repeat' split) <;> simp (maxDischargeDepth := 20) [h0]
  | none =>
    cases hg : (s.setBasin { b with gath := none, ending := none }).gatherAll true b.key (s.lanes.length + 2) with
    | none => simp [h0]
    | some q =>
      obtain ⟨v, s1⟩ := q
      have h1 := State.gatherAll_wf _ _ _ _ _ _ (by simpa using h0) hg
      simp only [Option.map_some]
      (repeat' split) <;> simp (maxDischargeDepth := 20) [h0, h1]

@[simp] theorem State.releasePools_wf (s : State) (p : Nat) (h0 : Memory.wf s.mem = true) : Memory.wf (State.releasePools s p).mem = true := by
  simp only [State.releasePools]
  exact foldl_wf _ _ _ (fun _ _ h => by simp [h]) (by simp [h0])

@[simp] theorem State.askReleases_mem (s : State) (p : Nat) : (State.askReleases s p).mem = s.mem := by
  simp only [State.askReleases]
  rw [foldl_mem _ _ _ (fun _ _ => by simp)]; try simp

@[simp] theorem State.releaseAsked_wf (s : State) (src : Nat) (tag : Nat) (place : Nat) (key : PoolKey) (h0 : Memory.wf s.mem = true) :
    Memory.wf (State.releaseAsked s src tag place key).mem = true := by
  simp only [State.releaseAsked]
  (repeat' split) <;> simp (maxDischargeDepth := 20) [h0]

@[simp] theorem State.releaseAnswered_mem (s : State) (p : Nat) (bad : Bool) :
    (State.releaseAnswered s p bad).mem = s.mem := by simp only [State.releaseAnswered]; split <;> simp

@[simp] theorem State.orphanWords_mem (s : State) (p : Nat) : (State.orphanWords s p).mem = s.mem := rfl

@[simp] theorem State.freeRegion_mem (s : State) (p : Nat) : (State.freeRegion s p).mem = s.mem := by simp only [State.freeRegion]; split <;> simp

@[simp] theorem State.dropAttach_mem (s : State) (d : Nat) (iid : Nat) : (State.dropAttach s d iid).mem = s.mem := rfl

@[simp] theorem State.countInstance_wf (s : State) (d : Nat) (iid : Nat) (inst : Instance) (h0 : Memory.wf s.mem = true) :
    Memory.wf (State.countInstance s d iid inst).mem = true := by
  simp only [State.countInstance]
  (repeat' split) <;> simp (maxDischargeDepth := 20) [h0]

@[simp] theorem State.retire_wf (s : State) (p : Nat) (h0 : Memory.wf s.mem = true) : Memory.wf (State.retire s p).mem = true := by
  simp only [State.retire]
  (repeat' split) <;> simp (maxDischargeDepth := 20) [h0]

@[simp] theorem State.readdress_mem (s : State) (a : Nat) (b : Nat) : (State.readdress s a b).mem = s.mem := rfl

@[simp] theorem State.releaseMonitors_mem (s : State) (p : Nat) : (State.releaseMonitors s p).mem = s.mem := rfl

@[simp] theorem State.grantsArrive_mem (s : State) (p : Nat) : (State.grantsArrive s p).mem = s.mem := by
  simp only [State.grantsArrive]
  rw [foldl_mem _ _ _ (fun s e => ?_)]
  split
  · rfl
  · simp only [State.setCell, State.setRegion_mem]; rw [foldl_mem _ _ _ (fun _ _ => by simp)]

@[simp] theorem State.writeSave_wf (s : State) (pa : Nat) (r : Region) (form : Nat) (h0 : Memory.wf s.mem = true) :
    Memory.wf (State.writeSave s pa r form).mem = true := by simp [State.writeSave, h0]

@[simp] theorem State.relatchesEmerge_mem (s : State) (p : Nat) : (State.relatchesEmerge s p).mem = s.mem := by
  simp only [State.relatchesEmerge]
  rw [foldl_mem _ _ _ (fun _ _ => by (repeat' split) <;> simp)]

@[simp] theorem State.saveRegion_wf (s : State) (p : Nat) (form : Nat) (h0 : Memory.wf s.mem = true) :
    Memory.wf (State.saveRegion s p form).mem = true := by simp only [State.saveRegion]; split <;> simp [h0]

@[simp] theorem State.relatchSides_mem (d : Nat) (asid : BitVec 16) (l acc : Tbl PortSide) (s : State) :
    (State.relatchSides d asid l acc s).2.mem = s.mem := by
  induction l generalizing acc s with
  | nil => rfl
  | cons w t ih => obtain ⟨n, x⟩ := w; simp [State.relatchSides, ih]

@[simp] theorem State.checkSpills_wf (s : State) (p : Nat) (h0 : Memory.wf s.mem = true) : Memory.wf (State.checkSpills s p).mem = true := by
  simp only [State.checkSpills]
  exact foldl_wf _ _ _ (fun _ _ h => by simp [h]) (by simp [h0])

@[simp] theorem State.restoreRegion_wf (s0 : State) (e : SavedRegion) (key : Nat) (p : Nat) (h0 : Memory.wf s0.mem = true) :
    Memory.wf (State.restoreRegion s0 e key p).mem = true := by
  (try simp only [State.restoreRegion])
  (try simp (maxDischargeDepth := 20) (contextual := true) [h0])
  all_goals (repeat' (split <;> (try (rename_i e1; have e2 := congrArg Prod.snd e1; simp only at e2; (try subst e2); clear e1))))
  all_goals (try (simp (maxDischargeDepth := 20) (contextual := true) [h0]; done))
  all_goals (try (refine foldl_wf _ _ _ (fun s1 x1 hs1 => ?_) ?_ <;> (try dsimp only) <;> (repeat' split) <;> simp (maxDischargeDepth := 20) (contextual := true) [*]; done))

@[simp] theorem State.discardSaved_wf (s : State) (key : Nat) (h0 : Memory.wf s.mem = true) : Memory.wf (State.discardSaved s key).mem = true := by simp only [State.discardSaved]; split <;> simp [h0]

@[simp] theorem State.thaw_mem (s : State) (p : Nat) : (s.thaw p).mem = s.mem := by simp only [State.thaw]; split <;> simp

@[simp] theorem State.saveFails_wf (s : State) (p : Nat) (h0 : Memory.wf s.mem = true) : Memory.wf (State.saveFails s p).mem = true := by
  simp only [State.saveFails]
  repeat' (split <;> (try (rename_i e1; have e2 := congrArg Prod.snd e1; simp only at e2; (try subst e2); clear e1)))
  all_goals simp (maxDischargeDepth := 20) (contextual := true) [h0]

@[simp] theorem State.saveWhenSettled_wf (s : State) (p : Nat) (form : Nat) (h0 : Memory.wf s.mem = true) :
    Memory.wf (State.saveWhenSettled s p form).mem = true := by simp (maxDischargeDepth := 20) [State.saveWhenSettled, h0]

@[simp] theorem State.endRegionTiles_mem (s : State) (p : Nat) : (State.endRegionTiles s p).mem = s.mem := by simp [State.endRegionTiles]

@[simp] theorem State.areaPages_mem (p : Nat) (l acc : List Nat) (s : State) : (State.areaPages p l acc s).2.mem = s.mem := by
  induction l generalizing acc s with
  | nil => rfl
  | cons x t ih =>
    simp only [State.areaPages]
    repeat' (split <;> (try (rename_i e1; have e2 := congrArg Prod.snd e1; simp only at e2; (try subst e2); clear e1)))
    all_goals (try rw [ih])
    all_goals simp

@[simp] theorem State.writePage_wf (s : State) (p : Nat) (pa : Nat) (bs : List Byte) (h0 : Memory.wf s.mem = true) :
    Memory.wf (State.writePage s p pa bs).mem = true := by
  simp only [State.writePage]
  exact foldl_wf _ _ _ (fun _ _ h => by simp [h]) (by simp [h0])

@[simp] theorem State.writePages_wf (p : Nat) (l : List Nat) (bs : List Byte) (s : State) (h0 : Memory.wf s.mem = true) :
    Memory.wf (State.writePages p l bs s).mem = true := by
  induction l generalizing bs s with
  | nil => exact h0
  | cons x t ih => simp only [State.writePages]; apply ih; simp [h0]

@[simp] theorem State.snapFails_wf (s : State) (p : Nat) (op : SnapOp) (va : Nat) (form : Nat) (first : Option Nat) (h0 : Memory.wf s.mem = true) :
    Memory.wf (State.snapFails s p op va form first).mem = true := by
  simp only [State.snapFails]
  (repeat' split) <;> simp (maxDischargeDepth := 20) [h0]

@[simp] theorem State.snapSave_wf (s : State) (p : Nat) (op : SnapOp) (form : Nat) (h0 : Memory.wf s.mem = true) :
    Memory.wf (State.snapSave s p op form).mem = true := by
  simp only [State.snapSave]
  repeat' (split <;> (try (rename_i e1; have e2 := congrArg Prod.snd e1; simp only at e2; (try subst e2); clear e1)))
  all_goals simp (maxDischargeDepth := 20) [h0]

@[simp] theorem State.resumeInstance_wf (s : State) (d : Nat) (iid : Nat) (i : Instance) (rect : List Nat) (h0 : Memory.wf s.mem = true) :
    Memory.wf (State.resumeInstance s d iid i rect).mem = true := by
  simp only [State.resumeInstance]
  repeat' (split <;> (try (rename_i e1; have e2 := congrArg Prod.snd e1; simp only at e2; (try subst e2); clear e1)))
  all_goals simp (maxDischargeDepth := 20) (contextual := true) [h0]

@[simp] theorem State.setGraph_mem (s : State) (gid : Nat) (g : Graph) : (State.setGraph s gid g).mem = s.mem := rfl

@[simp] theorem State.setReplay_mem (s : State) (r : Nat) (x : Replay) : (State.setReplay s r x).mem = s.mem := rfl

theorem State.wellReply_wf (s : State) (who : Nat × Nat) (m : EngMsg) (status : Nat) (clk : DWord) (t : State)
    (h0 : Memory.wf s.mem = true) (h : s.wellReply who m status clk = .sent t) : Memory.wf t.mem = true := by
  simp only [State.wellReply] at h
  repeat' split at h
  all_goals cases h
  next h1 =>
    have h2 := State.reply_wf _ _ _ _ _ _ h0 h1
    exact h2

@[simp] theorem State.endCascade_wf (s : State) (j : Nat) (job : Job) (status : Nat) (h0 : Memory.wf s.mem = true) :
    Memory.wf (s.endCascade j job status).mem = true := by
  simp only [State.endCascade]
  split
  · simpa using h0
  next h2 =>
  have h3 := (State.engEnd_mem _ _ _ _ _ _ _ h2).symm ▸ h0
  split
  · simpa using h3
  · next h =>
    have h1 := State.wellReply_wf _ _ _ _ _ _ h3 h
    repeat' split
    all_goals simp (maxDischargeDepth := 20) [h1]

@[simp] theorem State.casRead_wf (s : State) (j : Job) (va : Nat) (h0 : Memory.wf s.mem = true) : Memory.wf (State.casRead s j va).2.mem = true := by
  simp only [State.casRead]
  repeat' (split <;> (try (rename_i e1; have e2 := congrArg Prod.snd e1; simp only at e2; (try subst e2); clear e1)))
  all_goals simp (maxDischargeDepth := 20) [h0]

@[simp] theorem State.casWrite_wf (s : State) (j : Job) (va : Nat) (v : Nat) (h0 : Memory.wf s.mem = true) :
    Memory.wf (State.casWrite s j va v).2.mem = true := by
  simp only [State.casWrite]
  repeat' (split <;> (try (rename_i e1; have e2 := congrArg Prod.snd e1; simp only at e2; (try subst e2); clear e1)))
  all_goals simp (maxDischargeDepth := 20) [h0]

theorem eachRead_wf (rd : Job → Nat → State → Word4 × State) (hr : ∀ j o s, Memory.wf s.mem = true → Memory.wf (rd j o s).2.mem = true)
    (n off : Nat) (j : Job) (s : State) (h0 : Memory.wf s.mem = true) : Memory.wf (eachRead rd n off j s).2.mem = true := by
  induction n generalizing off j s with
  | zero => exact h0
  | succ n ih =>
    simp only [eachRead]
    split
    all_goals (rename_i e1; have e2 := congrArg Prod.snd e1; simp only at e2; (try subst e2); clear e1)
    · exact hr _ _ _ h0
    · exact hr _ _ _ h0
    · split
      · rename_i e1; have e2 := congrArg Prod.snd e1; simp only at e2; subst e2; exact ih _ _ _ (hr _ _ _ h0)
      · exact ih _ _ _ (hr _ _ _ h0)

theorem eachWrite_wf (wr : Job → Nat → Nat → State → Word4 × State)
    (hr : ∀ j o v s, Memory.wf s.mem = true → Memory.wf (wr j o v s).2.mem = true)
    (l : List Nat) (off : Nat) (j : Job) (s : State) (h0 : Memory.wf s.mem = true) : Memory.wf (eachWrite wr l off j s).2.mem = true := by
  induction l generalizing off j s with
  | nil => exact h0
  | cons x t ih =>
    simp only [eachWrite]
    split
    all_goals (rename_i e1; have e2 := congrArg Prod.snd e1; simp only at e2; (try subst e2); clear e1)
    · exact hr _ _ _ _ h0
    · exact hr _ _ _ _ h0
    · exact ih _ _ _ (hr _ _ _ _ h0)

@[simp] theorem State.casWords_wf (s : State) (j : Job) (va n : Nat) (h0 : Memory.wf s.mem = true) :
    Memory.wf (s.casWords j va n).2.mem = true :=
  eachRead_wf _ (fun _ _ _ h => by simp [h]) _ _ _ _ h0

@[simp] theorem State.installGraph_wf (s : State) (j : Nat) (job : Job) (words : List Nat) (h0 : Memory.wf s.mem = true) :
    Memory.wf (State.installGraph s j job words).mem = true := by
  simp only [State.installGraph]
  (repeat' split) <;> simp (maxDischargeDepth := 20) [h0]

@[simp] theorem State.poisonFed_mem (s : State) (r : Nat) (lanes : List (PoolKey × Nat)) (clk : DWord) : (State.poisonFed s r lanes clk).mem = s.mem := by
  simp only [State.poisonFed]
  rw [foldl_mem _ _ _ (fun _ _ => by simp)]; try simp

@[simp] theorem State.dropFlits_mem (s : State) (gid : Nat) (number : Nat) : (State.dropFlits s gid number).mem = s.mem := rfl

@[simp] theorem State.finishReplay_wf (s : State) (r : Nat) (x : Replay) (st : Nat) (h0 : Memory.wf s.mem = true) :
    Memory.wf (s.finishReplay r x st).mem = true := by
  simp only [State.finishReplay]
  split
  · simpa using h0
  next h2 =>
  have h3 := (State.engEnd_mem _ _ _ _ _ _ _ h2).symm ▸ h0
  split
  · simpa using h3
  · next h =>
    have h1 := State.wellReply_wf _ _ _ _ _ _ h3 h
    repeat' split
    all_goals simp (maxDischargeDepth := 20) [h1]

@[simp] theorem State.endReplay_wf (s : State) (r : Nat) (x : Replay) (st : Nat) (h0 : Memory.wf s.mem = true) :
    Memory.wf (State.endReplay s r x st).mem = true := by simp only [State.endReplay]; split <;> simp [h0]

@[simp] theorem State.startReplay_wf (s : State) (j : Nat) (job : Job) (g : Graph) (entries : List Nat) (h0 : Memory.wf s.mem = true) :
    Memory.wf (State.startReplay s j job g entries).mem = true := by simp only [State.startReplay]; split <;> simp [h0]

@[simp] theorem State.goNode_mem (s : State) (r : Nat) (x : Replay) (n : Nat) (st : NodeState) (clk : DWord) :
    (State.goNode s r x n st clk).mem = s.mem := rfl

@[simp] theorem State.entryRead_wf (s : State) (g : Graph) (e : BaseEntry) (j : Job) (off : Nat) (h0 : Memory.wf s.mem = true) :
    Memory.wf (State.entryRead s g e j off).2.mem = true := by simp only [State.entryRead]; split <;> simp [h0]

@[simp] theorem State.entryWrite_wf (s : State) (g : Graph) (e : BaseEntry) (j : Job) (off : Nat) (v : Nat) (h0 : Memory.wf s.mem = true) :
    Memory.wf (State.entryWrite s g e j off v).2.mem = true := by simp only [State.entryWrite]; split <;> simp [h0]

@[simp] theorem State.entryWords_wf (s : State) (g : Graph) (e : BaseEntry) (j : Job) (off n : Nat) (h0 : Memory.wf s.mem = true) :
    Memory.wf (s.entryWords g e j off n).2.mem = true :=
  eachRead_wf _ (fun _ _ _ h => by simp [h]) _ _ _ _ h0

@[simp] theorem State.entryPut_wf (s : State) (g : Graph) (e : BaseEntry) (j : Job) (off : Nat) (vs : List Nat) (h0 : Memory.wf s.mem = true) :
    Memory.wf (s.entryPut g e j off vs).2.mem = true :=
  eachWrite_wf _ (fun _ _ _ _ h => by simp [h]) _ _ _ _ h0

@[simp] theorem State.elemStep_wf (s : State) (r : Nat) (n : Nat) (x : Replay) (g : Graph) (nd : ChunkNode) (k : Nat) (fw : Nat) (tw : Nat) (folds : Bool) (f : List Nat → List Nat → List Nat × Flags) (h0 : Memory.wf s.mem = true) :
    Memory.wf (State.elemStep s r n x g nd k fw tw folds f).mem = true := by
  simp only [State.elemStep]
  repeat' (split <;> (try (rename_i e1; have e2 := congrArg Prod.snd e1; simp only at e2; (try subst e2); clear e1)))
  all_goals simp (maxDischargeDepth := 20) [h0]

@[simp] theorem State.copyToPool_wf (s : State) (r : Nat) (n : Nat) (x : Replay) (g : Graph) (nd : ChunkNode) (k : Nat) (h0 : Memory.wf s.mem = true) :
    Memory.wf (State.copyToPool s r n x g nd k).mem = true := by
  simp only [State.copyToPool]
  repeat' (split <;> (try (rename_i e1; have e2 := congrArg Prod.snd e1; simp only at e2; (try subst e2); clear e1)))
  all_goals simp (maxDischargeDepth := 20) [h0]

theorem State.findFlit_mem {α : Type} (s : State) (f : Nat → FlitBody → Option α) (v : α) (t : State) (h : s.findFlit f = some (v, t)) :
    t.mem = s.mem := by
  simp only [State.findFlit] at h
  repeat' split at h
  all_goals first
    | (simp only [Option.map_eq_some_iff, Prod.mk.injEq] at h; obtain ⟨_, _, _, rfl⟩ := h; rfl)
    | cases h

@[simp] theorem State.emitAll_mem (s : State) (pkgs : List Nat) (cls : Fin 4) (b : Nat → FlitBody) : (State.emitAll s pkgs cls b).mem = s.mem := by
  simp only [State.emitAll]
  rw [foldl_mem _ _ _ (fun _ _ => by simp)]; try simp

@[simp] theorem State.a2aStart_wf (s : State) (r : Nat) (n : Nat) (x : Replay) (g : Graph) (nd : ChunkNode) (h0 : Memory.wf s.mem = true) :
    Memory.wf (State.a2aStart s r n x g nd).mem = true := by
  simp only [State.a2aStart]
  repeat' (split <;> (try (rename_i e1; have e2 := congrArg Prod.snd e1; simp only at e2; (try subst e2); clear e1)))
  all_goals simp (maxDischargeDepth := 20) [h0]

@[simp] theorem State.a2aJudge_mem (s : State) (r : Nat) (n : Nat) (x : Replay) (g : Graph) (nd : ChunkNode) (route : List (Nat × Nat × Nat)) (got : List (Nat × Nat × Bool)) :
    (State.a2aJudge s r n x g nd route got).mem = s.mem := by simp [State.a2aJudge]

@[simp] theorem State.a2aRead_wf (l : List ((Nat × Nat × Nat) × Nat)) (acc : List (Nat × Nat × List Nat)) (j : Job) (s : State)
    (h0 : Memory.wf s.mem = true) : Memory.wf (State.a2aRead l acc j s).2.mem = true := by
  induction l generalizing acc j s with
  | nil => exact h0
  | cons x t ih =>
    simp only [State.a2aRead]
    repeat' (split <;> (try (rename_i e1; have e2 := congrArg Prod.snd e1; simp only at e2; (try subst e2); clear e1)))
    all_goals (try apply ih)
    all_goals simp (maxDischargeDepth := 20) [h0]

@[simp] theorem State.a2aPlace_wf (s : State) (g : Graph) (e : BaseEntry) (j : Job) (counts : List Nat) (placed : List (Nat × Nat)) (i : Nat) (src : Nat) (idx : Nat) (vs : List Nat) (h0 : Memory.wf s.mem = true) :
    Memory.wf (State.a2aPlace s g e j counts placed i src idx vs).2.2.mem = true := by simp [State.a2aPlace, h0]

@[simp] theorem State.a2aOwn_wf (g : Graph) (e : BaseEntry) (counts : List Nat) (i pkg : Nat) (l : List (Nat × Nat × List Nat))
    (pl : List (Nat × Nat)) (j : Job) (s : State)
    (h0 : Memory.wf s.mem = true) : Memory.wf (State.a2aOwn g e counts i pkg l pl j s).2.mem = true := by
  induction l generalizing pl j s with
  | nil => exact h0
  | cons x t ih =>
    simp only [State.a2aOwn]
    split
    · exact ih _ _ _ h0
    · split
      all_goals (rename_i e1; have e2 := congrArg (fun q => q.2.2) e1; simp only at e2; (try subst e2); clear e1)
      all_goals (try apply ih)
      all_goals simp (maxDischargeDepth := 20) [h0]

@[simp] theorem State.a2aPay_wf (s : State) (r : Nat) (n : Nat) (x : Replay) (g : Graph) (nd : ChunkNode) (route : List (Nat × Nat × Nat)) (counts : List Nat) (h0 : Memory.wf s.mem = true) :
    Memory.wf (State.a2aPay s r n x g nd route counts).mem = true := by
  simp only [State.a2aPay]
  repeat' (split <;> (try (rename_i e1; have e2 := congrArg Prod.snd e1; simp only at e2; (try subst e2); clear e1)))
  all_goals simp (maxDischargeDepth := 20) (contextual := true) [h0]

@[simp] theorem State.a2aTake_wf (s : State) (r n : Nat) (x : Replay) (g : Graph) (nd : ChunkNode) (counts : List Nat)
    (placed : List (Nat × Nat)) (h0 : Memory.wf s.mem = true) : Memory.wf (s.a2aTake r n x g nd counts placed).mem = true := by
  simp only [State.a2aTake]
  split
  · split
    all_goals (rename_i e1; have e2 := congrArg Prod.snd e1; simp only at e2; (try subst e2); clear e1)
    all_goals simp (maxDischargeDepth := 20) [h0]
  · split
    · exact h0
    · next e1 =>
      have h1 := State.findFlit_mem _ _ _ _ e1
      rw [← h1] at h0
      split
      · exact h0
      · split
        · rw [← h1]; exact h0
        all_goals (rename_i e3; have e2 := congrArg (fun q => q.2.2) e3; simp only at e2; (try subst e2); clear e3)
        all_goals simp (maxDischargeDepth := 20) [h0]

@[simp] theorem State.correctTide_mem (s : State) (src : Nat) : (State.correctTide s src).mem = s.mem := by simp [State.correctTide]

@[simp] theorem State.remoteAsk_mem (s : State) (src : Nat) (tag : Nat) (place : Nat) (asid : Nat) (d : Nat) (ch : Nat) :
    (State.remoteAsk s src tag place asid d ch).mem = s.mem := rfl

@[simp] theorem State.keepRoom_mem (s : State) (d : Nat) (ch : Nat) (k : Nat → Nat) : (State.keepRoom s d ch k).mem = s.mem := rfl

@[simp] theorem State.freeRoom_mem (s : State) (chan : Nat) : (State.freeRoom s chan).mem = s.mem := rfl

@[simp] theorem State.remoteWord_mem (s : State) (asid : Nat) (d : Nat) (ch : Nat) (v : DWord) (clk : DWord) :
    (State.remoteWord s asid d ch v clk).mem = s.mem := by
  simp only [State.remoteWord]; split <;> simp

@[simp] theorem State.wordAnswered_wf (s : State) (tag : Nat) (kept : Bool) (h0 : Memory.wf s.mem = true) :
    Memory.wf (s.wordAnswered tag kept).mem = true := by
  simp only [State.wordAnswered]
  split
  · next h =>
    have h1 := State.sentOf_mem _ _ _ _ h
    (repeat' split) <;> simp (maxDischargeDepth := 20) [h0, h1]
  · exact h0

@[simp] theorem State.askAgain_mem (s : State) (p line : Nat) (store : Bool) : (s.askAgain p line store).mem = s.mem := rfl

@[simp] theorem State.serveAccess_wf (s : State) (src tag pa : Nat) (op : AwayOp) (clk : DWord) (h0 : Memory.wf s.mem = true) :
    Memory.wf (s.serveAccess src tag pa op clk).mem = true := by
  simp only [State.serveAccess]
  (repeat' split) <;> simp (maxDischargeDepth := 20) [h0]

@[simp] theorem State.updateBack_wf (s : State) (p n v : Nat) (clk : DWord) (f : Flags) (h0 : Memory.wf s.mem = true) :
    Memory.wf (s.updateBack p n v clk f).mem = true := by
  simp only [State.updateBack]; split <;> simp [h0]

@[simp] theorem State.elementHome_wf (s : State) (p n pa i : Nat) (rd : Bool) (ack : Option (Nat × Nat)) (v : Nat) (clk : DWord)
    (bad : Option Nat) (h0 : Memory.wf s.mem = true) : Memory.wf (s.elementHome p n pa i rd ack v clk bad).mem = true := by
  simp only [State.elementHome]; split <;> simp [h0]

@[simp] theorem State.accessBack_wf (s : State) (tag v : Nat) (clk : DWord) (f : Flags) (bad : Option Nat) (h0 : Memory.wf s.mem = true) :
    Memory.wf (s.accessBack tag v clk f bad).mem = true := by
  simp only [State.accessBack]
  split
  all_goals first
    | exact h0
    | (next h =>
        have h1 := State.sentOf_mem _ _ _ _ h
        repeat' split
        all_goals simp (maxDischargeDepth := 20) [h0, h1])

@[simp] theorem State.deliverFlit_wf (s : State) (src : Nat) (b : FlitBody) (h0 : Memory.wf s.mem = true) :
    Memory.wf (s.deliverFlit src b).mem = true := by
  simp only [State.deliverFlit]
  repeat' split
  all_goals first
    | (next h => have h1 := State.sentOf_mem _ _ _ _ h; simp (maxDischargeDepth := 20) [h0, h1]; done)
    | simp (maxDischargeDepth := 20) [h0]

@[simp] theorem State.endRoce_wf (s : State) (j : Nat) (job : Job) (st : Nat) (h0 : Memory.wf s.mem = true) :
    Memory.wf (s.endRoce j job st).mem = true := by
  simp only [State.endRoce]
  split
  · simpa using h0
  next h2 =>
  have h3 := (State.engEnd_mem _ _ _ _ _ _ _ h2).symm ▸ h0
  split
  · simpa using h3
  · next h =>
    have h1 := State.wellReply_wf _ _ _ _ _ _ h3 h
    repeat' split
    all_goals simp (maxDischargeDepth := 20) [h1]

@[simp] theorem State.roceCheck_mem (s : State) (m : EngMsg) (need : Need) : (s.roceCheck m need).2.mem = s.mem := by
  simp only [State.roceCheck]
  repeat' split
  all_goals (try rfl)
  generalize hq : ((none, s) : Option Nat × State) = q
  have h1 : q.2.mem = s.mem := by rw [← hq]
  clear hq
  rw [← h1]; clear h1
  generalize List.range _ = l
  induction l generalizing q with
  | nil => rfl
  | cons x t ih =>
    rw [List.foldl_cons, ih]
    split
    · rfl
    · split
      all_goals (rename_i e1; have e2 := congrArg Prod.snd e1; simp only at e2; (try subst e2); clear e1)
      all_goals simp

@[simp] theorem State.beginRoce_mem (s : State) (j : Nat) (job : Job) (b : FlitBody) : (State.beginRoce s j job b).mem = s.mem := rfl

@[simp] theorem State.stopped_mem (s : State) : (State.stopped s).mem = s.mem := rfl

@[simp] theorem State.clearMemory_wf (s : State) (h0 : Memory.wf s.mem = true) : Memory.wf (State.clearMemory s).mem = true := by simp [State.clearMemory, h0]

@[simp] theorem State.start_wf (s : State) (warm : Bool) (h0 : Memory.wf s.mem = true) : Memory.wf (State.start s warm).mem = true := by simp [State.start, h0]

@[simp] theorem State.hostStore_wf (s : State) (pa : Nat) (n : Nat) (v : Nat) (h0 : Memory.wf s.mem = true) :
    Memory.wf (State.hostStore s pa n v).mem = true := by simp [State.hostStore, h0]

@[simp] theorem State.rootDone_mem (s : State) (code : Nat) (ws : List DWord) (res : Nat) : (State.rootDone s code ws res).mem = s.mem := rfl

@[simp] theorem State.setAsid_mem (s : State) (a : Nat) (e : AsidEntry) : (State.setAsid s a e).mem = s.mem := rfl

@[simp] theorem State.invalidate_mem (s : State) (d : Nat) (asid : BitVec 16) (range : Option (Nat × Nat)) (release : Bool) :
    (State.invalidate s d asid range release).mem = s.mem := rfl

@[simp] theorem State.dropPages_mem (s : State) (x : Invalidation) (p : Nat) : (State.dropPages s x p).mem = s.mem := by simp [State.dropPages]

@[simp] theorem State.rootRead_wf (s : State) (pa : Nat) (n : Nat) (h0 : Memory.wf s.mem = true) : Memory.wf (State.rootRead s pa n).2.mem = true := by
  simp only [State.rootRead]
  repeat' (split <;> (try (rename_i e1; have e2 := congrArg Prod.snd e1; simp only at e2; (try subst e2); clear e1)))
  all_goals simp (maxDischargeDepth := 20) (contextual := true) [h0]

@[simp] theorem State.letGo_wf (s : State) (p : Nat) (h0 : Memory.wf s.mem = true) : Memory.wf (State.letGo s p).mem = true := by simp [State.letGo, h0]

@[simp] theorem State.detachNow_wf (s : State) (a : Nat) (x : Attachment) (h0 : Memory.wf s.mem = true) :
    Memory.wf (State.detachNow s a x).mem = true := by
  simp only [State.detachNow]
  exact foldl_wf _ _ _ (fun _ _ h => by simp [h]) (by simp [h0])

@[simp] theorem State.mgmtDone_mem (s : State) (code : Nat) (ws : List DWord) (res : Nat) : (State.mgmtDone s code ws res).mem = s.mem := rfl

@[simp] theorem State.toHost_wf (s : State) (a : Nat) (bs : List Byte) (h0 : Memory.wf s.mem = true) : Memory.wf (State.toHost s a bs).mem = true := by simp [State.toHost, h0]

@[simp] theorem State.refuseCopy_mem (s : State) (m p line : Nat) (store : Bool) : (s.refuseCopy m p line store).mem = s.mem := by
  simp only [State.refuseCopy]; split <;> simp

@[simp] theorem State.sendLine_mem (s : State) (p line : Nat) (data : Vector Byte 64) (wts rts : DWord) (poison : Bool) :
    (s.sendLine p line data wts rts poison).mem = s.mem := by simp only [State.sendLine]; split <;> simp

@[simp] theorem State.lineAway_mem (s : State) (m p line : Nat) (clk : DWord) : (s.lineAway m p line clk).mem = s.mem := by simp [State.lineAway]

@[simp] theorem State.actAway_mem (s : State) (m pa : Nat) (who : Asker) (monitor : Bool) (op : AwayOp) (clk : DWord) :
    (s.actAway m pa who monitor op clk).mem = s.mem := by simp [State.actAway]

@[simp] theorem State.postRecall_mem (s : State) (o : Nat) (line : Nat) (drop : Bool) : (State.postRecall s o line drop).mem = s.mem := by simp only [State.postRecall]; split <;> simp

@[simp] theorem State.arriveLine_mem (s : State) (m : Nat) (p : Nat) (line : Nat) (data : Vector Byte 64) (wts : DWord) (rts : DWord) (poison : Bool) (owned : Bool) :
    (State.arriveLine s m p line data wts rts poison owned).mem = s.mem := by simp [State.arriveLine]

@[simp] theorem State.testWaitv_wf (s : State) (m : Nat) (who : Asker) (pa : Nat) (gen : Nat) (clk : DWord) (h0 : Memory.wf s.mem = true) :
    Memory.wf (State.testWaitv s m who pa gen clk).mem = true := by simp (maxDischargeDepth := 20) [State.testWaitv, h0]

@[simp] theorem State.arriveAtHome_wf (s : State) (who : Asker) (pa : Nat) (clk : DWord) (h0 : Memory.wf s.mem = true) :
    Memory.wf (State.arriveAtHome s who pa clk).mem = true := by simp (maxDischargeDepth := 20) [State.arriveAtHome, h0]

@[simp] theorem State.testAwait_wf (s : State) (m : Nat) (who : Asker) (pa : Nat) (token : Nat) (clk : DWord) (h0 : Memory.wf s.mem = true) :
    Memory.wf (State.testAwait s m who pa token clk).mem = true := by simp (maxDischargeDepth := 20) [State.testAwait, h0]

@[simp] theorem State.poisonLink_mem (s : State) (p : Nat) (c : Nat) (d : Dir) : (State.poisonLink s p c d).mem = s.mem := by simp only [State.poisonLink]; split <;> simp

@[simp] theorem State.poisonOutput_mem (s : State) (p : Nat) (c : Nat) (d : Dir) : (State.poisonOutput s p c d).mem = s.mem := by simp only [State.poisonOutput]; split <;> simp

@[simp] theorem State.poisonSave_wf (s : State) (p off : Nat) (h0 : Memory.wf s.mem = true) : Memory.wf (State.poisonSave s p off).mem = true := by
  simp only [State.poisonSave]
  repeat' (split <;> (try (rename_i e1; have e2 := congrArg Prod.snd e1; simp only at e2; (try subst e2); clear e1)))
  all_goals simp (maxDischargeDepth := 20) [h0]

@[simp] theorem State.poisonSequencer_wf (s : State) (p : Nat) (h0 : Memory.wf s.mem = true) : Memory.wf (State.poisonSequencer s p).mem = true := by simp [State.poisonSequencer, h0]

@[simp] theorem State.displace_mem (s : State) (p : Nat) (k : Nat) : (State.displace s p k).mem = s.mem := by simp [State.displace]

@[simp] theorem State.startHandler_mem (s : State) (p : Nat) (k : Nat) : (State.startHandler s p k).mem = s.mem := rfl

@[simp] theorem State.clockTick_mem (s : State) : (State.clockTick s).mem = s.mem := rfl

theorem State.writeMapped_wf (asid : BitVec 16) (wr clsW : Bool) (ps : List (Nat × Nat)) (l : List Byte) (s t : State)
    (h0 : Memory.wf s.mem = true) (h : State.writeMapped asid wr clsW ps l s = some t) : Memory.wf t.mem = true := by
  induction ps generalizing l s with
  | nil => cases h; exact h0
  | cons x u ih =>
    simp only [State.writeMapped] at h
    repeat' split at h
    · exact ih _ _ (State.hostStore_wf _ _ _ _ h0) h
    all_goals cases h

theorem State.writeVirtual_wf (asid : BitVec 16) (wr clsW : Bool) (va : Nat) (l : List Byte) (s t : State) (h0 : Memory.wf s.mem = true)
    (h : State.writeVirtual asid wr clsW va l s = some t) : Memory.wf t.mem = true := State.writeMapped_wf _ _ _ _ _ _ _ h0 h

theorem LoadView.placeBlock_wf (v : LoadView) (asid : BitVec 16) (ext : Nat) (l : List DataBlock) (s : Option State) (t : State)
    (h0 : ∀ u, s = some u → Memory.wf u.mem = true) (h : l.foldl (v.placeBlock asid ext) s = some t) : Memory.wf t.mem = true := by
  induction l generalizing s with
  | nil => exact h0 t h
  | cons d l ih =>
    refine ih _ (fun u hu => ?_) h
    simp only [LoadView.placeBlock] at hu
    split at hu
    · cases hu
    · obtain ⟨w, hw, hu⟩ := Option.bind_eq_some_iff.1 hu
      exact State.writeVirtual_wf _ _ _ _ _ _ _ (h0 w hw) hu


theorem State.farload_wf (s : State) (file : List Byte) (data : List DataBlock) (asid : BitVec 16) (vas pas : List Nat) (k : Nat) (t : State)
    (h0 : Memory.wf s.mem = true) (h : s.farload file data asid vas pas = .ok (k, t)) : Memory.wf t.mem = true := by
  simp only [State.farload] at h
  split at h
  · cases h
  split at h
  iterate 3 cases h
  split at h
  · cases h
  next h1 =>
    simp only [Except.ok.injEq, Prod.mk.injEq] at h
    obtain ⟨-, rfl⟩ := h
    have h2 := LoadView.placeBlock_wf _ _ _ _ _ _ (fun u hu => ?_) h1
    · exact h2
    split at hu
    · exact State.writeVirtual_wf _ _ _ _ _ _ _ h0 hu
    · cases hu

@[simp] theorem State.placed_wf (s : State) (file : List Byte) (data : List DataBlock) (asid : BitVec 16) (vas pas : List Nat) (h0 : Memory.wf s.mem = true) :
    Memory.wf (s.placed file data asid vas pas).mem = true := by
  simp only [State.placed]
  split
  · next h => exact State.farload_wf _ _ _ _ _ _ _ _ h0 h
  · exact h0

@[simp] theorem State.withFetchWord_wf (s : State) (_nbits : Nat) (w : Nat) (h0 : Memory.wf s.mem = true) :
    Memory.wf (State.withFetchWord s _nbits w).mem = true := by simp [State.withFetchWord, h0]

end Sys2Proof.Machine
end

