-- ==== Sys2Proof/Tests/Slice0.lean ====
section
/-! SUPPORT. Tests. Words written out from the encodings and the examples of the spec decode to what they stand for; ill-formed terms
are refused; and for each obligation that has hypotheses a state and operands that meet them, clause by clause. -/
namespace Sys2Proof.Tests
open Sys2Proof Sys2Proof.Machine

/-! ### Decoding -/

/-- The words of the ALU words, of g7, g8 and g9 (R145), written out from their fields, decode to what they stand for. -/
theorem test_decode_alu : ∀ e ∈ ([
    (0x04E84800, .add 7 8 9),
    (0x04E84801, .sub 7 8 9),
    (0x04E84802, .and 7 8 9),
    (0x04E84803, .or 7 8 9),
    (0x04E84804, .xor 7 8 9),
    (0x04E84805, .shl 7 8 9),
    (0x04E84806, .shr 7 8 9),
    (0x04E84807, .sra 7 8 9),
    (0x04E84808, .mul 7 8 9),
    (0x04E84809, .mulh 7 8 9),
    (0x04E8480A, .mulhn 7 8 9),
    (0x04E8480B, .div 7 8 9),
    (0x04E8480C, .divn 7 8 9),
    (0x04E8480D, .rem 7 8 9),
    (0x04E8480E, .remn 7 8 9),
    (0x04E8480F, .min 7 8 9),
    (0x04E84810, .max 7 8 9),
    (0x04E84811, .minn 7 8 9),
    (0x04E84812, .maxn 7 8 9),
    (0x04E84813, .slt 7 8 9),
    (0x04E84814, .sltn 7 8 9),
    (0x04E84815, .seq 7 8 9)] : List (Nat × Instr)), (decodeConduct e.1).toOption = some e.2 := by decide

/-- The words of the immediate words and lhi (R146, R147), written out from their fields, decode to what they stand for. -/
theorem test_decode_immediates : ∀ e ∈ ([
    (0x23E18001, .addi 31 1 0x8001),
    (0x27E18001, .andi 31 1 0x8001),
    (0x2BE18001, .ori 31 1 0x8001),
    (0x2FE18001, .xori 31 1 0x8001),
    (0x3FE18001, .slti 31 1 0x8001),
    (0x33E1003F, .shli 31 1 63),
    (0x37E1003F, .shri 31 1 63),
    (0x3BE1003F, .srai 31 1 63),
    (0x43E3BEEF, .lhi 31 3 0xBEEF)] : List (Nat × Instr)), (decodeConduct e.1).toOption = some e.2 := by decide

/-- The words of the scalar float words and the conversions (R85, R157 to R159), written out from their fields, decode to what they stand for. -/
theorem test_decode_fpu : ∀ e ∈ ([
    (0x08E84800, .fadd 7 8 9),
    (0x08E84801, .fsub 7 8 9),
    (0x08E84802, .fmul 7 8 9),
    (0x08E84803, .fma 7 8 9),
    (0x08E84804, .fmin 7 8 9),
    (0x08E84805, .fmax 7 8 9),
    (0x08E84808, .fcmpEq 7 8 9),
    (0x08E84809, .fcmpLt 7 8 9),
    (0x08E8480A, .fcmpLe 7 8 9),
    (0x08E8480B, .fcmpUn 7 8 9),
    (0x08E80110, .fcvtF32I32 7 8 .rna),
    (0x08E80111, .fcvtF32N32 7 8 .rna),
    (0x08E80112, .fcvtF32I64 7 8 .rna),
    (0x08E80113, .fcvtF32N64 7 8 .rna),
    (0x08E80454, .fcvtI32F32 7 8 .rtz .wrap),
    (0x08E80455, .fcvtN32F32 7 8 .rtz .wrap),
    (0x08E80456, .fcvtI64F32 7 8 .rtz .wrap),
    (0x08E80457, .fcvtN64F32 7 8 .rtz .wrap),
    (0x08E80018, .fcvtF32Bf16 7 8),
    (0x08E80019, .fcvtF32F16 7 8),
    (0x08E8029A, .fcvtBf16F32 7 8 .rup .clamp),
    (0x08E8029B, .fcvtF16F32 7 8 .rup .clamp)] : List (Nat × Instr)), (decodeConduct e.1).toOption = some e.2 := by decide

/-- The words of the loads, stores and atomics (R148 to R153), written out from their fields, decode to what they stand for. -/
theorem test_decode_memory : ∀ e ∈ ([
    (0x60E8FFF8, .ldB 7 8 0xFFF8),
    (0x64E8FFF8, .ldH 7 8 0xFFF8),
    (0x68E8FFF8, .ldW 7 8 0xFFF8),
    (0x6CE8FFF8, .ldD 7 8 0xFFF8),
    (0x70E8FFF8, .ldBN 7 8 0xFFF8),
    (0x74E8FFF8, .ldHN 7 8 0xFFF8),
    (0x78E8FFF8, .ldWN 7 8 0xFFF8),
    (0x80E8FFF8, .stB 7 8 0xFFF8),
    (0x84E8FFF8, .stH 7 8 0xFFF8),
    (0x88E8FFF8, .stW 7 8 0xFFF8),
    (0x8CE8FFF8, .stD 7 8 0xFFF8),
    (0x0CE84810, .amoAdd 7 8 9 true),
    (0x0CE84801, .amoAnd 7 8 9 false),
    (0x0CE84812, .amoOr 7 8 9 true),
    (0x0CE84803, .amoXor 7 8 9 false),
    (0x0CE84814, .amoMin 7 8 9 true),
    (0x0CE84805, .amoMax 7 8 9 false),
    (0x0CE84816, .amoMinn 7 8 9 true),
    (0x0CE84807, .amoMaxn 7 8 9 false),
    (0x0CE84818, .amoSwap 7 8 9 true),
    (0x0CE84840, .cas 7 8 9 false),
    (0x0CE84809, .amoFadd 7 8 9),
    (0x0CE84880, .waitv 7 8 9)] : List (Nat × Instr)), (decodeConduct e.1).toOption = some e.2 := by decide

/-- The words of handles, course control and channels (R160 to R172), written out from their fields, decode to what they stand for. -/
theorem test_decode_channels : ∀ e ∈ ([
    (0x100F4800, .hwait 15 9),
    (0x100F4801, .hroom 15 9),
    (0x100F4802, .hpop 15 9),
    (0x100F4803, .hpush 15 9),
    (0x10EF0004, .hget 7 15),
    (0x100F0005, .idrain 15),
    (0x14000000, .next),
    (0x14E00001, .claim 7),
    (0x14000002, .done),
    (0x4C00000B, .goto 11),
    (0x18084800, .send 8 9),
    (0x18E80001, .recv 7 8),
    (0x18E80002, .arrive 7 8),
    (0x18084803, .await 8 9),
    (0x18000074, .fence .domain)] : List (Nat × Instr)), (decodeConduct e.1).toOption = some e.2 := by decide

/-- The words of the SYS forms and the control words (R136, R173), written out from their fields, decode to what they stand for. -/
theorem test_decode_system : ∀ e ∈ ([
    (0x1C000000, .nop),
    (0x1C000001, .halt),
    (0x1C000002, .wfe),
    (0x1C000553, .trap 0x55),
    (0x1C000004, .eret),
    (0x1CE00005, .time 7),
    (0x1C080006, .waitt 8),
    (0x1C000007, .ret),
    (0x44E00000, .mfc 7 .cc),
    (0x44E0000D, .mfc 7 (.wf 5)),
    (0x44E00010, .mfc 7 .fpflags),
    (0x44E00016, .mfc 7 .tide),
    (0x44E0001C, .mfc 7 (.fault 3)),
    (0x44E0002F, .mfc 7 (.hstat 15)),
    (0x44E00044, .mfc 7 (.chmap 0)),
    (0x48080010, .mtcFpflags 8),
    (0x48080011, .mtcHen 8),
    (0x48080014, .mtcResume 8),
    (0x48080015, .mtcTimer 8),
    (0x4808001D, .mtcFpop 8),
    (0x4808005F, .mtcChmap 8 27)] : List (Nat × Instr)), (decodeConduct e.1).toOption = some e.2 := by decide

/-- The words of the transfers of control, the pool words, issue and cop (R154, R155, R162, R175, R373 to R375), written out from their fields, decode to what they stand for. -/
theorem test_decode_transfers : ∀ e ∈ ([
    (0xA109FFFE, .bEq 8 9 0xFFFE),
    (0xA509FFFE, .bNe 8 9 0xFFFE),
    (0xA909FFFE, .bLt 8 9 0xFFFE),
    (0xAD09FFFE, .bGe 8 9 0xFFFE),
    (0xB109FFFE, .bLtn 8 9 0xFFFE),
    (0xB509FFFE, .bGen 8 9 0xFFFE),
    (0xC2000001, .jmp 0x2000001),
    (0xC6000001, .call 0x2000001),
    (0xC909ABCD, .issue 8 9 0xABCD),
    (0x502835FF, .pdcl true 8 (.lvl 2) .iadds .i64 63),
    (0x5408003F, .pcon 8 63),
    (0x58E0003F, .prd 7 63),
    (0x58E0007F, .prdC 7 63),
    (0x5CE0003F, .pset 7 63),
    (0xCC084B50, .cop 8 9 .sluice 5),
    (0xCCE84A58, .copR 7 8 9 .cascade 5)] : List (Nat × Instr)), (decodeConduct e.1).toOption = some e.2 := by decide

/-- The words of the spec's examples of stream commands (R240 to R245, R259 to R282), and of a `bindr` and a `bindw` (R259). -/
theorem test_decode_stream : ∀ e ∈ ([
    (0x0120C001003000030000000000000000,
      .bindr { h := 2, port := 3, slots := 1, fv := false, foot := 0, gate := .whole, ends := true, desc := 3, base := 0 }),
    (0x02044000000000000000000000000040,
      .bindw { h := 0, port := 17, slots := 0, fv := false, foot := 0, gate := .none, ends := false, desc := 0, base := 0x40 }),
    (0x03014000001000020000000000000000,
      .bindg { h := 0, port := 5, slots := 0, fv := false, foot := 0, gate := .none, ends := true, desc := 2, base := 0 } .mem 0),
    (0x04040000818100040000000000000000,
      .binds { h := 0, port := 16, slots := 0, fv := true, foot := 3, gate := .none, ends := false, desc := 4, base := 0 } 1),
    (0x05150003000800000000000000000000, .bindf 1 20 3 false true),
    (0x06018000001800050000000000000000,
      .bindc { h := 0, port := 6, slots := 0, fv := false, foot := 0, gate := .none, ends := true, desc := 5, base := 0 } true false),
    (0x1031C000000300060000000000002040, .weir 3 7 3 6 0x2040),
    (0x1100000000000000C000000000002040, .barrierArriveWait 0x2040),
    (0x11000000000000000000000000000000, .barrierFence),
    (0x11000000000000008000000000002040, .barrierArrive 0x2040),
    (0x11000000000000074000000000002040, .barrierWait 0x2040 7),
    (0x1200C000000000800000000000000000, .meter 3 128),
    (0x130000000000010C0000000000005000, .snap 0x5000 true 12),
    (0x14000000004214890000000000000000, .relatch 0x42 0 9 true 20),
    (0x18000000000001230000000000000105, .seal 0x123 true 5),
    (0x19044000000001230000000000000000, .gbind 17 0x123),
    (0x19044000001000000000000000000000, .gbindDetach 17),
    (0x20000000000400150000000000000000, .msgBind 21 .copy),
    (0x20000000000200000000000000001238, .msg .cascade 0x1238),
    (0x2100000022000604000000000000ABCD, .card .copy 2 2 4 6 0xABCD),
    (0x28000000000000000000000000001234, .atime 0x1234),
    (0x29008000000000210000000000000000, .ctl 2 0x21),
    (0x2A000000000010000000000000000000, .syncw 0 4096),
    (0x30100001000080000000000000000000, .mload 1 1 false false 2 0 0),
    (0x31000000000000000000000000000000, .mswap),
    (0x32280001011000000000000000000000,
      .mrow { h := 2, port := 0, slots := 1, asrc := false, zero := true, dr := .none, waw := 2, la := 0, zh := 0, npm := 0, zbase := 0, pool := 0, lane := 0 }),
    (0x33280001011000000000000000000000,
      .mcol { h := 2, port := 0, slots := 1, asrc := false, zero := true, dr := .none, waw := 2, la := 0, zh := 0, npm := 0, zbase := 0, pool := 0, lane := 0 }),
    (0x34000000000100000000000000000000, .moriginWalk 0 0),
    (0x34000000000010200000000000000000, .moriginFixed 16 32),
    (0x35480001000000000000000000000000, .mmask 4 0 1)] : List (Nat × Instr)), (decodeStream e.1).toOption = some e.2 := by decide

/-- Words that no instruction has: reserved primaries, functions and codes (R81, R82), and commands that R92 refuses. -/
theorem test_decode_refuses :
    (∀ n ∈ [0x00000000, 0x04000016, 0x0800000C, 0x08000150, 0x0C00000A, 0x10000006, 0x14000003, 0x18000084, 0x1C000008, 0x44000021 + 0x100, 0x48080000,
      0x4C000010, 0x502621FF, 0x8C000000 + 0x10000000, 0xCC090040 + 0x500, 0xFFFFFFFF], (decodeConduct n).toOption = none) ∧
    (∀ n ∈ [0, 0xFF * 2 ^ 120, 0x01 * 2 ^ 120 + 40 * 2 ^ 110, 0x12 * 2 ^ 120 + 257 * 2 ^ 64, 0x14 * 2 ^ 120 + 46 * 2 ^ 64, 0x31 * 2 ^ 120 + 1,
      0x34 * 2 ^ 120 + 2 * 2 ^ 80, 0x35 * 2 ^ 120 + 2 ^ 96, 0x2A * 2 ^ 120 + 2 * 2 ^ 64], (decodeStream n).toOption = none) := by decide

/-- The word of a conduct instruction is the first 32 bits that the machine is given, the command of a stream instruction all 128. -/
theorem test_encode : encodeConduct (.sub 7 8 9) = some 0x04E84801 ∧ encodeConduct (.stD 6 1 0xFFF8) = some 0x8CC1FFF8 ∧
    encodeStream (.mmask 4 0 1) = some 0x35480001000000000000000000000000 ∧ decodeTableWord 32 0x0443200C = some (.divn 2 3 4) := by decide

/-! ### Well-formedness: an ill-formed term for each check -/

/-- A binding that names no footprint and no handle, of port w0. -/
def binding : BindArgs := { h := 0, port := 0, slots := 0, fv := false, foot := 0, gate := .none, ends := false, desc := 0, base := 0 }
/-- An operation of the matrix unit over one slot of h0. -/
def matrixOp : MatArgs :=
  { h := 0, port := 0, slots := 1, asrc := false, zero := false, dr := .none, waw := 0, la := 0, zh := 0, npm := 0, zbase := 0, pool := 0, lane := 0 }

theorem test_wf_refuses : ∀ i ∈ ([
    .fcvtBf16F32 1 2 .rne .wrap, .fcvtF16F32 1 2 .rne .wrap,
    .pdcl false 0 (.lvl 0) .fadd .i32 0, .pdcl false 0 (.lvl 0) .imax .n32 0, .pdcl false 0 (.lvl 0) .nmin .i64 0, .pdcl false 0 (.lvl 0) .xor .f32 0,
    .pdcl false 0 .node .iadd .i32 0,
    .bindr { binding with foot := 1 }, .bindr { binding with h := 1 }, .bindr { binding with slots := 1 }, .bindr { binding with gate := .slot },
    .bindw { binding with ends := true }, .bindg { binding with gate := .whole, slots := 1 } .mem 0, .bindg { binding with base := 4 } .pa 0,
    .bindg binding .pa 1, .bindg { binding with fv := true } .pa 0, .binds { binding with gate := .hold, slots := 1 } 0,
    .binds { binding with ends := true } 0, .bindf 1 0 0 false false, .bindf 1 0 1 true true, .bindc binding true true,
    .bindc { binding with ends := true } false true, .meter 0 257,
    .snap 0 false 0, .snap 0x1001 false 0, .snap 0x200000000000000 false 0, .relatch 0 0 46 false 0, .relatch 0 0x1000 1 false 0,
    .msgBind 32 .copy, .card .copy 0 3 0 0 0, .card .copy 0 0 1 0 0, .card .copy 0 1 1 1 0, .ctl 0 128,
    .syncw 4 4, .syncw 0x200000000000000 4, .syncw 0 0, .syncw 0 2,
    .mload 0 0 false false 0 0 0, .mload 0 1 false false 7 0 0, .mload 0 1 false true 3 0 0, .mload 0 1 false false 0 64 0, .mload 0 1 false false 0 0 64,
    .mrow { matrixOp with asrc := true, h := 1 }, .mrow { matrixOp with zh := 1 }, .mcol { matrixOp with pool := 1 }, .mcol { matrixOp with lane := 1 },
    .mrow { matrixOp with port := 15, npm := 1 }, .mrow { matrixOp with slots := 0 }, .mmask 0 0 0] : List Instr), i.wf = false := by decide

theorem test_wf_accepts : ∀ i ∈ ([.bindr binding, .mrow matrixOp, .mrow { matrixOp with port := 15 }, .meter 0 256, .snap 0x1000 true 255,
    .relatch 0 0x2000 1 false 0, .snap 0x1000 false 1, .relatch 0 0 0 false 1, .seal 0 false 1, .syncw 8 4, .mload 0 1 false true 2 127 63, .pdcl true 0 .domain .iadds .i64 63, .add 0 0 0] : List Instr), i.wf = true := by
  decide

/-! ### States that meet the hypotheses of the obligations -/

/-- A handler of a course. -/
def hd (st : HState) : Handler := { Handler.undeclared with decl := true, hen := true, st := st }
/-- A 4 KiB page of ASID 5 at 0x1000, of class C, that may be written. -/
def page : PageEntry := { asid := 5, vbase := 0x1000, log := 12, pbase := 0x200000, wr := true, clsW := false }
/-- A page of class W at 0x3000. -/
def pageW : PageEntry := { asid := 5, vbase := 0x3000, log := 12, pbase := 0x400000, wr := true, clsW := true }
def stashLine (line : Nat) (owned : Bool) : StashLine :=
  { line := line, data := Vector.replicate 64 0, owned := owned, dirty := false, poison := false, pinned := false, wts := 3, rts := 40, stamp := 0,
    vas := [(5, 1)] }
def slot (num idx : Nat) : StepSlot := { num := num, image := 1, idx := idx, loaded := true, refused := false, openAt := 0 }
def step_ (term : Bool) (succ script : Nat) : ImgStep := { loop := false, term := term, succ := succ, script := script, len := 4, confs := [] }
/-- A template that holds `mswap`, one that holds a reserved opcode, and one of a `weir` command. -/
def templates : List Template :=
  [{ cmd := BitVec.ofNat 128 (0x31 * 2 ^ 120), alsb := 0, awid := 0, blsb := 0, bwid := 0 },
   { cmd := 0, alsb := 0, awid := 0, blsb := 0, bwid := 0 },
   { cmd := BitVec.ofNat 128 (0x28 * 2 ^ 120), alsb := 0, awid := 8, blsb := 0, bwid := 0 }]
/-- An image of two steps: `nop` and `sub g7, g8, g9`, then a reserved word. -/
def image : Image :=
  { asid := 5, spanW := 1, spanH := 1, entry := 0, steps := [step_ false 1 0, step_ true 0 16],
    code := [0x1C000000, 0x04E84801, 0, 0x1C000000, 0x1C000000, 0x14000000, 0x14000002, 0x1C000002], handlers := [], tmpls := templates, pools := [],
    handles := [], gauges := [], foots := [], cpoolVa := 0, cpoolLen := 0 }
/-- A region that runs step 0 of the image as its first, with handler 0 active at word 0. -/
def region : Region :=
  { Region.free with
    mode := .running, inst := 1, launch := 1, image := 1, asid := 5, spanW := 1, spanH := 1,
    handlers := [(0, hd .active), (1, hd .idle), (2, hd .idle), (4, hd .active)],
    tlb := [page, pageW], stepNo := 1, steps := [slot 1 0, slot 2 1], stash := [stashLine 0x8000 true, stashLine 0x8001 false],
    regs := (Vector.replicate 32 0).set 1 0x1000 }
/-- The machine with that region at place 0, handler 0 of it under execution, and RUN. -/
def machine : State :=
  { State.reset with
    images := [(1, image)], regions := [(0, region)], asids := [(5, { root := 0x1000, dbg := true, st := .live })],
    boot := { stage := 7, warm := false, fail := 0, st := 1 } }
/-- The same with another region at place 0. -/
def on (f : Region → Region) : State := { machine with regions := [(0, f region)] }
/-- The same with handler 0 waiting. -/
def waiting (w : Wait) : State := on fun r => { r with handlers := [(0, { hd .active with wait := w }), (1, hd .idle)] }
/-- The same with die 0 changed. -/
def die (f : Die → Die) (s : State) : State := { s with dies := [(0, f Die.reset)] }
/-- The same with one message in flight. -/
def sent (b : Body) (s : State) : State := { s with net := [{ src := none, body := b }] }

/-- A `nop`, with and without another handler that waits; a `wfe` that stalls, alone; a reserved word; an address past the code; a command. -/
theorem witness_StepRunsDecoded :
    let s := { machine with agenda := [.issue 0] }
    let r := s.region 0
    let wfe := on fun r => { r with cc := 1, handlers := [(0, { hd .active with ia := 12 })] }
    let bad := on fun r => { r with handlers := [(0, { hd .active with ia := 8 })] }
    let past := on fun r => { r with handlers := [(0, { hd .active with ia := 16 })] }
    let queued := { on (fun r => { r with cmdQ := [{ bits := BitVec.ofNat 128 (0x31 * 2 ^ 120), tmpl := 0, step := 1, lclk := 0, ctx := 0, hold := none }] }) with
      agenda := [.command 0] }
    (r.mode = .running ∧ s.issueHeld 0 = false ∧ r.pickOrder = [0, 1, 2, 4] ∧ s.mayIssue 0 0 = true ∧ (r.handler 0).st = .active ∧ r.comps = [] ∧ r.passing = [] ∧ r.picked = none ∧
      s.fetch 0 0 0 = some 0x1C000000 ∧ (decodeConduct 0x1C000000).toOption = some .nop ∧
      exec .nop s = .next (s.wentTo s.mine 4) ∧ (s.wentTo s.mine 4).stalled = false ∧ (r.handler 1).wait = .none ∧ (r.handler 4).wait = .none) ∧
    ((wfe.region 0).pickOrder = [0] ∧ wfe.mayIssue 0 0 = true ∧ wfe.fetch 0 0 12 = some 0x1C000002 ∧ (decodeConduct 0x1C000002).toOption = some .wfe ∧
      exec .wfe wfe = .next { wfe with stalled := true }) ∧
    (bad.mayIssue 0 0 = true ∧ bad.fetch 0 0 8 = some 0 ∧ (decodeConduct 0).toOption = none) ∧
    (past.mayIssue 0 0 = true ∧ past.fetch 0 0 16 = none) ∧
    ((queued.region 0).moves = true ∧ queued.issueHeld 0 = false ∧ (queued.region 0).matrix.channel.length < 8 ∧
      ((queued.region 0).cmdQ.head?.map (·.bits.toNat)) = some (0x31 * 2 ^ 120) ∧ (decodeStream (0x31 * 2 ^ 120)).toOption = some .mswap) := by
  refine ⟨⟨?_, ?_, ?_, ?_, ?_, ?_, ?_, ?_, ?_, ?_, rfl, ?_⟩, ⟨?_, ?_, ?_, ?_, rfl⟩, ?_, ?_, ?_⟩ <;> decide

theorem witness_RoundTrips :
    Instr.wf (.ldD 31 31 0xFFFF) = true ∧ encodeConduct (.ldD 31 31 0xFFFF) = some 0x6FFFFFFF ∧
    Instr.wf (.meter 31 256) = true ∧ encodeStream (.meter 31 256) = some 0x1207C000000001000000000000000000 := by decide

theorem witness_StepKeepsMemory :
    let s := { machine with mem := [(64, 7)], agenda := [.tick] }
    MemWf s ∧ ∃ t, Machine.step s = .next t := ⟨rfl, _, rfl⟩

theorem witness_RegisterWordFrame : (∀ h, Ctl.cc ≠ .hstat h) ∧ (∃ t, exec (.add 7 1 1) machine = .next t) ∧ ∃ t, exec (.fadd 0 1 1) machine = .next t :=
  ⟨by decide, ⟨_, rfl⟩, _, rfl⟩

/-- Room in the fault file; handler 1 itself; handler 1 not declared; a full file. -/
theorem witness_FaultEntry :
    let undeclared := on fun r => { r with handlers := [(0, hd .active)] }
    let full := on fun r => { r with faults := List.replicate 8 0 }
    let self := { machine with cur := (0, 1) }
    (∀ s ∈ [machine, undeclared, full, self], s.attach = [] ∧ s.mine.modeUnder.live = true ∧ (∀ e ∈ s.mine.comps, e.2.kind ≠ 3)) ∧
    (machine.cur.2 ≠ 1 ∧ (machine.mine.handler 1).decl = true ∧ machine.mine.faults.length < 8) ∧
    (undeclared.mine.handler 1).decl = false ∧ 8 ≤ full.mine.faults.length ∧ self.cur.2 = 1 ∧
    (let s := die (fun d => { d with insts := [(1, { launch := 1, index := 0, places := [0], cursor := 0, retired := [], failed := false, stamp := 0, saved := [] })] }) full;
      (s.die 0).preempt = none ∧ (Tbl.find (s.die 0).insts s.mine.inst).map (·.places) = some [0]) := by decide

/-- A target one word too far, one below 0, a return address that is no multiple of 4, and a handler past its code. -/
theorem witness_TransferOutsideCode :
    let far := on fun r => { r with handlers := [(0, { hd .active with ia := 12 })], regs := r.regs.set 31 2 }
    let past := on fun r => { r with handlers := [(0, { hd .active with ia := 13 })] }
    (far.imageOf far.mine = some image ∧ 4 * (step_ false 1 0).len < 12 + 4 * (1 : BitVec 16).toInt + 4 ∧ 12 + 4 * (0xFFFC : BitVec 16).toInt < 0 ∧
      (far.mine.get 31).toNat % 4 ≠ 0 ∧ (machine.mine.get 1).toInt < (16 : Int) * 1000) ∧
    (far.attach = [] ∧ far.mine.modeUnder.live = true) ∧ 4 * (step_ false 1 0).len < ((past.region 0).handler 0).ia + 4 := by decide

theorem witness_IdrainWaits :
    let live := on fun r => { r with live := [(7, 2)] }
    (∃ l ∈ live.mine.live, l.2 = (2 : Fin 16).val) ∧ ¬ ((∃ l ∈ live.mine.live, l.2 = (3 : Fin 16).val) ∨ ∃ q ∈ live.mine.cmdQ, q.names 3 = true) ∧
    (let q := on fun r => { r with cmdQ := [{ bits := BitVec.ofNat 128 0x3532_0001_0000_0000_0000_0000_0000_0000, tmpl := 0, step := 1, lclk := 0, ctx := 0, hold := none }] };
      ∀ x ∈ q.mine.cmdQ, x.bits.toNat = 0x35320001000000000000000000000000) := by decide

/-- Each side of every comparison of the branches, in one state. -/
theorem witness_BranchesContinue : machine.inCode 4 = true ∧ machine.inCode 16 = false ∧ machine.inCode (-4) = false ∧ machine.inCode 2 = false ∧
    (machine.mine.get 0).toInt < (machine.mine.get 1).toInt := by decide

theorem witness_SystemWords :
    let attached := { machine with attach := [(1, { insts := [(0, 1)], asid := 5, base := 0, size := 1, prod := 0, dropped := 0, traces := [] })] }
    (on fun r => { r with ev := true }).mine.ev = true ∧ (machine.mine.get 0).toNat ≤ machine.tide / 8000 % 2 ^ 64 ∧
    ({ machine with cur := (0, 2) } : State).cur.2 ≠ 0 ∧ (attached.attachedTo attached.cur.1).isSome = true ∧ machine.attachedTo machine.cur.1 = none ∧
    machine.mine.mode ≠ .held := by decide

theorem witness_ControlWords :
    let s := on fun r => { r with faults := [7], handlers := [(0, hd .active), (1, hd .suspended)],
                                  regs := ((r.regs.set 2 0x21).set 3 0x1FF).set 4 0xFF }
    let t := die (fun d => { d with chans := [(255, { owner := some 5, words := [], sub := none, kept := 0 })] }) s
    s.mine.faults.head? = some 7 ∧ 1 = (s.mine.get 2).toNat % 32 ∧ 1 ≠ s.cur.2 ∧ (s.mine.handler 1).st = .suspended ∧ (s.mine.get 2).toNat / 32 % 2 = 1 ∧
    (s.mine.get 4).toNat / 256 % 2 = 0 ∧ (t.mine.get 3).toNat / 256 % 2 = 1 ∧
    ((t.die 0).chan ((t.mine.get 3).toNat % 256)).owner = some t.mine.asid ∧ ((t.die 0).chan 255).sub = none := by decide

/-- The machine as package 1, so that what it holds has its home in package 0, to which port 2 leads. -/
def abroad (s : State) : State := { s with well := { s.well with pkg := 1, routes := [(0, 2)] } }
/-- A line held owned, at its last bytes, in this package and in another; a line held under a lease; a line that acts at its home. -/
theorem witness_LoadWords :
    let va (off : BitVec 16) : Nat := (machine.mine.get 1 + off.signExtend 64).toNat % 2 ^ 57
    let a := machine.accessConduct 0 (va 56) 8 .read
    let b := machine.accessConduct 0 (va 64) 1 .read
    let home : State := { machine with homeWords := [0x8000] }
    let c := home.accessConduct 0 (va 56) 8 .read
    (a.1 = .ok 0x200038 false ∧ a.2.actsHome 0 (va 56) 0x200038 = false ∧ a.2.mine.findLine (0x200038 / 64) = some (stashLine 0x8000 true) ∧
      (stashLine 0x8000 true).owned = true ∧ a.2.elsewhere 0x200038 = false ∧
      (let y := (abroad machine).accessConduct 0 (va 56) 8 .read
       y.1 = .ok 0x200038 false ∧ y.2.elsewhere 0x200038 = true ∧ y.2.storeOut 0 0x8000 = false ∧ y.2.actsHome 0 (va 56) 0x200038 = false)) ∧
    (b.1 = .ok 0x200040 false ∧ b.2.actsHome 0 (va 64) 0x200040 = false ∧ b.2.mine.findLine (0x200040 / 64) = some (stashLine 0x8001 false) ∧
      b.2.mine.lclk.toNat ≤ (stashLine 0x8001 false).rts.toNat ∧ (stashLine 0x8001 false).poison = false) ∧
    (c.1 = .ok 0x200038 false ∧ c.2.actsHome 0 (va 56) 0x200038 = true ∧ c.2.elsewhere 0x200038 = false ∧
      ((c.2.markHome (0x200038 / 64)).homeRead 0x200038 8 c.2.mine.lclk).2.2.1 = false) := by decide

/-- A line held owned, at its last byte, the same line where it acts at its home, and one with its home in another package. -/
theorem witness_StoreWords :
    let va : Nat := (machine.mine.get 1 + (63 : BitVec 16).signExtend 64).toNat % 2 ^ 57
    let a := machine.accessConduct 0 va 1 .write
    let b := ({ machine with homeWords := [0x8000] } : State).accessConduct 0 va 1 .write
    (a.1 = .ok 0x20003F false ∧ a.2.actsHome 0 va 0x20003F = false ∧ a.2.mine.findLine (0x20003F / 64) = some (stashLine 0x8000 true) ∧
      (stashLine 0x8000 true).owned = true ∧ machine.waitOf = .none ∧ a.2.elsewhere 0x20003F = false) ∧
    (b.1 = .ok 0x20003F false ∧ b.2.actsHome 0 va 0x20003F = true ∧ b.2.elsewhere 0x20003F = false) ∧
    (let y := (abroad machine).accessConduct 0 va 1 .write
     y.1 = .ok 0x20003F false ∧ (abroad machine).waitOf = .none ∧ y.2.elsewhere 0x20003F = true ∧ Tbl.find y.2.well.routes (pkgOf 0x20003F) = some 2) ∧
    (waiting (.answered 0 9 0)).waitOf = .answered 0 9 0 := by decide

theorem witness_MisalignedAccess :
    let at_ (off : BitVec 16) : Nat := (machine.mine.get 1 + off.signExtend 64).toNat % 2 ^ 57
    at_ 1 % 2 ≠ 0 ∧ at_ 2 % 4 ≠ 0 ∧ at_ 7 % 8 ≠ 0 ∧
    (let s := on fun r => { r with regs := r.regs.set 2 0x1008 };
      s.waitOf = .none ∧ (s.mine.get 2).toNat % 2 ^ 57 % 16 ≠ 0) ∧
    (let s := on fun r => { r with regs := r.regs.set 2 0x1002 };
      s.waitOf = .none ∧ (s.mine.get 2).toNat % 2 ^ 57 % 4 ≠ 0 ∧ (s.mine.get 2).toNat % 2 ^ 57 % 8 ≠ 0) := by decide

theorem witness_HomeAnswers :
    let va := (machine.mine.get 1).toNat % 2 ^ 57
    let elastic := on fun r => { r with elastic := true }
    (machine.waitOf = .none ∧ (∀ n ∈ [4, 8, 16], (machine.accessConduct 0 va n .write).1 = .ok 0x200000 false ∧
      (machine.accessConduct 0 va n .read).1 = .ok 0x200000 false) ∧ machine.mine.clean = true) ∧
    (waiting (.answered 5 9 2)).waitOf = .answered 5 9 2 ∧ (machine.cur.2 = 0 ∧ machine.mine.elastic = false) ∧
    (elastic.cur.2 = 0 ∧ elastic.mine.elastic = true ∧ elastic.waitOf = .none) ∧
    (let s := on fun r => { r with elastic := true, handlers := [(0, { hd .active with wait := .answered 5 9 2 })] };
      s.cur.2 = 0 ∧ s.mine.elastic = true ∧ s.waitOf = .answered 5 9 2) ∧
    ({ machine with cur := (0, 4) } : State).cur.2 ≠ 0 := by decide

/-- An empty channel and one with a single place left; a channel of another package; a channel with a word; a fence of lvl1 and one of the
domain in a region with nothing to write back. -/
theorem witness_ChannelWords :
    let chan (n : Nat) (s : State) := die (fun d => { d with chans := [(255, { owner := some 5, words := List.replicate n (7, 8), sub := none, kept := 0 })] }) s
    let s := chan 31 (on fun r => { r with regs := r.regs.set 2 255 })
    let away : State := { on (fun r => { r with regs := r.regs.set 2 (3 * 1024 + 3 * 256 + 255) }) with well := { machine.well with domain := [0, 3] } }
    ((s.mine.get 2).toNat = s.well.pkg * 2 ^ 10 + 0 * 2 ^ 8 + 255 ∧ s.well.pkg < 2 ^ 10 ∧ s.well.domain.contains s.well.pkg = true ∧
      ((s.die 0).chan 255).owner = some s.mine.asid ∧ s.mine.clean = true ∧ s.waitOf = .none ∧ ((s.die 0).chan 255).words.length < 32) ∧
    ((away.mine.get 2).toNat = 3 * 2 ^ 10 + 3 * 2 ^ 8 + 255 ∧ away.well.domain.contains 3 = true ∧ away.mine.clean = true ∧ away.waitOf = .none ∧
      3 ≠ away.well.pkg) ∧ (waiting (.answered 5 9 2)).waitOf = .answered 5 9 2 ∧
    ((s.mine.get 2).toNat < 256 ∧ ((s.die (dieOfPlace s.cur.1)).chan 255).owner = some s.mine.asid ∧
      ((s.die (dieOfPlace s.cur.1)).chan 255).words = (7, 8) :: List.replicate 30 (7, 8)) ∧
    machine.mine.reachIsRegion (machine.mine.scopeReach .node) = true ∧
    (machine.mine.reachIsRegion (machine.mine.scopeReach .domain) = false ∧ machine.mine.clean = true ∧ machine.mine.pconOut = 0) := by decide

/-- A ring of 4 slots of which 3 are filled, and counts of 0, 1, 3, 4 and 5; a ring at home that has been answered; an undeclared handle. -/
theorem witness_HandleWords :
    let x : Handle := { decl := true, loc := false, lsz := 9, slots := 4, base := 0, p := 3, c := 0, f := 3 }
    let s := on fun r => { r with handles := [(2, x)], regs := (((r.regs.set 2 1).set 3 3).set 4 5).set 5 4 }
    let home := on fun r => { r with handles := [(2, { x with loc := true })], regs := r.regs.set 2 4, handlers := [(0, { hd .active with wait := .answered 5 9 2 })] }
    ((s.mine.handle 2).decl = true ∧ (s.mine.handle 2).loc = false ∧ (s.mine.handle 2).f ≤ (s.mine.handle 2).slots ∧ (s.mine.get 0).toNat = 0) ∧
    ((s.mine.get 3).toNat ≠ 0 ∧ (s.mine.get 3).toNat ≤ (s.mine.handle 2).f ∧ (s.mine.get 2).toNat ≤ (s.mine.handle 2).slots - (s.mine.handle 2).f) ∧
    ((s.mine.handle 2).f < (s.mine.get 5).toNat ∧ (s.mine.get 5).toNat ≤ (s.mine.handle 2).slots) ∧
    ((s.mine.handle 2).slots - (s.mine.handle 2).f < (s.mine.get 3).toNat ∧ (s.mine.get 3).toNat ≤ (s.mine.handle 2).slots) ∧
    (s.mine.handle 2).slots < (s.mine.get 4).toNat ∧
    ((home.mine.handle 2).decl = true ∧ (home.mine.handle 2).loc = true ∧ home.waitOf = .answered 5 9 2 ∧ (home.mine.get 2).toNat ≠ 0 ∧
      (home.mine.get 2).toNat ≤ (home.mine.handle 2).slots) ∧ (s.mine.handle 3).decl = false := by decide

theorem witness_PoolWords :
    let key : PoolKey := { job := 0, asid := 5, pool := 3, scope := 1, pfx := 0, reach := 0, home := 0 }
    let d (n : Bool) : PoolDecl := { ty := .f32, op := .fadd, scope := .lvl 0, settle := false, cntv := n, count := 4, init := none }
    let s (n : Bool) := on fun r => { r with pools := [{ pool := 3, key := key, decl := d n }], regs := r.regs.set 2 0x100000000 }
    let t := s true
    (waiting (.answered 5 9 2)).waitOf = .answered 5 9 2 ∧
    (∀ n, (s n).mine.pool 3 = some { pool := 3, key := key, decl := d n } ∧ (d n).cntv = n ∧ (s n).waitOf = .none) ∧
    (t.mine.clean = true ∧ t.laneHeld 0 t.mine.stepNo 3 0 = false) ∧ t.mine.pool 63 = none ∧
    ((2 : Reg).val ≠ 0 ∧ 2 ^ 32 ≤ (t.mine.get 2).toNat) ∧ ((3 : Reg).val ≠ 0 ∧ (t.mine.get 3).toNat = 0) ∧
    ¬ ((1 : Reg).val ≠ 0 ∧ ((t.mine.get 1).toNat = 0 ∨ 2 ^ 32 ≤ (t.mine.get 1).toNat)) := by decide

/-- Step 0 goes on to step 1, which is loaded; step 1 ends the course; goto names the last step, and one past it. -/
theorem witness_CourseWords :
    let last := on fun r => { r with cc := 1 }
    let s1 := machine.setRegion 0 (machine.mine.wantSlot (1 : BitVec 4).toNat)
    (machine.cur.2 = 0 ∧ machine.following 0 = some (1, 0) ∧ machine.mine.atimeQueued = false ∧ machine.cutOpen 0 = false ∧ machine.mine.atSplice = false ∧
      machine.mine.nextSlot = some (slot 2 1) ∧ (slot 2 1).idx = 1 ∧ (slot 2 1).image = machine.mine.image ∧ (slot 2 1).loaded = true ∧
      (slot 2 1).refused = false ∧ machine.stepsHeld 0 < 3 ∧ machine.splicePoint 0 = false) ∧
    (machine.imageOf machine.mine = some image ∧ (1 : BitVec 4).toNat < image.steps.length ∧ image.steps.length ≤ (2 : BitVec 4).toNat ∧
      (s1.region 0).nextSlot.isSome = true ∧
      (match (s1.region 0).nextSlot.map s1.slotCheck with
        | some (.error _) => false
        | _ => true) = true) ∧
    (last.following 0 = none ∧ last.mine.atimeQueued = false ∧ last.cutOpen 0 = false) ∧ ({ machine with cur := (0, 1) } : State).cur.2 ≠ 0 := by decide

theorem witness_MessageWords : machine.inboxRoom 0 .sluice = true ∧ machine.waitOf = .none ∧ (waiting (.answered 5 9 2)).waitOf = .answered 5 9 2 := by decide

/-- A command of the bits given, of the region's step. -/
def cmd (bits : Nat) : QueuedCmd := { bits := BitVec.ofNat 128 bits, tmpl := 0, step := 1, lclk := 0, ctx := 0, hold := none }
/-- The machine whose region's command queue holds `mswap`, changed further. -/
def commanded (f : Region → Region) : State := on fun r => f { r with cmdQ := [cmd (0x31 * 2 ^ 120)] }
/-- A message to an engine of ASID 5. -/
def msgOf (cls : EngClass) (opc nop : Nat) (ops : List DWord) : EngMsg :=
  { cls := cls, words := [msgWord0 opc 0 nop 0, 0] ++ ops, p := 0, die := 0, asid := 5, sys := false, clk := 0, latch := none, wid := 0, foots := [],
    carded := false, hold := none, pools := [] }
def jobOf (m : EngMsg) : Job := { msg := m, clk := 0, args := none, pos := 0, reply := none }
/-- Die 0 with the pages of ASID 5 in its engines' translation cache. -/
def engines (f : Die → Die) : State := die (fun d => f { d with etc := [page, pageW] }) machine
def wordDone : Word4 → Bool
  | .done _ _ => true
  | .wait => false
  | .bad _ => false
def wordsDone (w : Words) (n : Nat) : Bool := match w with
  | .done vs _ => vs.length == n
  | .wait => false
  | .bad _ => false

/-- A command formed; a template that is not there; one whose patch does not fit; one of a reserved opcode; a graph read at its home bank. -/
theorem witness_IssueWord :
    let s := on fun r => { r with regs := r.regs.set 2 0x100 }
    let graph := { machine with mem := Memory.writeLE [] 0x200000 32 (2 ^ 192 + 0xE0011000000000000000000000000000) }
    (s.imageOf s.mine = some image ∧ s.mine.pendingMask = none ∧ s.mine.cmdQ.length < 16) ∧
    ((image.tmpls[(0 : BitVec 16).toNat]?).bind (fun x => formCommand x 0 0) = some (0x31 * 2 ^ 120) ∧
      (decodeStream (0x31 * 2 ^ 120)).toOption = some .mswap ∧ s.commandOk 0 .mswap = true) ∧
    image.tmpls[(3 : BitVec 16).toNat]? = none ∧ (image.tmpls[(2 : BitVec 16).toNat]?).bind (fun x => formCommand x 0x100 0) = none ∧
    ((image.tmpls[(1 : BitVec 16).toNat]?).bind (fun x => formCommand x 0 0) = some 0 ∧ (decodeStream 0).toOption = none) ∧
    (match graph.loadGraph 0 1 1 0x1000 with
      | .ok s1 _ => decide (s1.cur = graph.cur)
      | _ => false) = true := by decide

/-- One place left in the port's queue, of a port on each side. -/
theorem witness_PortCommands :
    let seven : PortSide := { PortSide.init with queue := List.replicate 7 (.ctl 0 1 0) }
    let s := commanded fun r => { r with sides := [(0, seven)] }
    s.headCmd = some (cmd (0x31 * 2 ^ 120)) ∧ (s.mine.side (0 : EdgePort).val).queue.length < 8 ∧ (s.mine.side (31 : EdgePort).val).queue.length < 8 := by decide

/-- Ports at the command's step and at an earlier one; an answer that has come. -/
theorem witness_AttachmentCommands :
    let s := commanded fun r => { r with ports := [(3, { Port.empty with step := 1 })] }
    let answered := commanded fun r => { r with sif := { r.sif with answer := some (3, 9), phase := some 3 } }
    s.headCmd = some (cmd (0x31 * 2 ^ 120)) ∧ (s.mine.side (31 : EdgePort).val).queue.length < 8 ∧ s.mine.live = [] ∧
    (s.mine.port (3 : BitVec 6).toNat).step = (cmd 0).step ∧ (s.mine.port (63 : BitVec 6).toNat).step < (cmd 0).step ∧
    answered.mine.sif.bad = none ∧ answered.mine.sif.answer = some (3, 9) ∧ answered.mine.sif.phase.isSome = true := by decide

/-- A message of 3 words in the stash; a relatch on a die without ports of the ASID, and on one with an xlat port. -/
theorem witness_InterfaceCommands :
    let line : StashLine := { stashLine 0x8000 true with data := lineWrite (Vector.replicate 64 0) 0 8 (msgWord0 1 0 1 0).toNat }
    let s := commanded fun r => { r with stash := [line] }
    let w0 := State.readWords 0 1 0x1000 [] s
    let ws := State.readWords 0 3 0x1000 [] w0.2
    let port : Port := { (s.port 0 0) with ended := false, word := { (s.port 0 0).word with op := .xlat } }
    let ported := commanded fun r => { r with ports := [(0, port)] }
    let a := s.unitAccess 0 0x1008 .write
    let b := (a.2.markHome (0x200008 / 64)).recallNow (0x200008 / 64) true
    (s.headCmd.isSome = true ∧ s.inboxRoom 0 .copy = true) ∧
    ((match w0.1 with
        | .ok l => decide (3 ≤ msgLength (l.headD 0)) && decide (msgLength (l.headD 0) ≤ 12)
        | _ => false) = true ∧
      (match ws.1 with
        | .ok l => l.length == 3
        | _ => false) = true ∧ ws.2.inboxRoom 0 .copy = true) ∧
    s.mine.sif.snap = none ∧
    ((s.die 0).relatch = none ∧ ∀ e ∈ (s.popCommand 0).regions, dieOfPlace e.1 = dieOfPlace 0 → e.2.asid = 5 → e.2.modeUnder ≠ .free → e.2.ports = []) ∧
    (s.mine.sif.posted = false ∧ s.mine.sif.bad = none ∧ s.mine.sif.answer = none ∧ s.elsewhere 0x200008 = false) ∧
    (∃ e ∈ (ported.popCommand 0).regions, dieOfPlace e.1 = dieOfPlace 0 ∧ e.2.asid = 5 ∧ e.2.modeUnder ≠ .free ∧ ∃ y ∈ e.2.ports, y.2.relatches = true) ∧
    (a.1 = .ok 0x200008 false ∧ s.attach = [] ∧ b.homePoisoned (0x200008 / 64) = false ∧
      syncTgt (Memory.readLE b.mem 0x200008 8) + (4 : BitVec 32).toNat / 4 < 2 ^ 24) := by decide

theorem witness_MatrixCommands :
    let s := commanded fun r => { r with matrix := { r.matrix with channel := List.replicate 7 { cmd := .swap, step := 1, tmpl := 0, started := false, done := false, orgY := 0, orgX := 0 } } }
    s.headCmd = some (cmd (0x31 * 2 ^ 120)) ∧ s.mine.matrix.channel.length < 8 ∧ s.mine.matrix.faulted = false := by decide

/-- A COPYI from 0x1000 to 0x1100, about to move its first word, done, held, failing, and not begun; a FILL and a COPY not begun. -/
theorem witness_CopyEngines :
    let m := msgOf .copy 2 3 [0x1000, 0x1100, 8]
    let j : Job := { jobOf m with args := some (0x1000, 0x1100, 8) }
    let s := engines fun d => { d with copyEng := [(3, [j])] }
    let w := s.sourceWord 0 j 0x1000
    let fill := jobOf (msgOf .copy 3 2 [0x1000, 0x400000007])
    (((s.die 0).engineQueue 3).head? = some j ∧ j.msg.opc = 2 ∧ j.reply = none ∧ j.args = some (0x1000, 0x1100, 8)) ∧
    ({ j with reply := some 0 } : Job).reply = some 0 ∧ 8 ≤ 4 * ({ j with pos := 2 } : Job).pos ∧
    (4 * j.pos < 8 ∧ wordDone w.1 = true ∧ wordDone (w.2.jobWrite 0 j 0x1100 0 0).1 = true) ∧
    (match (s.sourceWord 0 j 0x9000).1 with
      | .bad _ => true
      | _ => false) = true ∧
    ((jobOf m).args = none ∧ m.opnd 0 < 2 ^ 57 ∧ m.opnd 1 < 2 ^ 57 ∧ m.opnd 2 < 2 ^ 32) ∧
    (fill.msg.opc = 3 ∧ fill.args = none ∧ fill.msg.opnd 0 < 2 ^ 57) ∧ (msgOf .copy 1 1 [0x1000]).opc = 1 := by decide

/-- A WSET of one word, begun and done; GREAD, GPOL and GCLR of record 7. -/
theorem witness_WeirJobs :
    let wset := msgOf .weir 5 2 [0x3000, 0x400000007]
    let g : GaugeRec := { GaugeRec.blank with alloc := true, asid := 5 }
    let s := { engines (fun d => { d with weirJobs := [jobOf wset] }) with records := [(7, g)] }
    let a := s.engAt 0 5 0x3000 .write
    let gread := msgOf .weir 8 2 [7, 0x1000]
    let gpol := msgOf .weir 9 2 [7 + 2 ^ 29, 0]
    let gclr := msgOf .weir 10 2 [7, 0]
    ((s.die 0).weirJobs[0]? = some (jobOf wset) ∧ (jobOf wset).reply = none ∧ wset.opc = 5 ∧ wset.opnd 0 < 2 ^ 57 ∧
      rangesBad none (wset.opnd 0) (wset.opnd 1 / 2 ^ 32) = false) ∧
    wset.opnd 1 / 2 ^ 32 ≤ 4 * ({ jobOf wset with pos := 1 } : Job).pos ∧
    (4 * (jobOf wset).pos < wset.opnd 1 / 2 ^ 32 ∧ wset.covers 0x3000 4 true = true ∧
      (match a.1 with
        | .at pa w => pa == 0x400000 && w
        | _ => false) = true ∧ hostBit 0x400000 = false ∧ a.2.updatePending 0x400000 = false ∧ a.2.homePoisoned (0x400000 / 64) = false) ∧
    (gread.opc = 8 ∧ (s.recordCheck gread (decide (gread.opnd 0 / 2 ^ 20 ≠ 0) || decide (gread.opnd 1 / 2 ^ 57 ≠ 0)) 0).toOption = some g ∧
      gread.opnd 1 % 64 = 0 ∧ gread.covers (gread.opnd 1) 512 true = true ∧
      ((State.bufferLines 0 5 ((List.range 8).map fun k => (gread.opnd 1 + 64 * k) % 2 ^ 57) [] s).1.toOption.map List.length) = some 8) ∧
    (gpol.opc = 9 ∧ (s.recordCheck gpol (decide (gpol.opnd 0 / 2 ^ 30 ≠ 0)) (gpol.opnd 1 / 2 ^ 32)).toOption = some g) ∧
    (gclr.opc = 10 ∧ (s.recordCheck gclr (decide (gclr.opnd 0 / 2 ^ 20 ≠ 0) || decide (gclr.opnd 1 ≠ 0)) 0).toOption = some g) := by decide

/-- A graph of ASID 5, number 9 of group 0, of one node. -/
def graphOf (op : ChunkOp) : Graph :=
  { asid := 5, nodes := [{ op := op, cls := 0, dep := 0, succA := none, succB := none, src := 0, dst := 1 }], group := 0, base := 0, len := 64, number := 0,
    replays := 0, lastSt := 0, flags := 0 }
/-- A replay of it, its node in the state given; entry 0 and entry 1 are 8 bytes each of chunk memory, or of memory at 0x1000 and 0x1008. -/
def replayOf (space : Nat) (st : NodeState) : Replay :=
  { gid := 9, job := jobOf (msgOf .cascade 2 1 [9 * 2 ^ 57]), number := 0, nodes := [st], since := [0], cause := 0, credits := [(1, 8, 0, 3)],
    table := [{ len := 8, space := space, pair := false, addr := if space = 1 then 0 else 0x1000 },
      { len := 8, space := space, pair := false, addr := if space = 1 then 8 else 0x1008 }] }
/-- The machine with the graph, the replay under number 0, and this package in group 0. -/
def cascade (op : ChunkOp) (space : Nat) (st : NodeState) : State :=
  { engines id with well := { machine.well with graphs := [(9, graphOf op)], replays := [(0, replayOf space st)], groups := [(0, 1)],
                                                domain := [0, 3] } }
/-- The machine with a job of the cascade, numbered 2. -/
def cascadeJob (m : EngMsg) (graphs : Tbl Graph) : State :=
  { engines id with well := { machine.well with jobs := [(2, jobOf m)], graphs := graphs, groups := [(0, 1)], qps := [(4, { asid := 5, len := 64 })] } }

/-- GLOAD of one node at 0x1000, REPLAY with its table at 0x1000, GFREE and GSTAT of graph 9; RWRITE and RREAD of 8 bytes by queue pair 4. -/
theorem witness_EngineJobs :
    let gload := msgOf .cascade 1 2 [9 * 2 ^ 57 + 0x1000, 1]
    let replay := msgOf .cascade 2 1 [9 * 2 ^ 57 + 0x1000]
    let gfree := msgOf .cascade 3 1 [9 * 2 ^ 57]
    let gstat := msgOf .cascade 4 1 [9 * 2 ^ 57 + 0x1000]
    let rw (opc : Nat) := msgOf .cascade opc 3 [8 * 2 ^ 32 + 4, 0x1000, 0]
    let a := cascadeJob gload []
    let b (m : EngMsg) := cascadeJob m [(9, graphOf .redc)]
    let c (m : EngMsg) : State := { cascadeJob m [] with well := { (cascadeJob m []).well with roce := [(2, jobOf m)] } }
    (gload.opc = 1 ∧ gload.opnd 1 % 2 ^ 12 ≠ 0 ∧ fld (gload.opnd 1) 12 4 = 0 ∧ gload.opnd 1 < 2 ^ 46 ∧ gload.va % 8 = 0 ∧ a.graph gload.gid = none ∧
      a.groupOk (fld (gload.opnd 1) 16 16) = true ∧ wordsDone (a.casWords (jobOf gload) gload.va 2).1 2 = true) ∧
    (replay.opc = 2 ∧ replay.va % 1024 = 0 ∧ replay.second = 0 ∧ ((b replay).jobGraph replay).isSome = true ∧ (b replay).replayAhead 2 replay.gid true = false ∧
      wordsDone ((b replay).casWords (jobOf replay) replay.va 256).1 256 = true) ∧
    (gfree.opc = 3 ∧ gfree.va = 0 ∧ gfree.second = 0 ∧ ((b gfree).jobGraph gfree).isSome = true ∧ (b gfree).replayAhead 2 gfree.gid false = false) ∧
    (gstat.opc = 4 ∧ gstat.va % 64 = 0 ∧ gstat.second = 0 ∧ ((b gstat).jobGraph gstat).isSome = true ∧ gstat.covers gstat.va 64 true = true ∧
      (match ((b gstat).engAt 0 5 gstat.va .write).1 with
        | .at pa w => pa == 0x200000 && !w
        | _ => false) = true ∧ hostBit 0x200000 = false ∧ (b gstat).elsewhere 0x200000 = false) ∧
    (Tbl.find (b (rw 5)).well.roce 2 = none ∧ (b (rw 5)).qpBusy 2 (rw 5).qp = false ∧ (rw 5).opc = 5 ∧ ((b (rw 5)).roceCheck (rw 5) .read).1 = none ∧
      wordsDone (((b (rw 5)).roceCheck (rw 5) .read).2.casWords (jobOf (rw 5)) (rw 5).rva ((rw 5).rlen / 4)).1 2 = true) ∧
    ((rw 6).opc = 6 ∧ ((b (rw 6)).roceCheck (rw 6) .write).1 = none) ∧
    (Tbl.find (c (rw 6)).well.roce 2 = some (jobOf (rw 6)) ∧ (rw 6).opc ≠ 5 ∧ 4 * (jobOf (rw 6)).pos + 8 ≤ (rw 6).rlen ∧
      wordsDone (eachWrite (fun j off v s => s.casWrite j (j.msg.rva + off) v) (wordsOfBytes 2 (List.replicate 8 1)) (4 * (jobOf (rw 6)).pos) (jobOf (rw 6)) (c (rw 6))).1 0 = true) ∧
    Tbl.find (c (rw 5)).well.roce 2 = some (jobOf (rw 5)) := by decide +kernel

theorem witness_ElementNodes :
    (∀ op ∈ [ChunkOp.red 2, .redc, .copy, .signal], ∀ st ∈ [NodeState.running, .sending 1],
      let s := cascade op 1 st
      Tbl.find s.well.replays 0 = some (replayOf 1 st) ∧ s.graph 9 = some (graphOf op) ∧ (graphOf op).nodes[0]?.map (·.op) = some op ∧
        s.nodeOut (replayOf 1 st) 0 = false ∧ (replayOf 1 st).nodes[0]? = some st ∧ (replayOf 1 st).cause = 0 ∧ (replayOf 1 st).job.reply = none) ∧
    (let s := cascade .signal 0 .running
     let x := replayOf 0 .running
     let a := s.engAt 0 5 0x1008 .write
     (x.entry 1).addr = 0x1008 ∧ x.job.msg.covers 0x1008 8 true = true ∧
      (match a.1 with
        | .at pa w => pa == 0x200008 && !w
        | _ => false) = true ∧ hostBit 0x200008 = false ∧ s.elsewhere 0x200008 = false ∧ s.nodeOut x 0 = false ∧ a.2.homePoisoned (0x200008 / 64) = false ∧
      (a.2.syncAct 0 0x1008 0x200008 ((x.entry 0).len / 4) 0 x.job.clk).1 = none) := by decide +kernel

theorem witness_TransferNodes :
    let x := replayOf 1 .running
    let a2a : NodeState := .counting [] false [(0, 0, false)]
    let wrong : Replay := { x with credits := [(1, 12, 0, 3)] }
    (Tbl.find (cascade (.recv 3) 1 .running).well.replays 0 = some x ∧ x.nodes[0]? = some .running ∧ (cascade (.recv 3) 1 .running).nodeOut x 0 = false) ∧
    (x.credits.find? (fun q => q.1 == (1 : Fin 64).val && q.2.2.2 == 3) = some (1, 8, 0, 3) ∧ (x.entry 0).len = 8 ∧
      (wrong.credits.find? (fun q => q.1 == (1 : Fin 64).val && q.2.2.2 == 3)).map (fun q => q.2.1) = some 12) ∧
    ((replayOf 1 (.sending 0)).nodes[0]? = some (.sending 0) ∧
      wordsDone ((cascade (.send 3) 1 (.sending 0)).entryWords (graphOf (.send 3)) (x.entry 0) (x.atNode 0).job 0 2).1 2 = true) ∧
    ((replayOf 1 a2a).nodes[0]? = some a2a ∧ [(0, 0, false)].length = ((cascade .a2a 1 a2a).groupMembers 0).length) ∧
    ((sent (.credit 9 0 1 8 0 3) (cascade (.send 3) 1 .running)).ready 0 = some (.credit 9 0 1 8 0 3) ∧
      (cascade (.send 3) 1 .running).well.replays.find? (fun y => y.2.gid == 9 && y.2.number == 0) = some (0, x)) ∧
    (replayOf 1 .isOver).nodes[0]? = some .isOver ∧
    (0 < x.since.length ∧ NodeState.running.waits = true ∧ ∃ y ∈ x.nodes.zip x.since, y.1.waits = true ∧
      y.2 + 8000000 * 100000 ≤ ({ machine with tide := 800000000000 } : State).tide) := by decide +kernel

/-- A flit that fails, one out of order, one in turn from the domain for this package and one for another, and one in turn from outside it; a time source and another package. -/
theorem witness_ConduitFlits :
    let x := ConduitPort.reset
    let w : Wellhead := { machine.well with domain := [0, 3] }
    let f (src dst seq : Nat) (ok : Bool) : Flit := { cls := 0, src := src, dst := dst, seq := seq, crcOk := ok, body := .ack 0 0 0 }
    (f 3 0 0 false).crcOk = false ∧ (f 3 0 1 true).seq ≠ x.next 3 0 0 ∧
    ((f 3 0 0 true).crcOk = true ∧ (f 3 0 0 true).seq = x.next 3 0 0 ∧ w.domain.contains 3 = true ∧ w.pkg = 0 ∧
      flitClassOk (f 3 0 0 true).cls (f 3 0 0 true).body = true) ∧
    ((f 3 1 0 true).seq = x.next 3 1 0 ∧ (f 3 1 0 true).dst ≠ w.pkg) ∧
    (machine.elsewhere 0x200000 = false ∧ paOk 0x200000 = true ∧ (machine.homeRead 0x200000 8 0).2.2.1 = false) ∧
    (f 4 0 0 true).seq = x.next 4 0 0 ∧ w.domain.contains 4 = false ∧ w.timeSource = true ∧ ({ w with pkg := 3 } : Wellhead).timeSource = false ∧
    (machine.tide < 5 ∧ 4 < ({ machine with tide := 5 } : State).tide ∧ machine.tide = 0) := by decide

/-- An enable with weight 1 and rings of 2^4 and 2^12 records, and each refusal; a disable; doorbells at the ring's size and one above it. -/
theorem witness_QueueRegisters :
    let v (w l : Nat) : BitVec 64 := BitVec.ofNat 64 (2 ^ 31 + w * 2 ^ 20 + l * 2 ^ 16)
    let bad (v : BitVec 64) : Bool := decide (fld v.toNat 20 4 = 0) || decide (fld v.toNat 16 4 < 4) || decide (12 < fld v.toNat 16 4) ||
      decide (v.toNat / 2 ^ 32 ≠ 0) || decide (fld v.toNat 24 5 ≠ 0) || decide (fld v.toNat 1 15 ≠ 0)
    let s := die (fun d => { d with queues := [(31, { Queue.reset with en := true })] }) machine
    (((machine.die 0).queue 31).en = false ∧ bit (v 1 4).toNat 31 = true ∧ bad (v 1 4) = false ∧ bad (v 15 12) = false) ∧
    (bad (v 0 4) = true ∧ bad (v 1 3) = true ∧ bad (v 1 13) = true ∧ bad (v 1 4 + 2) = true ∧ bad (v 1 4 + 0x1000000) = true ∧ bad (v 1 4 + 0x100000000) = true) ∧
    (((s.die 0).queue 31).en = true ∧ bit (0 : BitVec 64).toNat 31 = false ∧ ((s.die 0).queue 31).err = false) ∧
    ((16 : BitVec 32) - ((s.die 0).queue 31).head).toNat ≤ 2 ^ ((s.die 0).queue 31).logsz ∧
    2 ^ ((s.die 0).queue 31).logsz < ((17 : BitVec 32) - ((s.die 0).queue 31).head).toNat := by decide

/-- A record of one placement of the image on domain 0, anywhere. -/
def record : LaunchRec :=
  { tag := 0, args := [], irq := false, vec := 0, group := 0, compl := 0, chunk := 0, iters := 1, asid := 5, ninst := 1, pri := 1, sys := false, link := false,
    dommask := 1, place := 255, reach := 0, shape := 0, widBase := 0, job := 0, image := 1 }
def launch : Launch :=
  { recd := record, src := 0, sender := 0, sasid := 0, arrived := 0, cls := 1, since := some 0, anchored := false, todo := [0], chain := [], gone := [], done := 0,
    faulted := none, link := none, resume := none, isOver := false }
/-- An instance of it that holds region 0. -/
def placed : Instance := { launch := 1, index := 0, places := [0], cursor := 0, retired := [], failed := false, stamp := 0, saved := [] }

theorem witness_LaunchRecords :
    let ring (loc : Bool) := die (fun d => { d with queues := [(31, { Queue.reset with en := true, loc := loc, tail := 1 })] }) machine
    let m := msgOf .sluice 1 1 [0x1000]
    let s := engines fun d => { d with inbox := [m] }
    let t := s.setDie 0 { s.die 0 with inbox := [] }
    let posted := sent (.engine m) (engines id)
    let bad : EngMsg := { m with words := [] }
    let held := engines fun d => { d with holders := [] }
    let reply := sent (.reply 0 0 0 7 9) (waiting .posted)
    (∀ loc, ((((ring loc).die 0).queue 31).en = true ∧ (((ring loc).die 0).queue 31).err = false ∧
      (((ring loc).die 0).queue 31).head ≠ (((ring loc).die 0).queue 31).tail ∧ ((ring loc).die 0).pendRoom = true ∧ (((ring loc).die 0).queue 31).loc = loc)) ∧
    ((s.die 0).inbox.find? (fun y => (s.die 0).holdOf y.hold == .admitted) = some m ∧ (s.die 0).pendRoom = true ∧ m.nop ≠ 2 ∧
      (t.readLaunch 0 m (m.opnd 0) ((s.die 0).jobOf m).clk).1.toOption.isSome = true) ∧
    (posted.ready 0 = some (.engine m) ∧ m.wellFormed = true ∧ ((posted.unpost 0).die m.die).holdOf m.hold ≠ .dropped) ∧
    ((sent (.engine bad) held).ready 0 = some (.engine bad) ∧ bad.wellFormed = false) ∧
    (reply.ready 0 = some (.reply 0 0 0 7 9) ∧ (((reply.unpost 0).region 0).handler 0).wait = .posted) := by decide

/-- A holder with its edges clear, one with an edge that stands, and one that has found no room in the table, each held a picosecond too long. -/
theorem witness_Admission :
    let h (job : Bool) (edges : List Nat) : Holder :=
      { id := 6, asid := 5, foots := [], edges := edges, admitted := false, dropped := false, job := job, since := 0, clk := 3, p := 0 }
    let s (x : Holder) := { die (fun d => { d with holders := [(6, x)], launches := [(1, launch)] }) machine with tide := 8000000 * 10000 + 1 }
    let waits := { die (fun d => { d with arrivals := [h true []] }) machine with tide := 8000000 * 10000 + 1 }
    let t := s (h true [5])
    ((sent (.holder 0 (h false [])) machine).ready 0 = some (.holder 0 (h false []))) ∧
    (∀ job, Tbl.find ((s (h job [])).die 0).holders 6 = some (h job []) ∧ (h job []).admitted = false ∧ (h job []).dropped = false ∧ (h job []).edges = [] ∧
      (h job []).job = job) ∧
    (Tbl.find (t.die 0).holders 6 = some (h true [5]) ∧ (h true [5]).edges ≠ [] ∧ (t.die 0).admwd ≠ 0 ∧
      (h true [5]).since + 8000000 * (t.die 0).admwd.toNat < t.tide) ∧
    (Tbl.find (waits.die 0).holders 6 = none ∧ (waits.die 0).arrivals.find? (·.id == 6) = some (h true []) ∧ (waits.die 0).admwd ≠ 0 ∧
      (h true []).since + 8000000 * (waits.die 0).admwd.toNat < waits.tide) ∧
    (Tbl.find (t.die 0).launches 1 = some launch ∧ launch.pending = true ∧ effectiveClass launch.recd.pri (t.tide - launch.arrived) ≠ launch.cls) ∧
    (launch.since = some 0 ∧ launch.anchored = false ∧ 0 + 8000000 * (t.die 0).stallMax.toNat < t.tide) := by decide

/-- A launch that fits; a claim; an image of the next step that passes its check, that fails it, and that a placed region waits for; an armed tide. -/
theorem witness_Placement :
    let empty : State := { machine with regions := [] }
    let s := die (fun d => { d with launches := [(1, launch)] }) empty
    let claim := sent (.claim 0 0) machine
    let next_ : StepSlot := { slot 2 1 with loaded := false }
    let loading := on fun r => { r with steps := [slot 1 0, next_] }
    let failing : State := { loading with images := [(1, { image with steps := [step_ false 1 0, { step_ true 0 16 with confs := [BitVec.allOnes 256] }] })] }
    let placed := on fun r => { r with mode := .placed, steps := [next_] }
    let armed := on fun r => { r with steps := [{ slot 1 0 with openAt := 1 }] }
    let refused (s : State) : Bool := match s.slotCheck next_ with
      | .error e =>
        let s1 := s.unitFault 0 .config e.unit e.coord 0 0 0 none 0
        (s1.region 0).modeUnder != .placed && decide ((s1.region 0).stepNo < next_.num)
      | .ok _ => false
    ((s.nextPlacement 0 (s.die 0).allowed []).map (fun x => (x.1, x.2.2.2.1, x.2.2.2.2)) = some (1, 0, [0]) ∧ (s.wakeClusters 0 [0]).1 = true ∧ launch.resume = none) ∧
    (claim.ready 0 = some (.claim 0 0) ∧ ((claim.unpost 0).claim 0 false).1 = 0) ∧
    (loading.chainReady 0 = false ∧ (loading.region 0).steps.find? (fun y => !y.loaded) = some next_ ∧ (loading.region 0).moves = true ∧
      (loading.region 0).modeUnder ≠ .placed ∧ (loading.region 0).stepNo < next_.num ∧ (loading.slotCheck next_).toOption = some []) ∧
    (failing.chainReady 0 = false ∧ (failing.region 0).moves = true ∧ refused failing = true) ∧
    (placed.chainReady 0 = false ∧ (placed.region 0).steps.find? (fun y => !y.loaded) = some next_ ∧ (placed.region 0).modeUnder = .placed ∧
      (placed.slotCheck next_).toOption = some []) ∧
    (armed.region 0).steps.any (fun y => decide (y.num ≤ (armed.region 0).stepNo) && y.openAt != 0 && decide (y.openAt ≤ ({ armed with tide := 1 } : State).tide)) = true := by
  decide

/-- A request clock within the lease and one above it, of a line owned by another region, and of one that nobody owns; a line that acts at its home;
a recall of a line that the region owns and of one that it does not. -/
theorem witness_HomeLines :
    let owned (b : Body) : State := sent b { machine with lines := [(0x9000, { wts := 3, rts := 40, owner := some 7 })] }
    let home : State := { sent (.loadReq 0 0x9001 0) machine with homeWords := [0x9001] }
    let z : Vector Byte 64 := Vector.replicate 64 0
    (0x9001 ∈ home.homeWords ∧ home.ready 0 = some (.loadReq 0 0x9001 0)) ∧ 0x9001 ∉ machine.homeWords ∧ 0x9000 ∉ machine.homeWords ∧
    ((sent (.loadReq 0 0x9001 0) machine).ready 0 = some (.loadReq 0 0x9001 0) ∧ (machine.line 0x9001).owner = none ∧ isAway 0 = false ∧
      machine.elsewhere (64 * 0x9001) = false ∧ machine.elsewhere (64 * 0x9000) = false ∧ (abroad machine).elsewhere (64 * 0x9001) = true ∧
      (sent (.loadReq 0 0x9001 0) (abroad machine)).ready 0 = some (.loadReq 0 0x9001 0)) ∧
    ((owned (.loadReq 0 0x9000 40)).ready 0 = some (.loadReq 0 0x9000 40) ∧ ((owned (.loadReq 0 0x9000 40)).line 0x9000).owner = some 7 ∧
      (40 : DWord).toNat ≤ ((owned (.loadReq 0 0x9000 40)).line 0x9000).rts.toNat ∧
      ((owned (.loadReq 0 0x9000 41)).line 0x9000).rts.toNat < (41 : DWord).toNat) ∧
    ((owned (.storeReq 0 0x9000 false)).ready 0 = some (.storeReq 0 0x9000 false) ∧ (sent (.storeReq 0 0x9001 true) machine).ready 0 = some (.storeReq 0 0x9001 true)) ∧
    ((sent (.loadReply 0 0x8001 z 1 2 false) machine).ready 0 = some (.loadReply 0 0x8001 z 1 2 false) ∧
      ((machine.region 0).findLine 0x8001).map (·.owned) = some false ∧ ((machine.region 0).findLine 0x8000).map (·.owned) = some true) ∧
    (sent (.ownReply 0 0x8001 z 1 2 true) machine).ready 0 = some (.ownReply 0 0x8001 z 1 2 true) ∧
    ((sent (.recall 0 0x8000 true) machine).ready 0 = some (.recall 0 0x8000 true) ∧ (owned (.recall 7 0x9000 true)).ready 0 = some (.recall 7 0x9000 true) ∧
      ((owned (.recall 7 0x9000 true)).region 7).findLine 0x9000 = none) ∧
    (owned (.writeBack 7 (stashLine 0x9000 true))).ready 0 = some (.writeBack 7 (stashLine 0x9000 true)) := by decide

theorem witness_HomeActions :
    let who : Asker := .handler 0 0
    let s (b : Body) : State := sent b machine
    let at_ (b : Body) : State := (s b).unpost 0
    let chan := die (fun d => { d with chans := [(9, { owner := some 5, words := List.replicate 31 (0, 0), sub := none, kept := 0 })] }) (s (.chanWord 0 0 0 9 7 8 5))
    (∀ wide, ∀ op ∈ [AtomOp.add, .and, .or, .xor, .min, .max, .minn, .maxn, .swap, .cas 5, .fadd],
      (s (.atomic who op wide 0x200000 1 0)).ready 0 = some (.atomic who op wide 0x200000 1 0) ∧
      ((at_ (.atomic who op wide 0x200000 1 0)).recallNow (0x200000 / 64) true).homePoisoned (0x200000 / 64) = false) ∧
    ((s (.waitv who 0x200000 1 0)).ready 0 = some (.waitv who 0x200000 1 0) ∧
      (((at_ (.waitv who 0x200000 1 0)).markHome (0x200000 / 64)).homeRead 0x200000 8 0).2.2.1 = false) ∧
    (s (.waitvArmed who 0x200000 1 0)).ready 0 = some (.waitvArmed who 0x200000 1 0) ∧
    (s (.await who 0x200000 1 0)).ready 0 = some (.await who 0x200000 1 0) ∧ (s (.arrive who 0x200000 0)).ready 0 = some (.arrive who 0x200000 0) ∧
    (s (.header who 2 0x200000 (.pop 1) 0)).ready 0 = some (.header who 2 0x200000 (.pop 1) 0) ∧
    (machine.elsewhere 0x200000 = false ∧ (abroad machine).elsewhere 0x200000 = true) ∧
    ((s (.atomicReply who 5 9 0 none)).ready 0 = some (.atomicReply who 5 9 0 none) ∧ isAway who.place = false) ∧
    (chan.ready 0 = some (.chanWord 0 0 0 9 7 8 5) ∧ isAway 0 = false ∧ ((chan.die 0).chan 9).owner = some 5 ∧ ((chan.die 0).chan 9).words.length < 32) := by
  decide

/-- Two parties of which one has arrived; a barrier without parties, and a full one. -/
theorem witness_BarrierArrivals :
    let s (n : Nat) : State := { machine with mem := Memory.writeLE [] 0x200000 8 n }
    let took (n : Nat) := ((s n).markHome (0x200000 / 64)).homeTake 0x200000 8 0
    (∀ n ∈ [0x720000 + 0x1, 0, 0x20002], Memory.readLE (took n).2.2.2.mem 0x200000 8 = n ∧ (took n).2.2.1 = false) ∧
    0x720001 % 2 ^ 16 < 0x720001 / 2 ^ 16 % 2 ^ 16 ∧ 0 / 2 ^ 16 % 2 ^ 16 = 0 ∧ 0x20002 / 2 ^ 16 % 2 ^ 16 ≤ 0x20002 % 2 ^ 16 := by decide

def poolKey : PoolKey := { job := 0, asid := 5, pool := 3, scope := 1, pfx := 0, reach := 0, home := 0 }
def poolDecl : PoolDecl := { ty := .f32, op := .fadd, scope := .lvl 0, settle := false, cntv := true, count := 0, init := none }
def basin : HomeBasin := { key := poolKey, decl := poolDecl, arr := 0, clk := 0, flags := 0, hpsn := false, value := 0, gath := none, ending := none,
                           refs := [0], had := [0] }
/-- The machine with the pool declared in region 0 and its home basin in use. -/
def pooled : State :=
  { on (fun r => { r with pools := [{ pool := 3, key := poolKey, decl := poolDecl }], handlers := [(0, { hd .active with wait := .posted })] }) with basins := [basin] }

/-- A declaration at a home of this package and at one of another; a contribution; a gather with a lane to take and one past the last; answers. -/
theorem witness_PoolHome :
    let decl := sent (.poolDecl 0 0 poolKey poolDecl true) pooled
    let far : PoolKey := { poolKey with scope := 3, reach := 4, home := 1024 * 3 }
    let away := sent (.poolDecl 0 0 far poolDecl true) machine
    let con : State := { pooled with net := [{ src := keyPool 0, body := .poolCon poolKey 0 7 8 none false none 0 }] }
    let gather (settle : Bool) := sent (.gather 0 0 poolKey true settle) pooled
    let lane : Lane := { key := poolKey, slot := 9, n := 1, cause := 0, p := false, v := true, value := 7, parked := false }
    let done := sent (.completion 0 0 7 0 8 none true) pooled
    let bad := sent (.completion 0 0 7 0 8 (some (0, 0x0E)) true) pooled
    let g := (gather false).beginGather basin
    (decl.ready 0 = some (.poolDecl 0 0 poolKey poolDecl true) ∧ (decl.unpost 0).homeHere poolKey = true) ∧
    (away.ready 0 = some (.poolDecl 0 0 far poolDecl true) ∧ (away.unpost 0).homeHere far = false ∧ ((away.unpost 0).region 0).pool far.pool = none) ∧
    (con.net[0]? = some { src := keyPool 0, body := .poolCon poolKey 0 7 8 none false none 0 } ∧ 8 * 0 + 2 < 2 ^ 20 ∧
      con.ready 0 = some (.poolCon poolKey 0 7 8 none false none 0)) ∧
    (∀ settle, (gather settle).ready 0 = some (.gather 0 0 poolKey true settle) ∧ (gather settle).homeHere poolKey = true ∧
      (gather settle).basin poolKey = some basin ∧ (gather settle).gatherAhead 0 poolKey = false ∧ basin.gath = none ∧ basin.decl.count ≤ basin.arr) ∧
    (nextLane poolKey g.pos [lane] = some lane.order ∧ nextLane poolKey g.pos (gather false).lanes = none ∧ g.asked = none ∧ g.pkgs = []) ∧
    (done.ready 0 = some (.completion 0 0 7 0 8 none true) ∧ (((done.unpost 0).region 0).handler 0).wait = .posted) ∧
    bad.ready 0 = some (.completion 0 0 7 0 8 (some (0, 0x0E)) true) := by decide

/-- An empty lane, one that holds a value, and one that is poisoned; an instance whose home another package holds. -/
theorem witness_PoolFolds :
    let l (p v : Bool) : Lane := { key := poolKey, slot := 0, n := 2 ^ 32 - 1, cause := 0, p := p, v := v, value := 0, parked := false }
    let far : PoolKey := { poolKey with scope := 3, reach := 4, home := 1024 * 3 }
    (pooled.attach = [] ∧ pooled.basin poolKey = some basin ∧ pooled.homeHere poolKey = true) ∧
    (let s : State := { pooled with basins := [{ basin with key := far }] }; s.basin far = some { basin with key := far } ∧ s.homeHere far = false) ∧
    ((pooled.lane poolKey 0).p = false ∧ (pooled.lane poolKey 0).v = false) ∧
    (({ pooled with lanes := [l false true] } : State).lane poolKey 0).v = true ∧ (({ pooled with lanes := [l true true] } : State).lane poolKey 0).p = true := by decide

/-- A cell word of an operation that reads inputs a, b and c from the west, north and east links. -/
def wordOf (op : CellOp) : CellWord :=
  { op := op, width := .w32, fmt := .i32, sub := 0, rnd := .rne, sat := .ieee, comm := false, ina := .link .w, inb := .const, inc := .const, pred := .none,
    bfp := false, bw := 0, bl := 0, index := 0x0C00, const := 0, count := 0 }
/-- A cell with that word, changed, and the token given on its west link. -/
def cellOf (w : CellWord) (t : Token) : Cell := { Cell.free with step := 1, word := some w, linkW := Latch.put t }
/-- The machine with a cell at 0.5. -/
def celled (x : Cell) : State := { pooled with regions := [(0, { (pooled.region 0) with cells := [(5, x)] })] }
/-- Whether the cell at 0.5 may fire, as a test. -/
def fires (x : Cell) (w : CellWord) : Bool :=
  let s := celled x
  let side : Bool := match x.at_ w 3 with
    | some t => !w.op.hasSide || (sideFault t).isNone
    | none => true
  let input (i : Nat) : Bool := match x.at_ w i with
    | some t => (inputFault w i t).isNone && t.kind != kEos && t.kind != kMarker
    | none => false
  decide ((s.region 0).cell 5 = x) && decide (x.word = some w) && s.mine.moves && !x.stopped && !x.ended && !s.cutHolds 0 x && !s.mine.awaitsStart x &&
    x.mem.queue.isEmpty && (decide (w.op = .xfn) || x.canEmit) && s.mine.comps.isEmpty &&
    (!(countedInputs w).isEmpty || decide (w.op = .cnt) || !s.mine.quiet x.step) && side && (s.firingInputs 0 5 w).all input
theorem mayFire_of_fires (x : Cell) (w : CellWord) (h : fires x w = true) : (celled x).mayFire 0 5 w := by
  simp only [fires, Bool.and_eq_true, decide_eq_true_eq, Bool.not_eq_true', Bool.or_eq_true, List.isEmpty_iff, List.all_eq_true] at h
  obtain ⟨⟨⟨⟨⟨⟨⟨⟨⟨⟨⟨⟨hc, hw⟩, hm⟩, hs⟩, he⟩, hk⟩, ha⟩, hq⟩, hr⟩, hb⟩, hn⟩, hp⟩, hi⟩ := h
  simp only [State.mayFire, hc]
  refine ⟨hw, hm, hs, he, hk, ha, hq, hr, hb, ?_, ?_, ?_⟩
  · rcases hn with (h | h) | h
    · exact .inl (by simpa [List.isEmpty_iff] using h)
    · exact .inr (.inl h)
    · exact .inr (.inr h)
  · intro h t ht
    simpa [ht, h] using hp
  · intro i h
    have := hi i h
    split at this
    · rename_i t ht
      simp only [Bool.and_eq_true, bne_iff_ne, Option.isNone_iff_eq_none] at this
      exact ⟨t, ht, this.1.1, this.1.2, this.2⟩
    · simp at this
def tokensOf (x : Cell) (w : CellWord) : List Token := (celled x).firingTokens 0 5 w

theorem witness_CellReadiness :
    let w := wordOf .add
    let x := cellOf w (mkToken kData 7)
    fires x w = true ∧ w.op ≠ .join ∧ x.word = some w ∧ 0 ∈ (celled x).firingInputs 0 5 w ∧
    ({ x with stopped := true } : Cell).stopped = true ∧ ({ x with linkW := Latch.empty } : Cell).at_ w 0 = none := by decide

theorem witness_LaneCells :
    (∀ op ∈ [CellOp.add, .sub, .mul, .fma, .min, .max, .abs, .neg, .and, .or, .xor, .shl, .shr, .sra, .cmp, .scale, .popc, .clz, .mov, .sel, .rcpe],
      fires (cellOf (wordOf op) (mkToken kData 7)) (wordOf op) = true ∧ (wordOf op).fmt ≠ .bfp) ∧
    (let w : CellWord := { wordOf .mov with fmt := .bfp, bfp := true, bl := 1 }
     let t := mkToken kHeader (headerOf (4 * 2 ^ w.bl.val) (w.bw.val + 2) 127)
     fires (cellOf w t) w = true ∧ (tokensOf (cellOf w t) w)[0]? = some t ∧ (bfpBlock w none t).isSome = true) ∧
    (let w : CellWord := { wordOf .sel with fmt := .bfp, bfp := true, bl := 1, inb := .link .n }
     let t := mkToken kHeader (headerOf (4 * 2 ^ w.bl.val) (w.bw.val + 2) 127)
     let x : Cell := { cellOf w t with linkN := Latch.put t }
     fires x w = true ∧ (tokensOf x w)[0]? = some t ∧ (tokensOf x w)[1]? = some t ∧ (bfpBlock w none t).isSome = true) := by decide

/-- Each operation with a data token; runacc with the key of its run and another; dqn within a block; poolc with a true and a false predicate. -/
theorem witness_KeepingCells :
    let t := mkToken kData 7
    let cell (op : CellOp) := cellOf (wordOf op) t
    let mid (x : Cell) : Cell := { x with mem := { x.mem with boundary := false, elems := [1], run := some (7, 1), block := some 2 } }
    let f32 (op : CellOp) : CellWord := { wordOf op with fmt := .f32 }
    let run : CellWord := { f32 .runacc with inb := .link .n }
    let runacc : Cell := { mid (cellOf run t) with linkN := Latch.put t }
    let cnt : CellWord := { wordOf .cnt with ina := .none, const := 4 }
    let no : CellWord := { f32 .poolc with pred := .link .n }
    let poolc := cellOf (f32 .poolc) t
    let skips : Cell := { cellOf no t with linkN := Latch.put (mkToken kData 0) }
    (fires (mid (cell .cvt)) (wordOf .cvt) = true ∧ (mid (cell .cvt)).mem.boundary = false) ∧
    (fires (mid (cellOf (f32 .qnt) t)) (f32 .qnt) = true ∧ (mid (cell .qnt)).mem.elems ≠ [] ∧ (f32 .qnt).sub.val ≠ 1) ∧
    (fires (mid (cellOf (f32 .dqn) t)) (f32 .dqn) = true ∧ kindAt (tokensOf (mid (cellOf (f32 .dqn) t)) (f32 .dqn)) 0 ≠ kHeader ∧
      (tokensOf (mid (cellOf (f32 .dqn) t)) (f32 .dqn))[0]? = some t ∧ (bfpBlock (f32 .dqn) (some 2) t).isSome = true) ∧
    fires (cell .acc) (wordOf .acc) = true ∧
    (fires runacc run = true ∧ runacc.mem.run = some (7, 1) ∧ BitVec.ofNat 32 (payloadAt (tokensOf runacc run) 1) = 7 ∧
      fires { runacc with linkN := Latch.put (mkToken kData 8) } run = true ∧
      BitVec.ofNat 32 (payloadAt (tokensOf { runacc with linkN := Latch.put (mkToken kData 8) } run) 1) = 8) ∧
    (fires { (cellOf cnt t) with linkW := Latch.empty } cnt = true ∧ cnt.ina = .none ∧ (cellOf cnt t).mem.emitted < cntTotal cnt) ∧
    (fires (cell .cnt) (wordOf .cnt) = true ∧ (wordOf .cnt).ina ≠ .none ∧ countedInputs (wordOf .cnt) ≠ []) ∧
    fires (cellOf (f32 .nfin) t) (f32 .nfin) = true ∧
    (fires (cellOf (f32 .stat) t) (f32 .stat) = true ∧ (celled (cellOf (f32 .stat) t)).trainRoom 0 21 = true) ∧
    (fires poolc (f32 .poolc) = true ∧ (tokensOf poolc (f32 .poolc))[0]? = some t ∧ t.kind ≠ kPoison ∧ kindAt (tokensOf poolc (f32 .poolc)) 3 ≠ kPoison ∧
      wholeTrue (f32 .poolc) (tokensOf poolc (f32 .poolc)) = true ∧ ((celled poolc).mine.pool ((f32 .poolc).index.toNat / 2 ^ 10)).isSome = true ∧
      (celled poolc).laneHeld 0 poolc.step ((f32 .poolc).index.toNat / 2 ^ 10) ((f32 .poolc).index.toNat / 2 ^ 6 % 16) = false) ∧
    (fires skips no = true ∧ wholeTrue no (tokensOf skips no) = false) := by decide

def gotOk {α : Type} : Got α → Bool
  | .ok _ => true
  | .wait => false
  | .bad _ _ _ => false
/-- A router output of an operator, from the west link; its control and second sources are the north link. -/
def output (op : ROp) : RouterOut := { src := .link .w, op := op, hop := 0, sense := true }
/-- A router-only cell with that output to the east, and the tokens given on its west and north links. -/
def routing (op : ROp) (w n : Option Token) : Cell :=
  { Cell.free with step := 1, router := { routerOff with outE := some (output op) }, linkW := { tok := w, taken := [] }, linkN := { tok := n, taken := [] } }

theorem witness_ColumnsJoinsEndsAndRouters :
    let t := mkToken kData 7
    let xfn := wordOf .xfn
    let x := cellOf xfn t
    let due : Cell := { x with mem := { x.mem with flight := [{ due := 0, value := 7 }] } }
    let join := { wordOf .join with inb := .link .n }
    let j : Cell := { cellOf join t with linkN := Latch.put (mkToken kData 9) }
    let nfin := wordOf .nfin
    let ctx (op : ROp) (w n : Option Token) : OutCtx := { x := routing op w n, rd := 4 + dirNo .e, o := output op, st := (routing op w n).out .e }
    let n : RSrc := .link .n
    let m := mkToken kMarker 0
    let st := (routing .pass (some t) none).out .e
    (rowsAfter (Tbl.look (celled x).mine.columns 5 Column.init).last = [] ++ 0 :: (List.range 15).map (· + 1) ∧ fires x xfn = true ∧
      x.mem.replies.length + x.mem.flight.length < 12) ∧
    (due.word = some xfn ∧ (celled due).mine.mode ≠ .frozen ∧ due.mem.flight.map (·.due) = [0] ∧ 0 ≤ (celled due).tide) ∧
    (j.word = some join ∧ (celled j).mine.moves = true ∧ j.stopped = false ∧ j.ended = false ∧ (celled j).cutHolds 0 j = false ∧ j.mem.queue = [] ∧
      j.canEmit = true ∧ opensValue join = false ∧ (celled j).mine.comps = [] ∧ countedInputs join ≠ [] ∧ joinHead (celled j) j join 0 = some t ∧
      joinHead (celled j) j join 1 = some (mkToken kData 9) ∧ (∀ i ∈ [0, 1], (j.at_ join i).map isDataToken = some true)) ∧
    ((celled (cellOf nfin eosToken)).quietCell 0 5 (cellOf nfin eosToken) nfin = true ∧ countedInputs nfin = [0] ∧ nfin.op.hasSide = false ∧
      ((cellOf nfin eosToken).at_ nfin 0).map (·.kind) = some kEos) ∧
    ((celled (cellOf nfin m)).quietCell 0 5 (cellOf nfin m) nfin = true ∧ (cellOf nfin m).marked = false ∧ reportsTile nfin = false ∧
      ((cellOf nfin m).at_ nfin 0).map (·.kind) = some kMarker) ∧
    ((celled (routing .pass (some t) none)).mine.moves = true ∧ (routing .pass (some t) none).router.out .e = some (output .pass) ∧ st.latch = none ∧
      st.stopped = false ∧ st.eosSent = false) ∧
    ((ctx .pass (some t) none).head (.link .w) = some t ∧ (ctx (.steer n) (some t) (some t)).head n = some t ∧ isDataToken t = true) ∧
    ((ctx (.carry n n) none (some t)).head n = some t ∧ (ctx (.carry n n) none (some t)).head (.link .w) = none ∧ st.loop = false) ∧
    ((ctx (.repeat n) (some t) none).head n = none ∧ st.held = none ∧ st.drop = .start) ∧
    (({ routing (.merge n n) (some t) none with outE := { st with ctlTaken := some t } } : Cell).out .e).ctlTaken = some t := by decide

/-- A port cell of an operation. -/
def portOf (op : CellOp) : Port := { Port.empty with step := 1, ended := false, word := { Port.empty.word with op := op, ina := .link .e } }
def ported (x : Port) (y : PortSide) : State := on fun r => { r with ports := [(3, x)], sides := [(3, y)] }
/-- A binding of one element at 0x1000, whose element has been moved. -/
def runningOf (kind : BindKind) (gate : Gate) : Running :=
  { b := { kind := kind, h := 2, slots := 1, foot := none, gate := gate, ends := true, base := 0x1000, pat := { counts := [1], strides := [4], xbase := 0 },
           tmpl := 0, step := 1, seq := 1, hold := none, lclk := 0, ackWord := none },
    group := 0, n := 1, idx := some 0, elem := none, pair := [], blocks := 0, left := 0, ctx := none, lines := [], outstanding := 0, fill := [], faulted := false }

/-- A read port with a marker at its link. -/
theorem witness_PortEvents_marker :
    let s := (ported { portOf .mld with link := Latch.put markerToken } PortSide.init).portOut 0 3
    s.mine.moves = true ∧ portReads (s.port 0 3).word = true ∧ (s.port 0 3).run = none ∧ (s.port 0 3).fed = true ∧
      (s.portHead 0 3).map (·.kind) = some kMarker := by decide

/-- A binding of each gate whose element has been moved, with its lines home, and with a dirty line. -/
theorem witness_PortEvents_complete :
    let ring : Handle := { decl := true, loc := false, lsz := 6, slots := 4, base := 0x1000, p := 1, c := 0, f := 1 }
    let gated (g : Gate) : State := on fun r => { r with handles := [(2, ring)], ports := [(3, { portOf .mld with run := some (runningOf .read g) })], sides := [(3, PortSide.init)] }
    (∀ g ∈ [Gate.none, .hold, .whole, .slot],
      let b := runningOf .read g
      let s := gated g
      (s.port 0 3).run = some b ∧ b.faulted = false ∧ (s.port 0 3).stopped = false ∧ b.idx = some 0 ∧ b.b.pat.count ≤ b.n ∧ b.b.groups ≤ b.group + 1 ∧ b.pair = [] ∧
      s.portQuiet 0 3 b = true ∧ s.portClear 0 3 = true ∧ s.linesHome 0 b.lines = true ∧ s.linesHome 0 [0x8000] = true ∧
      (s.setRegion 0 { s.mine with stash := [{ stashLine 0x8000 true with dirty := true }] }).linesHome 0 [0x8000] = false ∧ (s.portAdvance 0 3 b 1).1 = true) := by decide

theorem witness_PortEvents :
    let idle (op : CellOp) : State := ported (portOf op) PortSide.init
    let runs (op : CellOp) (k : BindKind) : State := ported { portOf op with run := some (runningOf k .none) } PortSide.init
    let xlat (held : List Token) : State := ported { portOf .xlat with link := Latch.put (mkToken kData 7), held := held } PortSide.init
    let msg : Port := { portOf .msgout with held := List.replicate 5 (mkToken kData 0) ++ [mkToken kLast 0] }
    let e : Spilled := { va := 0x1000, payload := 7, n := 0, ack := none }
    let spilled : State := { ported { portOf .mst with run := some { runningOf .write .none with outstanding := 0 } }
      { PortSide.init with spill := { Spillway.empty with queue := [e], retryAt := 1 } } with tide := 1 }
    let stalled (va : Nat) : State := ported { portOf .mst with run := some (runningOf .write .none) } { PortSide.init with stallVa := some va }
    let relatch : State := die (fun d => { d with relatch := some { asid := 5, base := 0x1000, log := 0, left := [3], p := 0, ch := none } })
      (ported (portOf .mld) { PortSide.init with relatch := true })
    machine.mine.moves = true ∧
    (portReads ((idle .mld).port 0 3).word = true ∧ portReads (((idle .mld).portOut 0 3).port 0 3).word = true ∧ (((idle .mld).portOut 0 3).port 0 3).run = none ∧
      ((idle .mld).portOut 0 3).portHead 0 3 = none) ∧
    ((((runs .mld .read).portOut 0 3).port 0 3).run = some (runningOf .read .none) ∧
      ((runs .mld .read).portOut 0 3).mayRun 0 3 (runningOf .read .none) = true) ∧
    (∀ op ∈ [CellOp.mst, .mamo], (((idle op).portOut 0 3).port 0 3).word.op = op ∧ (((idle op).portOut 0 3).port 0 3).queue = [] ∧
      (((runs op .write).portOut 0 3).port 0 3).queue = [] ∧ (((idle op).portOut 0 3).port 0 3).run = none ∧
      (((runs op .write).portOut 0 3).port 0 3).run = some (runningOf .write .none) ∧
      ((runs op .write).portOut 0 3).mayRun 0 3 (runningOf .write .none) = true) ∧
    (let s1 := (xlat []).portOut 0 3
     let y := s1.port 0 3
     y.word.op = .xlat ∧ y.stopped = false ∧ y.closing = false ∧ y.queue = [] ∧ (s1.side 0 3).relatch = false ∧ s1.portHead 0 3 = some (mkToken kData 7) ∧ y.held = [] ∧
      s1.portConst 0 3 = none ∧ isDataToken (mkToken kData 7) = true) ∧
    (((xlat [mkToken kData 1]).portOut 0 3).port 0 3).held = [mkToken kData 1] ∧
    (msg.word.op = .msgout ∧ msg.stopped = false ∧ msg.ended = false ∧ msg.held.getLast?.map (·.kind) = some kLast ∧ msg.held.length = 6 ∧
      (ported msg { PortSide.init with cls := some .copy }).inboxRoom 0 .copy = true) ∧
    (let b := { runningOf .write .none with outstanding := 0 }
     let a := spilled.portTranslate 0 3 e.va .write
     (spilled.port 0 3).run = some b ∧ (spilled.port 0 3).posted = false ∧ (spilled.side 0 3).relatch = false ∧ (spilled.region 0).dropsSpills 3 = false ∧ (spilled.side 0 3).spill.count = 0 ∧ (spilled.side 0 3).spill.queue = [e] ∧ (spilled.side 0 3).spill.retryAt ≠ 0 ∧
      (spilled.side 0 3).spill.retryAt ≤ spilled.tide ∧
      (match a.1 with
        | .ok pa w => pa == 0x200000 && !w
        | _ => false) = true ∧ gotOk (a.2.replayAt 0 3 0x200000 false b e).1 = true) ∧
    (((stalled 0x9000).side 0 3).stallVa = some 0x9000 ∧ ((stalled 0x9000).side 0 3).relatch = false ∧ ((stalled 0x9000).side 0 3).stallAt ≤ (stalled 0x9000).tide ∧
      (match ((stalled 0x9000).portTranslate 0 3 0x9000 .write).1 with
        | .fault _ => true
        | _ => false) = true ∧
      (match ((stalled 0x1000).portTranslate 0 3 0x1000 .write).1 with
        | .ok pa w => pa == 0x200000 && !w
        | _ => false) = true) ∧
    ((relatch.die 0).relatch.isSome = true ∧ (relatch.side 0 3).relatch = true ∧ (relatch.port 0 3).posted = false ∧ (relatch.port 0 3).run = none ∧
      (relatch.side 0 3).pairs = []) := by decide

/-- An operation over h2, an 8 by 8 tile, and a load of one from h3. -/
def matrixMachine (cmds : List MatCmd) (started : Bool) : State :=
  let ring : Handle := { decl := true, loc := false, lsz := 8, slots := 2, base := 0x1000, p := 1, c := 0, f := 1 }
  let bank : Bank := { Bank.reset with tr := 8, tc := 8, wb := 4 }
  on fun r => { r with handles := [(2, ring), (3, ring)], stash := (List.range 4).map fun i => stashLine (0x8000 + i) true,
                       matrix := { r.matrix with step := 1, banks := (bank, bank),
                                                 channel := cmds.map fun c => { cmd := c, step := 1, tmpl := 0, started := started, done := false, orgY := 0, orgX := 0 } } }

theorem witness_MatrixEvents :
    let a : MatArgs := { matrixOp with h := 2, zero := true, waw := 2 }
    let op := matrixMachine [.op false a] true
    let s1 := ((op.matrixSettle 0).beginHead 0).maPorts 0
    let m1 := (s1.region 0).matrix
    let load := matrixMachine [.load 3 1 false false 4 8 8] true
    let s0 := load.matrixSettle 0
    let h0 := s0.handleNow 0 3 (.waitFilled 1)
    let hd3 : Handle := { decl := true, loc := false, lsz := 8, slots := 2, base := 0x1000, p := 1, c := 0, f := 1 }
    let tile := State.readTile 0 hd3 (tileSlots hd3.lsz (tileBytes 8 8 4 false)) [] h0.2
    let v : VecInFlight := { planes := 0, due := 0, advanced := true, row := 0, vals := [7], flags := 1, op := a, last := true, mask := none, tmpl := 0 }
    let held := on fun r => { r with mode := .held, matrix := { r.matrix with flight := [v] } }
    let ends (steps : List StepSlot) := on fun r => { r with stepNo := 2, steps := steps, matrix := { r.matrix with step := 1 } }
    let fab : MatArgs := { a with dr := .stash }
    let cut : State := { (matrixMachine [.op false fab] true) with
      regions := [(0, { (matrixMachine [.op false fab] true).mine with sif := { StreamIf.init with snap := some { va := 0, ch := none, since := 0, tmpl := 0, frozen := false } } })] }
    (op.matrixHeld 0 = false ∧ m1.current = some (false, a) ∧ m1.faulted = false ∧ opBlocked m1.channel = false ∧ m1.freeAt ≤ s1.tide ∧
      s1.cutReady 0 = false ∧ m1.channel.any (fun e => e.step == m1.step && e.cmd.isOp && e.started) = true ∧
      m1.rowBusy ((a.zbase.toNat + m1.vec * ceilDiv (m1.active.outLen false) 512) % 256) (m1.active.outLen false) = false ∧
      gotOk (s1.takeVector 0 a (m1.active.epp false)).1 = true) ∧
    (let u := matrixMachine [.op false a] false
     let m := u.mine.matrix
     (u.matrixSettle 0).region 0 = u.mine ∧ m.current = some (false, a) ∧ m.faulted = false ∧ opBlocked m.channel = false ∧
      m.channel.any (fun e => e.step == m.step && e.cmd.isOp && e.started) = false) ∧
    (held.mine.mode = .held ∧ held.mine.matrix.flight = [v] ∧ v.advanced = true ∧ v.due ≤ held.tide) ∧
    (load.matrixHeld 0 = false ∧ (s0.region 0).matrix.channel.findIdx? (fun e => e.step == (s0.region 0).matrix.step && e.started && (match e.cmd with
        | .load _ _ _ _ _ _ _ => true
        | _ => false)) = some 0 ∧ (s0.region 0).matrix.channel[0]?.map (·.cmd) = some (.load 3 1 false false 4 8 8) ∧ (s0.region 0).matrix.faulted = false ∧
      (s0.region 0).matrix.holds 3 = false ∧ gotOk h0.1 = true ∧ gotOk tile.1 = true ∧ gotOk (tile.2.handleNow 0 3 (.pop 1)).1 = true) ∧
    ((ends []).mine.moves = true ∧ (ends []).mine.matrixMayPass = true ∧ (ends []).mine.matrixIdle = true ∧
      (ends []).mine.steps.find? (fun z => z.num == (ends []).mine.matrix.step) = none ∧
      (ends [slot 1 0, slot 2 1]).mine.matrixIdle = true ∧ (ends [slot 1 0, slot 2 1]).mine.steps.find? (fun z => z.num == 1) = some (slot 1 0)) ∧
    machine.mine.matrix.current = none ∧
    (cut.mine.moves = true ∧ cut.mine.matrix.current = some (false, fab) ∧ fab.asrc = false ∧ fab.dr ≠ .fabric ∧ cut.cutReady 0 = true ∧ cut.mine.matrix.marked = false ∧
      cut.mine.matrix.flight = [] ∧ cut.mine.matrix.drains = [] ∧ cut.mine.matrix.ma = []) := by decide

theorem witness_WeirElements :
    let e (rd : Bool) : Body := .weirElem 0 3 0 0 0x400000 0x3000 0 [7] (some (0x1000, 0x200000)) 0 rd false
    let s (b : Body) : State := sent b machine
    let u (op : CellOp) : Body := .rmw op 0 3 0 0x3000 0x400000 7 none 0 false
    let a : Body := .ack 0 0x1000 0x200000 4 0
    (∀ rd, (s (e rd)).ready 0 = some (e rd) ∧ (s (e rd)).updatePending 0x400000 = false ∧ (s (e rd)).weirCtx 0 0 = none ∧
      (s (e rd)).homePoisoned (lineOf 0x400000) = false) ∧
    (∀ op ∈ [CellOp.rmwFadd, .rmwIadd, .rmwFmax], (s (u op)).ready 0 = some (u op) ∧ (s (u op)).homePoisoned (lineOf 0x400000) = false ∧ (s (u op)).attach = []) ∧
    (let g := (((s a).unpost 0).markHome (lineOf 0x200000)).homeTake 0x200000 8 0
     isAway 0 = false ∧ (s a).ready 0 = some a ∧ (s a).elsewhere 0x200000 = false ∧ (s a).attach = [] ∧ g.2.2.1 = false ∧ syncCnt g.1 + 4 / 4 < 2 ^ 24 ∧ syncTgt g.1 < 2 ^ 24) := by decide


theorem witness_GaugeEvents :
    let ws : List Nat := List.replicate 40 1
    let ready (b : Body) := sent b { machine with images := [(1, { image with gauges := [2] })] }
    let rec_ (th : Word) : GaugeRec := { GaugeRec.blank with alloc := true, asid := 5, image := 1, satth := th, gen := 0x103, live := List.replicate 40 0, sealed := List.replicate 40 0 }
    let nd (t : Option (Nat × List Nat)) : RillNode := { grec := { node := 0, decl := 0, wait := 16 }, step := 1, train := t, expiry := 0 }
    let node (t : Option (Nat × List Nat)) (b : Body) : State := { ready b with
      regions := [(0, { region with rill := [(8, nd t)] })], records := [(2, rec_ 0)] }
    let tr : Body := .train (some (0, 8)) 3 2 3 ws
    let root := die (fun d => { d with rillRoot := [{ id := 2, gen8 := 3, words := ws, expiry := 0 }] }) machine
    let apply (g : Nat) : State := { ready (.train none 3 2 g ws) with records := [(2, rec_ 0)] }
    let cross : State := { ready (.train none 3 2 3 ws) with records := [(2, rec_ 1)] }
    let op : SealOp := { id := 2, p := 0, asid := 5, tmpl := 0, marks := [1024], ch := none, gen := 0, gens := [] }
    let mark : State := { ready (.sealMark none (2 ^ 40 + 1024)) with records := [(2, rec_ 0)], seals := [(1, op)] }
    let word : State := { ready (.genWord 0 2 5 100 none) with regions := [(0, { region with gens := [(2, { gen := 4, scale := 127 })] })] }
    (∀ t ∈ [none, some (3, ws), some (4, ws)], (node t tr).ready 0 = some tr ∧ Tbl.find ((node t tr).region 0).rill 8 = some (nd t)) ∧
    ((nd (some (3, ws))).expiry ≤ machine.tide ∧ (node (some (3, ws)) tr).recordOf 0 0 = some 2) ∧
    ((root.die 0).rillRoot[0]?.map (·.expiry) = some 0) ∧
    ((apply 3).ready 0 = some (.train none 3 2 3 ws) ∧ ((apply 3).record 2).psn = false ∧ ((apply 3).record 2).alloc = true ∧
      ((apply 3).record 2).gen.toNat % 256 = 3 ∧ ((apply 4).record 2).gen.toNat % 256 ≠ 4 ∧ ((apply 3).record 2).satth = 0) ∧
    ((cross.record 2).autoSeal = false ∧ (cross.record 2).satth ≠ 0 ∧ (halfWords (cross.record 2).live).getD 38 0 < (cross.record 2).satth.toNat ∧
      (cross.record 2).satth.toNat ≤ satAdd32 ((halfWords (cross.record 2).live).getD 38 0) (ws.getD 34 0) ∧ 0 ∈ cross.copyHolders (cross.record 2).image) ∧
    (mark.ready 0 = some (.sealMark none (2 ^ 40 + 1024)) ∧ Tbl.find mark.seals ((2 ^ 40 + 1024) / 2 ^ 40) = some op ∧ op.marks.filter (· != (2 ^ 40 + 1024) % 2 ^ 40) = [] ∧ (mark.record op.id).psn = false) ∧
    (word.ready 0 = some (.genWord 0 2 5 100 none) ∧ Tbl.find (word.region 0).gens 2 = some { gen := 4, scale := 127 } ∧
      ((5 : Word) - 4).toNat < 2 ^ 31 ∧ 2 ^ 31 ≤ ((3 : Word) - 4).toNat) := by decide

/-- A timer of 1 ns at 1 ns; handler 0 at `waitt g0`; a rescale event; a region that drains, one that has cleared, one at RETTO; the
last region of an index whose successor splices in. -/
theorem witness_SequencerAndRetiring :
    let timed : State := { on (fun r => { r with timer := 1 }) with tide := 8000 }
    let waits := { machine with images := [(1, { image with code := [0x1C000006, 0, 0, 0] })] }
    let none2 : State := { sent (.rescale 0 7) machine with regions := [(0, { region with handlers := [(0, hd .active)] })] }
    let draining (stage : Nat) : State := { on (fun r => { r with mode := .draining, stage := stage, steps := [], stepNo := 0, stash := [] }) with tide := 8000000 }
    let forced := die (fun d => { d with retTo := 1 }) (draining 2)
    let i : Instance := { placed with retired := [0] }
    let chained := die (fun d => { d with insts := [(1, i)], launches := [(1, { launch with todo := [], chain := [0] })] }) (on fun r => { r with mode := .retired })
    (timed.mine.timer ≠ 0 ∧ timed.mine.timer.toNat ≤ timed.tide / 8000 % 2 ^ 64 ∧ timed.mine.modeUnder.live = true) ∧
    ((waits.mine.handler 0).st = .active ∧ waits.fetch 0 0 0 = some 0x1C000006 ∧ (decodeConduct 0x1C000006).toOption = some (.waitt 0) ∧
      (waits.mine.get 0).toNat ≤ waits.tide / 8000 % 2 ^ 64) ∧
    ((sent (.rescale 0 7) machine).ready 0 = some (.rescale 0 7) ∧ (machine.mine.handler 2).decl = true ∧ none2.ready 0 = some (.rescale 0 7) ∧
      (none2.mine.handler 2).decl = false ∧ machine.mine.mode ≠ .free ∧ none2.mine.mode ≠ .free) ∧
    ((draining 2).mine.mode = .draining ∧ (draining 2).mine.stage = 2 ∧ (draining 2).drained 0 = true) ∧
    ((draining 5).mine.stage ≠ 2 ∧ (draining 5).mine.wbOut = 0 ∧ (draining 5).inFlight 0 = false ∧ (draining 5).trainsHeld 0 = false) ∧
    ((forced.die 0).retTo ≠ 0 ∧ forced.mine.doneAt + 8000000 * (forced.die 0).retTo.toNat ≤ forced.tide) ∧
    (chained.mine.mode = .retired ∧ Tbl.find (chained.die 0).insts chained.mine.inst = some i ∧ i.places.length ≤ i.retired.length ∧ (chained.die 0).preempt = none ∧
      (Tbl.find (chained.die 0).launches i.launch).map (fun l => (l.isOver, l.chain.contains i.index)) = some (false, true) ∧
      (i.places.any fun q => chained.inheritWaits q) = false) := by decide

theorem witness_PreemptionEvents :
    let named (x : Die) (v : Nat) (e : Nat × Instance) : Bool := e.2.placed && e.2.index == fld v 48 12 && (match x.launchRecOf e.2 with
      | some l => l.recd.job == fld v 0 32 && l.recd.asid.toNat == fld v 32 16 && !l.recd.sys
      | none => false)
    let held := die (fun d => { d with insts := [(1, placed)], launches := [(1, launch)] }) machine
    let big : Launch := { launch with anchored := true, cls := 3, recd := { record with pri := 3 } }
    let auto := die (fun d => { d with autop := true, insts := [(1, placed)], launches := [(1, { launch with todo := [] }), (2, big)] }) machine
    let w : Preempt := { inst := 1, start := 0, splTo := 0, snapTo := 0, marked := [] }
    let op : SnapOp := { va := 0x1000, ch := none, since := 0, tmpl := 0, frozen := false }
    let during (w : Preempt) (f : Region → Region) := die (fun d => { d with preempt := some w, insts := [(1, placed)], launches := [(1, launch)] }) (on f)
    let splice := during w fun r => { r with stepNo := 2, steps := [slot 1 0], matrix := { r.matrix with step := 2 } }
    let cut := during { w with marked := [0] } fun r => { r with matrix := { r.matrix with step := 1 } }
    let snap : State := { on (fun r => { r with matrix := { r.matrix with step := 1 }, sif := { r.sif with snap := some op } }) with tide := 10 ^ 15 }
    let back := die (fun d => { d with insts := [(1, { placed with places := [300] })],
                                       launches := [(1, { launch with todo := [], since := none }), (2, { launch with resume := some 1 })] }) { machine with regions := [] }
    ((held.die 0).busy = false ∧ (0x500000000 : BitVec 64).toNat < 2 ^ 60 ∧ (held.die 0).insts.find? (named (held.die 0) 0x500000000) = some (1, placed)) ∧
    ((auto.die 0).autop = true ∧ (auto.die 0).busy = false ∧ (auto.die 0).order.find? (fun e => e.2.anchored && e.2.cls == 3) = some (2, big) ∧
      (auto.firstFit 0 2 big (auto.couldFree 0)).map (fun f => f.2) = some [0] ∧ auto.inTheWay 0 [0] = [(1, placed)]) ∧
    (splice.saving 0 = some w ∧ splice.mine.modeUnder = .running ∧ splice.mine.mode = .running ∧ splice.mine.atSplice = true ∧ splice.tornAll 0 = true) ∧
    (((during w id).die 0).preempt = some w ∧ Tbl.find ((during w id).die 0).insts w.inst = some placed ∧ w.start + w.splTo ≤ (during w id).tide ∧
      placed.places = [0] ∧ (during w id).mine.inst = w.inst ∧ (during w id).mine.modeUnder = .running ∧ (during w id).mine.atSplice = false ∧
      w.start + w.splTo + w.snapTo ≤ (during w id).tide ∧ (during w id).saving 0 = some w ∧ (during w id).mine.sif.snap = none) ∧
    (cut.mine.moves = true ∧ cut.cutReady 0 = true ∧ cut.mine.marksTaken = true ∧ cut.mine.sif.snap = none ∧ cut.saving 0 = some { w with marked := [0] } ∧
      cut.mine.mode ≠ .stopped ∧ cut.mine.latchesClosed = true) ∧
    (snap.mine.moves = true ∧ snap.cutReady 0 = true ∧ snap.mine.marksTaken = true ∧ snap.mine.sif.snap = some op ∧ snap.saving 0 = none ∧
      op.since + 8000000 * (snap.die 0).snapTo.toNat ≤ snap.tide) ∧
    ((back.nextPlacement 0 (back.die 0).allowed []).map (fun x => (x.1, x.2.1.resume, x.2.2.2.2)) = some (2, some 1, [0]) ∧
      (Tbl.find (back.die 0).insts 1).isSome = true ∧ (back.wakeClusters 0 [0]).1 = true) := by decide

/-- A region that froze under a snap: everything it sent is performed and no line is dirty. -/
theorem witness_PreemptionEvents_frozen :
    let op : SnapOp := { va := 0x1000, ch := none, since := 0, tmpl := 0, frozen := true }
    let icy : State := on fun r => { r with mode := .frozen, before := .frozen, kept := (.running, .free), sif := { r.sif with snap := some op } }
    icy.saving 0 = none ∧ icy.mine.sif.snap = some op ∧ icy.mine.mode = .frozen ∧ (∀ l ∈ icy.mine.stash, l.dirty = false) ∧ icy.settled 0 = true := by decide

/-- Every cluster free since 0 at 1 us with GATEDLY 1; entries written with EN = 1, with FCODE 9, and one to step up and one to step down. -/
theorem witness_PowerEvents :
    let free : State := { die (fun d => { d with gateDly := 1 }) { machine with regions := [] } with tide := 8000000 }
    let k (p : Power) := die (fun d => { d with clusters := [(15, { power := p, freeFrom := 0 })] }) machine
    let o (cur code : Nat) : Domain := { en := true, err := false, fcur := cur, fcode := code, ch := 0, cw := 0, cy := 0, cx := 0, stepAt := some 0 }
    (∀ c ∈ [0, 15], ((free.die 0).cluster c).power = .on ∧ (free.die 0).gateDly ≠ 0 ∧ (∀ n ∈ regionsOfCluster c, free.regionFree 0 n = true) ∧
      free.basinIn 0 c = false ∧ ((free.die 0).cluster c).freeFrom + 8000000 * (free.die 0).gateDly.toNat ≤ free.tide) ∧
    (((k (.entering 0)).die 0).cluster 15).power = .entering 0 ∧ (((k (.leaving 0)).die 0).cluster 15).power = .leaving 0 ∧ 0 ≤ machine.tide ∧
    (free.domainRefused 0 0 (0x80000000 : BitVec 64).toNat = false ∧ free.domainRefused 0 7 (0x9000 : BitVec 64).toNat = true) ∧
    (∀ x ∈ [o 0 2, o 2 0], (die (fun d => { d with domains := [(3, x)] }) machine |>.die 0).domain 3 = x ∧ x.stepAt = some 0 ∧ x.fcur ≠ x.fcode) := by decide

/-- Whether a stage fails is not the model's to say: both cases stand. -/
theorem witness_StartsAndHostAccesses :
    State.reset.boot.st = 0 ∧ machine.boot.st ≠ 0 ∧ machine.boot.st = 1 ∧ (machine.stopped.failedStage false = 0 ∨ machine.stopped.failedStage false ≠ 0) ∧
    (2 ^ 39 - 1) + 1 ≤ 2 ^ 39 ∧ machine.well.pkg * 2 ^ 39 + (2 ^ 39 - 1) < 2 ^ 57 ∧ (2 ^ 39 - 1) % 64 + [(7 : Byte)].length ≤ 64 ∧ 2 ^ 39 < 2 ^ 39 + 1 :=
  ⟨by decide, by decide, by decide, Decidable.em _, by decide, by decide, by decide, by decide⟩

theorem witness_MailboxRequests :
    let retiring : State := { machine with asids := [(9, { root := 0x1000, dbg := false, st := .retiring })],
                                           invals := [(1, { die := 0, asid := 9, range := none, pages := [], whole := true, done := true })] }
    let inval (whole : Bool) : Invalidation := { die := 0, asid := 9, range := none, pages := [], whole := whole, done := false }
    let chan := die (fun d => { d with chans := [(255, { owner := some 5, words := [(1, 2)], sub := none, kept := 0 })] }) machine
    (machine.boot.st = 1 ∧ machine.fw.root.busy = false ∧ (machine.asidOf 9).st = .free ∧ 0x1000 % 4096 = 0 ∧ (machine.asidOf 5).st ≠ .free ∧
      (machine.asidOf 5).st = .live ∧ (machine.asidOf 9).st ≠ .live ∧ (∀ y ∈ machine.attach, y.2.asid.toNat ≠ 5)) ∧
    ((retiring.asidOf 9).st = .retiring ∧ retiring.asidRemains 9 = false ∧ (∃ y ∈ retiring.invals, y.2.whole = true ∧ y.2.asid = 9) ∧
      ∀ y ∈ retiring.invals, y.2.whole = true → y.2.asid = 9 → y.2.done = true) ∧
    (∀ whole, let s := { machine with invals := [(1, inval whole)] }
      let own := { machine with invals := [(1, { inval whole with asid := 5 })] }
      Tbl.find s.invals 1 = some (inval whole) ∧ (inval whole).done = false ∧ s.translatedPending (inval whole) = false ∧
      s.holding (inval whole) = [] ∧ s.writingBack (inval whole) = false ∧ (Tbl.drop s.invals 1).any (fun e => !e.2.whole) = false ∧
      own.translatedPending { inval whole with asid := 5 } = false ∧ (own.holding { inval whole with asid := 5 }).isEmpty = false) ∧
    (let busy := { machine with fw := { machine.fw with root := { machine.fw.root with busy := true } }, invals := [(1, inval false), (2, inval false)] }
     busy.fw.root.busy = true ∧ (Tbl.drop busy.invals 1).any (fun e => !e.2.whole) = true) ∧
    (((machine.die 0).chan 255).owner = none ∧ ((machine.die 0).chan 255).sub = none ∧ ((chan.die 0).chan 255).owner ≠ none ∧ ((chan.die 0).chan 255).sub = none) ∧
    (0x200000 % 2 ^ 21 = 0 ∧ machine.deviceMemory 0x200000 = true ∧ dieOf 0x200000 = 0 ∧ paOk 0x200000 = true ∧ (machine.die 0).slotsUsed = []) := by decide

theorem witness_DebugRequests :
    let x : Attachment := { insts := [(0, 1)], asid := 5, base := 0, size := 1, prod := 0, dropped := 0, traces := [(0, { kind := 0, obj := 0, len := 0 })] }
    let base (f : Region → Region) := die (fun d => { d with insts := [(1, placed)], launches := [(1, launch)] }) (on f)
    let at_ (f : Region → Region) : State := { base f with attach := [(4, x)], records := [(2, { GaugeRec.blank with alloc := true, asid := 5 })] }
    let s := at_ id
    let armed := at_ fun r => { r with comps := [(3, { kind := 1, w2 := 0, hits := 0 })] }
    let fresh := base id
    (∀ t ∈ [s, armed, at_ fun r => { r with mode := .held, before := .running }, at_ fun r => { r with mode := .halted }, at_ fun r => { r with stops := [2] }], t.boot.st = 1 ∧ t.attached = some (4, x) ∧
      Tbl.find t.attach 4 = some x ∧ (t.asidOf x.asid.toNat).dbg = true ∧ t.allNamed 0x3FF = [0]) ∧
    (∀ kind < 5, fld (BitVec.ofNat 64 (0x3FF * 16 + kind)).toNat 4 10 = 0x3FF ∧ (BitVec.ofNat 64 (0x3FF * 16 + kind)).toNat % 16 = kind ∧ breakOk kind 0 = true) ∧
    (s.region 0).freeComparator ≠ none ∧ Tbl.find (armed.region 0).comps 3 ≠ none ∧
    (at_ fun r => { r with mode := .held, before := .running }).mine.mode = .held ∧ (at_ fun r => { r with mode := .halted }).mine.mode = .halted ∧
    (fld (0x7FF0 : DWord).toNat 4 10 = 0x3FF ∧ fld (0x7FF0 : DWord).toNat 14 2 = 1 ∧ (0x7FF0 : DWord).toNat % 16 = 0 ∧ (s.record 2).alloc = true ∧
      (s.record 2).asid = (s.region ((s.allNamed 0x3FF).headD 0)).asid) ∧
    (Tbl.find x.traces 0 ≠ none ∧ Tbl.find x.traces 1 = none) ∧
    (let n := (0x500000000 : DWord).toNat;
      fld n 60 4 = 0 ∧ (fresh.asidOf (fld n 32 16)).dbg = true ∧ (0x1000 : DWord).toNat % 4096 = 0 ∧ fresh.attach = [] ∧
      ((List.range 4).flatMap fun d => ((fresh.die d).insts.filter fun e => e.2.index == fld n 48 12 && (match (fresh.die d).launchRecOf e.2 with
        | some l => l.recd.job == fld n 0 32 && l.recd.asid == 5
        | none => false)).map fun e => (d, e.1)) = [(0, 1)]) := by decide

theorem witness_AttestationAndErrors :
    machine.boot.st = 1 ∧ ({ machine with fw := { machine.fw with negotiated := true } } : State).fw.negotiated = true ∧ machine.fw.negotiated = false ∧
    (let s : State := { machine with fw := { machine.fw with offer := (0x20, 4) } }
     bit s.fw.offer.1 5 = true ∧ bit s.fw.offer.2 2 = true ∧ (bit machine.fw.offer.1 5 && bit machine.fw.offer.2 2) = false) ∧
    ((celled (cellOf (wordOf .add) (mkToken kData 7))).cell 0 5).word ≠ none ∧ pooled.basins[0]? = some basin ∧
    (let l : Lane := { key := poolKey, slot := 0, n := 1, cause := 0, p := false, v := true, value := 7, parked := false }
     let s : State := { pooled with lanes := [l] }
     s.lanes[0]? = some l) := by decide

theorem witness_HostAddress : ∃ s n, 2 ^ 39 < 0 + n ∧ exec (.hostMemLoad 0 n) s = .fault .hostAddress :=
  ⟨machine, 2 ^ 39 + 1, by decide, rfl⟩

/-! ### Worked examples of the spec -/

/-- 02_numbers, one block into bfp4: the block under RNE, and under RTZ. -/
theorem test_qnt_block :
    let xs := [0x40600000, 0xBFA00000, 0x3E99999A, 0x40F80000, 0, 0xC0F00000, 0x40000000, 0x3D800000]
    (qntBlock fmtF32 4 .rne .clamp xs).e = 0x83 ∧ (qntBlock fmtF32 4 .rne .clamp xs).ms = [2, -1, 0, 4, 0, -4, 1, 0] ∧
    (qntBlock fmtF32 4 .rtz .clamp xs).e = 0x82 ∧ (qntBlock fmtF32 4 .rtz .clamp xs).ms = [3, -1, 0, 7, 0, -7, 2, 0] := by decide

/-- 07_cells, one third, both ways. -/
theorem test_one_third : (rcpeValue 0x40400000).1 = 0x3EAA4000 ∧ xfnValue 0 0x40400000 = (0x3EAAAAAB, flagNX) ∧ (rcpeValue 0x00080000).1 = 0x7F800000 ∧
    xfnValue 0 0x00080000 = (0x7F800000, flagOF ||| flagNX) ∧ (rcpeValue 0x7E800000).1 = 0x00800000 ∧ xfnValue 0 0x7E800000 = (0x00800000, 0) := by decide

/-- 11_translation, one walk to a 2 MiB page. -/
theorem test_walk :
    let mem := Memory.writeLE (Memory.writeLE (Memory.writeLE (Memory.writeLE [] 0x1000 8 0x40001003) 0x40001010 8 0x40002003) 0x40002000 8 0x40003003) 0x40003000 8 0x60200005
    let s := { machine with mem := mem }
    (match s.walk 5 0x0000010000034A40 with
      | .page e => e.pa 0x0000010000034A40 == 0x60234A40 && e.log == 21 && e.wr && !e.clsW
      | _ => false) = true := by decide

/-- 13_pools, three partials, two orders. -/
theorem test_three_partials :
    (fAdd fmtF32 .rne .ieee (fAdd fmtF32 .rne .ieee 0x3F800000 0x4B800000).1 0xCB800000).1 = 0 ∧
    (pairAdd (pairAdd (pairAdd (0x80000000, 0) (0x3F800000, 0)).1 (0x4B800000, 0)).1 (0xCB800000, 0)).1 = (0x3F800000, 0) ∧
    (pairAdd (0x3F800000, 0) (0x4B800000, 0)).2 = flagNX := by decide

/-- 06_conduct: `sub g7, g8, g9` of 0 and 0x1000 wraps, in one step from the word that is fetched. -/
theorem test_sub_wraps :
    let s := on fun r => { r with handlers := [(0, { hd .active with ia := 4 })], regs := (r.regs.set 8 0).set 9 0x1000 }
    (match Machine.step { s with agenda := [.issue 0] } with
      | .next t => (t.region 0).get 7 == 0xFFFFFFFFFFFFF000 && ((t.region 0).handler 0).ia == 8
      | _ => false) = true := by decide

end Sys2Proof.Tests
end

section
/-! SUPPORT and PROOF of O7. Every instruction, command and event answers a next state, and a host access that leaves device memory
alone stops. Each operation of the model that gives an outcome has one lemma, found along the operation's own branches; the theorem on
`exec` then names, constructor by constructor, the operation that answers. -/
namespace Sys2Proof.Machine

/-! ### Outcomes -/

/-- The outcome is a next state: the machine neither stops with a fault nor refuses. -/
def Answers (o : Out) : Prop := ∃ t, o = .next t

@[simp] theorem answers_next (t : State) : Answers (.next t) := ⟨t, rfl⟩

@[simp] theorem answers_ite (c : Prop) [Decidable c] (a b : Out) : Answers (if c then a else b) ↔ (c → Answers a) ∧ (¬c → Answers b) := by
  split <;> simp [*]

/-! ### Completing a word, waiting, and faults (R134 to R144) -/

@[simp] theorem State.stall_answers (s : State) : Answers s.stall := ⟨_, rfl⟩
@[simp] theorem State.idle_answers (s : State) : Answers s.idle := ⟨_, rfl⟩
@[simp] theorem State.raise_answers (s : State) (c : Cause) (detail addr : Nat) : Answers (s.raise c detail addr) := ⟨_, rfl⟩
@[simp] theorem State.raiseCommand_answers (s : State) (t : Nat) : Answers (s.raiseCommand t) := ⟨_, rfl⟩
@[simp] theorem State.raisePool_answers (s : State) (token : Nat) : Answers (s.raisePool token) := ⟨_, rfl⟩
@[simp] theorem State.complete_answers (s : State) (r : Region) : Answers (s.complete r) := ⟨_, rfl⟩
@[simp] theorem State.writes_answers (s : State) (rd : Reg) (v : DWord) : Answers (s.writes rd v) := ⟨_, rfl⟩
@[simp] theorem State.postAndWait_answers (s : State) (src : Option Nat) (b : Body) : Answers (s.postAndWait src b) := ⟨_, rfl⟩
@[simp] theorem State.raiseIllegal_answers (s : State) : Answers s.raiseIllegal := ⟨_, rfl⟩
@[simp] theorem State.transfer_answers (s : State) (r : Region) (t : Int) : Answers (s.transfer r t) := by
  fun_cases State.transfer <;> simp

/-! ### Loads, stores and atomics (R148 to R153) -/

@[simp] theorem State.raiseAccess_answers (s : State) (c : Cause) (detail va : Nat) : Answers (s.raiseAccess c detail va) := ⟨_, rfl⟩
@[simp] theorem State.load_answers (s : State) (rd ra : Reg) (off : BitVec 16) (n : Nat) (signed : Bool) :
    Answers (s.load rd ra off n signed) := by
  fun_cases State.load <;> simp
@[simp] theorem State.awaitHome_answers (s : State) (pa : Nat) (op : AwayOp) : Answers (s.awaitHome pa op) := ⟨_, rfl⟩
@[simp] theorem State.store_answers (s : State) (rv ra : Reg) (off : BitVec 16) (n : Nat) : Answers (s.store rv ra off n) := by
  fun_cases State.store <;> simp
@[simp] theorem State.atomic_answers (s : State) (rd ra : Reg) (wide : Bool) (op : AtomOp) (v : DWord) : Answers (s.atomic rd ra wide op v) := by
  fun_cases State.atomic <;> simp

/-! ### Handles (R160, R161, R163, R250 to R254) -/

@[simp] theorem execHandleHeaderAction_answers (m : Nat) (s : State) : Answers (execHandleHeaderAction m s) := by
  fun_cases execHandleHeaderAction <;> simp
/-- A word that waits on a header answers when what follows the header's reply does. -/
@[simp] theorem State.headerWord_answers (s : State) (h : Nat) (op : HeaderOp) (onDone : DWord → DWord → Out) (flush : Bool)
    (hdone : ∀ v clk, Answers (onDone v clk)) : Answers (s.headerWord h op onDone flush) := by
  fun_cases State.headerWord <;> simp [hdone]
@[simp] theorem State.handleWord_answers (s : State) (h : Fin 16) (rb : Reg) (op : Nat → HeaderOp) (bounded release : Bool) :
    Answers (s.handleWord h rb op bounded release) := by
  fun_cases State.handleWord <;> simp
@[simp] theorem State.handleStatus_answers (s : State) (rd : Reg) (h : Nat) : Answers (s.handleStatus rd h) := by
  fun_cases State.handleStatus <;> simp
@[simp] theorem execIdrain_answers (h : Fin 16) (s : State) : Answers (execIdrain h s) := by
  fun_cases execIdrain <;> simp

/-! ### Branches, system instructions and control words (R136 to R143, R154 to R156, R173, R174) -/

@[simp] theorem State.branch_answers (s : State) (ra rb : Reg) (off : BitVec 16) (taken : DWord → DWord → Bool) :
    Answers (s.branch ra rb off taken) := by
  fun_cases State.branch <;> simp
@[simp] theorem execHalt_answers (s : State) : Answers (execHalt s) := by
  fun_cases execHalt <;> simp
@[simp] theorem execWfe_answers (s : State) : Answers (execWfe s) := by
  fun_cases execWfe <;> simp
@[simp] theorem execEret_answers (s : State) : Answers (execEret s) := by
  fun_cases execEret <;> simp
@[simp] theorem execWaitt_answers (ra : Reg) (s : State) : Answers (execWaitt ra s) := by
  fun_cases execWaitt <;> simp
@[simp] theorem execMfc_answers (rd : Reg) (c : Ctl) (s : State) : Answers (execMfc rd c s) := by
  fun_cases execMfc <;> simp
@[simp] theorem execMtcChmap_answers (ra : Reg) (k : Fin 28) (s : State) : Answers (execMtcChmap ra k s) := by
  fun_cases execMtcChmap <;> simp
@[simp] theorem execTimerExpiry_answers (p : Nat) (s : State) : Answers (execTimerExpiry p s) := by
  fun_cases execTimerExpiry <;> simp
@[simp] theorem execWaittExpiry_answers (p k : Nat) (s : State) : Answers (execWaittExpiry p k s) := by
  fun_cases execWaittExpiry <;> simp

/-! ### Channels, barriers and fences (R168 to R172) -/

@[simp] theorem execSend_answers (ra rb : Reg) (s : State) : Answers (execSend ra rb s) := by
  fun_cases execSend <;> simp
@[simp] theorem execRecv_answers (rd ra : Reg) (s : State) : Answers (execRecv rd ra s) := by
  fun_cases execRecv <;> simp
@[simp] theorem execArrive_answers (rd ra : Reg) (s : State) : Answers (execArrive rd ra s) := by
  fun_cases execArrive <;> simp
@[simp] theorem execAwait_answers (ra rb : Reg) (s : State) : Answers (execAwait ra rb s) := by
  fun_cases execAwait <;> simp
@[simp] theorem execFence_answers (c : Scope) (s : State) : Answers (execFence c s) := by
  fun_cases execFence <;> simp

/-! ### Pools (R355 to R379) -/

@[simp] theorem execPoolFold_answers (m : Nat) (s : State) : Answers (execPoolFold m s) := by
  fun_cases execPoolFold <;> simp
@[simp] theorem execPoolDeclareAtHome_answers (m : Nat) (s : State) : Answers (execPoolDeclareAtHome m s) := by
  fun_cases execPoolDeclareAtHome <;> simp
@[simp] theorem execPoolGather_answers (m : Nat) (s : State) : Answers (execPoolGather m s) := by
  fun_cases execPoolGather <;> simp
@[simp] theorem execPoolCompletionWord_answers (m : Nat) (s : State) : Answers (execPoolCompletionWord m s) := by
  fun_cases execPoolCompletionWord <;> simp
@[simp] theorem execPdcl_answers (settle : Bool) (ra : Reg) (scope : Scope) (op : PoolOp) (ty : PoolType) (pl : Fin 64) (s : State) :
    Answers (execPdcl settle ra scope op ty pl s) := by
  fun_cases execPdcl <;> simp
@[simp] theorem execPcon_answers (ra : Reg) (pl : Fin 64) (s : State) : Answers (execPcon ra pl s) := by
  fun_cases execPcon <;> simp
@[simp] theorem State.gatherWord_answers (s : State) (rd : Reg) (pl : Nat) (counted settle : Bool) :
    Answers (s.gatherWord rd pl counted settle) := by
  fun_cases State.gatherWord <;> simp

/-! ### Gauges and the rill (R337 to R354) -/

@[simp] theorem execRillNodeTakeTrain_answers (m : Nat) (s : State) : Answers (execRillNodeTakeTrain m s) := by
  fun_cases execRillNodeTakeTrain <;> simp
@[simp] theorem execRillWindowExpiry_answers (p n : Nat) (s : State) : Answers (execRillWindowExpiry p n s) := by
  fun_cases execRillWindowExpiry <;> simp
@[simp] theorem execRillRootWindowExpiry_answers (d j : Nat) (s : State) : Answers (execRillRootWindowExpiry d j s) := by
  fun_cases execRillRootWindowExpiry <;> simp
@[simp] theorem execTrainApply_answers (m : Nat) (s : State) : Answers (execTrainApply m s) := by
  fun_cases execTrainApply <;> simp
@[simp] theorem execSealAction_answers (m : Nat) (s : State) : Answers (execSealAction m s) := by
  fun_cases execSealAction <;> simp
@[simp] theorem execGenerationWordArrive_answers (m : Nat) (s : State) : Answers (execGenerationWordArrive m s) := by
  fun_cases execGenerationWordArrive <;> simp
@[simp] theorem execRescaleEventArrive_answers (m : Nat) (s : State) : Answers (execRescaleEventArrive m s) := by
  fun_cases execRescaleEventArrive <;> simp

/-! ### Holders and channel words (R125 to R127, R170) -/

@[simp] theorem execHolderArrive_answers (m : Nat) (s : State) : Answers (execHolderArrive m s) := by
  fun_cases execHolderArrive <;> simp
@[simp] theorem execChannelWordEnter_answers (m : Nat) (s : State) : Answers (execChannelWordEnter m s) := by
  fun_cases execChannelWordEnter <;> simp
@[simp] theorem execHolderAdmit_answers (d h : Nat) (s : State) : Answers (execHolderAdmit d h s) := by
  fun_cases execHolderAdmit <;> simp
@[simp] theorem execAdmissionTimeout_answers (d h : Nat) (s : State) : Answers (execAdmissionTimeout d h s) := by
  fun_cases execAdmissionTimeout <;> simp

/-! ### The integer instructions (R145 to R147) -/

@[simp] theorem State.alu_answers (s : State) (rd ra rb : Reg) (f : DWord → DWord → DWord) : Answers (s.alu rd ra rb f) := ⟨_, rfl⟩
@[simp] theorem State.aluImm_answers (s : State) (rd ra : Reg) (f : DWord → DWord) : Answers (s.aluImm rd ra f) := ⟨_, rfl⟩

/-! ### Cells and column units (R177 to R186, R192 to R221) -/

@[simp] theorem State.fireWith_answers (s : State) (p c : Nat) (op : CellOp) (f : State → Cell → CellWord → List Token → State) :
    Answers (s.fireWith p c op f) := by
  fun_cases State.fireWith <;> simp
@[simp] theorem State.grant_answers (s : State) (p col : Nat) (rows : List Nat) : Answers (s.grant p col rows) := by
  induction rows with
  | nil => exact ⟨_, rfl⟩
  | cons row rows ih =>
    simp only [State.grant]
    split <;> simp [ih]
@[simp] theorem State.moveReply_answers (s : State) (p c : Nat) (x : Cell) : Answers (s.moveReply p c x) := by
  fun_cases State.moveReply <;> simp
@[simp] theorem execXfnReply_answers (p c : Nat) (s : State) : Answers (execXfnReply p c s) := by
  fun_cases execXfnReply <;> simp
@[simp] theorem execCellJoin_answers (p c : Nat) (s : State) : Answers (execCellJoin p c s) := by
  fun_cases execCellJoin <;> simp
@[simp] theorem execCellEosFiring_answers (p c : Nat) (s : State) : Answers (execCellEosFiring p c s) := by
  fun_cases execCellEosFiring <;> simp
@[simp] theorem execCellMarkerFiring_answers (p c : Nat) (s : State) : Answers (execCellMarkerFiring p c s) := by
  fun_cases execCellMarkerFiring <;> simp

/-! ### Routers (R187 to R190) -/

@[simp] theorem State.routerStep_answers (s : State) (p c : Nat) (d : Dir) (mine : ROp → Bool) : Answers (s.routerStep p c d mine) := by
  fun_cases State.routerStep <;> simp

/-! ### The matrix unit (R222 to R249) -/

@[simp] theorem execMatrixVectorStart_answers (p : Nat) (s : State) : Answers (execMatrixVectorStart p s) := by
  fun_cases execMatrixVectorStart <;> simp
@[simp] theorem execMatrixVectorDone_answers (p : Nat) (s : State) : Answers (execMatrixVectorDone p s) := by
  fun_cases execMatrixVectorDone <;> simp
@[simp] theorem execMloadComplete_answers (p : Nat) (s : State) : Answers (execMloadComplete p s) := by
  fun_cases execMloadComplete <;> simp
@[simp] theorem execMatrixStepPass_answers (p : Nat) (s : State) : Answers (execMatrixStepPass p s) := by
  fun_cases execMatrixStepPass <;> simp
@[simp] theorem execMatrixMarkerFiring_answers (p : Nat) (s : State) : Answers (execMatrixMarkerFiring p s) := by
  fun_cases execMatrixMarkerFiring <;> simp

/-! ### The steps of a course (R128 to R131, R164 to R166) -/

@[simp] theorem State.spliceWord_answers (s : State) (idx : Nat) (ic : Word) : Answers (s.spliceWord idx ic) := by
  fun_cases State.spliceWord <;> simp
@[simp] theorem execNext_answers (s : State) : Answers (execNext s) := by
  fun_cases execNext <;> simp
@[simp] theorem execGoto_answers (t : BitVec 4) (s : State) : Answers (execGoto t s) := by
  fun_cases execGoto <;> simp
@[simp] theorem execConfigImageLoaded_answers (p : Nat) (s : State) : Answers (execConfigImageLoaded p s) := by
  fun_cases execConfigImageLoaded <;> simp
@[simp] theorem execAtimeRelease_answers (p : Nat) (s : State) : Answers (execAtimeRelease p s) := by
  fun_cases execAtimeRelease <;> simp
@[simp] theorem execClaim_answers (rd : Reg) (s : State) : Answers (execClaim rd s) := by
  fun_cases execClaim <;> simp
@[simp] theorem execClaimAtCursor_answers (m : Nat) (s : State) : Answers (execClaimAtCursor m s) := by
  fun_cases execClaimAtCursor <;> simp

/-! ### Stream commands (R162, R239 to R245, R255 to R276) -/

@[simp] theorem execIssue_answers (ga gb : Reg) (t : BitVec 16) (s : State) : Answers (execIssue ga gb t s) := by
  fun_cases execIssue <;> simp
@[simp] theorem State.toPort_answers (s : State) (n : Nat) (f : QueuedCmd → Region → PortEntry × Region) : Answers (s.toPort n f) := by
  fun_cases State.toPort <;> simp
@[simp] theorem State.bindTo_answers (s : State) (b : BindArgs) (k : BindKind) : Answers (s.bindTo b k) := by
  simp [State.bindTo]
@[simp] theorem State.toGauge_answers (s : State) (n : Nat) (rec_ : Option Nat) : Answers (s.toGauge n rec_) := by
  fun_cases State.toGauge <;> simp
@[simp] theorem execSeal_answers (rid : BitVec 20) (rv : Bool) (rch : BitVec 8) (s : State) : Answers (execSeal rid rv rch s) := by
  fun_cases execSeal <;> simp
@[simp] theorem execBarrierFence_answers (s : State) : Answers (execBarrierFence s) := by
  fun_cases execBarrierFence <;> simp
@[simp] theorem State.streamPost_answers (s : State) (b : Body) : Answers (s.streamPost b) := ⟨_, rfl⟩
@[simp] theorem State.barrierSend_answers (s : State) (bar : BitVec 57) : Answers (s.barrierSend bar) := by
  fun_cases State.barrierSend <;> simp
@[simp] theorem State.barrierTest_answers (s : State) (bar : BitVec 57) (phase : Nat) : Answers (s.barrierTest bar phase) := by
  fun_cases State.barrierTest <;> simp
@[simp] theorem execBarrierArrive_answers (bar : BitVec 57) (s : State) : Answers (execBarrierArrive bar s) := by
  fun_cases execBarrierArrive <;> simp
@[simp] theorem execBarrierArriveWait_answers (bar : BitVec 57) (s : State) : Answers (execBarrierArriveWait bar s) := by
  fun_cases execBarrierArriveWait <;> simp
@[simp] theorem execBarrierWait_answers (bar : BitVec 57) (phase : BitVec 32) (s : State) : Answers (execBarrierWait bar phase s) := by
  fun_cases execBarrierWait <;> simp
@[simp] theorem execSyncw_answers (word : BitVec 64) (n : BitVec 32) (s : State) : Answers (execSyncw word n s) := by
  fun_cases execSyncw <;> simp
@[simp] theorem State.toChannel_answers (s : State) (c : MatCmd) : Answers (s.toChannel c) := by
  fun_cases State.toChannel <;> simp

/-! ### The weir (R276, R295 to R307) -/

@[simp] theorem execWeirGraphElement_answers (m : Nat) (s : State) : Answers (execWeirGraphElement m s) := by
  fun_cases execWeirGraphElement <;> simp
@[simp] theorem State.rmwEvent_answers (s : State) (m : Nat) (mine : CellOp) : Answers (s.rmwEvent m mine) := by
  fun_cases State.rmwEvent <;> simp
@[simp] theorem execSyncwAck_answers (m : Nat) (s : State) : Answers (execSyncwAck m s) := by
  fun_cases execSyncwAck <;> simp

/-! ### Engine messages (R122 to R125, R175, R277, R278) -/

@[simp] theorem execEngineReplyArrive_answers (m : Nat) (s : State) : Answers (execEngineReplyArrive m s) := by
  fun_cases execEngineReplyArrive <;> simp
@[simp] theorem execCop_answers (ra rb : Reg) (cls : EngClass) (op : BitVec 4) (s : State) : Answers (execCop ra rb cls op s) := by
  fun_cases execCop <;> simp
@[simp] theorem execCopR_answers (rd ra rb : Reg) (cls : EngClass) (op : BitVec 4) (s : State) : Answers (execCopR rd ra rb cls op s) := by
  fun_cases execCopR <;> simp
@[simp] theorem execMsg_answers (cls : EngClass) (addr : BitVec 64) (s : State) : Answers (execMsg cls addr s) := by
  fun_cases execMsg <;> simp
@[simp] theorem execMsgBind_answers (mport : BitVec 6) (cls : EngClass) (s : State) : Answers (execMsgBind mport cls s) := by
  fun_cases execMsgBind <;> simp
@[simp] theorem execCard_answers (cls : EngClass) (op : BitVec 4) (nf : BitVec 2) (foot0 foot1 : BitVec 8) (opnd : BitVec 64) (s : State) :
    Answers (execCard cls op nf foot0 foot1 opnd s) := by
  fun_cases execCard <;> simp

/-! ### Ports and bindings (R126, R210 to R216, R255 to R274, R282, R324 to R336) -/

@[simp] theorem execPortEmitToken_answers (p n : Nat) (s : State) : Answers (execPortEmitToken p n s) := by
  fun_cases execPortEmitToken <;> simp
@[simp] theorem State.portWriteEvent_answers (s : State) (p n : Nat) (mine : CellWord → Bool) : Answers (s.portWriteEvent p n mine) := by
  fun_cases State.portWriteEvent <;> simp
@[simp] theorem execBindingComplete_answers (p n : Nat) (s : State) : Answers (execBindingComplete p n s) := by
  fun_cases execBindingComplete <;> simp
@[simp] theorem execXlatTranslate_answers (p n : Nat) (s : State) : Answers (execXlatTranslate p n s) := by
  simp only [execXlatTranslate]
  repeat' split
  all_goals simp
@[simp] theorem execMsgoutPost_answers (p n : Nat) (s : State) : Answers (execMsgoutPost p n s) := by
  fun_cases execMsgoutPost <;> simp
@[simp] theorem execSpillwayRetry_answers (p n : Nat) (s : State) : Answers (execSpillwayRetry p n s) := by
  fun_cases execSpillwayRetry <;> simp
@[simp] theorem execStalledPortRetry_answers (p n : Nat) (s : State) : Answers (execStalledPortRetry p n s) := by
  fun_cases execStalledPortRetry <;> simp
@[simp] theorem execRelatch_answers (asid : BitVec 16) (base : BitVec 57) (log : BitVec 6) (rv : Bool) (rch : BitVec 8) (s : State) :
    Answers (execRelatch asid base log rv rch s) := by
  fun_cases execRelatch <;> simp
@[simp] theorem execRelatchTokenAtPort_answers (p n : Nat) (s : State) : Answers (execRelatchTokenAtPort p n s) := by
  fun_cases execRelatchTokenAtPort <;> simp

/-! ### Copy engines and weir jobs (R311 to R315, R350, R353) -/

@[simp] theorem execEngineMessageArrive_answers (m : Nat) (s : State) : Answers (execEngineMessageArrive m s) := by
  fun_cases execEngineMessageArrive <;> simp
@[simp] theorem State.copyStep_answers (s : State) (d e opc : Nat) (operands : Job → State) : Answers (s.copyStep d e opc operands) := by
  fun_cases State.copyStep <;> simp
@[simp] theorem State.weirJob_answers (s : State) (d i opc : Nat) (f : Job → State) : Answers (s.weirJob d i opc f) := by
  fun_cases State.weirJob <;> simp

/-! ### The sluice (R105 to R121) -/

@[simp] theorem execSluiceTakeRecord_answers (d q : Nat) (s : State) : Answers (execSluiceTakeRecord d q s) := by
  fun_cases execSluiceTakeRecord <;> simp
@[simp] theorem execSluiceInboxLaunch_answers (d : Nat) (s : State) : Answers (execSluiceInboxLaunch d s) := by
  fun_cases execSluiceInboxLaunch <;> simp
@[simp] theorem execQueueEnable_answers (d q : Nat) (v : BitVec 64) (s : State) : Answers (execQueueEnable d q v s) := by
  fun_cases execQueueEnable <;> simp
@[simp] theorem execQueueDisable_answers (d q : Nat) (v : BitVec 64) (s : State) : Answers (execQueueDisable d q v s) := by
  fun_cases execQueueDisable <;> simp
@[simp] theorem execQueueRegisterWrite_answers (d q off : Nat) (v : BitVec 64) (s : State) : Answers (execQueueRegisterWrite d q off v s) := by
  fun_cases execQueueRegisterWrite <;> simp
@[simp] theorem execTailDoorbell_answers (d q : Nat) (v : BitVec 32) (s : State) : Answers (execTailDoorbell d q v s) := by
  fun_cases execTailDoorbell <;> simp
@[simp] theorem execEffectiveClassAging_answers (d u : Nat) (s : State) : Answers (execEffectiveClassAging d u s) := by
  fun_cases execEffectiveClassAging <;> simp
@[simp] theorem execLaunchAnchor_answers (d u : Nat) (s : State) : Answers (execLaunchAnchor d u s) := by
  fun_cases execLaunchAnchor <;> simp
@[simp] theorem execPlaceInstance_answers (d : Nat) (s : State) : Answers (execPlaceInstance d s) := by
  fun_cases execPlaceInstance <;> simp

/-! ### Retirement (R435 to R439) -/

@[simp] theorem execRetireClear_answers (p : Nat) (s : State) : Answers (execRetireClear p s) := by
  fun_cases execRetireClear <;> simp
@[simp] theorem execForcedClear_answers (p : Nat) (s : State) : Answers (execForcedClear p s) := by
  fun_cases execForcedClear <;> simp
@[simp] theorem execSuccessorStart_answers (p : Nat) (s : State) : Answers (execSuccessorStart p s) := by
  fun_cases execSuccessorStart <;> simp

/-! ### Pre-emption (R280, R424 to R434) -/

@[simp] theorem execPreemptRequest_answers (d : Nat) (v : BitVec 64) (s : State) : Answers (execPreemptRequest d v s) := by
  fun_cases execPreemptRequest <;> simp
@[simp] theorem execAutoPreempt_answers (d : Nat) (s : State) : Answers (execAutoPreempt d s) := by
  fun_cases execAutoPreempt <;> simp
@[simp] theorem execSplicePointSave_answers (p : Nat) (s : State) : Answers (execSplicePointSave p s) := by
  fun_cases execSplicePointSave <;> simp
@[simp] theorem execPreemptMarkerInject_answers (d : Nat) (s : State) : Answers (execPreemptMarkerInject d s) := by
  fun_cases execPreemptMarkerInject <;> simp
@[simp] theorem execSnap_answers (save : BitVec 64) (rv : Bool) (rch : BitVec 8) (s : State) : Answers (execSnap save rv rch s) := by
  fun_cases execSnap <;> simp
@[simp] theorem execCutClose_answers (p : Nat) (s : State) : Answers (execCutClose p s) := by
  fun_cases execCutClose <;> simp
@[simp] theorem State.freezeForSnap_answers (s : State) (p : Nat) (op : SnapOp) : Answers (s.freezeForSnap p op) := by
  fun_cases State.freezeForSnap <;> simp
@[simp] theorem execFreeze_answers (p : Nat) (s : State) : Answers (execFreeze p s) := by
  fun_cases execFreeze <;> simp
@[simp] theorem execPreemptResume_answers (d : Nat) (s : State) : Answers (execPreemptResume d s) := by
  fun_cases execPreemptResume <;> simp

/-! ### Power and clocks (R441 to R443) -/

@[simp] theorem execClusterGate_answers (d c : Nat) (s : State) : Answers (execClusterGate d c s) := by
  fun_cases execClusterGate <;> simp
@[simp] theorem execClusterGateEntryComplete_answers (d c : Nat) (s : State) : Answers (execClusterGateEntryComplete d c s) := by
  fun_cases execClusterGateEntryComplete <;> simp
@[simp] theorem execClusterExitComplete_answers (d c : Nat) (s : State) : Answers (execClusterExitComplete d c s) := by
  fun_cases execClusterExitComplete <;> simp
@[simp] theorem execDomainEntryWrite_answers (d j : Nat) (v : BitVec 64) (s : State) : Answers (execDomainEntryWrite d j v s) := by
  fun_cases execDomainEntryWrite <;> simp
@[simp] theorem execDomainClockStep_answers (d j : Nat) (s : State) : Answers (execDomainClockStep d j s) := by
  fun_cases execDomainClockStep <;> simp

/-! ### The cascade (R400 to R415) -/

@[simp] theorem State.cascadeJob_answers (s : State) (j opc : Nat) (f : Job → State) : Answers (s.cascadeJob j opc f) := by
  fun_cases State.cascadeJob <;> simp
@[simp] theorem State.nodeStep_answers (s : State) (r n : Nat) (f : Replay → Graph → ChunkNode → NodeState → State) :
    Answers (s.nodeStep r n f) := by
  fun_cases State.nodeStep <;> simp
@[simp] theorem execChunkCreditArrive_answers (m : Nat) (s : State) : Answers (execChunkCreditArrive m s) := by
  fun_cases execChunkCreditArrive <;> simp
@[simp] theorem execChunkNodeComplete_answers (r n : Nat) (s : State) : Answers (execChunkNodeComplete r n s) := by
  fun_cases execChunkNodeComplete <;> simp
@[simp] theorem execReplayPeerTimeout_answers (r : Nat) (s : State) : Answers (execReplayPeerTimeout r s) := by
  fun_cases execReplayPeerTimeout <;> simp

/-! ### Actions at the homes (R152, R153, R171, R287 to R293) -/

@[simp] theorem execHomeReadRequest_answers (m : Nat) (s : State) : Answers (execHomeReadRequest m s) := by
  fun_cases execHomeReadRequest <;> simp
@[simp] theorem execLoadReply_answers (m : Nat) (s : State) : Answers (execLoadReply m s) := by
  fun_cases execLoadReply <;> simp
@[simp] theorem execHomeWriteRequest_answers (m : Nat) (s : State) : Answers (execHomeWriteRequest m s) := by
  fun_cases execHomeWriteRequest <;> simp
@[simp] theorem execOwnershipReply_answers (m : Nat) (s : State) : Answers (execOwnershipReply m s) := by
  fun_cases execOwnershipReply <;> simp
@[simp] theorem execRecall_answers (m : Nat) (s : State) : Answers (execRecall m s) := by
  fun_cases execRecall <;> simp
@[simp] theorem execWriteBackAck_answers (m : Nat) (s : State) : Answers (execWriteBackAck m s) := by
  fun_cases execWriteBackAck <;> simp
@[simp] theorem execHomeAtomic_answers (m : Nat) (s : State) : Answers (execHomeAtomic m s) := by
  fun_cases execHomeAtomic <;> simp
@[simp] theorem execAtomicReply_answers (m : Nat) (s : State) : Answers (execAtomicReply m s) := by
  fun_cases execAtomicReply <;> simp
@[simp] theorem execWaitvWake_answers (m : Nat) (s : State) : Answers (execWaitvWake m s) := by
  fun_cases execWaitvWake <;> simp
@[simp] theorem execBarrierArriveAtHome_answers (m : Nat) (s : State) : Answers (execBarrierArriveAtHome m s) := by
  fun_cases execBarrierArriveAtHome <;> simp

/-! ### The conduit and the scale-out ports (R393 to R399, R416, R417) -/

@[simp] theorem execConduitFlitReceive_answers (port : Nat) (f : Flit) (s : State) : Answers (execConduitFlitReceive port f s) := by
  fun_cases execConduitFlitReceive <;> simp
@[simp] theorem State.roceJob_answers (s : State) (j opc : Nat) (f : Job → State) : Answers (s.roceJob j opc f) := by
  fun_cases State.roceJob <;> simp
@[simp] theorem execRoceResponseReceive_answers (j : Nat) (bytes : List Byte) (s : State) : Answers (execRoceResponseReceive j bytes s) := by
  fun_cases execRoceResponseReceive <;> simp
@[simp] theorem execTransportError_answers (j : Nat) (s : State) : Answers (execTransportError j s) := by
  fun_cases execTransportError <;> simp

/-! ### Starts, root requests and attestation (R449 to R455) -/

@[simp] theorem execPowerOn_answers (s : State) : Answers (execPowerOn s) := by
  fun_cases execPowerOn <;> simp
@[simp] theorem execColdStart_answers (s : State) : Answers (execColdStart s) := by
  fun_cases execColdStart <;> simp
@[simp] theorem execWarmStart_answers (s : State) : Answers (execWarmStart s) := by
  fun_cases execWarmStart <;> simp
@[simp] theorem State.rootRequest_answers (s : State) (code : Nat) (ws : List DWord) (f : Except Nat State) :
    Answers (s.rootRequest code ws f) := by
  fun_cases State.rootRequest <;> simp
@[simp] theorem execInvalidate_answers (w1 w2 : DWord) (s : State) : Answers (execInvalidate w1 w2 s) := by
  fun_cases execInvalidate <;> simp
@[simp] theorem execInvalidationComplete_answers (j : Nat) (s : State) : Answers (execInvalidationComplete j s) := by
  fun_cases execInvalidationComplete <;> simp
@[simp] theorem execAsidFree_answers (a : Nat) (s : State) : Answers (execAsidFree a s) := by
  fun_cases execAsidFree <;> simp
@[simp] theorem execManagementImage_answers (w1 w2 : DWord) (s : State) : Answers (execManagementImage w1 w2 s) := by
  fun_cases execManagementImage <;> simp
@[simp] theorem State.spdmSay_answers (s : State) (code : Nat) (body : List Byte) : Answers (s.spdmSay code body) := by
  fun_cases State.spdmSay <;> simp
@[simp] theorem State.spdmAfter_answers (s : State) (code : Nat) (ok : Bool) (body : List Byte) : Answers (s.spdmAfter code ok body) := by
  fun_cases State.spdmAfter <;> simp
@[simp] theorem execNegotiateAlgorithms_answers (s : State) : Answers (execNegotiateAlgorithms s) := by
  fun_cases execNegotiateAlgorithms <;> simp

/-! ### Debug requests (R457 to R459) -/

@[simp] theorem State.mgmtRequest_answers (s : State) (code : Nat) (ws : List DWord) (f : Except Nat State) :
    Answers (s.mgmtRequest code ws f) := by
  fun_cases State.mgmtRequest <;> simp

/-! ### The FPU (R157 to R159) -/

@[simp] theorem State.fpu_answers (s : State) (rd ra rb : Reg) (f : Nat → Nat → Nat × Flags) : Answers (s.fpu rd ra rb f) := ⟨_, rfl⟩
@[simp] theorem State.cvtToFloat_answers (s : State) (rd ra : Reg) (f : DWord → Nat × Flags) : Answers (s.cvtToFloat rd ra f) := ⟨_, rfl⟩
@[simp] theorem State.cvtToInt_answers (s : State) (rd ra : Reg) (w : Nat) (sgn : Bool) (m : Rnd) (sat : Sat) :
    Answers (s.cvtToInt rd ra w sgn m sat) := ⟨_, rfl⟩

/-! ### waitv (R153) -/

@[simp] theorem execWaitv_answers (rd ra rb : Reg) (s : State) : Answers (execWaitv rd ra rb s) := by
  fun_cases execWaitv <;> simp

/-! ### Soft errors (R423) -/

@[simp] theorem execSoftErrorDetect_answers (at_ : ErrSite) (s : State) : Answers (execSoftErrorDetect at_ s) := by
  fun_cases execSoftErrorDetect <;> simp

/-! ### Host accesses (R448) -/

/-- A host access answers as long as it stays inside the device memory of the package. -/
theorem execHostMemLoad_answers (a n : Nat) (s : State) (h : a + n ≤ deviceBytes) : Answers (execHostMemLoad a n s) := by
  fun_cases execHostMemLoad
  case case1 => omega
  all_goals simp

theorem execHostMemLoad_outside (a n : Nat) (s : State) (h : deviceBytes < a + n) : execHostMemLoad a n s = .fault .hostAddress :=
  if_pos h

theorem execHostMemStore_answers (a : Nat) (bs : List Byte) (s : State) (h : a + bs.length ≤ deviceBytes) :
    Answers (execHostMemStore a bs s) := by
  fun_cases execHostMemStore
  case case1 => omega
  all_goals simp

theorem execHostMemStore_outside (a : Nat) (bs : List Byte) (s : State) (h : deviceBytes < a + bs.length) :
    execHostMemStore a bs s = .fault .hostAddress :=
  if_pos h

/-! ### Every instruction -/

/-- Every instruction but the two host accesses answers. Constructors that are one use of a shared operation stand together, with the
lemma of that operation; each of the others has the lemma of its own meaning, which `simp` knows. -/
theorem exec_answers (i : Instr) (s : State) (hload : ∀ a n, i ≠ .hostMemLoad a n) (hstore : ∀ a bs, i ≠ .hostMemStore a bs) :
    Answers (exec i s) := by
  cases i with
  | hostMemLoad a n => exact absurd rfl (hload a n)
  | hostMemStore a bs => exact absurd rfl (hstore a bs)
  | add | sub | and | or | xor | shl | shr | sra | mul | mulh | mulhn | div | divn | rem | remn | min | max | minn | maxn | slt | sltn | seq =>
    simp only [exec, execAdd, execSub, execAnd, execOr, execXor, execShl, execShr, execSra, execMul, execMulh, execMulhn, execDiv, execDivn,
      execRem, execRemn, execMin, execMax, execMinn, execMaxn, execSlt, execSltn, execSeq, State.alu_answers]
  | fadd | fsub | fmul | fma | fmin | fmax | fcmpEq | fcmpLt | fcmpLe | fcmpUn =>
    simp only [exec, execFadd, execFsub, execFmul, execFma, execFmin, execFmax, execFcmpEq, execFcmpLt, execFcmpLe, execFcmpUn, State.fpu_answers]
  | fcvtF32I32 | fcvtF32N32 | fcvtF32I64 | fcvtF32N64 | fcvtF32Bf16 | fcvtF32F16 | fcvtBf16F32 | fcvtF16F32 =>
    simp only [exec, execFcvtF32I32, execFcvtF32N32, execFcvtF32I64, execFcvtF32N64, execFcvtF32Bf16, execFcvtF32F16, execFcvtBf16F32,
      execFcvtF16F32, State.cvtToFloat_answers]
  | fcvtI32F32 | fcvtN32F32 | fcvtI64F32 | fcvtN64F32 =>
    simp only [exec, execFcvtI32F32, execFcvtN32F32, execFcvtI64F32, execFcvtN64F32, State.cvtToInt_answers]
  | amoAdd | amoAnd | amoOr | amoXor | amoMin | amoMax | amoMinn | amoMaxn | amoSwap | amoFadd | cas =>
    simp only [exec, execAmoAdd, execAmoAnd, execAmoOr, execAmoXor, execAmoMin, execAmoMax, execAmoMinn, execAmoMaxn, execAmoSwap, execAmoFadd,
      execCas, State.atomic_answers]
  | hwait | hroom | hpop | hpush =>
    simp only [exec, execHwait, execHroom, execHpop, execHpush, State.handleWord_answers]
  | hget =>
    simp only [exec, execHget, State.handleStatus_answers]
  | done | nop | trap | mtcFpflags | mtcHen | mtcResume | mtcTimer | mtcFpop | meter | atime | registerWrite | timeFlitReceive =>
    simp only [exec, execDone, execNop, execTrap, execMtcFpflags, execMtcHen, execMtcResume, execMtcTimer, execMtcFpop, execMeter, execAtime,
      execRegisterWrite, execTimeFlitReceive, State.complete_answers, State.raise_answers, answers_next]
  | time | lhi =>
    simp only [exec, execTime, execLhi, State.writes_answers]
  | ret | jmp | call =>
    simp only [exec, execRet, execJmp, execCall, State.transfer_answers]
  | addi | andi | ori | xori | shli | shri | srai | slti =>
    simp only [exec, execAddi, execAndi, execOri, execXori, execShli, execShri, execSrai, execSlti, State.aluImm_answers]
  | prd | prdC | pset =>
    simp only [exec, execPrd, execPrdC, execPset, State.gatherWord_answers]
  | ldB | ldH | ldW | ldD | ldBN | ldHN | ldWN =>
    simp only [exec, execLdB, execLdH, execLdW, execLdD, execLdBN, execLdHN, execLdWN, State.load_answers]
  | stB | stH | stW | stD =>
    simp only [exec, execStB, execStH, execStW, execStD, State.store_answers]
  | bEq | bNe | bLt | bGe | bLtn | bGen =>
    simp only [exec, execBEq, execBNe, execBLt, execBGe, execBLtn, execBGen, State.branch_answers]
  | bindr | bindw | bindg | binds | bindc =>
    simp only [exec, execBindr, execBindw, execBindg, execBinds, execBindc, State.bindTo_answers]
  | bindf | weir | ctl =>
    simp only [exec, execBindf, execWeir, execCtl, State.toPort_answers]
  | gbind | gbindDetach =>
    simp only [exec, execGbind, execGbindDetach, State.toGauge_answers]
  | mload | mswap | mrow | mcol | moriginFixed | moriginWalk | mmask =>
    simp only [exec, execMload, execMswap, execMrow, execMcol, execMoriginFixed, execMoriginWalk, execMmask, State.toChannel_answers]
  | chunkSend | chunkRecv | red | redc | chunkCopy | a2a | signal =>
    simp only [exec, execChunkSend, execChunkRecv, execRed, execRedc, execChunkCopy, execA2a, execSignal, State.nodeStep_answers]
  | gload | replay | gfree | gstat =>
    simp only [exec, execGload, execReplay, execGfree, execGstat, State.cascadeJob_answers]
  | rwrite | rread =>
    simp only [exec, execRwrite, execRread, State.roceJob_answers]
  | copy | copyi | fill =>
    simp only [exec, execCopy, execCopyi, execFill, State.copyStep_answers]
  | wset | gread | gpol | gclr =>
    simp only [exec, execWset, execGread, execGpol, execGclr, State.weirJob_answers]
  | portTakeToken | mamoAccess =>
    simp only [exec, execPortTakeToken, execMamoAccess, State.portWriteEvent_answers]
  | cellAdd | cellSub | cellMul | cellFma | cellMin | cellMax | cellAbs | cellNeg | cellAnd | cellOr | cellXor | cellShl | cellShr | cellSra |
    cellCmp | cellSel | cellMov | cellScale | cellPopc | cellClz | cellCvt | cellQnt | cellDqn | cellAcc | cellRunacc | cellCnt | cellRcpe | cellPoolc
    | cellStat | cellNfin =>
    simp only [exec, execCellAdd, execCellSub, execCellMul, execCellFma, execCellMin, execCellMax, execCellAbs, execCellNeg, execCellAnd,
      execCellOr, execCellXor, execCellShl, execCellShr, execCellSra, execCellCmp, execCellSel, execCellMov, execCellScale, execCellPopc,
      execCellClz, execCellCvt, execCellQnt, execCellDqn, execCellAcc, execCellRunacc, execCellCnt, execCellRcpe, execCellPoolc, execCellStat,
      execCellNfin, State.fireWith_answers]
  | xfnGrant =>
    simp only [exec, execXfnGrant, State.grant_answers]
  | routerPass | routerSteer | routerMerge | routerCarry | routerRepeat | routerDrop =>
    simp only [exec, execRouterPass, execRouterSteer, execRouterMerge, execRouterCarry, execRouterRepeat, execRouterDrop, State.routerStep_answers]
  | rmwFadd | rmwIadd | rmwFmax =>
    simp only [exec, execRmwFadd, execRmwIadd, execRmwFmax, State.rmwEvent_answers]
  | asidLive | asidRelease | group | channel | queuePrivilege | saveArea | asidDebug =>
    simp only [exec, execAsidLive, execAsidRelease, execGroup, execChannel, execQueuePrivilege, execSaveArea, execAsidDebug,
      State.rootRequest_answers]
  | attach | detach | breakArm | breakDisarm | debugStop | debugResume | debugRead | debugTrace | debugUntrace =>
    simp only [exec, execAttach, execDetach, execBreakArm, execBreakDisarm, execDebugStop, execDebugResume, execDebugRead, execDebugTrace,
      execDebugUntrace, State.mgmtRequest_answers]
  | getVersion | getCapabilities =>
    simp only [exec, execGetVersion, execGetCapabilities, State.spdmSay_answers]
  | getDigests | getCertificate | challenge | getMeasurements =>
    simp only [exec, execGetDigests, execGetCertificate, execChallenge, execGetMeasurements, State.spdmAfter_answers]
  | _ => simp [exec]

/-- Settles O7: the host accesses by whether their range leaves device memory, every other instruction by `exec_answers`. -/
theorem alwaysNext : Obligations.AlwaysNext := by
  intro i s
  by_cases hload : ∃ a n, i = .hostMemLoad a n
  · obtain ⟨a, n, rfl⟩ := hload
    rcases Nat.lt_or_ge deviceBytes (a + n) with hout | hin
    · exact .inr ⟨execHostMemLoad_outside a n s hout, .inl ⟨a, n, rfl, hout⟩⟩
    · exact .inl (execHostMemLoad_answers a n s hin)
  by_cases hstore : ∃ a bs, i = .hostMemStore a bs
  · obtain ⟨a, bs, rfl⟩ := hstore
    rcases Nat.lt_or_ge deviceBytes (a + bs.length) with hout | hin
    · exact .inr ⟨execHostMemStore_outside a bs s hout, .inr ⟨a, bs, rfl, hout⟩⟩
    · exact .inl (execHostMemStore_answers a bs s hin)
  exact .inl (exec_answers i s (fun a n h => hload ⟨a, n, h⟩) (fun a bs h => hstore ⟨a, bs, h⟩))

end Sys2Proof.Machine
end

section
/-! SUPPORT and PROOF of O24. Where a region stands in its course is its step, its iteration, its step number and the word of handler 0.
A splice sets the four of them, and what it then does (nodes install the step's words, a spill window that fails to latch faults, the
following step's image is asked for) leaves all four as they are, in every region. -/
namespace Sys2Proof.Machine

/-! ### Where a region stands in its course -/

/-- The step, the iteration, the step number and the position of handler 0 (R65, R128). -/
def Region.coursePlace (r : Region) : BitVec 4 × Word × Nat × Nat := (r.cc, r.ic, r.stepNo, (r.handler 0).ia)

/-- Every region stands in t where it stands in s. -/
def State.SamePlaces (s t : State) : Prop := ∀ q, (t.region q).coursePlace = (s.region q).coursePlace

theorem State.SamePlaces.refl (s : State) : s.SamePlaces s := fun _ => rfl
theorem State.SamePlaces.trans {s t u : State} (h : s.SamePlaces t) (k : t.SamePlaces u) : s.SamePlaces u :=
  fun q => (k q).trans (h q)

theorem State.samePlaces_of_regions {s t : State} (h : t.regions = s.regions) : s.SamePlaces t :=
  fun q => by simp only [State.region, h]

/-- A write of a region keeps the places when it keeps the region's own. -/
theorem State.setRegion_samePlaces {s : State} {p : Nat} {r : Region} (h : r.coursePlace = (s.region p).coursePlace) :
    s.SamePlaces (s.setRegion p r) := by
  intro q
  by_cases hq : q = p
  · subst hq
    rw [State.setRegion_region, h]
  · rw [State.setRegion_region_other _ _ _ _ hq]

theorem foldl_samePlaces {α : Type} (f : State → α → State) (hf : ∀ (s : State) a, s.SamePlaces (f s a)) (l : List α) (s : State) :
    s.SamePlaces (l.foldl f s) := by
  induction l generalizing s with
  | nil => exact .refl s
  | cons a l ih => exact (hf s a).trans (ih _)

/-- A change of handler 0 that leaves its position leaves the region's place. -/
theorem Region.setHandler_coursePlace (r : Region) (h : Handler) (hia : h.ia = (r.handler 0).ia) :
    (r.setHandler 0 h).coursePlace = r.coursePlace := by
  simp [Region.coursePlace, hia]

/-- A change of every listed handler that leaves its position, with step, iteration and step number kept, leaves the region's place. -/
theorem Region.coursePlace_of_handlers_map {r t : Region} (f : Handler → Handler) (hf : ∀ h, (f h).ia = h.ia)
    (ht : t.handlers = r.handlers.map fun e => (e.1, f e.2)) (h : (t.cc, t.ic, t.stepNo) = (r.cc, r.ic, r.stepNo)) :
    t.coursePlace = r.coursePlace := by
  have hia : (t.handler 0).ia = (r.handler 0).ia := by
    have hm := Tbl.find_map r.handlers (fun _ => f) 0
    simp only [Region.handler, Tbl.look, ht, hm]
    cases Tbl.find r.handlers 0 with
    | none => rfl
    | some h => exact hf h
  simp only [Prod.mk.injEq] at h
  obtain ⟨hcc, hic, hn⟩ := h
  simp only [Region.coursePlace, hcc, hic, hn, hia]

@[simp] theorem Region.hold_coursePlace (r : Region) : r.hold.coursePlace = r.coursePlace := by
  unfold Region.hold
  repeat' split
  all_goals rfl

@[simp] theorem Region.wantSlot_coursePlace (r : Region) (idx : Nat) : (r.wantSlot idx).coursePlace = r.coursePlace := by
  unfold Region.wantSlot
  repeat' split
  all_goals rfl

/-! ### A fault, and the end of a course, leave the places (R144, R421, R435) -/

theorem State.startDone_samePlaces (s : State) (p : Nat) (k : Bool) : s.SamePlaces (s.startDone p k) := by
  intro q
  by_cases hq : q = p
  · subst hq
    obtain ⟨-, -, -, hhandlers⟩ := State.startDone_region s q k
    exact Region.coursePlace_of_handlers_map (fun h => { h with st := .stopped, wait := .none, latch := none }) (fun _ => rfl) hhandlers
      (by simp [State.startDone])
  · rw [State.startDone_region_other _ _ _ _ hq]

theorem State.endInstance_samePlaces (s : State) (p : Nat) : s.SamePlaces (s.endInstance p) := by
  have hfail : s.SamePlaces (s.markFailed p) := State.samePlaces_of_regions rfl
  simp only [State.endInstance]
  split
  · exact hfail.trans (State.startDone_samePlaces _ _ _)
  · refine hfail.trans (foldl_samePlaces _ (fun u q => ?_) _ _)
    split
    · exact State.startDone_samePlaces _ _ _
    · exact .refl u

theorem State.stopRegion_samePlaces (s : State) (p : Nat) : s.SamePlaces (s.stopRegion p) := by
  simp only [State.stopRegion]
  split
  · exact State.setRegion_samePlaces rfl
  split
  · exact .refl s
  have hstop : s.SamePlaces (({ s with well := s.well.freeRooms p none (s.region p).handlers } : State).setRegion p
      { (s.region p).setMode .stopped with
        handlers := (s.region p).handlers.map fun e => (e.1, { e.2 with st := .stopped, wait := .none }) }) :=
    (State.samePlaces_of_regions rfl).trans (State.setRegion_samePlaces
      (Region.coursePlace_of_handlers_map (fun h => { h with st := .stopped, wait := .none }) (fun _ => rfl) rfl (by simp [State.region])))
  refine hstop.trans ?_
  repeat' split
  · exact State.samePlaces_of_regions rfl
  · exact State.endInstance_samePlaces _ _
  · exact State.endInstance_samePlaces _ _

theorem State.logTo_regions (s : State) (a kind place : Nat) (tells : List Nat) : (s.logTo a kind place tells).regions = s.regions := by
  simp only [State.logTo]
  repeat' split
  all_goals rfl

theorem State.trace_samePlaces (s : State) (p kind place : Nat) (tells : List Nat) (hit : Trace → Bool) :
    s.SamePlaces (s.trace p kind place tells hit) := by
  refine foldl_samePlaces _ (fun u e => ?_) _ _
  dsimp only
  split
  · exact foldl_samePlaces _ (fun v _ => State.samePlaces_of_regions (State.logTo_regions _ _ _ _ _)) _ _
  · exact .refl u

theorem State.faultSeen_samePlaces (s : State) (p : Nat) (w : BitVec 256) : s.SamePlaces (s.faultSeen p w) := by
  simp only [State.faultSeen]
  refine State.SamePlaces.trans ?_ (State.trace_samePlaces _ _ _ _ _ _)
  split
  · exact State.setRegion_samePlaces (Region.hold_coursePlace _)
  · exact .refl s

theorem State.enterFault_samePlaces (s : State) (p : Nat) (w : BitVec 256) : s.SamePlaces (s.enterFault p w) := by
  simp only [State.enterFault]
  split
  · exact .refl s
  split
  · split
    · refine .trans ?_ (State.faultSeen_samePlaces _ _ _)
      exact State.setRegion_samePlaces rfl
    · exact State.setRegion_samePlaces rfl
  split
  · exact State.stopRegion_samePlaces _ _
  split
  · refine .trans ?_ (State.faultSeen_samePlaces _ _ _)
    exact State.setRegion_samePlaces rfl
  · refine .trans (.trans ?_ (State.faultSeen_samePlaces _ _ _)) (State.stopRegion_samePlaces _ _)
    exact State.setRegion_samePlaces rfl

theorem State.unitFault_samePlaces (s : State) (p : Nat) (c : Cause) (unit coord detail addr token : Nat) (tkind : Option Nat) (sel : Nat) :
    s.SamePlaces (s.unitFault p c unit coord detail addr token tkind sel) :=
  State.enterFault_samePlaces _ _ _

/-! ### Latching windows reads tables only (R322, R325) -/

theorem State.walkOne_regions (s : State) (d : Nat) (asid : BitVec 16) (va : Nat) : (s.walkOne d asid va).2.regions = s.regions := by
  simp only [State.walkOne]
  split <;> rfl

theorem State.walkDown_regions (s : State) (d : Nat) (asid : BitVec 16) (va n : Nat) : (s.walkDown d asid va n).regions = s.regions := by
  induction n generalizing s with
  | zero => rfl
  | succ n ih =>
    have hone := State.walkOne_regions s d asid va
    simp only [State.walkDown]
    split
    · next hw => rw [ih, ← hone, hw]
    · rfl

theorem State.walkRange_regions (d : Nat) (asid : BitVec 16) (fuel va left : Nat) (acc : Option (Nat × Bool × Bool)) (s : State) :
    (State.walkRange d asid fuel va left acc s).2.regions = s.regions := by
  induction fuel generalizing va left acc s with
  | zero => rfl
  | succ n ih =>
    have hwalk : ((s.walkDown d asid va 4).walkOne d asid va).2.regions = s.regions :=
      (State.walkOne_regions _ _ _ _).trans (State.walkDown_regions _ _ _ _ _)
    simp only [State.walkRange]
    split
    · rfl
    split
    · next e s1 hw =>
      have hs1 : s1.regions = s.regions := by rw [hw] at hwalk; exact hwalk
      repeat' split
      all_goals simp only [ih, hs1]
    · next hw => rw [hw] at hwalk; exact hwalk

theorem State.latchWindow_regions (s : State) (d : Nat) (asid : BitVec 16) (w : WindowRec) :
    (s.latchWindow d asid w).2.regions = s.regions := by
  have hr := State.walkRange_regions d asid (w.len / 4096) w.base w.len none s
  simp only [State.latchWindow]
  split
  · next hw => rw [hw] at hr; exact hr
  · next hw => rw [hw] at hr; exact hr

theorem State.latchWindows_regions (d : Nat) (asid : BitVec 16) (l : List WindowRec) (acc : List Window) (s : State) :
    (State.latchWindows d asid l acc s).2.regions = s.regions := by
  induction l generalizing acc s with
  | nil => rfl
  | cons w t ih => exact (ih _ _).trans (State.latchWindow_regions _ _ _ _)

/-! ### Nodes that go on to a step leave the places (R129, R325) -/

theorem Region.refuseStep_coursePlace (r : Region) (num : Nat) : (r.refuseStep num).coursePlace = r.coursePlace :=
  Region.setHandler_coursePlace r _ rfl

theorem State.installPort_samePlaces (s : State) (p n : Nat) (x : StepSlot) (recs : List ConfRec) (w : CellWord) (ro : RouterWord) :
    s.SamePlaces (s.installPort p n x recs w ro) := by
  simp only [State.installPort]
  have hlatch := fun l => State.samePlaces_of_regions (State.latchWindows_regions (dieOfPlace p) (s.region p).asid l [] s)
  split
  · refine .trans (.trans ?_ (State.setRegion_samePlaces (Region.refuseStep_coursePlace _ _))) (State.unitFault_samePlaces _ _ _ _ _ _ _ _ _ _)
    exact hlatch _
  · refine .trans ?_ (State.setRegion_samePlaces ?_)
    · exact hlatch _
    · rfl

theorem State.advanceIn_samePlaces (s : State) (p node : Nat) (l : List StepSlot) (last : Option Nat) :
    s.SamePlaces (s.advanceIn p node l last) := by
  induction l generalizing last with
  | nil =>
    cases last with
    | none => exact .refl s
    | some num =>
      simp only [State.advanceIn]
      repeat' split
      · exact .refl s
      · exact State.setRegion_samePlaces rfl
      · exact .refl s
      · exact State.setRegion_samePlaces rfl
  | cons x t ih =>
    simp only [State.advanceIn]
    split
    · exact .refl s
    split
    · exact State.setRegion_samePlaces rfl
    · exact State.installPort_samePlaces _ _ _ _ _ _ _
    · exact ih _

theorem State.advanceNode_samePlaces (s : State) (p node : Nat) : s.SamePlaces (s.advanceNode p node) := by
  simp only [State.advanceNode]
  split
  · exact State.advanceIn_samePlaces _ _ _ _ _
  · exact .refl s

theorem State.advanceAll_samePlaces (s : State) (p : Nat) : s.SamePlaces (s.advanceAll p) :=
  foldl_samePlaces _ (fun u n => State.advanceNode_samePlaces u p n) _ _

theorem State.preload_samePlaces (s : State) (p : Nat) : s.SamePlaces (s.preload p) := by
  simp only [State.preload]
  split
  · exact State.setRegion_samePlaces (Region.wantSlot_coursePlace _ _)
  · exact .refl s

theorem State.pruneSteps_samePlaces (s : State) (p : Nat) : s.SamePlaces (s.pruneSteps p) := State.setRegion_samePlaces rfl

/-! ### A splice (R65, R128) -/

theorem State.dropLoose_samePlaces (s : State) (p : Nat) : s.SamePlaces (s.dropLoose p) := by
  have hrelease : ∀ (u : State) (c : Nat), u.SamePlaces (u.releaseGraph c) := fun _ _ => State.samePlaces_of_regions rfl
  simp only [State.dropLoose]
  refine .trans ?_ (foldl_samePlaces _ hrelease _ _)
  exact State.setRegion_samePlaces rfl

/-- Handler 0 starts at word 0, whether or not a breakpoint holds the region. -/
theorem State.startStep_coursePlace (s : State) (p : Nat) :
    ((s.startStep p).region p).coursePlace = ((s.region p).cc, (s.region p).ic, (s.region p).stepNo, 0) := by
  simp only [State.startStep]
  split
  · simp only [State.setRegion_region, Region.hold_coursePlace]
    simp [Region.coursePlace]
  · simp [Region.coursePlace]

/-- A splice leaves its region at word 0 of the step, with the iteration given and the step number one higher: also where a pre-emption
takes the splice point, for handler 0 then stops there (R427). -/
theorem State.splice_coursePlace (s : State) (p k idx : Nat) (ic : Word) :
    ((s.splice p k idx ic).region p).coursePlace = (BitVec.ofNat 4 idx, ic, (s.region p).stepNo + 1, 0) := by
  have hloose : ((s.dropLoose p).region p).stepNo = (s.region p).stepNo :=
    congrArg (·.2.2.1) (State.dropLoose_samePlaces s p p)
  simp only [State.splice]
  split
  · simp [Region.coursePlace, Region.handler, Region.setHandler, hloose]
  · rw [State.pruneSteps_samePlaces _ _ _, State.preload_samePlaces _ _ _, State.advanceAll_samePlaces _ _ _,
      State.startStep_coursePlace]
    simp [hloose]

/-! ### The words of a course (R164, R166) -/

/-- `next` towards a step whose image stands loaded, and is not refused, splices it. -/
theorem State.spliceWord_eq_splice (s : State) (idx : Nat) (ic : Word) (x : StepSlot) (hq : s.mine.atimeQueued = false)
    (hc : s.cutOpen s.cur.1 = false) (hp : s.mine.atSplice = false) (hn : s.stepsHeld s.cur.1 < 3) (hx : s.mine.nextSlot = some x)
    (hi : x.idx = idx) (him : x.image = s.mine.image) (hl : x.loaded = true) (hr : x.refused = false) :
    s.spliceWord idx ic = .next (s.splice s.cur.1 0 idx ic) := by
  have hroom : ¬ 3 ≤ s.stepsHeld s.cur.1 := by omega
  simp only [State.spliceWord, hq, hc, hp, hx, hi, him, hl, hr, Bool.or_self, Bool.not_true, Bool.false_eq_true, if_false, ne_eq,
    not_true_eq_false, or_self]
  rw [if_neg hroom]

/-- `next` of handler 0 goes on to the step that follows. -/
theorem execNext_of_following (s : State) (idx : Nat) (ic : Word) (h0 : s.cur.2 = 0) (hf : s.following s.cur.1 = some (idx, ic)) :
    execNext s = s.spliceWord idx ic := by
  simp only [execNext, h0, hf, ne_eq, not_true_eq_false, if_false]

/-- `next` of handler 0 at the end of the course is `done`. -/
theorem execNext_at_end (s : State) (h0 : s.cur.2 = 0) (hf : s.following s.cur.1 = none) (hq : s.mine.atimeQueued = false)
    (hc : s.cutOpen s.cur.1 = false) : execNext s = .next (s.startDone s.cur.1 false) := by
  simp only [execNext, h0, hf, hq, hc, ne_eq, not_true_eq_false, Bool.or_self, Bool.false_eq_true, if_false]

theorem execNext_of_handler (s : State) (h : s.cur.2 ≠ 0) : execNext s = s.raiseIllegal := if_pos h

theorem execGoto_of_bound (s : State) (t : BitVec 4) (img : Image) (him : s.imageOf s.mine = some img) (hb : img.steps.length ≤ t.toNat) :
    execGoto t s = s.raise .stepBound 0 0 := by
  simp only [execGoto, him]
  exact if_pos hb

/-- `goto` of a step whose image the load check does not refuse splices it. -/
theorem execGoto_eq_splice (s : State) (t : BitVec 4) (img : Image) (him : s.imageOf s.mine = some img) (ht : t.toNat < img.steps.length)
    (hq : s.mine.atimeQueued = false) (hc : s.cutOpen s.cur.1 = false) (hp : s.mine.atSplice = false) (hn : s.stepsHeld s.cur.1 < 3)
    (hok : ∀ y e, ((s.setRegion s.cur.1 (s.mine.wantSlot t.toNat)).region s.cur.1).nextSlot = some y →
      (s.setRegion s.cur.1 (s.mine.wantSlot t.toNat)).slotCheck y ≠ .error e) :
    execGoto t s = .next
      (((s.setRegion s.cur.1 (s.mine.wantSlot t.toNat)).gotoFrom s.cur.1 s.cur.2).splice s.cur.1 s.cur.2 t.toNat s.mine.ic) := by
  simp only [execGoto, him]
  have hinside : ¬ img.steps.length ≤ t.toNat := by omega
  have hsteady : ¬ (s.mine.atimeQueued || s.cutOpen s.cur.1 || s.mine.atSplice) = true := by rw [hq, hc, hp]; decide
  rw [if_neg hinside, if_neg hsteady]
  split
  · next e hbad =>
    obtain ⟨y, hy, he⟩ := Option.map_eq_some_iff.mp hbad
    exact absurd he (hok y e hy)
  · rw [if_neg (by omega)]

/-- Settles O24: the outcomes by the branches of the two words, and the place that a splice leaves by what its parts keep of it. -/
theorem courseWords : Obligations.CourseWords := by
  intro s t4 img idx ic x
  refine ⟨?next, ?goto, ?spliced, ?courseEnd, ?handler, ?bound⟩
  case next =>
    intro h0 hf ⟨hq, hc, hp, hn⟩ hx hi him hl hr
    exact (execNext_of_following s idx ic h0 hf).trans (State.spliceWord_eq_splice s idx ic x hq hc hp hn hx hi him hl hr)
  case goto =>
    intro him ht ⟨hq, hc, hp, hn⟩ hok
    exact execGoto_eq_splice s t4 img him ht hq hc hp hn hok
  case spliced =>
    intro s2 j _
    have h := State.splice_coursePlace s2 s.cur.1 j idx ic
    simpa only [Region.coursePlace, Prod.mk.injEq] using h
  case courseEnd => exact execNext_at_end s
  case handler => exact fun h => ⟨_, execNext_of_handler s h⟩
  case bound => exact execGoto_of_bound s t4 img

end Sys2Proof.Machine
end

section
/-! SUPPORT and PROOF of O37. What a register of a launch queue or of the sluice takes: the word at offset 0x08 of a queue has one
equation per case of R108, and the events that write it, the doorbell and the sluice registers follow from theirs. -/
namespace Sys2Proof.Machine

/-! ### The word at offset 0x08 of a queue (R108) -/

/-- A queue with the fields of the word stored as written, and not enabled. -/
def Queue.storing (k : Queue) (n : Nat) : Queue :=
  { k with en := false, loc := bit n 29, weight := fld n 20 4, logsz := fld n 16 4 }

/-- Whether an enabling word is refused: no weight, a ring size outside 2^4 to 2^12, or a reserved bit. -/
def enableRefused (n : Nat) : Prop :=
  fld n 20 4 = 0 ∨ fld n 16 4 < 4 ∨ 12 < fld n 16 4 ∨ n / 2 ^ 32 ≠ 0 ∨ fld n 24 5 ≠ 0 ∨ fld n 1 15 ≠ 0

@[simp] theorem Die.pruneLaunches_queue (x : Die) (q : Nat) : x.pruneLaunches.queue q = x.queue q := rfl

section
variable {s : State} {d q : Nat} {v : DWord}

/-- Enabling empties the ring, and no record comes before its first. -/
theorem State.queueConfig_of_enable (hk : ((s.die d).queue q).en = false) (hv : bit v.toNat 31 = true) (hok : ¬ enableRefused v.toNat) :
    s.queueConfig d q v = s.setDie d (Die.pruneLaunches ((s.die d).setQueue q
      { ((s.die d).queue q).storing v.toNat with en := true, err := false, head := 0, tail := 0, last := none })) := by
  simp only [State.queueConfig, hk, hv, Bool.false_and, Bool.not_true, Bool.false_eq_true, if_false]
  exact if_neg hok

theorem State.queueConfig_of_refused (hk : ((s.die d).queue q).en = false) (hv : bit v.toNat 31 = true) (hbad : enableRefused v.toNat) :
    s.queueConfig d q v = s.setDie d ((s.die d).setQueue q { ((s.die d).queue q).storing v.toNat with err := true }) := by
  simp only [State.queueConfig, hk, hv, Bool.false_and, Bool.not_true, Bool.false_eq_true, if_false]
  exact if_pos hbad

theorem State.queueConfig_of_disable (hk : ((s.die d).queue q).en = true) (hv : bit v.toNat 31 = false) :
    s.queueConfig d q v = (s.setDie d ((s.die d).setQueue q (((s.die d).queue q).storing v.toNat))).cancelQueue d q := by
  simp only [State.queueConfig, hk, hv, Bool.and_false, Bool.false_eq_true, if_false, if_true]
  rfl

/-- A word that keeps EN set takes a weight other than 0, and nothing else. -/
theorem State.queueConfig_of_enabled (hk : ((s.die d).queue q).en = true) (hv : bit v.toNat 31 = true) :
    s.queueConfig d q v = s.setDie d ((s.die d).setQueue q { (s.die d).queue q with
      weight := if fld v.toNat 20 4 = 0 then ((s.die d).queue q).weight else fld v.toNat 20 4 }) := by
  simp only [State.queueConfig, hk, hv, Bool.and_self, if_true]

/-! ### The events of a queue's registers (R108, R109) -/

theorem execQueueEnable_eq (hq : q < 32) (hk : ((s.die d).queue q).en = false) (hv : bit v.toNat 31 = true) :
    execQueueEnable d q v s = .next (s.queueConfig d q v) := by
  simp [execQueueEnable, hq, hk, hv]

theorem execQueueDisable_eq (hk : ((s.die d).queue q).en = true) (hv : bit v.toNat 31 = false) :
    execQueueDisable d q v s = .next (s.queueConfig d q v) := by
  simp [execQueueDisable, hk, hv]

theorem execQueueRegisterWrite_base (hq : q < 32) :
    execQueueRegisterWrite d q 0x00 v s = .next (if ((s.die d).queue q).en then s
      else s.setDie d ((s.die d).setQueue q { (s.die d).queue q with qbase := fld v.toNat 7 45 })) := by
  simp [execQueueRegisterWrite, Nat.not_le_of_lt hq]

theorem execQueueRegisterWrite_config (hq : q < 32) (hk : ((s.die d).queue q).en = bit v.toNat 31) :
    execQueueRegisterWrite d q 0x08 v s = .next (s.queueConfig d q v) := by
  simp [execQueueRegisterWrite, Nat.not_le_of_lt hq, hk]

/-- A doorbell of a queue that is served moves TAIL, or stops the queue when it posts more than a ring of records. -/
theorem execTailDoorbell_eq {tail : BitVec 32} (hq : q < 32) (hk : ((s.die d).queue q).en = true) (he : ((s.die d).queue q).err = false) :
    execTailDoorbell d q tail s = if 2 ^ ((s.die d).queue q).logsz < (tail - ((s.die d).queue q).head).toNat
      then .next (s.setDie d ((s.die d).setQueue q { (s.die d).queue q with err := true }))
      else .next (s.setDie d ((s.die d).setQueue q { (s.die d).queue q with tail := tail })) := by
  simp [execTailDoorbell, Nat.not_le_of_lt hq, hk, he]

end

/-! ### The registers of the sluice (R110, R424, R440) -/

/-- The registers without a behaviour of their own, each with the die that a write leaves. -/
def Die.registerWrites (x : Die) (v : BitVec 64) : List (Nat × Die) :=
  [(0x0000, { x with inbw := v.toNat % 16 }), (0x0008, { x with stallMax := v.setWidth 32 }), (0x0010, { x with admwd := v.setWidth 32 }),
    (0x0018, x), (0x0020, { x with snapTo := v.setWidth 32 }), (0x0028, { x with splTo := v.setWidth 32 }), (0x0030, x),
    (0x0038, { x with autop := bit v.toNat 16 }), (0x0050, { x with retTo := v.setWidth 32 }), (0x0058, { x with gateDly := v.setWidth 32 }),
    (0x0060, if 1 ≤ v.toNat % 2 ^ 9 ∧ v.toNat % 2 ^ 9 ≤ 256 then { x with pcap := v.toNat % 2 ^ 9 } else x)]

theorem execRegisterWrite_of_mem (s : State) (d : Nat) (v : BitVec 64) :
    ∀ e ∈ (s.die d).registerWrites v, execRegisterWrite d e.1 v s = .next (s.setDie d e.2) := by
  simp only [Die.registerWrites, List.forall_mem_cons]
  exact ⟨rfl, rfl, rfl, rfl, rfl, rfl, rfl, rfl, rfl, rfl, rfl, fun _ h => absurd h List.not_mem_nil⟩

/-- Settles O37, by the case of each write. -/
theorem queueRegisters : Obligations.QueueRegisters := by
  intro s d q v tail
  refine ⟨fun hq hk hv => ⟨?enable, ?refused⟩, ?disable, fun hq => ⟨?base, ?baseKept, ?weight, ?posted, ?tooMuch⟩, ?sluice⟩
  case enable =>
    intro hok
    refine ⟨_, (execQueueEnable_eq hq hk hv).trans (congrArg _ (State.queueConfig_of_enable hk hv hok)), rfl, ?_⟩
    simp only [State.setDie_die, Die.pruneLaunches_queue, Die.setQueue_queue, Queue.storing]
  case refused => exact fun hbad => (execQueueEnable_eq hq hk hv).trans (congrArg _ (State.queueConfig_of_refused hk hv hbad))
  case disable => exact fun hk hv => (execQueueDisable_eq hk hv).trans (congrArg _ (State.queueConfig_of_disable hk hv))
  case base => exact fun hk => (execQueueRegisterWrite_base hq).trans (congrArg _ (if_neg (by simp [hk])))
  case baseKept => exact fun hk => (execQueueRegisterWrite_base hq).trans (congrArg _ (if_pos hk))
  case weight =>
    intro hk hv
    exact (execQueueRegisterWrite_config hq (hk.trans hv.symm)).trans (congrArg _ (State.queueConfig_of_enabled hk hv))
  case posted => exact fun hk he hfits => (execTailDoorbell_eq hq hk he).trans (if_neg (Nat.not_lt_of_le hfits))
  case tooMuch => exact fun hk he hover => (execTailDoorbell_eq hq hk he).trans (if_pos hover)
  case sluice => exact execRegisterWrite_of_mem s d v

end Sys2Proof.Machine
end

section
/-! SUPPORT and PROOF of O6. The machine right after reset: every table is empty, so that each accessor gives its reset value, and a read
in the window of a die is a read of the die's reset registers. -/
namespace Sys2Proof.Machine

@[simp] theorem State.reset_die (d : Nat) : State.reset.die d = Die.reset := rfl
@[simp] theorem State.reset_region (p : Nat) : State.reset.region p = Region.free := rfl
@[simp] theorem State.reset_asidOf (a : Nat) : State.reset.asidOf a = AsidEntry.reset := rfl
@[simp] theorem State.reset_record (i : Nat) : State.reset.record i = GaugeRec.blank := rfl
@[simp] theorem Die.reset_queue (q : Nat) : Die.reset.queue q = Queue.reset := rfl
@[simp] theorem Die.reset_chan (c : Nat) : Die.reset.chan c = Channel.reset := rfl

/-- The window of a die in BAR0 (R108, R110). -/
theorem State.readBar0_die (s : State) (d off : Nat) (hd : d < 4) (hoff : off < 0x10000) :
    s.readBar0 (0x10000 * d + off) = BitVec.ofNat 64 ((s.die d).readAt off) := by
  have hin : 0x10000 * d + off < 0x40000 := by omega
  have hdie : (0x10000 * d + off) / 0x10000 = d := by omega
  have hreg : (0x10000 * d + off) % 0x10000 = off := by omega
  simp only [State.readBar0, if_pos hin, hdie, hreg]

/-- The offsets and reset values of the registers of the sluice (R110, R424, R440). -/
def sluiceResets : List (Nat × Nat) :=
  [(0x0000, 4), (0x0008, 200), (0x0010, 10000), (0x0018, 0), (0x0020, 20), (0x0028, 50), (0x0030, 0), (0x0038, 0), (0x0048, 0),
    (0x0050, 1000), (0x0058, 100), (0x0060, 256), (0x0068, 0)]

theorem Die.reset_readAt : ∀ e ∈ sluiceResets, e.1 < 0x10000 ∧ Die.reset.readAt e.1 = e.2 := by decide

/-- Settles O6, by the reset value of each table. -/
theorem resetState : Obligations.ResetState := by
  refine ⟨?boot, ?memory, rfl, ?queues, ?asids, ?records, ?regions, ?channels, ?sluice⟩
  case boot => decide
  case memory => rfl
  case queues => intro d q; rw [State.reset_die, Die.reset_queue]; rfl
  case asids => intro a; rw [State.reset_asidOf]; rfl
  case records => intro i; rw [State.reset_record]; rfl
  case regions => intro p; rw [State.reset_region]; rfl
  case channels => intro d c; rw [State.reset_die, Die.reset_chan]; rfl
  case sluice =>
    intro d hd e he
    obtain ⟨hoff, hval⟩ := Die.reset_readAt e he
    rw [State.readBar0_die _ d e.1 hd hoff, State.reset_die, hval]

end Sys2Proof.Machine
end

section
/-! SUPPORT and PROOF of O38. The sluice takes records from rings and from its inbox, and messages reach their inboxes: each event's
equation where its guard holds. -/
namespace Sys2Proof.Machine

/-! ### Launch records (R109, R111) -/

/-- Where record HEAD of a ring lies. -/
def Queue.recordAt (k : Queue) : Nat := k.qbase * 128 + 128 * (k.head.toNat % 2 ^ k.logsz)

section
variable {s : State} {d q : Nat} (hq : q < 32) (hen : ((s.die d).queue q).en = true) (herr : ((s.die d).queue q).err = false)
  (hposted : ((s.die d).queue q).head ≠ ((s.die d).queue q).tail) (hroom : (s.die d).pendRoom = true)
include hq hen herr hposted hroom

theorem execSluiceTakeRecord_host (hloc : ((s.die d).queue q).loc = true) :
    execSluiceTakeRecord d q s = .next ((s.setDie d ((s.die d).setQueue q
      { (s.die d).queue q with head := ((s.die d).queue q).head + 1 })).takeRecord d
        (Memory.readLE s.mem (hostPa ((s.die d).queue q).recordAt) 128) q 0 none) := by
  simp [execSluiceTakeRecord, Queue.recordAt, hen, herr, hposted, hroom, Nat.not_le_of_lt hq, hloc]

/-- Owners give the two lines of a record in device memory back before it is read. -/
theorem execSluiceTakeRecord_device (hloc : ((s.die d).queue q).loc = false) :
    let s2 := (s.recallNow (lineOf ((s.die d).queue q).recordAt) false).recallNow (lineOf ((s.die d).queue q).recordAt + 1) false
    execSluiceTakeRecord d q s = .next ((s2.setDie d ((s2.die d).setQueue q
      { (s.die d).queue q with head := ((s.die d).queue q).head + 1 })).takeRecord d
        (Memory.readLE s2.mem ((s.die d).queue q).recordAt 128) q 0 none) := by
  simp [execSluiceTakeRecord, Queue.recordAt, hen, herr, hposted, hroom, Nat.not_le_of_lt hq, hloc]

end

theorem execSluiceInboxLaunch_of_read {s : State} {d n : Nat} {e : EngMsg} {c : DWord}
    (he : (s.die d).inbox.find? (fun m => (s.die d).holdOf m.hold == .admitted) = some e) (hroom : (s.die d).pendRoom = true)
    (hread : ((s.setDie d { s.die d with inbox := (s.die d).inbox.erase e }).readLaunch d e (e.opnd 0) ((s.die d).jobOf e).clk).1 = .ok (n, c)) :
    execSluiceInboxLaunch d s = .next ((((s.setDie d { s.die d with inbox := (s.die d).inbox.erase e }).readLaunch d e (e.opnd 0)
      ((s.die d).jobOf e).clk).2.takeRecord d n 32 e.p (some (e.asid, e.sys))).endInbox d e 0x00 c) := by
  simp only [execSluiceInboxLaunch, he, hroom, Bool.not_true, Bool.false_eq_true, if_false]
  split
  · next h => rw [h] at hread; cases hread
  · next h => rw [h] at hread; cases hread
  · next h => rw [h] at hread ⊢; cases hread; rfl

/-! ### Messages of the engines (R122, R124) -/

section
variable {s : State} {m : Nat} {e : EngMsg} (hm : s.ready m = some (.engine e))
include hm

theorem execEngineMessageArrive_malformed (hw : e.wellFormed = false) :
    execEngineMessageArrive m s = .next ((s.unpost m).refuseMessage e.die e) := by
  simp [execEngineMessageArrive, hm, hw]

theorem execEngineMessageArrive_taken (hw : e.wellFormed = true) (hh : ((s.unpost m).die e.die).holdOf e.hold ≠ .dropped) :
    execEngineMessageArrive m s = .next (((s.unpost m).enterInbox e.die e).giveJobs e.die) := by
  simp only [execEngineMessageArrive, hm, hw, beq_eq_false_iff_ne.mpr hh, Bool.not_true, Bool.false_eq_true, if_false]

end

/-- A handler that has been answered by a job. -/
def Region.latched (r : Region) (k st : Nat) (clk : DWord) : Region :=
  r.setHandler k { r.handler k with latch := some st, wait := .answered (BitVec.ofNat 64 st) clk 0 }

theorem Region.latched_handler (r : Region) (k st : Nat) (clk : DWord) : (r.latched k st clk).handler k =
    { r.handler k with latch := some st, wait := .answered (BitVec.ofNat 64 st) clk 0 } := Region.setHandler_handler _ _ _

theorem execEngineReplyArrive_of_posted {s : State} {m p k tag st : Nat} {clk : DWord} (hm : s.ready m = some (.reply p k tag st clk))
    (hw : (((s.unpost m).region p).handler k).wait = .posted) :
    execEngineReplyArrive m s =
      .next { (s.unpost m).setRegion p ((s.region p).latched k st clk) with agenda := .issue p :: s.agenda } := by
  simp only [execEngineReplyArrive, hm, hw, beq_self_eq_true, if_true]
  rfl

/-- Settles O38, by the equation of each event. -/
theorem launchRecords : Obligations.LaunchRecords := by
  intro s d q m p k tag st n e clk c
  refine ⟨?host, ?device, ?inbox, fun hm => ⟨?malformed, ?taken⟩, ?reply⟩
  case host => exact fun hq hen herr hposted hroom hloc => execSluiceTakeRecord_host hq hen herr hposted hroom hloc
  case device => exact fun hq hen herr hposted hroom hloc => execSluiceTakeRecord_device hq hen herr hposted hroom hloc
  case inbox => exact fun he hroom hread => execSluiceInboxLaunch_of_read he hroom hread
  case malformed => exact execEngineMessageArrive_malformed hm
  case taken => exact execEngineMessageArrive_taken hm
  case reply =>
    intro hm hw
    refine ⟨_, execEngineReplyArrive_of_posted hm hw, ?_⟩
    have hr : ({ (s.unpost m).setRegion p ((s.region p).latched k st clk) with agenda := .issue p :: s.agenda } : State).region p =
      (s.region p).latched k st clk := State.setRegion_region _ _ _
    rw [hr, Region.latched_handler]
    exact ⟨rfl, rfl, rfl, rfl⟩

end Sys2Proof.Machine
end

section
/-! SUPPORT and PROOF of O39. Holders arrive, are admitted and time out; launches age and are anchored: each event's equation where its
guard holds. -/
namespace Sys2Proof.Machine

/-! ### Holders (R125, R127, R385) -/

theorem execHolderArrive_of_ready {s : State} {m d : Nat} {h : Holder} (hm : s.ready m = some (.holder d h)) :
    execHolderArrive m s = .next ((s.unpost m).setDie d
      ({ s.die d with arrivals := (s.die d).arrivals ++ [{ h with since := s.tide }] }.admitArrivals ((s.die d).arrivals.length + 1))) := by
  simp only [execHolderArrive, hm, List.length_append, List.length_singleton]

/-- A die whose holder u has become h. -/
def Die.putHolder (x : Die) (u : Nat) (h : Holder) : Die := { x with holders := Tbl.put x.holders u h }

@[simp] theorem Die.putHolder_find (x : Die) (u : Nat) (h : Holder) : Tbl.find (x.putHolder u h).holders u = some h :=
  Tbl.find_put_same _ _ _

theorem Die.putHolder_holdOf (x : Die) (u : Nat) (h : Holder) : (x.putHolder u h).holdOf (some u) =
    if h.dropped then .dropped else if h.admitted then .admitted else .held := by
  simp only [Die.holdOf, Die.putHolder_find]

/-- A holder is late once it has been held for longer than ADMWD, when that is not 0. -/
theorem State.holderLate_of_held {s : State} {d : Nat} {h : Holder} (ha : h.admitted = false) (hd : h.dropped = false)
    (hw : (s.die d).admwd ≠ 0) (hlate : h.since + 8000000 * (s.die d).admwd.toNat < s.tide) : s.holderLate d h = true := by
  simp only [State.holderLate, micros, ha, hd, bne_iff_ne.mpr hw, Bool.not_false, Bool.true_and]
  exact decide_eq_true hlate

section
variable {s : State} {d u : Nat} {h : Holder} (hf : Tbl.find (s.die d).holders u = some h) (ha : h.admitted = false) (hd : h.dropped = false)
include hf ha hd

theorem execHolderAdmit_job (hedges : h.edges = []) (hjob : h.job = true) :
    execHolderAdmit d u s = .next ((s.setDie d ((s.die d).putHolder u { h with admitted := true })).giveJobs d) := by
  simp [execHolderAdmit, Die.putHolder, hf, ha, hd, hedges, hjob]

theorem execHolderAdmit_binding (hedges : h.edges = []) (hjob : h.job = false) :
    execHolderAdmit d u s = .next ((s.setDie d ((s.die d).putHolder u { h with admitted := true })).setRegion h.p
      { s.region h.p with lclk := maxClk (s.region h.p).lclk h.clk }) := by
  simp [execHolderAdmit, Die.putHolder, hf, ha, hd, hedges, hjob]

theorem execAdmissionTimeout_of_edges (hedges : h.edges ≠ []) (hw : (s.die d).admwd ≠ 0)
    (hlate : h.since + 8000000 * (s.die d).admwd.toNat < s.tide) :
    execAdmissionTimeout d u s = .next ((s.setDie d ((s.die d).putHolder u { h with dropped := true })).dropHolder d h) := by
  simp [execAdmissionTimeout, Die.putHolder, hf, hedges, State.holderLate_of_held ha hd hw hlate]

end

/-- A die whose arrival u has been dropped: it stands in the table without a footprint. -/
def Die.dropArrival (x : Die) (u : Nat) (h : Holder) : Die :=
  { x with arrivals := x.arrivals.filter fun a => a.id != u }.putHolder u { h with dropped := true, foots := [] }

theorem execAdmissionTimeout_of_arrival {s : State} {d u : Nat} {h : Holder} (hf : Tbl.find (s.die d).holders u = none)
    (hu : (s.die d).arrivals.find? (·.id == u) = some h) (ha : h.admitted = false) (hd : h.dropped = false) (hw : (s.die d).admwd ≠ 0)
    (hlate : h.since + 8000000 * (s.die d).admwd.toNat < s.tide) :
    execAdmissionTimeout d u s = .next ((s.setDie d (((s.die d).dropArrival u h).admitArrivals
      ((s.die d).dropArrival u h).arrivals.length)).dropHolder d h) := by
  simp [execAdmissionTimeout, Die.dropArrival, Die.putHolder, hf, hu, State.holderLate_of_held ha hd hw hlate]

/-! ### Launches that wait (R113, R114) -/

section
variable {s : State} {d u : Nat} {l : Launch} (hl : Tbl.find (s.die d).launches u = some l)
include hl

theorem execEffectiveClassAging_of_changed (hp : l.pending = true)
    (hc : effectiveClass l.recd.pri (s.tide - l.arrived) ≠ l.cls) :
    execEffectiveClassAging d u s = .next (s.setDie d { s.die d with
      launches := Tbl.put (s.die d).launches u { l with cls := effectiveClass l.recd.pri (s.tide - l.arrived) } }.turns) := by
  simp [execEffectiveClassAging, hl, hp, hc.symm]

theorem execLaunchAnchor_of_passedOver {t0 : Nat} (hs : l.since = some t0) (ha : l.anchored = false)
    (hlate : t0 + 8000000 * (s.die d).stallMax.toNat < s.tide) :
    execLaunchAnchor d u s = .next (s.setDie d { s.die d with
      launches := Tbl.put (s.die d).launches u { l with anchored := true } }) := by
  simp [execLaunchAnchor, micros, hl, hs, ha, hlate]

end

/-- Settles O39, by the equation of each event. -/
theorem admission : Obligations.Admission := by
  intro s d m u t0 h l
  refine ⟨execHolderArrive_of_ready, fun hf ha hd hedges => ⟨?job, ?binding⟩, ?edges, ?arrival, fun hl => ⟨?ages, ?anchored⟩⟩
  case job => exact execHolderAdmit_job hf ha hd hedges
  case binding =>
    intro hjob
    refine ⟨_, execHolderAdmit_binding hf ha hd hedges hjob, ?_, ?_, ?_, rfl⟩
    · simp only [State.setRegion_die, State.setDie_die, Die.putHolder_holdOf, hd, Bool.false_eq_true, if_false, if_true]
    · rw [State.setRegion_region]
    · rw [State.setRegion_region]
  case edges => exact execAdmissionTimeout_of_edges
  case arrival => exact execAdmissionTimeout_of_arrival
  case ages => exact execEffectiveClassAging_of_changed hl
  case anchored => exact execLaunchAnchor_of_passedOver hl

end Sys2Proof.Machine
end

section
/-! SUPPORT and PROOF of O40. Placement and a claim follow their guards. A region that has loaded an image counts it as loaded, with the
outcome of its check; what follows depends on where the region then stands. -/
namespace Sys2Proof.Machine

/-! ### Placement and claims (R113 to R115, R120) -/

theorem execPlaceInstance_of_fit {s : State} {d u o : Nat} {l : Launch} {tried rect : List Nat}
    (hn : s.nextPlacement d (s.die d).allowed [] = some (u, l, tried, o, rect)) (hon : (s.wakeClusters d rect).1 = true) (hr : l.resume = none) :
    execPlaceInstance d s = .next (((s.wakeClusters d rect).2.markPlaced d u tried).placeAt d u (l.todo.headD 0) o rect) := by
  simp only [execPlaceInstance, hn]
  split
  · next h => rw [h] at hon; cases hon
  · next h => simp [h, hr]

theorem execClaimAtCursor_of_ready {s : State} {m p k : Nat} (hm : s.ready m = some (.claim p k)) :
    execClaimAtCursor m s = .next (((s.unpost m).claim p false).2.answer (.handler p k)
      (BitVec.ofNat 64 ((s.unpost m).claim p false).1) 0 0 none) := by
  simp only [execClaimAtCursor, hm]

/-! ### A region has loaded the image of a step (R59, R117, R128) -/

/-- A region in which the image of step `num` counts as loaded, and as refused or not. -/
def Region.countLoaded (r : Region) (num : Nat) (refused : Bool) : Region :=
  { r with steps := r.steps.map fun y => if y.num = num then { y with loaded := true, refused := refused } else y }

/-- The state after a region has loaded and checked the image of a step: one that was only placed asks the homes of its declarations and
starts with its span, and a step that stands already installs. -/
def State.afterLoad (s : State) (p num : Nat) (refused : Bool) : State :=
  let s2 := s.setRegion p ((s.region p).countLoaded num refused)
  let s3 := if (s.region p).modeUnder == .placed then (s2.askHomes p).startTogether p
    else if num ≤ (s.region p).stepNo then s2.advanceAll p
    else s2
  { s3 with agenda := .issue p :: s3.agenda }

/-- A region that was only placed, or that moves, loads the images it waits for. -/
theorem Region.loads_of_mode {r : Region} (h : r.modeUnder = .placed ∨ r.moves = true) : (r.modeUnder != .placed && !r.moves) = false := by
  rcases h with h | h <;> simp [h]

section
variable {s : State} {p : Nat} {x : StepSlot} (hchain : s.chainReady p = false) (hx : (s.region p).steps.find? (fun y => !y.loaded) = some x)
  (hmode : (s.region p).modeUnder = .placed ∨ (s.region p).moves = true)
include hchain hx hmode

theorem execConfigImageLoaded_of_ok {recs : List ConfRec} (hok : s.slotCheck x = .ok recs) :
    execConfigImageLoaded p s = .next (s.afterLoad p x.num false) := by
  simp only [execConfigImageLoaded, hchain, hx, Region.loads_of_mode hmode, hok, Bool.false_eq_true, if_false, State.setRegion_region]
  rfl

theorem execConfigImageLoaded_of_error {e : ConfRefusal} (hbad : s.slotCheck x = .error e) :
    execConfigImageLoaded p s = .next ((s.unitFault p .config e.unit e.coord 0 0 0 none 0).afterLoad p x.num true) := by
  simp only [execConfigImageLoaded, hchain, hx, Region.loads_of_mode hmode, hbad, Bool.false_eq_true, if_false, State.setRegion_region]
  rfl

end

/-- An image of a later step of a course that has begun changes the region's record of it, and nothing else. -/
theorem State.afterLoad_of_later {s : State} {p num : Nat} (hm : (s.region p).modeUnder ≠ .placed) (hn : (s.region p).stepNo < num)
    (refused : Bool) : (s.afterLoad p num refused).mem = s.mem ∧
      (s.afterLoad p num refused).region p = (s.region p).countLoaded num refused := by
  simp only [State.afterLoad, beq_eq_false_iff_ne.mpr hm, Bool.false_eq_true, if_false, if_neg (Nat.not_le_of_lt hn)]
  exact ⟨rfl, State.setRegion_region _ _ _⟩

theorem State.afterLoad_of_placed {s : State} {p num : Nat} (hm : (s.region p).modeUnder = .placed) (refused : Bool) :
    let t := ((s.setRegion p ((s.region p).countLoaded num refused)).askHomes p).startTogether p
    s.afterLoad p num refused = { t with agenda := .issue p :: t.agenda } := by
  simp only [State.afterLoad, hm, beq_self_eq_true, if_true]

/-! ### An armed tide (R281) -/

/-- A region whose armed tides have come by a tide. -/
def Region.openSteps (r : Region) (tide : Nat) : Region :=
  { r with steps := r.steps.map fun y => if y.openAt ≤ tide then { y with openAt := 0 } else y }

theorem execAtimeRelease_of_reached {s : State} {p : Nat} (h : (s.region p).steps.any (fun y =>
      decide (y.num ≤ (s.region p).stepNo) && y.openAt != 0 && decide (y.openAt ≤ s.tide)) = true) :
    let t := (s.setRegion p ((s.region p).openSteps s.tide)).advanceAll p
    execAtimeRelease p s = .next { t with agenda := .issue p :: t.agenda } :=
  if_pos h

/-- Settles O40, by the equation of each event; what a loaded image leaves, by where its region stands. -/
theorem placement : Obligations.Placement := by
  intro s d u o m p k l tried rect x e
  refine ⟨execPlaceInstance_of_fit, execClaimAtCursor_of_ready, fun hchain hx => ⟨?later, ?refused, ?placed⟩, ?armed⟩
  case later =>
    rintro hmoves hm hn ⟨recs, hok⟩
    exact ⟨_, execConfigImageLoaded_of_ok hchain hx (.inr hmoves) hok, State.afterLoad_of_later hm hn false⟩
  case refused =>
    intro hmoves _ hbad s1 hm hn
    exact ⟨_, execConfigImageLoaded_of_error hchain hx (.inr hmoves) hbad, State.afterLoad_of_later hm hn true⟩
  case placed =>
    rintro hm ⟨recs, hok⟩
    exact (execConfigImageLoaded_of_ok hchain hx (.inl hm) hok).trans (congrArg _ (State.afterLoad_of_placed hm false))
  case armed => exact fun h => ⟨_, execAtimeRelease_of_reached h, rfl, rfl⟩

end Sys2Proof.Machine
end

section
/-! SUPPORT and PROOF of O47. A cell that may fire is ready, with the tokens at its inputs; a cell that makes a firing had what a firing
needs. The firings of O48 and O49 rest on the first. -/
namespace Sys2Proof.Machine

/-! ### Breakpoints on firings (R458) -/

/-- With no comparator armed in its region no breakpoint stops a firing. -/
theorem State.breakFire_of_no_comps {s : State} {p : Nat} (h : (s.region p).comps = []) (c : Nat) (f : State → State) :
    s.breakFire p c f = f s := by
  have hb (hit : DWord → Bool) : s.breakAt p 2 hit = (false, s) := by simp [State.breakAt, h]
  simp only [State.breakFire, hb, ite_self]

@[simp] theorem State.atFiring_region (s : State) (w : CellWord) (p : Nat) : (s.atFiring w).region p = s.region p := by
  simp only [State.atFiring]
  split <;> rfl

/-! ### What stands at the inputs (R177, R181) -/

/-- A token at an input that the operation takes as data: it raises no fault there, and is neither eos nor a marker. -/
def takenAsData (w : CellWord) (i : Nat) (t : Token) : Prop := inputFault w i t = none ∧ t.kind ≠ kEos ∧ t.kind ≠ kMarker

/-- Inputs that all hold data, beside a side port without a fault, make a cell ready. -/
theorem State.readyAt_of_data {s : State} {p c : Nat} {x : Cell} {w : CellWord} {inputs : List Nat}
    (hside : w.op.hasSide = true → ∀ t, x.at_ w 3 = some t → sideFault t = none)
    (hin : ∀ i ∈ inputs, ∃ t, x.at_ w i = some t ∧ takenAsData w i t) :
    s.readyAt p c x w inputs = .fire (s.atFiring w) x w ([0, 1, 2, 3].map fun i => firingToken s x w i) := by
  have hs : (if w.op.hasSide then x.at_ w 3 else none).bind (fun t => (sideFault t).map fun k => (k, t)) = none := by
    split
    · next h => cases ht : x.at_ w 3 with
      | none => rfl
      | some t => simp [hside h t ht]
    · rfl
  have hf : inputs.findSome? (fun i => (x.at_ w i).bind fun t => (inputFault w i t).map fun k => (i, k, t)) = none := by
    refine List.findSome?_eq_none_iff.mpr fun i hi => ?_
    obtain ⟨t, ht, hok, -⟩ := hin i hi
    simp [ht, hok]
  have heos : (inputs.map fun i => (i, (x.at_ w i).map (·.kind))).filter (fun k => k.2 == some kEos) = [] := by
    simp only [List.filter_eq_nil_iff, List.mem_map]
    rintro _ ⟨i, hi, rfl⟩
    obtain ⟨t, ht, -, he, -⟩ := hin i hi
    simp [ht, he]
  simp only [State.readyAt, hs, hf, heos, List.isEmpty_nil, Bool.not_true, Bool.false_and, Bool.false_eq_true, if_false]
  rw [if_pos]
  · rfl
  · rw [List.filter_eq_self.mpr, List.length_map]
    simp only [List.mem_map]
    rintro _ ⟨i, hi, rfl⟩
    obtain ⟨t, ht, -, he, hm⟩ := hin i hi
    simp [ht, he, hm]

/-- A cell that is ready to fire has a token at each of the inputs it asks. -/
theorem State.at_of_readyAt_fire {s s1 : State} {p c : Nat} {x y : Cell} {w v : CellWord} {inputs : List Nat} {ts : List Token}
    (h : s.readyAt p c x w inputs = .fire s1 y v ts) : ∀ i ∈ inputs, x.at_ w i ≠ none := by
  simp only [State.readyAt] at h
  split at h
  · cases h
  · split at h
    · cases h
    · split at h
      · cases h
      · split at h
        · next hlen =>
          intro i hi hn
          rw [← List.length_map (fun i => (i, (x.at_ w i).map (·.kind))), List.length_filter_eq_length_iff] at hlen
          simpa [hn] using hlen _ (List.mem_map_of_mem hi)
        · cases h

/-! ### When a firing is ready (R177, R178) -/

/-- A cell that may fire meets the conditions that every firing shares, and its inputs make it ready. -/
theorem State.prepare_of_mayFire {s : State} {p c : Nat} {w : CellWord} (h : s.mayFire p c w) :
    s.prepare p c w.op = .fire (s.atFiring w) ((s.region p).cell c) w (s.firingTokens p c w) := by
  obtain ⟨hw, hmoves, hstop, hend, hcut, hstart, hq, hout, -, hinputs, hside, hin⟩ := h
  have hno : (!((s.region p).cell c).canEmit && w.op != .xfn) = false := by
    rcases hout with h | h <;> simp [h]
  have hsome : ((countedInputs w).isEmpty && w.op != .cnt && (s.region p).quiet ((s.region p).cell c).step) = false := by
    rcases hinputs with h | h | h <;> simp [h]
  simp only [State.prepare, hw, bne_self_eq_false, hmoves, hstop, hend, hcut, hstart, hq, hno, hsome, List.isEmpty_nil, Bool.not_true,
    Bool.or_false, Bool.false_eq_true, if_false]
  exact State.readyAt_of_data hside hin

/-- A cell that makes a firing is of the operation, moves, has not stopped or ended, has room for its result and a token at each of the
inputs that the firing counts. -/
theorem State.of_prepare_fire {s s1 : State} {p c : Nat} {op : CellOp} {y : Cell} {v : CellWord} {ts : List Token}
    (h : s.prepare p c op = .fire s1 y v ts) : ∃ w, ((s.region p).cell c).word = some w ∧ w.op = op ∧ (s.region p).moves = true ∧
      ((s.region p).cell c).stopped = false ∧ ((s.region p).cell c).ended = false ∧ (((s.region p).cell c).canEmit = true ∨ w.op = .xfn) ∧
      ∀ i ∈ s.firingInputs p c w, ((s.region p).cell c).at_ w i ≠ none := by
  simp only [State.prepare] at h
  split at h
  · cases h
  · next w hw =>
    split at h
    · cases h
    · next hgo =>
      split at h
      · split at h <;> cases h
      · split at h
        · cases h
        · next hout =>
          split at h
          · cases h
          · simp only [Bool.not_eq_true, Bool.or_eq_false_iff, bne_eq_false_iff_eq, Bool.not_eq_false'] at hgo
            obtain ⟨⟨⟨⟨⟨hop, hmoves⟩, hstop⟩, hend⟩, -⟩, -⟩ := hgo
            refine ⟨w, hw, hop, hmoves, hstop, hend, ?_, State.at_of_readyAt_fire h⟩
            by_cases hx : w.op = .xfn
            · exact .inr hx
            · exact .inl (by simpa [hx] using hout)

/-- Settles O47: a cell that may fire by what makes its inputs ready, one that makes no firing by what a firing needs. -/
theorem cellReadiness : Obligations.CellReadiness := by
  intro s p c w
  refine ⟨fun h _ => State.prepare_of_mayFire h, fun hw hbad s1 y v ts hfire => ?_⟩
  obtain ⟨w', hw', -, hmoves, hstop, hend, hout, hin⟩ := State.of_prepare_fire hfire
  obtain rfl : w = w' := Option.some.inj (hw.symm.trans hw')
  rcases hbad with h | h | h | ⟨hfull, hxfn⟩ | ⟨i, hi, hnone⟩
  · exact absurd h (by simp [hstop])
  · exact absurd h (by simp [hend])
  · exact absurd h (by simp [hmoves])
  · exact hout.elim (by simp [hfull]) hxfn
  · exact hin i hi hnone

end Sys2Proof.Machine
end

section
/-! SUPPORT and PROOF of O48. A cell that may fire makes the firing of its operation, which no breakpoint stops; mov and sel of bfp
streams by what their tokens make of the block. -/
namespace Sys2Proof.Machine

theorem State.comps_of_mayFire {s : State} {p c : Nat} {w : CellWord} (h : s.mayFire p c w) : (s.region p).comps = [] := by
  obtain ⟨-, -, -, -, -, -, -, -, hcomps, -⟩ := h
  exact hcomps

/-- A cell that may fire makes the firing of its operation, in the state in which it fires. -/
theorem State.fireWith_of_mayFire {s : State} {p c : Nat} {w : CellWord} (h : s.mayFire p c w) {op : CellOp} (hop : w.op = op)
    (f : State → Cell → CellWord → List Token → State) :
    s.fireWith p c op f = .next (f (s.atFiring w) ((s.region p).cell c) w (s.firingTokens p c w)) := by
  subst hop
  simp only [State.fireWith, State.prepare_of_mayFire h]
  rw [State.breakFire_of_no_comps ((State.atFiring_region s w p).symm ▸ State.comps_of_mayFire h)]

/-- mov of a bfp stream whose token goes on with its block. -/
theorem State.movFire_of_block {w : CellWord} {x : Cell} {ts : List Token} {b : Option Nat} (hfmt : w.fmt = .bfp)
    (hb : bfpBlock w x.mem.block ((ts[0]?).getD (mkToken kData 0)) = some b) (p c : Nat) (s : State) :
    State.movFire p c s x w ts = s.fired p c (Cell.push { x.takeAll w (countedInputs w) with
      mem := { (x.takeAll w (countedInputs w)).mem with block := b } }
        [mkToken (if kindAt ts 0 == kHeader then kHeader else kData) (payloadAt ts 0)]) := by
  simp only [State.movFire, hfmt, hb, beq_self_eq_true, if_true]

theorem State.movFire_of_lanes {w : CellWord} (hfmt : w.fmt ≠ .bfp) (p c : Nat) (s : State) (x : Cell) (ts : List Token) :
    State.movFire p c s x w ts = State.lanesFire p c s x w ts := by
  simp [State.movFire, hfmt]

theorem State.selFire_of_lanes {w : CellWord} (hfmt : w.fmt ≠ .bfp) (p c : Nat) (s : State) (x : Cell) (ts : List Token) :
    State.selFire p c s x w ts = State.lanesFire p c s x w ts := by
  simp [State.selFire, hfmt]

/-- sel of two bfp streams whose tokens go on with equal blocks: the header's firing chooses the stream. -/
theorem State.selFire_of_blocks {w : CellWord} {x : Cell} {ts : List Token} {b : Option Nat} (hfmt : w.fmt = .bfp)
    (ha : bfpBlock w x.mem.block ((ts[0]?).getD (mkToken kData 0)) = some b)
    (hb : bfpBlock w x.mem.block ((ts[1]?).getD (mkToken kData 0)) = some b) (p c : Nat) (s : State) :
    let head : Bool := kindAt ts 0 == kHeader
    let first : Bool := if head then payloadAt ts 2 != 0 else x.mem.chosenA
    let z := x.takeAll w (if head then countedInputs w else (countedInputs w).filter (· != 2))
    State.selFire p c s x w ts = s.fired p c (Cell.push { z with mem := { z.mem with block := b, chosenA := first } }
      [mkToken (if head then kHeader else kData)
        (maskLanes (laneBits w.width) (predOf w ts) (payloadAt ts 0) (if first then payloadAt ts 0 else payloadAt ts 1))]) := by
  simp [State.selFire, hfmt, ha, hb]

/-- Settles O48: each operation makes the firing of its own rule. -/
theorem laneCells : Obligations.LaneCells := by
  intro s p c w b x ts s1 y r done lanes head h
  have fires {op : CellOp} (hop : w.op = op) (f : State → Cell → CellWord → List Token → State) :
      s.fireWith p c op f = .next (f s1 x w ts) := State.fireWith_of_mayFire h hop f
  have lane {op : CellOp} (hop : w.op = op) : s.fireWith p c op (State.lanesFire p c) = done := fires hop _
  refine ⟨lane, lane, lane, lane, lane, lane, lane, lane, lane, lane, lane, lane, lane, lane, lane, lane, lane, lane,
    fun hfmt => ⟨fun hop => ?mov, fun hop => ?sel⟩, fun hop hfmt hb => ?movBlock, fun hop hfmt ha hb => ?selBlock, fun hop => fires hop _⟩
  case mov => exact (fires hop _).trans (congrArg _ (State.movFire_of_lanes hfmt p c s1 x ts))
  case sel => exact (fires hop _).trans (congrArg _ (State.selFire_of_lanes hfmt p c s1 x ts))
  case movBlock => exact (fires hop _).trans (congrArg _ (State.movFire_of_block hfmt hb p c s1))
  case selBlock => exact (fires hop _).trans (congrArg _ (State.selFire_of_blocks hfmt ha hb p c s1))

end Sys2Proof.Machine
end

section
/-! SUPPORT and PROOF of O49. The firing of each operation that keeps something, where its rule gives one outcome. -/
namespace Sys2Proof.Machine

/-! ### Converting cells (R197 to R199) -/

/-- cvt within a burst converts under the codes in force: the side port is not looked at. -/
theorem State.cvtFire_of_burst {x : Cell} (h : x.mem.boundary = false) (p c : Nat) (s : State) (w : CellWord) (ts : List Token) :
    let y := x.takeAll w (countedInputs w)
    let codes := x.mem.codes.getD (w.rnd, w.sat)
    let rs := (splitLanes (fmtBits w.fmt) (payloadAt ts 0)).map fun e => convertElem w.fmt (cvtTarget w) codes.1 codes.2 e
    let o := packTokens (fmtBits (cvtTarget w)) 8 (x.mem.elems ++ rs.map (·.1))
    State.cvtFire p c s x w ts = (s.raiseFlags p x.step (rs.foldl (fun f r => f ||| r.2) 0)).fired p c
      (Cell.push { y with mem := { y.mem with elems := o.2, boundary := kindAt ts 0 == kLast } } (o.1.map (mkToken kData))) := by
  simp only [State.cvtFire, h, Bool.false_eq_true, if_false]

/-- qnt within a block, with room for a train if it reports one. -/
theorem State.qntFire_of_block {x : Cell} {w : CellWord} {s : State} {p c : Nat} (h : x.mem.elems ≠ [])
    (hroom : w.sub.val = 1 → s.trainRoom p (16 + c) = true) (ts : List Token) :
    let y := x.takeAll w (countedInputs w)
    let es := x.mem.elems ++ splitLanes (fmtBits w.fmt) (payloadAt ts 0)
    let z : Cell := { y with mem := { y.mem with elems := es } }
    State.qntFire p c s x w ts = if es.length < 4 * 2 ^ w.bl.val then s.fired p c z
      else (s.qntEmit p c z w).2.fired p c (s.qntEmit p c z w).1 := by
  have hgo : (decide (w.sub.val = 1) && !s.trainRoom p (16 + c)) = false := by
    by_cases hsub : w.sub.val = 1 <;> simp [hsub, hroom]
  simp only [State.qntFire, hgo, List.isEmpty_eq_false_iff.mpr h, Bool.false_eq_true, if_false]

theorem kind_getD_mkToken (ts : List Token) (i : Nat) : ((ts[i]?).getD (mkToken kData 0)).kind = kindAt ts i := by
  cases h : ts[i]? <;> simp [kindAt, h, mkToken, kData]

theorem payload_getD_mkToken (ts : List Token) (i : Nat) : ((ts[i]?).getD (mkToken kData 0)).payload.toNat = payloadAt ts i := by
  cases h : ts[i]? <;> simp [payloadAt, h, mkToken]

/-- dqn within a block converts under the codes in force; the last mantissas of the block end its burst. -/
theorem State.dqnFire_of_mantissas {x : Cell} {w : CellWord} {ts : List Token} {b : Option Nat} (hk : kindAt ts 0 ≠ kHeader)
    (hb : bfpBlock w x.mem.block ((ts[0]?).getD (mkToken kData 0)) = some b) (p c : Nat) (s : State) :
    let y := x.takeAll w (countedInputs w)
    let codes := x.mem.codes.getD (w.rnd, w.sat)
    let rs := (splitLanes 8 (payloadAt ts 0)).map fun e => dqnElem ((floatFmtOf w.fmt).getD fmtF32) (w.bw.val + 2) x.mem.blockE codes.1 codes.2 e
    let out := (packTokens (fmtBits w.fmt) 8 (rs.map (·.1))).1
    State.dqnFire p c s x w ts = (s.raiseFlags p x.step (rs.foldl (fun f r => f ||| r.2) 0)).fired p c
      (Cell.push { y with mem := { y.mem with block := b } } (if b = none then burstTokens out else out.map (mkToken kData))) := by
  simp only [State.dqnFire, kind_getD_mkToken, payload_getD_mkToken, beq_eq_false_iff_ne.mpr hk, hb, Bool.false_eq_true, if_false,
    Option.isNone_iff_eq_none]

/-! ### Folding and generating (R202, R203) -/

section
variable {x : Cell} {w : CellWord} {ts : List Token} {k r : Word} (p c : Nat) (s : State)

theorem State.runaccFire_of_closed (h : x.mem.run = none) :
    let y := x.takeAll w (countedInputs w)
    State.runaccFire p c s x w ts = s.fired p c { y with mem := { y.mem with
      run := some (BitVec.ofNat 32 (payloadAt ts 1), BitVec.ofNat 32 (payloadAt ts 0)) } } := by
  simp only [State.runaccFire, h]

theorem State.runaccFire_of_same_key (h : x.mem.run = some (k, r)) (hk : BitVec.ofNat 32 (payloadAt ts 1) = k) :
    let y := x.takeAll w (countedInputs w)
    let fold := foldOp w.fmt w.sub.val w.rnd w.sat r.toNat (BitVec.ofNat 32 (payloadAt ts 0)).toNat
    State.runaccFire p c s x w ts =
      (s.raiseFlags p x.step fold.2).fired p c { y with mem := { y.mem with run := some (k, BitVec.ofNat 32 fold.1) } } := by
  simp only [State.runaccFire, h, hk, if_true]

theorem State.runaccFire_of_other_key (h : x.mem.run = some (k, r)) (hk : BitVec.ofNat 32 (payloadAt ts 1) ≠ k) :
    let y := x.takeAll w (countedInputs w)
    State.runaccFire p c s x w ts = s.fired p c (Cell.push { y with mem := { y.mem with
      run := some (BitVec.ofNat 32 (payloadAt ts 1), BitVec.ofNat 32 (payloadAt ts 0)), pairs := (runTokens x w k r).2 } }
        (runTokens x w k r).1) := by
  simp only [State.runaccFire, h, hk, if_false]

end

/-- cnt goes on while its total is not reached, or while its trigger or its step brings it on. -/
theorem execCellCnt_of_mayFire {s : State} {p c : Nat} {w : CellWord} (h : s.mayFire p c w) (hop : w.op = .cnt)
    (hmore : if w.ina = .none then ((s.region p).cell c).mem.emitted < cntTotal w
      else countedInputs w ≠ [] ∨ (s.region p).quiet ((s.region p).cell c).step = false) :
    execCellCnt p c s = .next (State.cntFire p c (s.atFiring w) ((s.region p).cell c) w (s.firingTokens p c w)) := by
  refine (State.fireWith_of_mayFire h hop _).trans (congrArg _ ?_)
  by_cases hina : w.ina = .none
  · rw [if_pos hina] at hmore
    simp [hina, Nat.not_le_of_lt hmore]
  · rw [if_neg hina] at hmore
    rcases hmore with h | h <;> simp [hina, h]

/-! ### Contributing (R217) -/

/-- A contribution to a declared pool is taken. -/
theorem State.contribute_of_declared {s : State} {p pool : Nat} {z : RegionPool} (h : (s.region p).pool pool = some z)
    (u step lane : Nat) (ty : PoolType) (v : Word) (bad : Option Nat) :
    s.contribute p u step pool lane ty v bad = (true, (s.contribute p u step pool lane ty v bad).2) := by
  simp only [State.contribute, State.contributeAt, h]

section
variable {s : State} {p c : Nat} {x : Cell} {w : CellWord} {ts : List Token} {t : Token} (ht : ts[0]? = some t) (hp : t.kind ≠ kPoison)
  (hpred : kindAt ts 3 ≠ kPoison)
include ht hp hpred

theorem State.poolcFire_of_false (hfalse : wholeTrue w ts = false) :
    State.poolcFire p c s x w ts = s.fired p c ((x.takeAll w (countedInputs w)).push [t]) := by
  simp [State.poolcFire, ht, hp, hpred, hfalse]

theorem State.poolcFire_of_true {z : RegionPool} (htrue : wholeTrue w ts = true)
    (hz : (s.region p).pool (w.index.toNat / 2 ^ 10) = some z)
    (hheld : s.laneHeld p x.step (w.index.toNat / 2 ^ 10) (w.index.toNat / 2 ^ 6 % 16) = false) :
    State.poolcFire p c s x w ts =
      (s.contribute p (16 + c) x.step (w.index.toNat / 2 ^ 10) (w.index.toNat / 2 ^ 6 % 16) (poolTypeOfFmt w.fmt) t.payload none).2.fired p c
        ((x.takeAll w (countedInputs w)).push [t]) := by
  simp only [State.poolcFire, ht, Option.getD_some, beq_eq_false_iff_ne.mpr hp, beq_eq_false_iff_ne.mpr hpred, htrue, hheld,
    Bool.or_false, Bool.not_true, Bool.and_false, Bool.false_eq_true, if_false]
  rw [State.contribute_of_declared hz]

end

/-- Settles O49: each operation makes the firing of its own rule. -/
theorem keepingCells : Obligations.KeepingCells := by
  intro s p c w k r z x ts s1 y codes fires
  have fire {op : CellOp} (h : fires op) (f : State → Cell → CellWord → List Token → State) {t : State} (hf : f s1 x w ts = t) :
      s.fireWith p c op f = .next t := hf ▸ State.fireWith_of_mayFire h.1 h.2 f
  refine ⟨fun h hburst => ?cvt, fun h hblock hroom => ?qnt, fun b h hk hb => ?dqn, fun h => fire h _ rfl, fun h => ⟨?opens, ?folds, ?closes⟩,
    fun h hmore => execCellCnt_of_mayFire h.1 h.2 hmore, fun h => fire h _ rfl, fun h _ => fire h _ rfl, fun t h ht hp hpred => ⟨?passes, ?contributes⟩⟩
  case cvt => exact fire h _ (State.cvtFire_of_burst hburst p c s1 w ts)
  case qnt => exact fire h _ (State.qntFire_of_block hblock hroom ts)
  case dqn => exact fire h _ (State.dqnFire_of_mantissas hk hb p c s1)
  case opens => exact fun hrun => fire h _ (State.runaccFire_of_closed p c s1 hrun)
  case folds => exact fun hrun hk => fire h _ (State.runaccFire_of_same_key p c s1 hrun hk)
  case closes => exact fun hrun hk => fire h _ (State.runaccFire_of_other_key p c s1 hrun hk)
  case passes => exact fun hfalse => fire h _ (State.poolcFire_of_false ht hp hpred hfalse)
  case contributes =>
    intro htrue hz hheld
    exact fire h _ (State.poolcFire_of_true ht hp hpred htrue ((State.atFiring_region s w p).symm ▸ hz) hheld)

end Sys2Proof.Machine
end

section
/-! SUPPORT and PROOF of O50, which fails: an eos firing and a marker firing count among the firings of a cell, on which breakpoints on
the nth firing rest (R182, R184, R458), and the statement's two clauses leave the count as it was. A cell with a marker on its one
input shows it. -/
namespace Sys2Proof.Machine

/-- The number of firings of a cell in the state that an outcome leaves. -/
def firingsAfter (o : Out) (p c : Nat) : Nat :=
  match o with
  | .next t => ((t.region p).cell c).fired
  | _ => 0

/-- mov of i32 from the west link. -/
def movFromWest : CellWord :=
  { op := .mov, width := .w32, fmt := .i32, sub := 0, rnd := .rne, sat := .ieee, comm := false, ina := .link .w, inb := .none,
    inc := .none, pred := .none, bfp := false, bw := 0, bl := 0, index := 0, const := 0, count := 0 }

/-- A cell of that word which has not fired, with a marker on its west link. -/
def cellWithMarker : Cell := { Cell.free with step := 1, word := some movFromWest, linkW := Latch.put markerToken }

/-- The machine with that cell at 0.0 of a running region 0. -/
def stateWithMarker : State :=
  { State.reset with regions := [(0, { Region.free with mode := .running, cells := [(0, cellWithMarker)] })] }

theorem firingsAfter_cellMarkerFiring : firingsAfter (exec (.cellMarkerFiring 0 0) stateWithMarker) 0 0 = 1 := by decide

/-- Refutes O50: the marker firing of `stateWithMarker` is the first firing of its cell, where the statement leaves a cell that has
made none. -/
theorem not_columnsJoinsEndsAndRouters : ¬ Obligations.ColumnsJoinsEndsAndRouters := by
  rintro ⟨hcells, -⟩
  obtain ⟨-, -, -, -, hmarker⟩ :=
    hcells stateWithMarker 0 0 0 0 [] [] movFromWest { due := 0, value := 0 } [] markerToken markerToken
  have hfires := hmarker rfl (by decide) rfl (by decide) rfl (by decide) (by decide)
  have hcount := firingsAfter_cellMarkerFiring
  rw [hfires] at hcount
  exact absurd hcount (by decide)

end Sys2Proof.Machine
end

section
/-! SUPPORT and PROOF of O30. Every matrix command passes to the channel by one operation, whose outcome is given once. -/
namespace Sys2Proof.Machine

/-- The matrix commands of R240 to R245 with the entries that they put into the channel. -/
def matrixCommandsOf (h : Fin 16) (slots : BitVec 14) (bm pack : Bool) (wbw : BitVec 3) (tc tr : BitVec 7) (m : MatArgs) (y x : BitVec 6)
    (port : BitVec 4) : List (Instr × MatCmd) :=
  [(.mload h slots bm pack wbw tc tr, .load h.val slots.toNat bm pack (wbw.toNat + 2) (8 * (tr.toNat + 1)) (8 * (tc.toNat + 1))),
    (.mswap, .swap), (.mrow m, .op false m), (.mcol m, .op true m), (.moriginFixed y x, .origin false (8 * y.toNat) (8 * x.toNat)),
    (.moriginWalk y x, .origin true (8 * y.toNat) (8 * x.toNat)), (.mmask h port slots, .mask h.val port.toNat slots.toNat)]

theorem exec_of_matrixCommand (s : State) (h : Fin 16) (slots : BitVec 14) (bm pack : Bool) (wbw : BitVec 3) (tc tr : BitVec 7) (m : MatArgs)
    (y x : BitVec 6) (port : BitVec 4) :
    ∀ e ∈ matrixCommandsOf h slots bm pack wbw tc tr m y x port, exec e.1 s = s.toChannel e.2 := by
  simp only [matrixCommandsOf, List.forall_mem_cons]
  exact ⟨rfl, rfl, rfl, rfl, rfl, rfl, rfl, fun _ h => absurd h List.not_mem_nil⟩

/-- A command as it enters the channel. -/
def QueuedCmd.matEntry (q : QueuedCmd) (c : MatCmd) : MatEntry :=
  { cmd := c, step := q.step, tmpl := q.tmpl, started := false, done := false, orgY := 0, orgX := 0 }

/-- A region with an entry at the tail of its matrix channel. -/
def Region.toChannel (r : Region) (e : MatEntry) : Region :=
  { r with matrix := { r.matrix with channel := r.matrix.channel ++ [e] } }

theorem State.popCommand_region (s : State) (p : Nat) : (s.popCommand p).region p =
    { s.region p with cmdQ := (s.region p).cmdQ.drop 1,
                      sif := { (s.region p).sif with posted := false, answer := none, bad := none, phase := none } } :=
  State.setRegion_region _ _ _

/-- The state in which a command has passed from the queue of the current region to its channel, which has not settled. -/
def State.passedToChannel (s : State) (e : MatEntry) : State :=
  (s.popCommand s.cur.1).setRegion s.cur.1 (((s.popCommand s.cur.1).region s.cur.1).toChannel e)

theorem State.passedToChannel_region (s : State) (e : MatEntry) : (s.passedToChannel e).region s.cur.1 =
    { s.mine with cmdQ := s.mine.cmdQ.drop 1,
                  sif := { s.mine.sif with posted := false, answer := none, bad := none, phase := none },
                  matrix := { s.mine.matrix with channel := s.mine.matrix.channel ++ [e] } } := by
  rw [State.passedToChannel, State.setRegion_region, State.popCommand_region]
  rfl

/-- A channel with room takes the head of the command queue, where the unit has not faulted (R239, R247). -/
theorem State.toChannel_of_room {s : State} {q : QueuedCmd} (hq : s.headCmd = some q) (hroom : s.mine.matrix.channel.length < 8)
    (hok : s.mine.matrix.faulted = false) (c : MatCmd) :
    s.toChannel c = .next ((s.passedToChannel (q.matEntry c)).matrixSettle s.cur.1) := by
  simp only [State.toChannel, hq, hok, if_neg (Nat.not_le_of_lt hroom), Bool.false_and, Bool.false_eq_true, if_false]
  rfl

/-- Settles O30: each command goes to the channel, and the channel takes it. -/
theorem matrixCommands : Obligations.MatrixCommands := by
  intro s h slots bm pack wbw tc tr m y x port q i c p r hmem hq hroom hok
  have hexec : exec i s = s.toChannel c := exec_of_matrixCommand s h slots bm pack wbw tc tr m y x port (i, c) hmem
  refine ⟨s.passedToChannel (q.matEntry c), q.matEntry c, hexec.trans (State.toChannel_of_room hq hroom hok c), ?_, rfl, rfl, rfl, ?_, ?_, rfl⟩
  all_goals rw [State.passedToChannel_region]

end Sys2Proof.Machine
end

section
/-! SUPPORT and PROOF of O51. The events of the matrix unit: each event's equation where its guard holds. -/
namespace Sys2Proof.Machine

/-! ### Vectors start (R227, R242, R249) -/

/-- A vector that its source holds enters the macros. -/
theorem State.startVector_of_taken {s : State} {p : Nat} {col : Bool} {a : MatArgs} {v : MatSource}
    (hcur : (s.region p).matrix.current = some (col, a)) (hok : (s.region p).matrix.faulted = false)
    (hblocked : opBlocked (s.region p).matrix.channel = false) (hfree : (s.region p).matrix.freeAt ≤ s.tide)
    (hcut : a.asrc = true ∨ (s.region p).matrix.marked = true ∨ s.cutReady p = false)
    (hrows : (s.region p).matrix.rowBusy ((a.zbase.toNat + (s.region p).matrix.vec * ceilDiv ((s.region p).matrix.active.outLen col) 512) % 256)
      ((s.region p).matrix.active.outLen col) = false)
    (hv : (s.takeVector p a ((s.region p).matrix.active.epp col)).1 = .ok v) :
    s.startVector p = (s.takeVector p a ((s.region p).matrix.active.epp col)).2.enterVector p col a v := by
  have hgo : (!a.asrc && !(s.region p).matrix.marked && s.cutReady p) = false := by
    rcases hcut with h | h | h <;> simp [h]
  simp only [State.startVector, hcur, hok, hblocked, decide_eq_false (Nat.not_lt_of_le hfree), hgo, hrows, Bool.or_self, Bool.false_eq_true,
    if_false]
  split
  · next h => rw [h] at hv; cases hv
  · next h => rw [h] at hv; cases hv
  · next h => rw [h] at hv ⊢; cases hv; rfl

theorem execMatrixVectorStart_of_moving {s : State} {p : Nat} (h : s.matrixHeld p = false) :
    execMatrixVectorStart p s = .next (((((s.matrixSettle p).beginHead p).maPorts p).startVector p).matrixSettle p) := by
  simp only [execMatrixVectorStart, h, Bool.false_eq_true, if_false]

/-- The operation at the head of the channel begins when none has begun before it. -/
theorem State.beginHead_of_unstarted {s : State} {p : Nat} {col : Bool} {a : MatArgs}
    (hcur : (s.region p).matrix.current = some (col, a)) (hok : (s.region p).matrix.faulted = false)
    (hblocked : opBlocked (s.region p).matrix.channel = false)
    (hnone : (s.region p).matrix.channel.any (fun e => e.step == (s.region p).matrix.step && e.cmd.isOp && e.started) = false) :
    s.beginHead p = s.beginOp p col a := by
  simp only [State.beginHead, hcur, hok, hblocked, hnone, Bool.or_self, Bool.false_eq_true, if_false]

/-! ### Vectors end (R229, R236, R237) -/

@[simp] theorem State.raiseFlags_matrix (s : State) (p step : Nat) (f : Flags) :
    ((s.raiseFlags p step f).region p).matrix = (s.region p).matrix := by
  simp only [State.raiseFlags, State.setRegion_region]
  split <;> rfl

/-- Flags of a step that a chained successor has not reached join fpflags. -/
theorem State.raiseFlags_fpflags {s : State} {p step : Nat} (h : (s.region p).succ ≠ some step) (f : Flags) :
    ((s.raiseFlags p step f).region p).fpflags = (s.region p).fpflags ||| f := by
  simp only [State.raiseFlags, State.setRegion_region, beq_eq_false_iff_ne.mpr h, Bool.false_eq_true, if_false]

/-- Flags of the step of a chained successor are kept for it (log entry 32). -/
theorem State.raiseFlags_succFlags {s : State} {p step : Nat} (h : (s.region p).succ = some step) (f : Flags) :
    ((s.raiseFlags p step f).region p).succFlags = (s.region p).succFlags ||| f := by
  simp only [State.raiseFlags, State.setRegion_region, h, beq_self_eq_true, if_true]

/-- The drain of a vector whose results have accumulated. -/
def VecInFlight.drain (v : VecInFlight) : DrainState :=
  { dr := v.op.dr, row := v.row, n := v.vals.length, pos := List.replicate (drainPorts v.vals.length) 0, zh := v.op.zh.val,
    pool := v.op.pool.val, lane := v.op.lane.val, tmpl := v.tmpl }

/-- A unit in which the oldest vector has accumulated, with the rest still in flight. -/
def Matrix.accumulated (m : Matrix) (v : VecInFlight) (rest : List VecInFlight) : Matrix :=
  { m.store v.row v.vals with flight := rest, accBad := (m.store v.row v.vals).rowsBad v.op.zero v.row v.vals.length,
                              drains := if v.op.dr == .none then m.drains else m.drains ++ [v.drain] }

/-- With every vector of the flight advanced, no handle advances. -/
theorem State.advanceVector_of_advanced {s : State} {p : Nat} (h : ∀ v ∈ (s.region p).matrix.flight, v.advanced = true) :
    s.advanceVector p = s := by
  have hnone : (s.region p).matrix.flight.find? (fun v => !v.advanced) = none :=
    List.find?_eq_none.mpr fun v hv => by simp [h v hv]
  simp only [State.advanceVector, hnone]

theorem State.finishVector_of_due {s : State} {p : Nat} {w : VecInFlight} {rest : List VecInFlight}
    (hflight : (s.region p).matrix.flight = w :: rest) (hadv : w.advanced = true) (hdue : w.due ≤ s.tide) :
    s.finishVector p = (s.setRegion p { s.region p with matrix := (s.region p).matrix.accumulated w rest }).raiseFlags p
      (s.region p).matrix.step w.flags := by
  simp only [State.finishVector, hflight, hadv, decide_eq_false (Nat.not_lt_of_le hdue), Bool.not_true, Bool.or_self, Bool.false_eq_true,
    if_false]
  rfl

theorem execMatrixVectorDone_of_held {s : State} {p : Nat} (h : (s.region p).mode = .held) :
    execMatrixVectorDone p s = .next ((s.advanceVector p).finishVector p) := by
  simp only [execMatrixVectorDone, h, beq_self_eq_true, if_true]

theorem Region.mode_ne_held_of_moves {r : Region} (h : r.moves = true) : r.mode ≠ .held := fun hm => by simp [Region.moves, hm] at h

theorem execMatrixVectorDone_of_moves {s : State} {p : Nat} (h : (s.region p).moves = true) :
    let q := (s.advanceVector p).finishVector p
    let f := Matrix.drainFabric (q.region p).matrix.drains [] (q.region p).matrix
    execMatrixVectorDone p s =
      .next ((((q.setRegion p { q.region p with matrix := { f.2 with drains := f.1 } }).drainFront p).deliverMz p).matrixSettle p) := by
  simp only [execMatrixVectorDone, h, beq_eq_false_iff_ne.mpr (Region.mode_ne_held_of_moves h), Bool.not_true, Bool.false_eq_true, if_false]

/-! ### Loads complete (R240, R244) -/

/-- Whether an entry of the channel is an `mload` of the unit's step that has been dispatched. -/
def dispatchedLoad (step : Nat) (e : MatEntry) : Bool :=
  e.step == step && e.started && (match e.cmd with
    | .load _ _ _ _ _ _ _ => true
    | _ => false)

/-- A dispatched load at place i of the channel, whose handle is free of earlier commands and whose slots are filled, read and popped. -/
theorem execMloadComplete_of_read {s s1 s2 s3 : State} {p i h slots tr tc wb : Nat} {bm pack : Bool} {e : MatEntry} {hd hd2 : Handle}
    {bs : List Byte} (hheld : s.matrixHeld p = false)
    (hi : ((s.matrixSettle p).region p).matrix.channel.findIdx? (dispatchedLoad ((s.matrixSettle p).region p).matrix.step) = some i)
    (he : ((s.matrixSettle p).region p).matrix.channel[i]? = some e) (hcmd : e.cmd = .load h slots bm pack wb tr tc)
    (hok : ((s.matrixSettle p).region p).matrix.faulted = false)
    (hearlier : (((s.matrixSettle p).region p).matrix.channel.take i).any (fun e => e.cmd.names h) = false)
    (hholds : ((s.matrixSettle p).region p).matrix.holds h = false)
    (hfilled : (s.matrixSettle p).handleNow p h (.waitFilled slots) = (.ok hd, s1))
    (hread : State.readTile p hd (tileSlots hd.lsz (tileBytes tr tc wb bm)) [] s1 = (.ok bs, s2))
    (hpop : s2.handleNow p h (.pop slots) = (.ok hd2, s3)) :
    let m3 := (s3.region p).matrix.setShadow (tileBank bs tr tc wb pack bm e.orgY e.orgX)
    execMloadComplete p s =
      .next ((s3.setRegion p { s3.region p with matrix := { m3 with channel := removeAt m3.channel i } }).matrixSettle p) := by
  obtain ⟨cmd, step, tmpl, started, done, orgY, orgX⟩ := e
  subst hcmd
  have hidx : (((s.matrixSettle p).region p).matrix.channel.findIdx? (dispatchedLoad ((s.matrixSettle p).region p).matrix.step)).getD
      ((s.matrixSettle p).region p).matrix.channel.length = i := by rw [hi]; rfl
  simp only [execMloadComplete, hheld, Bool.false_eq_true, if_false]
  -- the index is the model's own, which agrees with that of `dispatchedLoad` by unfolding alone
  erw [hidx]
  simp only [he, hok, hearlier, hholds, hfilled, hread, hpop, Bool.or_self, Bool.false_eq_true, if_false]

/-! ### Steps end (R224, R248) -/

/-- The configuration of a step of a region, as far as the region holds it. -/
def State.stepConf (s : State) (p n : Nat) : List ConfRec :=
  match (s.region p).steps.find? (fun z => z.num == n) with
  | some z => s.slotConf z
  | none => []

/-- A unit that has passed on from a step of a configuration: it owes an eos on every mz port that was read, and awaits one at every ma
port that was driven and has sent none (R248, log entry 35). -/
def Matrix.passedStep (m : Matrix) (recs : List ConfRec) : Matrix :=
  { m.startStep (m.step + 1) with
    owed := (m.startStep (m.step + 1)).owed ++ (confReadsMz recs).map (fun k => (k, eosToken))
    maWait := (m.startStep (m.step + 1)).maWait ++ (confDrivesMa recs).filter fun k => !m.maEos.contains k }

theorem execMatrixStepPass_of_idle {s : State} {p : Nat} (hmoves : (s.region p).moves = true) (hmay : (s.region p).matrixMayPass = true)
    (hidle : (s.region p).matrixIdle = true) :
    execMatrixStepPass p s = .next (((s.setRegion p { s.region p with
      matrix := (s.region p).matrix.passedStep (s.stepConf p (s.region p).matrix.step) }).deliverMz p).matrixSettle p) := by
  simp only [execMatrixStepPass, hmoves, hmay, hidle, Bool.not_true, Bool.or_self, Bool.false_eq_true, if_false]
  rfl

/-! ### Markers (R249) -/

/-- The feeding ports that hold a marker which no command needs. -/
def Matrix.looseMarkers (m : Matrix) : List Nat :=
  (List.range 16).filter fun k => (Tbl.find m.ma k).map (·.kind) == some kMarker && !m.needsPort k

/-- A unit that has taken its loose markers. -/
def Matrix.takeLoose (m : Matrix) : Matrix := { m with ma := m.ma.filter fun e => !m.looseMarkers.contains e.1 }

theorem Matrix.mem_of_mem_takeLoose {m : Matrix} {e : Nat × Token} (h : e ∈ m.takeLoose.ma) : e ∈ m.ma := (List.mem_filter.mp h).1

/-- A token that goes with the loose markers is a marker at a port that no command needs. -/
theorem Matrix.mem_takeLoose_or {m : Matrix} {e : Nat × Token} (h : e ∈ m.ma) :
    e ∈ m.takeLoose.ma ∨ (Tbl.find m.ma e.1).map (·.kind) = some kMarker ∧ m.needsPort e.1 = false := by
  by_cases hloose : e.1 ∈ m.looseMarkers
  · right
    simpa using (List.mem_filter.mp hloose).2
  · left
    exact List.mem_filter.mpr ⟨h, by simpa using hloose⟩

theorem execMatrixMarkerFiring_of_no_operation {s : State} {p : Nat} (hmoves : (s.region p).moves = true)
    (hcur : (s.region p).matrix.current = none) :
    execMatrixMarkerFiring p s = .next (s.setRegion p { s.region p with matrix := (s.region p).matrix.takeLoose }) := by
  simp only [Matrix.current] at hcur
  simp only [execMatrixMarkerFiring, Matrix.current, hmoves, hcur, Bool.not_true, Bool.false_eq_true, if_false]
  rfl

/-- At a vector boundary an open cut marks a handle-sourced operation; one that drains to no port owes no marker. -/
theorem execMatrixMarkerFiring_of_handle_sourced {s : State} {p : Nat} {col : Bool} {a : MatArgs} (hmoves : (s.region p).moves = true)
    (hcur : (s.region p).matrix.current = some (col, a)) (hsrc : a.asrc = false) (hdr : a.dr ≠ .fabric) (hcut : s.cutReady p = true)
    (hmarked : (s.region p).matrix.marked = false) (hflight : (s.region p).matrix.flight = []) (hdrains : (s.region p).matrix.drains = [])
    (hma : (s.region p).matrix.ma = []) :
    execMatrixMarkerFiring p s =
      .next ((s.setRegion p { s.region p with matrix := { (s.region p).matrix with marked := true } }).deliverMz p) := by
  simp only [Matrix.current] at hcur
  simp only [execMatrixMarkerFiring, Matrix.current, hmoves, hcur, hsrc, hcut, hmarked, hflight, hdrains, hma, beq_eq_false_iff_ne.mpr hdr,
    List.filter_nil, List.all_nil, List.isEmpty_nil, List.append_nil, Bool.not_true, Bool.or_self, Bool.false_eq_true, if_false]

/-- Settles O51, by the equation of each event. -/
theorem matrixEvents : Obligations.MatrixEvents := by
  intro s p i h slots tr tc wb y x n col bm pack a v e hd hd2 bs w rest r
  refine ⟨?starts, ?begins, ?done, execMatrixVectorDone_of_moves, ?loads, ?passes, ?noOperation, execMatrixMarkerFiring_of_handle_sourced⟩
  case starts =>
    intro s1 m1 hheld hcur hok hblocked hfree hcut hrows x2 hv
    have hstart : s1.startVector p = x2.2.enterVector p col a v := State.startVector_of_taken hcur hok hblocked hfree hcut hrows hv
    exact (execMatrixVectorStart_of_moving hheld).trans (congrArg (fun t => (.next (State.matrixSettle t p) : Out)) hstart)
  case begins =>
    intro hr hcur hok hblocked hnone
    exact State.beginHead_of_unstarted (by rwa [hr]) (by rwa [hr]) (by rwa [hr]) (by rwa [hr])
  case done =>
    intro _ hflight hadv hrest hdue t
    have hall : ∀ q ∈ r.matrix.flight, q.advanced = true := by
      rw [hflight]
      exact List.forall_mem_cons.mpr ⟨hadv, hrest⟩
    have ht : t = (s.setRegion p { r with matrix := r.matrix.accumulated w rest }).raiseFlags p r.matrix.step w.flags :=
      (congrArg (State.finishVector · p) (State.advanceVector_of_advanced hall)).trans (State.finishVector_of_due hflight hadv hdue)
    have hm : (t.region p).matrix = r.matrix.accumulated w rest := by rw [ht, State.raiseFlags_matrix, State.setRegion_region]
    refine ⟨by rw [hm]; rfl, by rw [hm]; rfl, ?memory, fun hsucc => ?own, fun hsucc => ?successor, execMatrixVectorDone_of_held⟩
    case memory => rw [ht, State.raiseFlags_mem, State.setRegion_mem]
    case own => rw [ht, State.raiseFlags_fpflags (by rwa [State.setRegion_region]), State.setRegion_region]
    case successor => rw [ht, State.raiseFlags_succFlags (by rwa [State.setRegion_region]), State.setRegion_region]
  case loads =>
    rintro s0 m hheld hi he hcmd rfl rfl hok hearlier hholds x1 hfilled x2 hread x3 hpop
    exact execMloadComplete_of_read hheld hi he hcmd hok hearlier hholds (Prod.ext hfilled rfl) (Prod.ext hread rfl) (Prod.ext hpop rfl)
  case passes =>
    rintro hmoves hmay hidle rfl
    exact execMatrixStepPass_of_idle hmoves hmay hidle
  case noOperation =>
    intro hmoves hcur
    refine ⟨_, execMatrixMarkerFiring_of_no_operation hmoves hcur, rfl, ?_⟩
    rw [State.setRegion_region]
    exact ⟨rfl, fun q => Matrix.mem_of_mem_takeLoose, fun q => Matrix.mem_takeLoose_or⟩

end Sys2Proof.Machine
end

section
/-! SUPPORT and PROOF of O27. Every binding command passes to its port's queue by one operation, whose outcome is given once. -/
namespace Sys2Proof.Machine

/-! ### A command passes to its port (R255) -/

/-- A region with an entry at the tail of a port's queue. -/
def Region.toPortQueue (r : Region) (n : Nat) (e : PortEntry) : Region :=
  r.setSide n { r.side n with queue := (r.side n).queue ++ [e] }

/-- The state in which the head of the command queue has passed to a port's queue as an entry. -/
def State.passedToPort (s : State) (n : Nat) (e : PortEntry) (f : Region → Region) : State :=
  (s.popCommand s.cur.1).setRegion s.cur.1 ((f ((s.popCommand s.cur.1).region s.cur.1)).toPortQueue n e)

theorem State.passedToPort_mine (s : State) (n : Nat) (e : PortEntry) (f : Region → Region) :
    (s.passedToPort n e f).mine = (f ((s.popCommand s.cur.1).region s.cur.1)).toPortQueue n e :=
  State.setRegion_region _ _ _

/-- A port's queue with room takes the head of the command queue. -/
theorem State.toPort_of_room {s : State} {n : Nat} {q : QueuedCmd} (hq : s.headCmd = some q) (hroom : (s.mine.side n).queue.length < 8)
    (f : QueuedCmd → Region → PortEntry × Region) :
    s.toPort n f = .next (s.passedToPort n (f q ((s.popCommand s.cur.1).region s.cur.1)).1 fun r => (f q r).2) := by
  simp only [State.toPort, hq, if_neg (Nat.not_le_of_lt hroom)]
  rfl

/-! ### Bindings (R259, R266 to R269) -/

/-- The commands of R259 and R266 to R268 with the kinds of their bindings. -/
def bindCommandsOf (b : BindArgs) (src : IdxSrc) (sh : BitVec 2) (sel out : Bool) : List (Instr × BindKind) :=
  [(.bindr b, .read), (.bindw b, .write), (.bindg b src sh, .gather src sh.toNat), (.binds b sh, .scatter sh.toNat),
    (.bindc b sel out, if out then .expand else .compress sel)]

theorem exec_of_bindCommand (s : State) (b : BindArgs) (src : IdxSrc) (sh : BitVec 2) (sel out : Bool) :
    ∀ e ∈ bindCommandsOf b src sh sel out, exec e.1 s = s.bindTo b e.2 := by
  simp only [bindCommandsOf, List.forall_mem_cons]
  exact ⟨rfl, rfl, rfl, rfl, rfl, fun _ h => absurd h List.not_mem_nil⟩

/-- A region in which one more binding is live, under the number of its handle, or 16. -/
def Region.withLive (r : Region) (h : Nat) : Region := { r with bindSeq := r.bindSeq + 1, live := r.live ++ [(r.bindSeq + 1, h)] }

/-- The handle number under which a binding is live; 16 stands for none. -/
def bindLiveAs (b : BindArgs) : Nat := if b.gate == .none then 16 else b.h.val

/-- The binding that a command other than `bindf` makes of its pattern. -/
def bindingOf (b : BindArgs) (k : BindKind) (x : Pattern) (q : QueuedCmd) (r : Region) : Binding :=
  { kind := k, h := b.h.val, slots := b.slots.toNat, foot := if b.fv then some b.foot.toNat else none, gate := b.gate, ends := b.ends,
    base := b.base.toNat, pat := x, tmpl := q.tmpl, step := q.step, seq := r.bindSeq + 1, hold := q.hold, lclk := q.lclk,
    ackWord := if k.reads then none else r.sif.ackWord }

/-- The binding of a `bindf` (R269): the words of whole slots. -/
def fifoBinding (h : Fin 16) (slots : BitVec 14) (ends out : Bool) (q : QueuedCmd) (r : Region) : Binding :=
  { kind := .fifo out, h := h.val, slots := slots.toNat, foot := none, gate := .slot, ends := ends, base := 0,
    pat := { counts := [2 ^ (r.handle h.val).lsz / 4], strides := [4], xbase := 0 }, tmpl := q.tmpl, step := q.step, seq := r.bindSeq + 1,
    hold := none, lclk := q.lclk, ackWord := if out then r.sif.ackWord else none }

theorem State.bindTo_of_room {s : State} {b : BindArgs} {q : QueuedCmd} (hq : s.headCmd = some q)
    (hroom : (s.mine.side b.port.val).queue.length < 8) (k : BindKind) :
    s.bindTo b k = .next (s.passedToPort b.port.val
      (.bind (bindingOf b k ((s.readPattern s.cur.1 b.desc.toNat).getD Pattern.empty) q ((s.popCommand s.cur.1).region s.cur.1)))
      (·.withLive (bindLiveAs b))) := by
  rw [State.bindTo]
  exact State.toPort_of_room hq hroom _

theorem execBindf_of_room {s : State} {port : EdgePort} {q : QueuedCmd} (hq : s.headCmd = some q)
    (hroom : (s.mine.side port.val).queue.length < 8) (h : Fin 16) (slots : BitVec 14) (ends out : Bool) :
    execBindf h port slots ends out s = .next (s.passedToPort port.val
      (.bind (fifoBinding h slots ends out q ((s.popCommand s.cur.1).region s.cur.1))) (·.withLive h.val)) :=
  State.toPort_of_room hq hroom _

/-- What stands in the region once a binding has passed to its port. -/
theorem State.passedToPort_withLive (s : State) (n h : Nat) (e : PortEntry) :
    let t := s.passedToPort n e (·.withLive h)
    t.mine.cmdQ = s.mine.cmdQ.drop 1 ∧ (t.mine.side n).queue = (s.mine.side n).queue ++ [e] ∧
      t.mine.live = s.mine.live ++ [(s.mine.bindSeq + 1, h)] ∧ t.mine.regs = s.mine.regs ∧ t.mem = s.mem := by
  intro t
  have ht : t.mine = (((s.popCommand s.cur.1).region s.cur.1).withLive h).toPortQueue n e := State.passedToPort_mine _ _ _ _
  rw [ht, State.popCommand_region, Region.toPortQueue, Region.setSide_side]
  exact ⟨rfl, rfl, rfl, rfl, rfl⟩

/-- Settles O27: each command goes to its port, and the port takes it. -/
theorem portCommands : Obligations.PortCommands := by
  intro s b src sh sel out ends h port slots q i k r hq
  have hseq : ((s.popCommand s.cur.1).region s.cur.1).bindSeq = r.bindSeq := by rw [State.popCommand_region]; rfl
  refine ⟨fun hkind hroom => ?binding, fun hroom => ?fifo⟩
  case binding =>
    have hexec : exec i s = s.bindTo b k := exec_of_bindCommand s b src sh sel out (i, k) hkind
    have hlive : bindLiveAs b = if b.gate = .none then 16 else b.h.val := by simp only [bindLiveAs, beq_iff_eq]
    obtain ⟨hcmd, hqueue, hl, hregs, hmem⟩ := s.passedToPort_withLive b.port.val (bindLiveAs b) _
    refine ⟨_, _, hexec.trans (State.bindTo_of_room hq hroom k), hcmd, hqueue, rfl, rfl, rfl, rfl, rfl, rfl, rfl, rfl, rfl, ?_, hregs, hmem⟩
    rw [hl, hlive, bindingOf, hseq]
  case fifo =>
    obtain ⟨hcmd, hqueue, hl, hregs, hmem⟩ := s.passedToPort_withLive port.val h.val _
    refine ⟨_, _, execBindf_of_room hq hroom h slots ends out, hcmd, hqueue, rfl, rfl, rfl, rfl, rfl, rfl, rfl, rfl, ?_, hregs, hmem⟩
    rw [hl, fifoBinding, hseq]

end Sys2Proof.Machine
end

section
/-! SUPPORT and PROOF of O29, which fails: a relatch bars the latches of its die from loading the pages of its range (R328, R330, log
entry 65) also where no port is to act on it, and the statement's clause for that case leaves the die as it was. -/
namespace Sys2Proof.Machine

/-- The number of ranges that the latches of a die may not load in the state that an outcome leaves. -/
def barredAfter (o : Out) (d : Nat) : Nat :=
  match o with
  | .next t => (t.die d).noLatch.length
  | _ => 0

/-- A command that waits in the queue of its region. -/
def waitingCommand : QueuedCmd := { bits := 0, tmpl := 0, step := 0, lclk := 0, ctx := 0, hold := none }

/-- The machine with that command at the head of the queue of region 0, which has no port. -/
def stateWithoutPorts : State := { State.reset with regions := [(0, { Region.free with cmdQ := [waitingCommand] })] }

theorem barredAfter_relatch : barredAfter (exec (.relatch 0 0 0 false 0) stateWithoutPorts) 0 = 1 := by decide

/-- Refutes O29: the relatch of `stateWithoutPorts` bars its range on die 0, where the statement leaves a die that bars none. -/
theorem not_interfaceCommands : ¬ Obligations.InterfaceCommands := by
  intro hcommands
  obtain ⟨-, -, -, -, -, hrelatch, -⟩ :=
    hcommands stateWithoutPorts .copy 0 0 0 0 0 0 0 0 0 false 0 0 0 0 0 waitingCommand [] [] 0 false rfl
  obtain ⟨-, hsilent⟩ := hrelatch rfl (by decide)
  have hbars := barredAfter_relatch
  rw [hsilent] at hbars
  exact absurd hbars (by decide)

end Sys2Proof.Machine
end

section
/-! SUPPORT and PROOF of O28, which fails: a gauge attachment of a step that its port has left has ended with that step (R257) and leaves
no entry behind, and the statement asks for one at any step of the port. -/
namespace Sys2Proof.Machine

/-- The number of entries in a port's queue of the current region in the state that an outcome leaves. -/
def queuedAfter (o : Out) (n : Nat) : Nat :=
  match o with
  | .next t => (t.mine.side n).queue.length
  | _ => 0

/-- The machine with a command of step 0 at the head of the queue of region 0, whose port 0 has gone on to step 1. -/
def stateAtLaterStep : State :=
  { State.reset with regions := [(0, { Region.free with cmdQ := [waitingCommand], ports := [(0, { Port.empty with step := 1 })] })] }

theorem queuedAfter_gbind : queuedAfter (exec (.gbind 0 0) stateAtLaterStep) 0 = 0 := by decide

/-- Refutes O28: the gbind of `stateAtLaterStep` leaves the queue of port 0 empty, where the statement has it hold the attachment. -/
theorem not_attachmentCommands : ¬ Obligations.AttachmentCommands := by
  rintro ⟨hcommands, -⟩
  obtain ⟨hattaches, -⟩ :=
    hcommands stateAtLaterStep 0 0 0 0 0 0 0 0 0 .copy waitingCommand (.gbind 0 0) (.gbind (some 0) 0 0) rfl
  obtain ⟨t, hexec, -, hqueue, -⟩ := hattaches (.tail _ (.head _)) (by decide)
  have hleft := queuedAfter_gbind
  rw [hexec] at hleft
  have hentry : queuedAfter (.next t) 0 = 1 := congrArg List.length hqueue
  omega

end Sys2Proof.Machine
end

section
/-! SUPPORT and PROOF of O52. What a home performs for a port that has sent it an element, an update or an acknowledgement: each event's
equation where its guard holds. With no debugger attached nothing that a home does is traced. -/
namespace Sys2Proof.Machine

/-! ### Nothing that a home does attaches a debugger -/

theorem State.trace_of_no_attach {s : State} (h : s.attach = []) (p kind place : Nat) (tells : List Nat) (hit : Trace → Bool) :
    s.trace p kind place tells hit = s := by
  simp only [State.trace, State.traceFor, h, List.foldl_nil]

theorem State.flushLine_attach (s : State) (line : Nat) : (s.flushLine line).attach = s.attach := by
  rw [State.flushLine]
  exact List.foldlRecOn (motive := fun (t : State) => t.attach = s.attach) _ _ rfl fun _ h _ _ => h

theorem State.recallNow_attach (s : State) (line : Nat) (drop : Bool) : (s.recallNow line drop).attach = s.attach := by
  rw [← State.flushLine_attach s line]
  simp only [State.recallNow]
  repeat' split
  all_goals rfl

theorem State.markHome_attach (s : State) (line : Nat) : (s.markHome line).attach = s.attach := by
  rw [State.markHome]
  split
  · rfl
  · exact State.recallNow_attach s line true

theorem State.homeTake_attach (s : State) (pa n : Nat) (clk : DWord) : (s.homeTake pa n clk).2.2.2.attach = s.attach :=
  State.recallNow_attach s _ true

theorem State.homeWrite_attach (s : State) (pa n v : Nat) (clk : DWord) : (s.homeWrite pa n v clk).2.attach = s.attach := by
  rw [← State.recallNow_attach s (lineOf pa) true]
  simp only [State.homeWrite]
  split <;> rfl

/-! ### Elements (R271, R297) -/

section
variable {s : State} {m p n k pa va i : Nat} {vs : List Word} {ack : Option (Nat × Nat)} {clk : DWord} {again : Bool}
  (hp : isAway p = false) (hpending : s.updatePending pa = false) (hctx : s.weirCtx k 0 = none)
include hp hpending hctx

/-- An element that is written through no graph is stored, counts off at its port and is acknowledged. -/
theorem execWeirGraphElement_write (hm : s.ready m = some (.weirElem p n k 0 pa va i vs ack clk false again)) :
    execWeirGraphElement m s = .next ((({ s.unpost m with mem := Memory.writeLE s.mem pa 4 (vs.headD 0).toNat } : State).elementDone
      p n).acknowledge p ack 4 clk) := by
  have hroom : s.ctxRoom k 0 = true := by rw [State.ctxRoom, hctx]
  have hvalue : (s.unpost m).weirPacked k 0 vs = vs.headD 0 := by
    have hctx' : (s.unpost m).weirCtx k 0 = none := hctx
    rw [State.weirPacked, hctx']
    rfl
  simp [execWeirGraphElement, hm, hpending, hroom, hp, hctx, State.weirNext, hvalue]

/-- An element that is read through no graph comes back to its port. -/
theorem execWeirGraphElement_read (hm : s.ready m = some (.weirElem p n k 0 pa va i vs ack clk true again))
    (hclean : s.homePoisoned (lineOf pa) = false) :
    execWeirGraphElement m s = .next (((s.unpost m).pairRead p n pa).portGets p n i
      [{ kind := kData, payload := BitVec.ofNat 32 (Memory.readLE s.mem pa 4), cause := 0 }]) := by
  have hroom : s.ctxRoom k 0 = true := by rw [State.ctxRoom, hctx]
  have htokens (v : Word) : s.weirTokens k 0 v = [v] := by rw [State.weirTokens, hctx]
  simp [execWeirGraphElement, hm, hpending, hroom, hp, hctx, hclean, State.weirNext, htokens]

end

/-! ### Updates (R301) -/

/-- The rmw events with the operations that they perform. -/
theorem exec_of_rmwEvent (s : State) (m : Nat) :
    ∀ e ∈ [(Instr.rmwFadd m, CellOp.rmwFadd), (.rmwIadd m, .rmwIadd), (.rmwFmax m, .rmwFmax)], exec e.1 s = s.rmwEvent m e.2 := by
  simp only [List.forall_mem_cons]
  exact ⟨rfl, rfl, rfl, fun _ h => absurd h List.not_mem_nil⟩

/-- An update of a line that is not poisoned is performed in one action, with no debugger attached. -/
theorem State.rmwEvent_of_clean {s : State} {m p n k va pa : Nat} {op : CellOp} {v : Word} {ack : Option (Nat × Nat)} {clk : DWord} {again : Bool}
    (hm : s.ready m = some (.rmw op p n k va pa v ack clk again)) (hclean : s.homePoisoned (lineOf pa) = false) (hattach : s.attach = [])
    {new : Nat × Flags} (hnew : rmwApply op (Memory.readLE s.mem pa 4) v.toNat = new) :
    s.rmwEvent m op = .next (((({ s.unpost m with mem := Memory.writeLE s.mem pa 4 new.1 } : State).raiseFlags p 0 new.2).elementDone
      p n).acknowledge p ack 4 clk) := by
  subst hnew
  have hclean' : (s.unpost m).homePoisoned (lineOf pa) = false := hclean
  simp only [State.rmwEvent, hm, beq_self_eq_true, if_true, State.performRmw, hclean', State.unpost_mem, Bool.false_eq_true,
    if_false]
  rw [State.trace_of_no_attach]
  exact hattach

/-! ### Acknowledgements (R276, R307) -/

/-- A synchronisation action at a home that takes the word unpoisoned, with fields that fit. -/
theorem State.syncAct_of_fit {s : State} {pa cnt tgt : Nat} {clk : DWord} (hattach : s.attach = []) (p va : Nat) :
    let g := (s.markHome (lineOf pa)).homeTake pa 8 clk
    g.2.2.1 = false → syncCnt g.1 + cnt < 2 ^ 24 → syncTgt g.1 + tgt < 2 ^ 24 → s.syncAct p va pa cnt tgt clk =
      (none, (g.2.2.2.homeWrite pa 8 (syncTest (syncGen g.1) (syncTgt g.1 + tgt) (syncCnt g.1 + cnt)) g.2.1).2) := by
  intro g hclean hcnt htgt
  have hfit : ¬ (2 ^ 24 ≤ syncCnt g.1 + cnt ∨ 2 ^ 24 ≤ syncTgt g.1 + tgt) := by omega
  have htaken : g.2.2.2.attach = [] := (State.homeTake_attach _ _ _ _).trans ((State.markHome_attach _ _).trans hattach)
  simp only [State.syncAct]
  rw [if_neg (by rw [hclean]; decide), if_neg hfit, State.trace_of_no_attach ((State.homeWrite_attach _ _ _ _ _).trans htaken)]

theorem execSyncwAck_of_here {s t : State} {m p va pa bytes : Nat} {clk : DWord} (hm : s.ready m = some (.ack p va pa bytes clk))
    (hhere : s.elsewhere pa = false) (hact : (s.unpost m).syncAct p va pa (bytes / 4) 0 clk = (none, t)) : execSyncwAck m s = .next t := by
  simp only [execSyncwAck, hm, hhere, hact, Bool.false_eq_true, if_false]

/-- Settles O52, by the equation of each event. -/
theorem weirElements : Obligations.WeirElements := by
  intro s m p n k pa va i bytes vs v ack clk op ev again s0
  refine ⟨?write, ?read, ?update, ?acknowledged⟩
  case write => exact fun hp hm hpending hctx => execWeirGraphElement_write hp hpending hctx hm
  case read => exact fun hp hm hpending hctx hclean => execWeirGraphElement_read hp hpending hctx hm hclean
  case update =>
    intro hev hm hclean hattach old new
    have hnew : rmwApply op old v.toNat = new := by cases op <;> rfl
    exact (exec_of_rmwEvent s m (ev, op) hev).trans (State.rmwEvent_of_clean hm hclean hattach hnew)
  case acknowledged =>
    intro hm hhere hattach g hclean hcnt htgt
    exact execSyncwAck_of_here hm hhere (State.syncAct_of_fit (s := s0) (tgt := 0) hattach p va hclean hcnt htgt)

end Sys2Proof.Machine
end

section
/-! SUPPORT and PROOF of O46. The events of the ports: each event's equation where its guard holds. Of a binding that completes: what the
parts of its completion leave of its port and of the region's live bindings. -/
namespace Sys2Proof.Machine

/-! ### Ports and their sides (R210, R255) -/

@[simp] theorem Region.setPort_port (r : Region) (n : Nat) (x : Port) : (r.setPort n x).port n = x := Tbl.look_put_same _ _ _ _
@[simp] theorem Region.setSide_port (r : Region) (n m : Nat) (x : PortSide) : (r.setSide n x).port m = r.port m := rfl
@[simp] theorem Region.setPort_live (r : Region) (n : Nat) (x : Port) : (r.setPort n x).live = r.live := rfl

@[simp] theorem State.setPort_port (s : State) (p n : Nat) (x : Port) : (s.setPort p n x).port p n = x := by
  rw [State.port, State.setPort, State.setRegion_region, Region.setPort_port]

@[simp] theorem State.setSide_side (s : State) (p n : Nat) (x : PortSide) : (s.setSide p n x).side p n = x := by
  rw [State.side, State.setSide, State.setRegion_region, Region.setSide_side]

@[simp] theorem State.setSide_port (s : State) (p n m : Nat) (x : PortSide) : (s.setSide p n x).port p m = s.port p m := by
  rw [State.port, State.setSide, State.setRegion_region, Region.setSide_port]
  rfl

/-! ### Read ports (R263) -/

section
variable {s : State} {p n : Nat} (hmoves : (s.region p).moves = true) (hreads : portReads (s.port p n).word = true)
  (hstill : portReads ((s.portOut p n).port p n).word = true)
include hmoves hreads hstill

/-- A read port without a binding that finds a marker on its link passes it on. -/
theorem execPortEmitToken_marker (hrun : ((s.portOut p n).port p n).run = none) (hfed : ((s.portOut p n).port p n).fed = true)
    (hhead : ((s.portOut p n).portHead p n).map (·.kind) = some kMarker) :
    execPortEmitToken p n s = .next ((s.portOut p n).portMarker p n) := by
  simp [execPortEmitToken, hmoves, hreads, hstill, hrun, hfed, hhead]

/-- A read port without a binding that finds no marker starts the next entry of its queue. -/
theorem execPortEmitToken_start (hrun : ((s.portOut p n).port p n).run = none)
    (hno : ((s.portOut p n).port p n).fed = false ∨ ((s.portOut p n).portHead p n).map (·.kind) ≠ some kMarker) :
    execPortEmitToken p n s = .next ((s.portOut p n).portStart p n) := by
  have hmarker : (((s.portOut p n).port p n).fed && ((s.portOut p n).portHead p n).map (·.kind) == some kMarker) = false := by
    rcases hno with h | h
    · rw [h, Bool.false_and]
    · rw [beq_eq_false_iff_ne.mpr h, Bool.and_false]
  simp only [execPortEmitToken, hmoves, hreads, hstill, hrun, hmarker, Bool.not_true, Bool.or_self, Bool.false_eq_true, if_false]

/-- A binding that may run waits for its group's handle, or moves on by one step. -/
theorem execPortEmitToken_run {b : Running} (hrun : ((s.portOut p n).port p n).run = some b) (hmay : (s.portOut p n).mayRun p n b = true) :
    execPortEmitToken p n s = .next (if b.idx = none then (s.portOut p n).portGroup p n b
      else ((s.portOut p n).portReadStep p n b).portOut p n) := by
  simp only [execPortEmitToken, hmoves, hreads, hstill, hrun, hmay, Bool.not_true, Bool.or_self, Bool.false_eq_true, if_false]
  cases b.idx <;> rfl

end

/-! ### Write ports and mamo ports (R212, R264) -/

/-- A port at which no result of mamo waits: it has none to emit, or has emitted what it had. -/
theorem Port.result_leaves {x : Port} {n : Nat} (h : x.word.op = .mamo → x.selectsResult n = false ∨ x.queue = []) :
    (x.word.op == .mamo && x.selectsResult n && !x.queue.isEmpty) = false := by
  by_cases hop : x.word.op = .mamo
  · rcases h hop with hnone | hempty
    · rw [hnone, Bool.and_false, Bool.false_and]
    · rw [hempty, List.isEmpty_nil, Bool.not_true, Bool.and_false]
  · rw [beq_eq_false_iff_ne.mpr hop, Bool.false_and, Bool.false_and]

section
variable {s : State} {p n : Nat} {mine : CellWord → Bool} (hmoves : (s.region p).moves = true) (hmine : mine (s.port p n).word = true)
  (hstill : mine ((s.portOut p n).port p n).word = true)
  (hresult : ((s.portOut p n).port p n).word.op = .mamo →
    ((s.portOut p n).port p n).selectsResult n = false ∨ ((s.portOut p n).port p n).queue = [])
include hmoves hmine hstill hresult

theorem State.portWriteEvent_idle (hrun : ((s.portOut p n).port p n).run = none) :
    s.portWriteEvent p n mine = .next ((s.portOut p n).portIdle p n) := by
  simp only [State.portWriteEvent, hmoves, hmine, hstill, Port.result_leaves hresult, hrun, Bool.not_true, Bool.or_self, Bool.false_eq_true,
    if_false]

theorem State.portWriteEvent_run {b : Running} (hrun : ((s.portOut p n).port p n).run = some b) (hmay : (s.portOut p n).mayRun p n b = true) :
    s.portWriteEvent p n mine = .next (((s.portOut p n).portWriteStep p n b).portOut p n) := by
  simp only [State.portWriteEvent, hmoves, hmine, hstill, Port.result_leaves hresult, hrun, hmay, Bool.not_true, Bool.or_self,
    Bool.false_eq_true, if_false, if_true]

end

theorem exec_portTakeToken (s : State) (p n : Nat) :
    exec (.portTakeToken p n) s = s.portWriteEvent p n fun w => w.op == .mst || (w.op == .mov && !movReads w) := rfl
theorem exec_mamoAccess (s : State) (p n : Nat) : exec (.mamoAccess p n) s = s.portWriteEvent p n fun w => w.op == .mamo := rfl

/-! ### The end of a binding (R126, R261, R385) -/

/-- The advances of a handle with which a binding completes. -/
def Binding.lastAdvance (b : Binding) : Nat :=
  match b.gate with
  | .slot => 1 | .whole => b.slots | .hold => 0 | .none => 0

/-- The advance of a handle with which a binding completes: whether it has been made, and the state after it. -/
def State.lastAdvance (s : State) (p n : Nat) (b : Running) : Bool × State :=
  if b.b.lastAdvance = 0 then (true, s) else s.portAdvance p n b b.b.lastAdvance

/-- Whether the last elements of a port's binding have been read or written, and what they have left behind can leave. -/
structure State.AllMoved (s : State) (p n : Nat) (b : Running) : Prop where
  run : (s.port p n).run = some b
  faulted : b.faulted = false
  stopped : (s.port p n).stopped = false
  begun : b.idx.isNone = false
  elements : b.b.pat.count ≤ b.n
  groups : b.b.groups ≤ b.group + 1
  pair : b.pair = []
  quiet : s.portQuiet p n b = true
  clear : s.portClear p n = true

/-- A port whose binding has completed. -/
def Port.completed (x : Port) (b : Binding) : Port :=
  { x with run := none, queue := if b.ends then x.queue ++ [eosToken] else x.queue }

/-- The state in which a binding has left its port, once its handle has advanced. -/
def State.bindingLeft (s : State) (p n : Nat) (b : Running) : State :=
  let s0 := ((s.endGraph b.ctxNo).endPortTile p n).dropBinding p n b.b
  let s2 := if (s0.region p).dropsSpills n then s0.setSide p n { s0.side p n with spill := Spillway.empty } else s0
  s2.setPort p n ((s2.port p n).completed b.b)

section
variable {s : State} {p n : Nat} {b : Running} (hmoves : (s.region p).moves = true) (hall : s.AllMoved p n b)
include hmoves hall

theorem execBindingComplete_of_dirty (hdirty : s.linesHome p b.lines = false) :
    execBindingComplete p n s = .next (s.writeBackLines p b.lines) := by
  obtain ⟨hrun, hfaulted, hstopped, hbegun, helements, hgroups, hpair, hquiet, hclear⟩ := hall
  simp only [execBindingComplete, hrun, hmoves, hfaulted, hstopped, hbegun, decide_eq_false (Nat.not_lt_of_le helements),
    decide_eq_false (Nat.not_lt_of_le hgroups), hpair, hquiet, hclear, hdirty, List.isEmpty_nil, Bool.not_true, Bool.not_false, Bool.or_self,
    Bool.false_eq_true, if_false, if_true]

/-- A binding whose lines are home advances its handle, and leaves its port when the handle has advanced. -/
theorem execBindingComplete_of_home (hhome : s.linesHome p b.lines = true) :
    execBindingComplete p n s =
      if !(s.lastAdvance p n b).1 then .next (s.lastAdvance p n b).2 else .next ((s.lastAdvance p n b).2.bindingLeft p n b) := by
  obtain ⟨hrun, hfaulted, hstopped, hbegun, helements, hgroups, hpair, hquiet, hclear⟩ := hall
  cases hgate : b.b.gate
  all_goals
    simp only [execBindingComplete, hrun, hmoves, hfaulted, hstopped, hbegun, decide_eq_false (Nat.not_lt_of_le helements),
      decide_eq_false (Nat.not_lt_of_le hgroups), hpair, hquiet, hclear, hhome, List.isEmpty_nil, Bool.not_true, Bool.or_self,
      Bool.false_eq_true, if_false, State.lastAdvance, Binding.lastAdvance, hgate]
    rfl

end

/-- A binding that has left is not among the live bindings of its region. -/
theorem State.dropBinding_live (s : State) (p n : Nat) (b : Binding) :
    ((s.dropBinding p n b).region p).live = (s.region p).live.filter (·.1 != b.seq) := by
  rw [State.dropBinding]
  cases b.hold <;> exact congrArg Region.live (State.setRegion_region _ _ _)

theorem State.bindingLeft_port (s : State) (p n : Nat) (b : Running) :
    ((s.bindingLeft p n b).port p n).run = none ∧ (b.b.ends = true → ((s.bindingLeft p n b).port p n).queue.getLast? = some eosToken) := by
  rw [State.bindingLeft, State.setPort_port]
  refine ⟨rfl, fun hends => ?_⟩
  simp only [Port.completed, hends, if_true, List.getLast?_concat]

theorem State.bindingLeft_live (s : State) (p n : Nat) (b : Running) : ∀ l ∈ ((s.bindingLeft p n b).region p).live, l.1 ≠ b.b.seq := by
  have hlive : ((s.bindingLeft p n b).region p).live = ((((s.endGraph b.ctxNo).endPortTile p n).dropBinding p n b.b).region p).live := by
    rw [State.bindingLeft, State.setPort, State.setRegion_region, Region.setPort_live]
    split
    · rw [State.setSide, State.setRegion_region, Region.setSide_live]
    · rfl
  intro l hl
  rw [hlive, State.dropBinding_live] at hl
  exact bne_iff_ne.mp (List.mem_filter.mp hl).2

/-! ### xlat and msgout (R214, R216) -/

theorem portTokenFault_of_data {t : Token} (h : isDataToken t = true) (header : Bool) : portTokenFault header t = none := if_pos h

/-- A token of data is neither eos nor a marker. -/
theorem kind_ne_of_data {t : Token} (h : isDataToken t = true) : (t.kind == kEos) = false ∧ (t.kind == kMarker) = false := by
  simp only [isDataToken, Bool.or_eq_true, beq_iff_eq] at h
  rcases h with h | h <;> rw [h] <;> decide

theorem State.portTakes_port (s : State) (p n : Nat) : (s.portTakes p n).port p n = (s.port p n).takeLink n := by
  rw [State.portTakes]
  split
  · rw [State.metered, State.setSide_port, State.setPort_port]
  · rw [State.setPort_port]

theorem State.portTakes_held (s : State) (p n : Nat) : ((s.portTakes p n).port p n).held = (s.port p n).held := by
  rw [State.portTakes_port, Port.takeLink]

/-- An xlat port takes a token of data from its link. -/
theorem execXlatTranslate_takes {s : State} {p n : Nat} {t : Token} (hmoves : (s.region p).moves = true)
    (hop : (s.port p n).word.op = .xlat) (hstill : ((s.portOut p n).port p n).word.op = .xlat)
    (hstopped : ((s.portOut p n).port p n).stopped = false) (hclosing : ((s.portOut p n).port p n).closing = false)
    (hqueue : ((s.portOut p n).port p n).queue = []) (hrelatch : ((s.portOut p n).side p n).relatch = false)
    (hheld : ((s.portOut p n).port p n).held.length < 2) (hconst : (s.portOut p n).portConst p n = none)
    (hhead : (s.portOut p n).portHead p n = some t) (hdata : isDataToken t = true) :
    execXlatTranslate p n s = .next (((s.portOut p n).portTakes p n).xlatTakes p n t) := by
  obtain ⟨heos, hmarker⟩ := kind_ne_of_data hdata
  simp only [execXlatTranslate, hmoves, hop, hstill, hstopped, hclosing, hqueue, hrelatch, if_neg (Nat.not_le_of_lt hheld), hconst, hhead,
    portTokenFault_of_data hdata, heos, hmarker, bne_self_eq_false, List.isEmpty_nil, Bool.not_true, Bool.or_self, Bool.false_eq_true, if_false]

/-- The first token of a pair is held. -/
theorem State.xlatTakes_first {s : State} {p n : Nat} (h : (s.port p n).held = []) (t : Token) :
    s.xlatTakes p n t = s.setPort p n { s.port p n with held := [t] } := by
  simp only [State.xlatTakes, State.xlatGo, State.setPort_port, h, List.nil_append]

/-- With the second token of a pair the pair is translated. -/
theorem State.xlatTakes_second {s : State} {p n : Nat} {a : Token} (h : (s.port p n).held = [a]) (t : Token) :
    s.xlatTakes p n t = ((s.setPort p n { s.port p n with held := [a, t] }).xlatPair p n a.payload t.payload).portOut p n := by
  simp only [State.xlatTakes, State.xlatGo, State.setPort_port, h, List.cons_append, List.nil_append]

/-- A whole burst of a bound port is posted when its inbox has room. -/
theorem execMsgoutPost_of_burst {s : State} {p n : Nat} {c : EngClass} (hmoves : (s.region p).moves = true)
    (hop : (s.port p n).word.op = .msgout) (hstopped : (s.port p n).stopped = false) (hended : (s.port p n).ended = false)
    (hlast : (s.port p n).held.getLast?.map (·.kind) = some kLast) (heven : (s.port p n).held.length % 2 = 0)
    (hlow : 6 ≤ (s.port p n).held.length) (hhigh : (s.port p n).held.length ≤ 24) (hcls : (s.side p n).cls = some c)
    (hroom : s.inboxRoom p c = true) :
    execMsgoutPost p n s = .next ((s.setPort p n { s.port p n with held := [] }).postEngine p (keyOut p n) c
      (wordsOfTokens (s.port p n).held) none) := by
  have hsize : ¬ ((s.port p n).held.length % 2 = 1 ∨ (s.port p n).held.length < 6 ∨ 24 < (s.port p n).held.length) := by omega
  simp only [execMsgoutPost, hmoves, hop, hstopped, hended, hlast, if_neg hsize, hcls, hroom, bne_self_eq_false, beq_self_eq_true, Bool.not_true,
    Bool.or_self, Bool.false_eq_true, if_false, if_true]

/-! ### Retries (R333) -/

/-- What a binding's accesses need of their pages. -/
def Binding.access (b : Binding) : Need := if b.kind.reads then .read else .write

section
variable {s : State} {p n : Nat} {b : Running} (hmoves : (s.region p).moves = true) (hrun : (s.port p n).run = some b)
  (hfaulted : b.faulted = false) (hrelatch : (s.side p n).relatch = false)
include hmoves hrun hfaulted hrelatch

/-- The head of a spillway that is due, translates and is performed leaves it. -/
theorem execSpillwayRetry_of_performed {e : Spilled} {rest : List Spilled} {pa : Nat} {cls : Bool} {s1 s2 : State}
    (hposted : (s.port p n).posted = false) (hdrops : (s.region p).dropsSpills n = false) (hring : (s.side p n).spill.count = 0)
    (hqueue : (s.side p n).spill.queue = e :: rest) (hwaits : (s.side p n).spill.retryAt ≠ 0) (hdue : (s.side p n).spill.retryAt ≤ s.tide)
    (hpage : s.portTranslate p n e.va b.b.access = (.ok pa cls, s1)) (hdone : s1.replayAt p n pa cls b e = (.ok (), s2)) :
    execSpillwayRetry p n s = .next (s2.setSide p n { s2.side p n with
      spill := { (s2.side p n).spill with queue := rest, since := s.tide, retryAt := 0 } }) := by
  rw [Binding.access] at hpage
  simp only [execSpillwayRetry, hrun, hmoves, hfaulted, hposted, hrelatch, hdrops, hring, hqueue, if_neg hwaits, decide_eq_true hdue, hpage, hdone,
    ne_eq, not_true_eq_false, false_and, Bool.not_true, Bool.or_self, Bool.false_eq_true, if_false]

/-- A stalled element whose page still does not translate walks again 1,024 cycles later. -/
theorem execStalledPortRetry_of_fault {va d : Nat} {s1 : State} (hstall : (s.side p n).stallVa = some va) (hdue : (s.side p n).stallAt ≤ s.tide)
    (hpage : s.portTranslate p n va b.b.access = (.fault d, s1)) :
    execStalledPortRetry p n s = .next (s1.setSide p n { s1.side p n with stallAt := (s.side p n).stallAt + s.cyclesAt p 1024 }) := by
  rw [Binding.access] at hpage
  simp only [execStalledPortRetry, hrun, hstall, hmoves, hfaulted, hrelatch, decide_eq_false (Nat.not_lt_of_le hdue), hpage, Bool.not_true,
    Bool.or_self, Bool.false_eq_true, if_false]

/-- A stalled element whose page translates goes on. -/
theorem execStalledPortRetry_of_page {va pa : Nat} {cls : Bool} {s1 : State} (hstall : (s.side p n).stallVa = some va)
    (hdue : (s.side p n).stallAt ≤ s.tide) (hpage : s.portTranslate p n va b.b.access = (.ok pa cls, s1)) :
    let s3 := s1.setSide p n { s1.side p n with stallVa := none }
    execStalledPortRetry p n s = .next (if b.b.kind.reads then s3.portReadStep p n b else s3.portWriteStep p n b) := by
  rw [Binding.access] at hpage
  simp only [execStalledPortRetry, hrun, hstall, hmoves, hfaulted, hrelatch, decide_eq_false (Nat.not_lt_of_le hdue), hpage, Bool.not_true,
    Bool.or_self, Bool.false_eq_true, if_false]
  exact (apply_ite _ _ _ _).symm

end

/-! ### Relatches (R282, R328) -/

/-- A relatch token at a port holds its spillway back. -/
theorem execSpillwayRetry_of_relatch {s : State} {p n : Nat} (h : (s.side p n).relatch = true) : execSpillwayRetry p n s = .next s := by
  simp only [execSpillwayRetry, h, Bool.or_true, Bool.true_or, if_true]
  cases (s.port p n).run <;> rfl

/-- A relatch token at a port holds its stalled element back. -/
theorem execStalledPortRetry_of_relatch {s : State} {p n : Nat} (h : (s.side p n).relatch = true) : execStalledPortRetry p n s = .next s := by
  simp only [execStalledPortRetry, h, Bool.or_true, Bool.true_or, if_true]
  cases (s.port p n).run <;> cases (s.side p n).stallVa <;> rfl

/-- The token of a relatch emerges from a port once nothing translated before it is outstanding, and no pair of its range is left. -/
theorem execRelatchTokenAtPort_emerges {s : State} {p n : Nat} {op : RelatchOp} (hop : (s.die (dieOfPlace p)).relatch = some op)
    (hrelatch : (s.side p n).relatch = true) (hposted : (s.port p n).posted = false)
    (hout : ∀ z, (s.port p n).run = some z → z.outstanding = 0) :
    let s1 := s.setSide p n ((s.side p n).relatched op.base (2 ^ (op.log + 12)))
    (∀ q ∈ (s.side p n).pairs, ¬ (op.base ≤ q.va ∧ q.va < op.base + 2 ^ (op.log + 12) ∧ s1.pairLives p q = true)) →
    execRelatchTokenAtPort p n s = .next (s1.relatchEmerges p n) := by
  intro s1 hpairs
  have hleft : s1.pairsLeft p n op.base (2 ^ (op.log + 12)) = false := by
    rw [State.pairsLeft, State.setSide_side, List.any_eq_false]
    intro q hq
    simpa [and_assoc] using hpairs q hq
  cases hrun : (s.port p n).run with
  | none => simp [execRelatchTokenAtPort, hop, hrelatch, hposted, hrun, hleft, s1]
  | some z => simp [execRelatchTokenAtPort, hop, hrelatch, hposted, hrun, hleft, s1, hout z hrun]

/-- Settles O46, by the equation of each event. (`portEvents` is a definition of the model.) -/
theorem portEvents_hold : Obligations.PortEvents := by
  intro s p n i k pa cls b t a c e rest d op r x s0 y side write allMoved need hmoves
  have hwrite {ev : Instr} {mine : CellWord → Bool} (hexec : exec ev s = s.portWriteEvent p n mine) : write ev mine := by
    intro hmine hstill hresult
    exact ⟨fun hrun => hexec.trans (State.portWriteEvent_idle hmoves hmine hstill hresult hrun),
      fun hrun hmay => hexec.trans (State.portWriteEvent_run hmoves hmine hstill hresult hrun hmay)⟩
  have hall (h : allMoved) : s.AllMoved p n b := by
    obtain ⟨hrun, hfaulted, hstopped, hidx, helements, hgroups, hpair, hquiet, hclear⟩ := h
    exact ⟨hrun, hfaulted, hstopped, by rw [hidx]; rfl, helements, hgroups, hpair, hquiet, hclear⟩
  refine ⟨fun hreads hstill => ⟨?marker, ?start, ?run⟩, ?take, ?mamo, ?dirty, ?completes, ?xlat, ?msgout, ?spilled, ?stalled, ?held, ?relatch⟩
  case marker => exact execPortEmitToken_marker hmoves hreads hstill
  case start => exact execPortEmitToken_start hmoves hreads hstill
  case run => exact execPortEmitToken_run hmoves hreads hstill
  case take => exact hwrite (exec_portTakeToken s p n)
  case mamo => exact hwrite (exec_mamoAccess s p n)
  case dirty => exact fun hmoved hdirty => execBindingComplete_of_dirty hmoves (hall hmoved) hdirty
  case completes =>
    intro hmoved hhome hk hadv
    have hlast : s.lastAdvance p n b = if k = 0 then (true, s) else s.portAdvance p n b k := by
      rw [State.lastAdvance, show b.b.lastAdvance = k from hk.symm]
    rw [← hlast] at hadv
    obtain ⟨hgone, hends⟩ := (s.lastAdvance p n b).2.bindingLeft_port p n b
    refine ⟨_, (execBindingComplete_of_home hmoves (hall hmoved) hhome).trans (if_neg ?_), hgone, State.bindingLeft_live _ p n b, hends⟩
    rw [hadv]
    decide
  case xlat =>
    intro hop hstill hstopped hclosing hqueue hrelatch hheld hconst hhead hdata s1
    have htakes := execXlatTranslate_takes hmoves hop hstill hstopped hclosing hqueue hrelatch hheld hconst hhead hdata
    have hkept : (s1.port p n).held = y.held := State.portTakes_held s0 p n
    exact ⟨fun hfirst => htakes.trans (congrArg Host.Outcome.next (State.xlatTakes_first (hkept.trans hfirst) t)),
      fun hsecond => htakes.trans (congrArg Host.Outcome.next (State.xlatTakes_second (hkept.trans hsecond) t))⟩
  case msgout =>
    intro hop hstopped hended hlast heven hlow hhigh hcls hroom
    exact execMsgoutPost_of_burst hmoves hop hstopped hended hlast heven hlow hhigh hcls hroom
  case spilled =>
    intro hrun hfaulted hposted hrelatch hdrops hring hqueue hwaits hdue hpage done hdone
    exact execSpillwayRetry_of_performed hmoves hrun hfaulted hrelatch hposted hdrops hring hqueue hwaits hdue (Prod.ext hpage rfl)
      (Prod.ext hdone rfl)
  case stalled =>
    intro hrun hfaulted hrelatch hstall hdue s1
    exact ⟨fun hpage => execStalledPortRetry_of_fault hmoves hrun hfaulted hrelatch hstall hdue (Prod.ext hpage rfl),
      fun hpage => execStalledPortRetry_of_page hmoves hrun hfaulted hrelatch hstall hdue (Prod.ext hpage rfl)⟩
  case held => exact fun h => ⟨execSpillwayRetry_of_relatch h, execStalledPortRetry_of_relatch h⟩
  case relatch => exact fun hop hrelatch hposted hout => execRelatchTokenAtPort_emerges hop hrelatch hposted hout

end Sys2Proof.Machine
end

section
/-! SUPPORT of O5. An outcome keeps the form of memory when its next state has it. Each operation by which words, commands and events end
keeps the form where the state that it is given has it, found along the operation's own branches. -/
namespace Sys2Proof.Machine

/-! ### Outcomes -/

/-- The memory of the next state, where the outcome is one, has its canonical form. -/
def NextWf (o : Out) : Prop := ∀ t, o = .next t → Memory.wf t.mem = true

@[simp] theorem nextWf_next (t : State) : NextWf (.next t) ↔ Memory.wf t.mem = true := by simp [NextWf]
@[simp] theorem nextWf_fault (e : Fault) : NextWf (.fault e) := by simp [NextWf]
@[simp] theorem nextWf_ite (c : Prop) [Decidable c] (a b : Out) : NextWf (if c then a else b) ↔ (c → NextWf a) ∧ (¬c → NextWf b) := by
  split <;> simp [*]

/-- What is known of the state that an operation gives beside its answer is known of the state that a branch names. -/
theorem wf_of_eq {α : Type} {x : α × State} {a : α} {t : State} (h : x = (a, t)) (hx : Memory.wf x.2.mem = true) :
    Memory.wf t.mem = true := by
  rw [h] at hx; exact hx

/-- The memory of the state that a request leads to, where it is not refused, has its canonical form. -/
def OkWf (f : Except Nat State) : Prop := ∀ t, f = .ok t → Memory.wf t.mem = true

@[simp] theorem okWf_ok (t : State) : OkWf (.ok t) ↔ Memory.wf t.mem = true := by simp [OkWf]
@[simp] theorem okWf_error (res : Nat) : OkWf (.error res) := by simp [OkWf]
@[simp] theorem okWf_ite (c : Prop) [Decidable c] (a b : Except Nat State) : OkWf (if c then a else b) ↔ (c → OkWf a) ∧ (¬c → OkWf b) := by
  split <;> simp [*]

/-! ### Operations that the table of `_mem` and `_wf` lemmas leaves out -/

@[simp] theorem State.storeWaits_mem (s : State) (line : Nat) : (s.storeWaits line).mem = s.mem := rfl
@[simp] theorem State.hostGets_mem (s : State) (v : Option (List Byte)) : (s.hostGets v).mem = s.mem := rfl

@[simp] theorem State.patternWalk_mem (s : State) (p : Nat) (i : Instr) : (s.patternWalk p i).2.mem = s.mem := by
  fun_cases State.patternWalk
  case case1 | case2 =>
    simpa using (congrArg (fun q => q.2.mem) ‹s.accessRegion _ _ _ = _›).symm
  case case3 => rfl

/-- A firing that keeps memory in its form does so where a breakpoint may stop it. -/
theorem State.breakFire_wf (s : State) (p c : Nat) (f : State → State) (hf : ∀ u, Memory.wf u.mem = true → Memory.wf (f u).mem = true)
    (h0 : Memory.wf s.mem = true) : Memory.wf (s.breakFire p c f).mem = true := by
  fun_cases State.breakFire
  case case1 => exact hf s h0
  case case2 => exact wf_of_eq ‹s.breakAt _ _ _ = _› (by simp [h0])
  case case3 => exact hf _ (wf_of_eq ‹s.breakAt _ _ _ = _› (by simp [h0]))

@[simp] theorem State.answersAway_mem (s : State) (p v : Nat) (clk : DWord) (bad : Option Cause) : (s.answersAway p v clk bad).mem = s.mem := by
  simp [State.answersAway]

@[simp] theorem State.awayElement_wf (s : State) (m p pa : Nat) (vs : List Word) (clk : DWord) (rd : Bool) (h0 : Memory.wf s.mem = true) :
    Memory.wf (s.awayElement m p pa vs clk rd).mem = true := by
  fun_cases State.awayElement <;> simp +zetaDelta [h0]

@[simp] theorem State.freezeRegion_wf (s : State) (p : Nat) (h0 : Memory.wf s.mem = true) : Memory.wf (s.freezeRegion p).mem = true := by
  simp [State.freezeRegion, h0]

@[simp] theorem State.poisonWord_wf (s : State) (p c : Nat) (h0 : Memory.wf s.mem = true) : Memory.wf (s.poisonWord p c).mem = true := by
  simp [State.poisonWord, h0]

/-! ### Completing a word, waiting, and faults (R134 to R144) -/

@[simp] theorem State.stall_nextWf (s : State) (h0 : Memory.wf s.mem = true) : NextWf (s.stall) := by
  simp [State.stall, h0]

@[simp] theorem State.idle_nextWf (s : State) (h0 : Memory.wf s.mem = true) : NextWf (s.idle) := by
  simp [State.idle, h0]

@[simp] theorem State.raise_nextWf (s : State) (c : Cause) (detail addr : Nat) (h0 : Memory.wf s.mem = true) :
    NextWf (s.raise c detail addr) := by
  simp [State.raise, h0]

@[simp] theorem State.raiseCommand_nextWf (s : State) (t : Nat) (h0 : Memory.wf s.mem = true) : NextWf (s.raiseCommand t) := by
  simp [State.raiseCommand, h0]

@[simp] theorem State.raisePool_nextWf (s : State) (token : Nat) (h0 : Memory.wf s.mem = true) : NextWf (s.raisePool token) := by
  simp [State.raisePool, h0]

@[simp] theorem State.complete_nextWf (s : State) (r : Region) (h0 : Memory.wf s.mem = true) : NextWf (s.complete r) := by
  simp [State.complete, h0]

@[simp] theorem State.writes_nextWf (s : State) (rd : Reg) (v : DWord) (h0 : Memory.wf s.mem = true) : NextWf (s.writes rd v) := by
  simp [State.writes, h0]

@[simp] theorem State.postAndWait_nextWf (s : State) (src : Option Nat) (b : Body) (h0 : Memory.wf s.mem = true) :
    NextWf (s.postAndWait src b) := by
  simp [State.postAndWait, h0]

@[simp] theorem State.raiseIllegal_nextWf (s : State) (h0 : Memory.wf s.mem = true) : NextWf (s.raiseIllegal) := by
  simp [State.raiseIllegal, h0]

@[simp] theorem State.transfer_nextWf (s : State) (r : Region) (t : Int) (h0 : Memory.wf s.mem = true) : NextWf (s.transfer r t) := by
  fun_cases State.transfer <;> simp [h0]

/-! ### Loads, stores and atomics (R148 to R153) -/

@[simp] theorem State.raiseAccess_nextWf (s : State) (c : Cause) (detail va : Nat) (h0 : Memory.wf s.mem = true) :
    NextWf (s.raiseAccess c detail va) := by
  simp [State.raiseAccess, h0]

@[simp] theorem State.load_nextWf (s : State) (rd ra : Reg) (off : BitVec 16) (n : Nat) (signed : Bool) (h0 : Memory.wf s.mem = true) :
    NextWf (s.load rd ra off n signed) := by
  fun_cases State.load
  all_goals have h1 := wf_of_eq ‹s.accessConduct _ _ _ _ = _› (by simp [h0])
  case case1 | case2 => simp [h1]
  all_goals simp [h1, wf_of_eq ‹State.stashRead _ _ _ _ _ _ = _› (by simp [h1])]

@[simp] theorem State.awaitHome_nextWf (s : State) (pa : Nat) (op : AwayOp) (h0 : Memory.wf s.mem = true) : NextWf (s.awaitHome pa op) := by
  simp [State.awaitHome, h0]

@[simp] theorem State.store_nextWf (s : State) (rv ra : Reg) (off : BitVec 16) (n : Nat) (h0 : Memory.wf s.mem = true) :
    NextWf (s.store rv ra off n) := by
  fun_cases State.store
  case case1 | case2 | case3 | case4 => simp [h0]
  all_goals have h1 := wf_of_eq ‹s.accessConduct _ _ _ _ = _› (by simp [h0])
  case case5 | case6 | case7 => simp +zetaDelta [h1]
  all_goals simp [wf_of_eq ‹State.stashWrite _ _ _ _ _ _ = _› (by simp [h1])]

@[simp] theorem State.atomic_nextWf (s : State) (rd ra : Reg) (wide : Bool) (op : AtomOp) (v : DWord) (h0 : Memory.wf s.mem = true) :
    NextWf (s.atomic rd ra wide op v) := by
  fun_cases State.atomic
  case case1 | case2 | case3 | case4 => simp [h0]
  all_goals simp [wf_of_eq ‹s.accessConduct _ _ _ _ = _› (by simp [h0])]

/-! ### Handles (R160, R161, R163, R250 to R254) -/

@[simp] theorem execHandleHeaderAction_nextWf (m : Nat) (s : State) (h0 : Memory.wf s.mem = true) :
    NextWf (execHandleHeaderAction m s) := by
  fun_cases execHandleHeaderAction <;> simp [h0]

/-- A word that waits on a header keeps the form when what follows the header's reply does. -/
@[simp] theorem State.headerWord_nextWf (s : State) (h : Nat) (op : HeaderOp) (onDone : DWord → DWord → Out) (flush : Bool)
    (hdone : ∀ v clk, NextWf (onDone v clk)) (h0 : Memory.wf s.mem = true) : NextWf (s.headerWord h op onDone flush) := by
  fun_cases State.headerWord
  case case1 => exact hdone _ _
  case case2 | case3 | case4 => simp [h0]
  all_goals simp [wf_of_eq ‹s.headerAt _ _ _ = _› (by simp [h0])]

@[simp] theorem State.handleWord_nextWf (s : State) (h : Fin 16) (rb : Reg) (op : Nat → HeaderOp) (bounded release : Bool) (h0 : Memory.wf s.mem = true) :
    NextWf (s.handleWord h rb op bounded release) := by
  fun_cases State.handleWord <;> simp [h0]

@[simp] theorem State.handleStatus_nextWf (s : State) (rd : Reg) (h : Nat) (h0 : Memory.wf s.mem = true) :
    NextWf (s.handleStatus rd h) := by
  fun_cases State.handleStatus <;> simp [h0]

@[simp] theorem execIdrain_nextWf (h : Fin 16) (s : State) (h0 : Memory.wf s.mem = true) : NextWf (execIdrain h s) := by
  fun_cases execIdrain <;> simp [h0]

/-! ### Branches, system instructions and control words (R136 to R143, R154 to R156, R173, R174) -/

@[simp] theorem State.branch_nextWf (s : State) (ra rb : Reg) (off : BitVec 16) (taken : DWord → DWord → Bool) (h0 : Memory.wf s.mem = true) :
    NextWf (s.branch ra rb off taken) := by
  fun_cases State.branch <;> simp [h0]

@[simp] theorem execHalt_nextWf (s : State) (h0 : Memory.wf s.mem = true) : NextWf (execHalt s) := by
  fun_cases execHalt <;> simp [h0]

@[simp] theorem execWfe_nextWf (s : State) (h0 : Memory.wf s.mem = true) : NextWf (execWfe s) := by
  fun_cases execWfe <;> simp [h0]

@[simp] theorem execEret_nextWf (s : State) (h0 : Memory.wf s.mem = true) : NextWf (execEret s) := by
  fun_cases execEret <;> simp [h0]

@[simp] theorem execWaitt_nextWf (ra : Reg) (s : State) (h0 : Memory.wf s.mem = true) : NextWf (execWaitt ra s) := by
  fun_cases execWaitt <;> simp [h0]

@[simp] theorem execMfc_nextWf (rd : Reg) (c : Ctl) (s : State) (h0 : Memory.wf s.mem = true) : NextWf (execMfc rd c s) := by
  fun_cases execMfc <;> simp [h0]

@[simp] theorem execMtcChmap_nextWf (ra : Reg) (k : Fin 28) (s : State) (h0 : Memory.wf s.mem = true) : NextWf (execMtcChmap ra k s) := by
  fun_cases execMtcChmap <;> simp +zetaDelta [h0]

@[simp] theorem execTimerExpiry_nextWf (p : Nat) (s : State) (h0 : Memory.wf s.mem = true) : NextWf (execTimerExpiry p s) := by
  fun_cases execTimerExpiry <;> simp [h0]

@[simp] theorem execWaittExpiry_nextWf (p k : Nat) (s : State) (h0 : Memory.wf s.mem = true) : NextWf (execWaittExpiry p k s) := by
  fun_cases execWaittExpiry <;> simp [h0]

/-! ### Channels, barriers and fences (R168 to R172) -/

@[simp] theorem execSend_nextWf (ra rb : Reg) (s : State) (h0 : Memory.wf s.mem = true) : NextWf (execSend ra rb s) := by
  fun_cases execSend <;> simp +zetaDelta [h0]

@[simp] theorem execRecv_nextWf (rd ra : Reg) (s : State) (h0 : Memory.wf s.mem = true) : NextWf (execRecv rd ra s) := by
  fun_cases execRecv <;> simp +zetaDelta [h0]

@[simp] theorem execArrive_nextWf (rd ra : Reg) (s : State) (h0 : Memory.wf s.mem = true) : NextWf (execArrive rd ra s) := by
  fun_cases execArrive
  case case1 | case2 | case3 | case4 => simp [h0]
  all_goals simp [wf_of_eq ‹s.accessConduct _ _ _ _ = _› (by simp [h0])]

@[simp] theorem execAwait_nextWf (ra rb : Reg) (s : State) (h0 : Memory.wf s.mem = true) : NextWf (execAwait ra rb s) := by
  fun_cases execAwait
  case case1 | case2 | case3 | case4 => simp [h0]
  all_goals simp [wf_of_eq ‹s.accessConduct _ _ _ _ = _› (by simp [h0])]

@[simp] theorem execFence_nextWf (c : Scope) (s : State) (h0 : Memory.wf s.mem = true) : NextWf (execFence c s) := by
  fun_cases execFence <;> simp [h0]

/-! ### Pools (R355 to R379) -/

@[simp] theorem execPoolFold_nextWf (m : Nat) (s : State) (h0 : Memory.wf s.mem = true) : NextWf (execPoolFold m s) := by
  fun_cases execPoolFold <;> simp +zetaDelta [h0]

@[simp] theorem execPoolDeclareAtHome_nextWf (m : Nat) (s : State) (h0 : Memory.wf s.mem = true) : NextWf (execPoolDeclareAtHome m s) := by
  fun_cases execPoolDeclareAtHome
  case case2 =>
    have h1 := wf_of_eq (by assumption) (by split <;> simp +zetaDelta [h0])
    simp [h1]
  all_goals simp +zetaDelta [h0]

@[simp] theorem execPoolGather_nextWf (m : Nat) (s : State) (h0 : Memory.wf s.mem = true) : NextWf (execPoolGather m s) := by
  fun_cases execPoolGather
  case case4 => simp [State.gatherStep_mem _ _ _ _ _ ‹s.gatherStep _ _ _ = some _›, h0]
  case case7 => simp [wf_of_eq ‹State.gatherEnd _ _ _ _ = _› (by simp [h0])]
  all_goals simp [h0]

@[simp] theorem execPoolCompletionWord_nextWf (m : Nat) (s : State) (h0 : Memory.wf s.mem = true) :
    NextWf (execPoolCompletionWord m s) := by
  fun_cases execPoolCompletionWord <;> simp [h0]

@[simp] theorem execPdcl_nextWf (settle : Bool) (ra : Reg) (scope : Scope) (op : PoolOp) (ty : PoolType) (pl : Fin 64) (s : State) (h0 : Memory.wf s.mem = true) :
    NextWf (execPdcl settle ra scope op ty pl s) := by
  fun_cases execPdcl <;> simp [h0]

@[simp] theorem execPcon_nextWf (ra : Reg) (pl : Fin 64) (s : State) (h0 : Memory.wf s.mem = true) : NextWf (execPcon ra pl s) := by
  fun_cases execPcon <;> simp +zetaDelta [h0]

@[simp] theorem State.gatherWord_nextWf (s : State) (rd : Reg) (pl : Nat) (counted settle : Bool) (h0 : Memory.wf s.mem = true) :
    NextWf (s.gatherWord rd pl counted settle) := by
  fun_cases State.gatherWord <;> simp [h0]

/-! ### Gauges and the rill (R337 to R354) -/

@[simp] theorem execRillNodeTakeTrain_nextWf (m : Nat) (s : State) (h0 : Memory.wf s.mem = true) : NextWf (execRillNodeTakeTrain m s) := by
  fun_cases execRillNodeTakeTrain <;> simp +zetaDelta [h0]

@[simp] theorem execRillWindowExpiry_nextWf (p n : Nat) (s : State) (h0 : Memory.wf s.mem = true) :
    NextWf (execRillWindowExpiry p n s) := by
  fun_cases execRillWindowExpiry <;> simp [h0]

@[simp] theorem execRillRootWindowExpiry_nextWf (d j : Nat) (s : State) (h0 : Memory.wf s.mem = true) :
    NextWf (execRillRootWindowExpiry d j s) := by
  fun_cases execRillRootWindowExpiry <;> simp [h0]

@[simp] theorem execTrainApply_nextWf (m : Nat) (s : State) (h0 : Memory.wf s.mem = true) : NextWf (execTrainApply m s) := by
  fun_cases execTrainApply
  case case3 s1 _ s2 =>
    have h2 : s2.mem = s1.mem := by simp only [s2]; split <;> simp
    exact (nextWf_next _).2 (foldl_wf _ _ _ (fun _ _ h => h) (h2 ▸ h0))
  all_goals simp +zetaDelta [h0]

@[simp] theorem execSealAction_nextWf (m : Nat) (s : State) (h0 : Memory.wf s.mem = true) : NextWf (execSealAction m s) := by
  fun_cases execSealAction <;> simp +zetaDelta [h0]

@[simp] theorem execGenerationWordArrive_nextWf (m : Nat) (s : State) (h0 : Memory.wf s.mem = true) : NextWf (execGenerationWordArrive m s) := by
  simp only [execGenerationWordArrive]
  repeat' split
  all_goals simp [h0]

@[simp] theorem execRescaleEventArrive_nextWf (m : Nat) (s : State) (h0 : Memory.wf s.mem = true) :
    NextWf (execRescaleEventArrive m s) := by
  fun_cases execRescaleEventArrive <;> simp +zetaDelta [h0]

/-! ### Holders and channel words (R125 to R127, R170) -/

@[simp] theorem execHolderArrive_nextWf (m : Nat) (s : State) (h0 : Memory.wf s.mem = true) : NextWf (execHolderArrive m s) := by
  fun_cases execHolderArrive <;> simp [h0]

@[simp] theorem execChannelWordEnter_nextWf (m : Nat) (s : State) (h0 : Memory.wf s.mem = true) : NextWf (execChannelWordEnter m s) := by
  fun_cases execChannelWordEnter
  case case5 => simp [State.reply_wf (s.unpost m) _ _ _ _ _ h0 ‹_›]
  all_goals simp +zetaDelta [h0]

@[simp] theorem execHolderAdmit_nextWf (d h : Nat) (s : State) (h0 : Memory.wf s.mem = true) : NextWf (execHolderAdmit d h s) := by
  fun_cases execHolderAdmit <;> simp +zetaDelta [h0]

@[simp] theorem execAdmissionTimeout_nextWf (d h : Nat) (s : State) (h0 : Memory.wf s.mem = true) :
    NextWf (execAdmissionTimeout d h s) := by
  fun_cases execAdmissionTimeout <;> simp [h0]

/-! ### The integer instructions (R145 to R147) -/

@[simp] theorem State.alu_nextWf (s : State) (rd ra rb : Reg) (f : DWord → DWord → DWord) (h0 : Memory.wf s.mem = true) :
    NextWf (s.alu rd ra rb f) := by
  simp [State.alu, h0]

@[simp] theorem State.aluImm_nextWf (s : State) (rd ra : Reg) (f : DWord → DWord) (h0 : Memory.wf s.mem = true) :
    NextWf (s.aluImm rd ra f) := by
  simp [State.aluImm, h0]

/-! ### Cells and column units (R177 to R186, R192 to R221) -/

/-- A firing keeps the form when what its operation does does. -/
@[simp] theorem State.fireWith_nextWf (s : State) (p c : Nat) (op : CellOp) (f : State → Cell → CellWord → List Token → State)
    (hf : ∀ u x w ts, Memory.wf u.mem = true → Memory.wf (f u x w ts).mem = true) (h0 : Memory.wf s.mem = true) :
    NextWf (s.fireWith p c op f) := by
  fun_cases State.fireWith
  case case1 => simp [h0]
  case case2 => simp [State.prepare_act _ _ _ _ _ ‹s.prepare _ _ _ = _› h0]
  case case3 =>
    exact (nextWf_next _).2 (State.breakFire_wf _ _ _ _ (fun u hu => hf u _ _ _ hu) (State.prepare_fire _ _ _ _ _ _ _ _ ‹s.prepare _ _ _ = _› h0))

@[simp] theorem execCellCnt_nextWf (p c : Nat) (s : State) (h0 : Memory.wf s.mem = true) : NextWf (execCellCnt p c s) := by
  refine State.fireWith_nextWf _ _ _ _ _ (fun u x w ts hu => ?_) h0
  repeat' split
  all_goals simp [hu]

@[simp] theorem State.grant_nextWf (s : State) (p col : Nat) (rows : List Nat) (h0 : Memory.wf s.mem = true) : NextWf (s.grant p col rows) := by
  induction rows with
  | nil => simp [State.grant, h0]
  | cons row rows ih =>
    simp only [State.grant]
    split
    · exact ih
    · next h => simp [State.prepare_act _ _ _ _ _ h h0]
    · next h =>
      split
      · exact ih
      · exact (nextWf_next _).2 (State.breakFire_wf _ _ _ _ (fun u hu => by simp [hu]) (State.prepare_fire _ _ _ _ _ _ _ _ h h0))

@[simp] theorem State.moveReply_nextWf (s : State) (p c : Nat) (x : Cell) (h0 : Memory.wf s.mem = true) : NextWf (s.moveReply p c x) := by
  fun_cases State.moveReply <;> simp [h0]

@[simp] theorem execXfnReply_nextWf (p c : Nat) (s : State) (h0 : Memory.wf s.mem = true) : NextWf (execXfnReply p c s) := by
  fun_cases execXfnReply <;> simp [h0]

@[simp] theorem execCellJoin_nextWf (p c : Nat) (s : State) (h0 : Memory.wf s.mem = true) : NextWf (execCellJoin p c s) := by
  fun_cases execCellJoin
  case case8 => exact (nextWf_next _).2 (State.breakFire_wf _ _ _ _ (fun u hu => by simp [hu]) (ite_wf _ _ _ h0 h0))
  all_goals simp [h0]

@[simp] theorem execCellEosFiring_nextWf (p c : Nat) (s : State) (h0 : Memory.wf s.mem = true) : NextWf (execCellEosFiring p c s) := by
  fun_cases execCellEosFiring
  case case5 => exact (nextWf_next _).2 (State.breakFire_wf _ _ _ _ (fun u hu => by simp [hu]) h0)
  all_goals simp [h0]

@[simp] theorem execCellMarkerFiring_nextWf (p c : Nat) (s : State) (h0 : Memory.wf s.mem = true) : NextWf (execCellMarkerFiring p c s) := by
  fun_cases execCellMarkerFiring
  case case6 => exact (nextWf_next _).2 (State.breakFire_wf _ _ _ _ (fun u hu => by simp only [State.setCell_mem]; split <;> simp [hu]) h0)
  all_goals simp [h0]

/-! ### Routers (R187 to R190) -/

@[simp] theorem State.routerStep_nextWf (s : State) (p c : Nat) (d : Dir) (mine : ROp → Bool) (h0 : Memory.wf s.mem = true) :
    NextWf (s.routerStep p c d mine) := by
  fun_cases State.routerStep <;> simp +zetaDelta [h0]

/-! ### The matrix unit (R222 to R249) -/

@[simp] theorem execMatrixVectorStart_nextWf (p : Nat) (s : State) (h0 : Memory.wf s.mem = true) : NextWf (execMatrixVectorStart p s) := by
  fun_cases execMatrixVectorStart
  case case1 => simp [h0]
  case case2 =>
    have h1 := State.maPorts_wf _ p (State.beginHead_wf _ p (State.matrixSettle_wf s p h0))
    simp [h1]

@[simp] theorem execMatrixVectorDone_nextWf (p : Nat) (s : State) (h0 : Memory.wf s.mem = true) : NextWf (execMatrixVectorDone p s) := by
  fun_cases execMatrixVectorDone
  case case3 s2 =>
    have h2 : Memory.wf s2.mem = true := by simp +zetaDelta [h0]
    simp [h2]
  all_goals simp [h0]

@[simp] theorem execMloadComplete_nextWf (p : Nat) (s : State) (h0 : Memory.wf s.mem = true) : NextWf (execMloadComplete p s) := by
  fun_cases execMloadComplete
  case case1 | case2 | case10 => simp +zetaDelta [h0]
  all_goals have h1 := wf_of_eq ‹State.handleNow _ _ _ (.waitFilled _) = _› (by simp +zetaDelta [h0])
  case case3 | case4 => simp [h1]
  all_goals have h2 := wf_of_eq ‹State.readTile _ _ _ _ _ = _› (by simp [h1])
  case case5 | case6 => simp [h2]
  all_goals simp [wf_of_eq ‹State.handleNow _ _ _ (.pop _) = _› (by simp [h2])]

@[simp] theorem execMatrixStepPass_nextWf (p : Nat) (s : State) (h0 : Memory.wf s.mem = true) : NextWf (execMatrixStepPass p s) := by
  fun_cases execMatrixStepPass <;> simp [h0]

@[simp] theorem execMatrixMarkerFiring_nextWf (p : Nat) (s : State) (h0 : Memory.wf s.mem = true) :
    NextWf (execMatrixMarkerFiring p s) := by
  fun_cases execMatrixMarkerFiring <;> simp [h0]

/-! ### The steps of a course (R128 to R131, R164 to R166) -/

@[simp] theorem State.spliceWord_nextWf (s : State) (idx : Nat) (ic : Word) (h0 : Memory.wf s.mem = true) :
    NextWf (s.spliceWord idx ic) := by
  fun_cases State.spliceWord <;> simp [h0]

@[simp] theorem execNext_nextWf (s : State) (h0 : Memory.wf s.mem = true) : NextWf (execNext s) := by
  fun_cases execNext <;> simp [h0]

@[simp] theorem execGoto_nextWf (t : BitVec 4) (s : State) (h0 : Memory.wf s.mem = true) : NextWf (execGoto t s) := by
  fun_cases execGoto <;> simp +zetaDelta [h0]

@[simp] theorem execConfigImageLoaded_nextWf (p : Nat) (s : State) (h0 : Memory.wf s.mem = true) : NextWf (execConfigImageLoaded p s) := by
  fun_cases execConfigImageLoaded
  case case4 s1 _ h1 _ _ s2 s3 =>
    have h2 : Memory.wf s2.mem = true := by
      have h3 : _ = s1.mem := congrArg (fun q => q.1.mem) h1
      simp only [s2, State.setRegion_mem, ← h3]
      split <;> simp [h0]
    simp only [nextWf_next, s3]
    repeat' split
    all_goals simp [h2]
  all_goals simp [h0]

@[simp] theorem execAtimeRelease_nextWf (p : Nat) (s : State) (h0 : Memory.wf s.mem = true) : NextWf (execAtimeRelease p s) := by
  fun_cases execAtimeRelease <;> simp +zetaDelta [h0]

@[simp] theorem execClaim_nextWf (rd : Reg) (s : State) (h0 : Memory.wf s.mem = true) : NextWf (execClaim rd s) := by
  fun_cases execClaim <;> simp [h0]

@[simp] theorem execClaimAtCursor_nextWf (m : Nat) (s : State) (h0 : Memory.wf s.mem = true) : NextWf (execClaimAtCursor m s) := by
  fun_cases execClaimAtCursor
  case case1 => simp [wf_of_eq ‹State.claim _ _ _ = _› (by simp [h0])]
  case case2 => simp [h0]

/-! ### Stream commands (R162, R239 to R245, R255 to R276) -/

@[simp] theorem execIssue_nextWf (ga gb : Reg) (t : BitVec 16) (s : State) (h0 : Memory.wf s.mem = true) : NextWf (execIssue ga gb t s) := by
  fun_cases execIssue
  case case7 | case8 | case9 | case10 =>
    have h1 : Loaded.wf _ := ‹s.loadGraph _ _ _ _ = _› ▸ s.loadGraph_wf _ _ _ _ h0
    simp only [Loaded.wf] at h1
    simp +zetaDelta [h1]
  all_goals simp +zetaDelta [h0]

@[simp] theorem State.toPort_nextWf (s : State) (n : Nat) (f : QueuedCmd → Region → PortEntry × Region) (h0 : Memory.wf s.mem = true) :
    NextWf (s.toPort n f) := by
  fun_cases State.toPort <;> simp +zetaDelta [h0]

@[simp] theorem State.bindTo_nextWf (s : State) (b : BindArgs) (k : BindKind) (h0 : Memory.wf s.mem = true) : NextWf (s.bindTo b k) := by
  simp [State.bindTo, h0]

@[simp] theorem State.toGauge_nextWf (s : State) (n : Nat) (rec_ : Option Nat) (h0 : Memory.wf s.mem = true) :
    NextWf (s.toGauge n rec_) := by
  fun_cases State.toGauge <;> simp [h0]

@[simp] theorem execSeal_nextWf (rid : BitVec 20) (rv : Bool) (rch : BitVec 8) (s : State) (h0 : Memory.wf s.mem = true) :
    NextWf (execSeal rid rv rch s) := by
  fun_cases execSeal <;> simp [h0]

@[simp] theorem execBarrierFence_nextWf (s : State) (h0 : Memory.wf s.mem = true) : NextWf (execBarrierFence s) := by
  fun_cases execBarrierFence <;> simp [h0]

@[simp] theorem State.streamPost_nextWf (s : State) (b : Body) (h0 : Memory.wf s.mem = true) : NextWf (s.streamPost b) := by
  simp [State.streamPost, h0]

@[simp] theorem State.barrierSend_nextWf (s : State) (bar : BitVec 57) (h0 : Memory.wf s.mem = true) : NextWf (s.barrierSend bar) := by
  fun_cases State.barrierSend
  case case1 => simp [h0]
  all_goals simp [wf_of_eq ‹s.accessConduct _ _ _ _ = _› (by simp [h0])]

@[simp] theorem State.barrierTest_nextWf (s : State) (bar : BitVec 57) (phase : Nat) (h0 : Memory.wf s.mem = true) :
    NextWf (s.barrierTest bar phase) := by
  fun_cases State.barrierTest
  all_goals simp [wf_of_eq ‹s.accessConduct _ _ _ _ = _› (by simp [h0])]

@[simp] theorem execBarrierArrive_nextWf (bar : BitVec 57) (s : State) (h0 : Memory.wf s.mem = true) :
    NextWf (execBarrierArrive bar s) := by
  fun_cases execBarrierArrive <;> simp [h0]

@[simp] theorem execBarrierArriveWait_nextWf (bar : BitVec 57) (s : State) (h0 : Memory.wf s.mem = true) :
    NextWf (execBarrierArriveWait bar s) := by
  fun_cases execBarrierArriveWait <;> simp +zetaDelta [h0]

@[simp] theorem execBarrierWait_nextWf (bar : BitVec 57) (phase : BitVec 32) (s : State) (h0 : Memory.wf s.mem = true) :
    NextWf (execBarrierWait bar phase s) := by
  fun_cases execBarrierWait <;> simp [h0]

@[simp] theorem execSyncw_nextWf (word : BitVec 64) (n : BitVec 32) (s : State) (h0 : Memory.wf s.mem = true) : NextWf (execSyncw word n s) := by
  fun_cases execSyncw
  case case1 => simp [h0]
  all_goals have h1 := wf_of_eq ‹s.unitAccess _ _ _ = _› (by simp [h0])
  case case7 | case8 => simp +zetaDelta [wf_of_eq ‹State.syncAct _ _ _ _ _ _ _ = _› (by simp [h1])]
  all_goals simp +zetaDelta [h1]

@[simp] theorem State.toChannel_nextWf (s : State) (c : MatCmd) (h0 : Memory.wf s.mem = true) : NextWf (s.toChannel c) := by
  fun_cases State.toChannel <;> simp +zetaDelta [h0]

/-! ### The weir (R276, R295 to R307) -/

@[simp] theorem execWeirGraphElement_nextWf (m : Nat) (s : State) (h0 : Memory.wf s.mem = true) : NextWf (execWeirGraphElement m s) := by
  fun_cases execWeirGraphElement
  case case5 | case6 | case7 | case9 | case10 | case11 =>
    simp +zetaDelta [wf_of_eq ‹s.weirNext _ _ _ _ = _› (by simp [h0])]
  case case3 | case8 =>
    exact (nextWf_next _).2 (State.elementFault_wf _ _ _ _ _ _ (ite_wf _ _ _ (by simp [h0]) (by simp [h0])))
  all_goals simp +zetaDelta [h0]

@[simp] theorem State.rmwEvent_nextWf (s : State) (m : Nat) (mine : CellOp) (h0 : Memory.wf s.mem = true) : NextWf (s.rmwEvent m mine) := by
  fun_cases State.rmwEvent <;> simp [h0]

@[simp] theorem execSyncwAck_nextWf (m : Nat) (s : State) (h0 : Memory.wf s.mem = true) : NextWf (execSyncwAck m s) := by
  fun_cases execSyncwAck
  case case2 | case3 => simp [wf_of_eq ‹State.syncAct _ _ _ _ _ _ _ = _› (by simp +zetaDelta [h0])]
  all_goals simp +zetaDelta [h0]

/-! ### Engine messages (R122 to R125, R175, R277, R278) -/

@[simp] theorem execEngineReplyArrive_nextWf (m : Nat) (s : State) (h0 : Memory.wf s.mem = true) : NextWf (execEngineReplyArrive m s) := by
  fun_cases execEngineReplyArrive <;> simp +zetaDelta [h0]

@[simp] theorem execCop_nextWf (ra rb : Reg) (cls : EngClass) (op : BitVec 4) (s : State) (h0 : Memory.wf s.mem = true) :
    NextWf (execCop ra rb cls op s) := by
  fun_cases execCop <;> simp +zetaDelta [h0]

@[simp] theorem execCopR_nextWf (rd ra rb : Reg) (cls : EngClass) (op : BitVec 4) (s : State) (h0 : Memory.wf s.mem = true) :
    NextWf (execCopR rd ra rb cls op s) := by
  fun_cases execCopR
  case case6 => exact State.stall_nextWf _ (by rw [State.setWait_mem, State.postEngine_mem]; exact h0)
  all_goals simp [h0]

@[simp] theorem execMsg_nextWf (cls : EngClass) (addr : BitVec 64) (s : State) (h0 : Memory.wf s.mem = true) : NextWf (execMsg cls addr s) := by
  fun_cases execMsg
  all_goals have h1 := wf_of_eq ‹State.readWords _ 1 _ _ s = _› (by simp [h0])
  case case1 | case2 | case3 => simp [h1]
  all_goals simp [wf_of_eq ‹State.readWords _ _ _ _ _ = _› (by simp [h1])]

@[simp] theorem execMsgBind_nextWf (mport : BitVec 6) (cls : EngClass) (s : State) (h0 : Memory.wf s.mem = true) :
    NextWf (execMsgBind mport cls s) := by
  fun_cases execMsgBind <;> simp +zetaDelta [h0]

@[simp] theorem execCard_nextWf (cls : EngClass) (op : BitVec 4) (nf : BitVec 2) (foot0 foot1 : BitVec 8) (opnd : BitVec 64) (s : State) (h0 : Memory.wf s.mem = true) :
    NextWf (execCard cls op nf foot0 foot1 opnd s) := by
  fun_cases execCard <;> simp [h0]

/-! ### Ports and bindings (R126, R210 to R216, R255 to R274, R282, R324 to R336) -/

@[simp] theorem execPortEmitToken_nextWf (p n : Nat) (s : State) (h0 : Memory.wf s.mem = true) : NextWf (execPortEmitToken p n s) := by
  fun_cases execPortEmitToken
  case case7 s1 _ _ _ _ _ _ =>
    have h1 : Memory.wf s1.mem = true := by simp +zetaDelta [h0]
    simp [h1]
  all_goals simp +zetaDelta [h0]

@[simp] theorem State.portWriteEvent_nextWf (s : State) (p n : Nat) (mine : CellWord → Bool) (h0 : Memory.wf s.mem = true) :
    NextWf (s.portWriteEvent p n mine) := by
  fun_cases State.portWriteEvent
  case case5 s1 _ _ _ _ _ _ =>
    have h1 : Memory.wf s1.mem = true := by simp +zetaDelta [h0]
    simp [h1]
  all_goals simp +zetaDelta [h0]

@[simp] theorem execBindingComplete_nextWf (p n : Nat) (s : State) (h0 : Memory.wf s.mem = true) : NextWf (execBindingComplete p n s) := by
  fun_cases execBindingComplete
  case case4 | case5 =>
    have h1 := wf_of_eq (by assumption) (by split <;> simp [h0])
    simp +zetaDelta [h1]
  all_goals simp [h0]

@[simp] theorem execXlatTranslate_nextWf (p n : Nat) (s : State) (h0 : Memory.wf s.mem = true) : NextWf (execXlatTranslate p n s) := by
  fun_cases execXlatTranslate
  case case4 =>
    have h1 := State.portConst_mem _ _ _ _ _ ‹State.portConst _ _ _ = _›
    split <;> simp +zetaDelta [h1, h0]
  all_goals simp +zetaDelta [h0]

@[simp] theorem execMsgoutPost_nextWf (p n : Nat) (s : State) (h0 : Memory.wf s.mem = true) : NextWf (execMsgoutPost p n s) := by
  fun_cases execMsgoutPost
  case case8 => simp [State.portConst_mem _ _ _ _ _ ‹s.portConst _ _ = _›, h0]
  all_goals simp +zetaDelta [h0]

@[simp] theorem execSpillwayRetry_nextWf (p n : Nat) (s : State) (h0 : Memory.wf s.mem = true) : NextWf (execSpillwayRetry p n s) := by
  fun_cases execSpillwayRetry
  case case3 | case4 => simp [wf_of_eq ‹s.spillRefill _ _ = _› (by simp [h0])]
  case case7 | case8 | case9 => simp [wf_of_eq ‹s.portTranslate _ _ _ _ = _› (by simp [h0])]
  case case10 | case11 | case12 =>
    have h1 := wf_of_eq ‹s.portTranslate _ _ _ _ = _› (by simp [h0])
    simp [wf_of_eq ‹State.replayAt _ _ _ _ _ _ _ = _› (by simp [h1])]
  all_goals simp [h0]

@[simp] theorem execStalledPortRetry_nextWf (p n : Nat) (s : State) (h0 : Memory.wf s.mem = true) : NextWf (execStalledPortRetry p n s) := by
  fun_cases execStalledPortRetry
  case case1 | case6 => simp [h0]
  all_goals simp +zetaDelta [wf_of_eq ‹s.portTranslate _ _ _ _ = _› (by simp [h0])]

@[simp] theorem execRelatch_nextWf (asid : BitVec 16) (base : BitVec 57) (log : BitVec 6) (rv : Bool) (rch : BitVec 8) (s : State)
    (h0 : Memory.wf s.mem = true) : NextWf (execRelatch asid base log rv rch s) := by
  fun_cases execRelatch
  case case4 =>
    exact (nextWf_next _).2 (foldl_wf _ _ _ (fun _ _ h => h) h0)
  all_goals simp +zetaDelta [h0]

@[simp] theorem execRelatchTokenAtPort_nextWf (p n : Nat) (s : State) (h0 : Memory.wf s.mem = true) :
    NextWf (execRelatchTokenAtPort p n s) := by
  fun_cases execRelatchTokenAtPort <;> simp +zetaDelta [h0]

/-! ### Copy engines and weir jobs (R311 to R315, R350, R353) -/

@[simp] theorem execEngineMessageArrive_nextWf (m : Nat) (s : State) (h0 : Memory.wf s.mem = true) :
    NextWf (execEngineMessageArrive m s) := by
  fun_cases execEngineMessageArrive <;> simp +zetaDelta [h0]

/-- A copy engine keeps the form when reading its operands does. -/
@[simp] theorem State.copyStep_nextWf (s : State) (d e opc : Nat) (operands : Job → State) (hf : ∀ j, Memory.wf (operands j).mem = true)
    (h0 : Memory.wf s.mem = true) : NextWf (s.copyStep d e opc operands) := by
  fun_cases State.copyStep <;> simp [h0, hf]

@[simp] theorem execCopyi_nextWf (d e : Nat) (s : State) (h0 : Memory.wf s.mem = true) : NextWf (execCopyi d e s) := by
  refine State.copyStep_nextWf _ _ _ _ _ (fun j => ?_) h0
  dsimp only
  split <;> simp [h0]

@[simp] theorem execFill_nextWf (d e : Nat) (s : State) (h0 : Memory.wf s.mem = true) : NextWf (execFill d e s) := by
  refine State.copyStep_nextWf _ _ _ _ _ (fun j => ?_) h0
  dsimp only
  split <;> simp [h0]

/-- A weir job keeps the form when its work does. -/
@[simp] theorem State.weirJob_nextWf (s : State) (d i opc : Nat) (f : Job → State) (hf : ∀ j, Memory.wf (f j).mem = true)
    (h0 : Memory.wf s.mem = true) : NextWf (s.weirJob d i opc f) := by
  fun_cases State.weirJob <;> simp [h0, hf]

@[simp] theorem execWset_nextWf (d i : Nat) (s : State) (h0 : Memory.wf s.mem = true) : NextWf (execWset d i s) := by
  refine State.weirJob_nextWf _ _ _ _ _ (fun j => ?_) h0
  dsimp only
  iterate 4 (split; · simp [h0])
  split
  · next h => simp [wf_of_eq h (by simp [h0])]
  · next h =>
    have h1 := wf_of_eq h (by simp [h0])
    split
    · simp [h1]
    · split <;> next h2 => simp [wf_of_eq h2 (by simp [h1])]

@[simp] theorem execGread_nextWf (d i : Nat) (s : State) (h0 : Memory.wf s.mem = true) : NextWf (execGread d i s) := by
  refine State.weirJob_nextWf _ _ _ _ _ (fun j => ?_) h0
  dsimp only
  split
  · simp [h0]
  iterate 2 (split; · simp [h0])
  split <;> next h => simp [wf_of_eq h (by simp [h0])]

@[simp] theorem execGpol_nextWf (d i : Nat) (s : State) (h0 : Memory.wf s.mem = true) : NextWf (execGpol d i s) := by
  refine State.weirJob_nextWf _ _ _ _ _ (fun j => ?_) h0
  dsimp only
  split <;> simp [h0]

@[simp] theorem execGclr_nextWf (d i : Nat) (s : State) (h0 : Memory.wf s.mem = true) : NextWf (execGclr d i s) := by
  refine State.weirJob_nextWf _ _ _ _ _ (fun j => ?_) h0
  split <;> simp [h0]

/-! ### The sluice (R105 to R121) -/

@[simp] theorem execSluiceTakeRecord_nextWf (d q : Nat) (s : State) (h0 : Memory.wf s.mem = true) : NextWf (execSluiceTakeRecord d q s) := by
  fun_cases execSluiceTakeRecord
  case case1 => simp [h0]
  case case2 s1 _ _ =>
    have h1 : Memory.wf s1.mem = true := by simp only [s1]; split <;> simp [h0]
    simp [h1]

@[simp] theorem execSluiceInboxLaunch_nextWf (d : Nat) (s : State) (h0 : Memory.wf s.mem = true) : NextWf (execSluiceInboxLaunch d s) := by
  fun_cases execSluiceInboxLaunch
  case case3 | case4 | case5 => simp [wf_of_eq ‹State.readLaunch _ _ _ _ _ = _› (by simp +zetaDelta [h0])]
  all_goals simp [h0]

@[simp] theorem execQueueEnable_nextWf (d q : Nat) (v : BitVec 64) (s : State) (h0 : Memory.wf s.mem = true) :
    NextWf (execQueueEnable d q v s) := by
  fun_cases execQueueEnable <;> simp [h0]

@[simp] theorem execQueueDisable_nextWf (d q : Nat) (v : BitVec 64) (s : State) (h0 : Memory.wf s.mem = true) :
    NextWf (execQueueDisable d q v s) := by
  fun_cases execQueueDisable <;> simp [h0]

@[simp] theorem execQueueRegisterWrite_nextWf (d q off : Nat) (v : BitVec 64) (s : State) (h0 : Memory.wf s.mem = true) :
    NextWf (execQueueRegisterWrite d q off v s) := by
  fun_cases execQueueRegisterWrite <;> simp [h0]

@[simp] theorem execTailDoorbell_nextWf (d q : Nat) (v : BitVec 32) (s : State) (h0 : Memory.wf s.mem = true) :
    NextWf (execTailDoorbell d q v s) := by
  fun_cases execTailDoorbell <;> simp [h0]

@[simp] theorem execEffectiveClassAging_nextWf (d u : Nat) (s : State) (h0 : Memory.wf s.mem = true) :
    NextWf (execEffectiveClassAging d u s) := by
  fun_cases execEffectiveClassAging <;> simp [h0]

@[simp] theorem execLaunchAnchor_nextWf (d u : Nat) (s : State) (h0 : Memory.wf s.mem = true) : NextWf (execLaunchAnchor d u s) := by
  fun_cases execLaunchAnchor <;> simp [h0]

@[simp] theorem execPlaceInstance_nextWf (d : Nat) (s : State) (h0 : Memory.wf s.mem = true) : NextWf (execPlaceInstance d s) := by
  fun_cases execPlaceInstance
  case case2 | case4 => simp [wf_of_eq ‹s.wakeClusters _ _ = _› (by simp [h0])]
  all_goals simp [h0]

/-! ### Retirement (R435 to R439) -/

@[simp] theorem execRetireClear_nextWf (p : Nat) (s : State) (h0 : Memory.wf s.mem = true) : NextWf (execRetireClear p s) := by
  fun_cases execRetireClear <;> simp [h0]

@[simp] theorem execForcedClear_nextWf (p : Nat) (s : State) (h0 : Memory.wf s.mem = true) : NextWf (execForcedClear p s) := by
  fun_cases execForcedClear <;> simp [h0]

@[simp] theorem execSuccessorStart_nextWf (p : Nat) (s : State) (h0 : Memory.wf s.mem = true) : NextWf (execSuccessorStart p s) := by
  fun_cases execSuccessorStart <;> simp [h0]

/-! ### Pre-emption (R280, R424 to R434) -/

@[simp] theorem execPreemptRequest_nextWf (d : Nat) (v : BitVec 64) (s : State) (h0 : Memory.wf s.mem = true) :
    NextWf (execPreemptRequest d v s) := by
  fun_cases execPreemptRequest <;> simp [h0]

@[simp] theorem execAutoPreempt_nextWf (d : Nat) (s : State) (h0 : Memory.wf s.mem = true) : NextWf (execAutoPreempt d s) := by
  fun_cases execAutoPreempt <;> simp [h0]

@[simp] theorem execSplicePointSave_nextWf (p : Nat) (s : State) (h0 : Memory.wf s.mem = true) : NextWf (execSplicePointSave p s) := by
  fun_cases execSplicePointSave <;> simp [h0]

@[simp] theorem execPreemptMarkerInject_nextWf (d : Nat) (s : State) (h0 : Memory.wf s.mem = true) :
    NextWf (execPreemptMarkerInject d s) := by
  fun_cases execPreemptMarkerInject <;> simp [h0]

@[simp] theorem execSnap_nextWf (save : BitVec 64) (rv : Bool) (rch : BitVec 8) (s : State) (h0 : Memory.wf s.mem = true) :
    NextWf (execSnap save rv rch s) := by
  fun_cases execSnap <;> simp +zetaDelta [h0]

@[simp] theorem execCutClose_nextWf (p : Nat) (s : State) (h0 : Memory.wf s.mem = true) : NextWf (execCutClose p s) := by
  fun_cases execCutClose <;> simp [h0]

@[simp] theorem State.freezeForSnap_nextWf (s : State) (p : Nat) (op : SnapOp) (h0 : Memory.wf s.mem = true) :
    NextWf (s.freezeForSnap p op) := by
  fun_cases State.freezeForSnap <;> simp +zetaDelta [h0]

@[simp] theorem execFreeze_nextWf (p : Nat) (s : State) (h0 : Memory.wf s.mem = true) : NextWf (execFreeze p s) := by
  fun_cases execFreeze <;> simp [h0]

@[simp] theorem execPreemptResume_nextWf (d : Nat) (s : State) (h0 : Memory.wf s.mem = true) : NextWf (execPreemptResume d s) := by
  fun_cases execPreemptResume
  case case4 | case5 => simp +zetaDelta [wf_of_eq ‹s.wakeClusters _ _ = _› (by simp [h0])]
  all_goals simp [h0]

/-! ### Power and clocks (R441 to R443) -/

@[simp] theorem execClusterGate_nextWf (d c : Nat) (s : State) (h0 : Memory.wf s.mem = true) : NextWf (execClusterGate d c s) := by
  fun_cases execClusterGate <;> simp [h0]

@[simp] theorem execClusterGateEntryComplete_nextWf (d c : Nat) (s : State) (h0 : Memory.wf s.mem = true) :
    NextWf (execClusterGateEntryComplete d c s) := by
  fun_cases execClusterGateEntryComplete <;> simp [h0]

@[simp] theorem execClusterExitComplete_nextWf (d c : Nat) (s : State) (h0 : Memory.wf s.mem = true) :
    NextWf (execClusterExitComplete d c s) := by
  fun_cases execClusterExitComplete <;> simp [h0]

@[simp] theorem execDomainEntryWrite_nextWf (d j : Nat) (v : BitVec 64) (s : State) (h0 : Memory.wf s.mem = true) :
    NextWf (execDomainEntryWrite d j v s) := by
  fun_cases execDomainEntryWrite <;> simp [h0]

@[simp] theorem execDomainClockStep_nextWf (d j : Nat) (s : State) (h0 : Memory.wf s.mem = true) : NextWf (execDomainClockStep d j s) := by
  fun_cases execDomainClockStep <;> simp [h0]

/-! ### The cascade (R400 to R415) -/

/-- A job of the cascade keeps the form when its work does. -/
@[simp] theorem State.cascadeJob_nextWf (s : State) (j opc : Nat) (f : Job → State) (hf : ∀ x, Memory.wf (f x).mem = true)
    (h0 : Memory.wf s.mem = true) : NextWf (s.cascadeJob j opc f) := by
  fun_cases State.cascadeJob <;> simp [h0, hf]

@[simp] theorem execGload_nextWf (j : Nat) (s : State) (h0 : Memory.wf s.mem = true) : NextWf (execGload j s) := by
  refine State.cascadeJob_nextWf _ _ _ _ (fun job => ?_) h0
  dsimp only
  iterate 3 (split; · simp [h0])
  split <;> next h => simp [wf_of_eq h (by simp [h0])]

@[simp] theorem execReplay_nextWf (j : Nat) (s : State) (h0 : Memory.wf s.mem = true) : NextWf (execReplay j s) := by
  refine State.cascadeJob_nextWf _ _ _ _ (fun job => ?_) h0
  dsimp only
  iterate 3 (split; · simp [h0])
  split <;> next h => simp [wf_of_eq h (by simp [h0])]

@[simp] theorem execGfree_nextWf (j : Nat) (s : State) (h0 : Memory.wf s.mem = true) : NextWf (execGfree j s) := by
  refine State.cascadeJob_nextWf _ _ _ _ (fun job => ?_) h0
  dsimp only
  (repeat' split) <;> simp [h0]

@[simp] theorem execGstat_nextWf (j : Nat) (s : State) (h0 : Memory.wf s.mem = true) : NextWf (execGstat j s) := by
  refine State.cascadeJob_nextWf _ _ _ _ (fun job => ?_) h0
  dsimp only
  iterate 3 (split; · simp [h0])
  split <;> next h =>
    have h1 := wf_of_eq h (by simp [h0])
    (repeat' split) <;> simp [h1]

/-- A node of a replay keeps the form when what its operation does does. -/
@[simp] theorem State.nodeStep_nextWf (s : State) (r n : Nat) (f : Replay → Graph → ChunkNode → NodeState → State)
    (hf : ∀ x g nd st, Memory.wf (f x g nd st).mem = true) (h0 : Memory.wf s.mem = true) : NextWf (s.nodeStep r n f) := by
  fun_cases State.nodeStep <;> simp [h0, hf]

@[simp] theorem execChunkSend_nextWf (r n : Nat) (s : State) (h0 : Memory.wf s.mem = true) : NextWf (execChunkSend r n s) := by
  refine State.nodeStep_nextWf _ _ _ _ (fun x g nd st => ?_) h0
  dsimp only
  split
  · split
    · (repeat' split) <;> simp [h0]
    · split <;> next h => simp [wf_of_eq h (by simp [h0])]
    · split
      · exact h0
      · next h => simp [State.findFlit_mem _ _ _ _ h, h0]
  · exact h0

@[simp] theorem execChunkRecv_nextWf (r n : Nat) (s : State) (h0 : Memory.wf s.mem = true) : NextWf (execChunkRecv r n s) := by
  refine State.nodeStep_nextWf _ _ _ _ (fun x g nd st => ?_) h0
  dsimp only
  split
  · split
    · simp [h0]
    · split
      · exact h0
      · next h => simp [State.findFlit_mem _ _ _ _ h, h0]
      · next h =>
        have h1 := State.findFlit_mem _ _ _ _ h ▸ h0
        split
        · exact h0
        · next h2 => simp [wf_of_eq h2 (by simp [h1])]
        · next h2 =>
          have h3 := wf_of_eq h2 (by simp [h1])
          (repeat' split) <;> simp [h3]
    · simp [h0]
    · exact h0
  · exact h0

@[simp] theorem execRed_nextWf (r n : Nat) (s : State) (h0 : Memory.wf s.mem = true) : NextWf (execRed r n s) := by
  refine State.nodeStep_nextWf _ _ _ _ (fun x g nd st => ?_) h0
  split <;> simp [h0]

@[simp] theorem execRedc_nextWf (r n : Nat) (s : State) (h0 : Memory.wf s.mem = true) : NextWf (execRedc r n s) := by
  refine State.nodeStep_nextWf _ _ _ _ (fun x g nd st => ?_) h0
  split <;> simp [h0]

@[simp] theorem execChunkCopy_nextWf (r n : Nat) (s : State) (h0 : Memory.wf s.mem = true) : NextWf (execChunkCopy r n s) := by
  refine State.nodeStep_nextWf _ _ _ _ (fun x g nd st => ?_) h0
  dsimp only
  (repeat' split) <;> simp [h0]

@[simp] theorem execA2a_nextWf (r n : Nat) (s : State) (h0 : Memory.wf s.mem = true) : NextWf (execA2a r n s) := by
  refine State.nodeStep_nextWf _ _ _ _ (fun x g nd st => ?_) h0
  dsimp only
  split
  · split
    · simp [h0]
    · split
      · simp [h0]
      · split
        · exact h0
        · next h => split <;> simp [State.findFlit_mem _ _ _ _ h, h0]
    · split
      · split <;> simp [h0]
      · split
        · exact h0
        · next h => split <;> simp [State.findFlit_mem _ _ _ _ h, h0]
    · simp [h0]
    · exact h0
  · exact h0

@[simp] theorem execSignal_nextWf (r n : Nat) (s : State) (h0 : Memory.wf s.mem = true) : NextWf (execSignal r n s) := by
  refine State.nodeStep_nextWf _ _ _ _ (fun x g nd st => ?_) h0
  dsimp only
  split
  · split
    · simp [h0]
    · split
      · next h => simp [wf_of_eq h (by simp [h0])]
      · next h =>
        have h1 := wf_of_eq h (by simp [h0])
        split
        · simp [h1]
        · split
          · (repeat' split) <;> simp [h1]
          · split <;> next h2 => simp [wf_of_eq h2 (by simp [h1])]
  · exact h0

@[simp] theorem execChunkCreditArrive_nextWf (m : Nat) (s : State) (h0 : Memory.wf s.mem = true) : NextWf (execChunkCreditArrive m s) := by
  fun_cases execChunkCreditArrive <;> simp [h0]

@[simp] theorem execChunkNodeComplete_nextWf (r n : Nat) (s : State) (h0 : Memory.wf s.mem = true) :
    NextWf (execChunkNodeComplete r n s) := by
  fun_cases execChunkNodeComplete <;> simp [h0]

@[simp] theorem execReplayPeerTimeout_nextWf (r : Nat) (s : State) (h0 : Memory.wf s.mem = true) : NextWf (execReplayPeerTimeout r s) := by
  fun_cases execReplayPeerTimeout <;> simp [h0]

/-! ### Actions at the homes (R152, R153, R171, R287 to R293) -/

@[simp] theorem execHomeReadRequest_nextWf (m : Nat) (s : State) (h0 : Memory.wf s.mem = true) : NextWf (execHomeReadRequest m s) := by
  fun_cases execHomeReadRequest <;> simp [h0]

@[simp] theorem execLoadReply_nextWf (m : Nat) (s : State) (h0 : Memory.wf s.mem = true) : NextWf (execLoadReply m s) := by
  fun_cases execLoadReply <;> simp +zetaDelta [h0]

@[simp] theorem execHomeWriteRequest_nextWf (m : Nat) (s : State) (h0 : Memory.wf s.mem = true) : NextWf (execHomeWriteRequest m s) := by
  fun_cases execHomeWriteRequest <;> simp +zetaDelta [h0]

@[simp] theorem execOwnershipReply_nextWf (m : Nat) (s : State) (h0 : Memory.wf s.mem = true) : NextWf (execOwnershipReply m s) := by
  fun_cases execOwnershipReply <;> simp [h0]

@[simp] theorem execRecall_nextWf (m : Nat) (s : State) (h0 : Memory.wf s.mem = true) : NextWf (execRecall m s) := by
  fun_cases execRecall <;> simp [h0]

@[simp] theorem execWriteBackAck_nextWf (m : Nat) (s : State) (h0 : Memory.wf s.mem = true) : NextWf (execWriteBackAck m s) := by
  fun_cases execWriteBackAck <;> simp +zetaDelta [h0]

@[simp] theorem execHomeAtomic_nextWf (m : Nat) (s : State) (h0 : Memory.wf s.mem = true) : NextWf (execHomeAtomic m s) := by
  fun_cases execHomeAtomic
  case case2 | case3 => simp [wf_of_eq ‹State.atomicAtHome _ _ _ _ _ _ = _› (by simp [h0])]
  all_goals simp [h0]

@[simp] theorem execAtomicReply_nextWf (m : Nat) (s : State) (h0 : Memory.wf s.mem = true) : NextWf (execAtomicReply m s) := by
  fun_cases execAtomicReply <;> simp [h0]

@[simp] theorem execWaitvWake_nextWf (m : Nat) (s : State) (h0 : Memory.wf s.mem = true) : NextWf (execWaitvWake m s) := by
  fun_cases execWaitvWake <;> simp [h0]

@[simp] theorem execBarrierArriveAtHome_nextWf (m : Nat) (s : State) (h0 : Memory.wf s.mem = true) :
    NextWf (execBarrierArriveAtHome m s) := by
  fun_cases execBarrierArriveAtHome <;> simp [h0]

/-! ### The conduit and the scale-out ports (R393 to R399, R416, R417) -/

@[simp] theorem execConduitFlitReceive_nextWf (port : Nat) (f : Flit) (s : State) (h0 : Memory.wf s.mem = true) :
    NextWf (execConduitFlitReceive port f s) := by
  fun_cases execConduitFlitReceive <;> simp +zetaDelta [h0]

@[simp] theorem State.roceJob_nextWf (s : State) (j opc : Nat) (f : Job → State) (hf : ∀ x, Memory.wf (f x).mem = true)
    (h0 : Memory.wf s.mem = true) : NextWf (s.roceJob j opc f) := by
  fun_cases State.roceJob
  case case4 => exact State.cascadeJob_nextWf _ _ _ _ (fun x => by split <;> simp [h0, hf]) h0
  all_goals simp [h0]

@[simp] theorem execRwrite_nextWf (j : Nat) (s : State) (h0 : Memory.wf s.mem = true) : NextWf (execRwrite j s) := by
  refine State.roceJob_nextWf _ _ _ _ (fun job => ?_) h0
  dsimp only
  split
  · next h => simp [wf_of_eq h (by simp [h0])]
  · next h =>
    have h1 := wf_of_eq h (by simp [h0])
    split <;> next h2 => simp [wf_of_eq h2 (by simp [h1])]

@[simp] theorem execRread_nextWf (j : Nat) (s : State) (h0 : Memory.wf s.mem = true) : NextWf (execRread j s) := by
  refine State.roceJob_nextWf _ _ _ _ (fun job => ?_) h0
  dsimp only
  split <;> next h => simp [wf_of_eq h (by simp [h0])]

@[simp] theorem execRoceResponseReceive_nextWf (j : Nat) (bytes : List Byte) (s : State) (h0 : Memory.wf s.mem = true) :
    NextWf (execRoceResponseReceive j bytes s) := by
  fun_cases execRoceResponseReceive
  case case7 | case8 =>
    have h1 := wf_of_eq ‹eachWrite _ _ _ _ _ = _› (eachWrite_wf _ (fun _ _ _ _ h => by simp [h]) _ _ _ _ h0)
    simp +zetaDelta [h1]
  all_goals simp [h0]

@[simp] theorem execTransportError_nextWf (j : Nat) (s : State) (h0 : Memory.wf s.mem = true) : NextWf (execTransportError j s) := by
  fun_cases execTransportError <;> simp [h0]

/-! ### Starts, root requests and attestation (R449 to R455) -/

@[simp] theorem execPowerOn_nextWf (s : State) (h0 : Memory.wf s.mem = true) : NextWf (execPowerOn s) := by
  fun_cases execPowerOn <;> simp [h0]

@[simp] theorem execColdStart_nextWf (s : State) (h0 : Memory.wf s.mem = true) : NextWf (execColdStart s) := by
  fun_cases execColdStart <;> simp [h0]

@[simp] theorem execWarmStart_nextWf (s : State) (h0 : Memory.wf s.mem = true) : NextWf (execWarmStart s) := by
  fun_cases execWarmStart <;> simp [h0]

/-- A request of the root mailbox keeps the form when its effect does. -/
@[simp] theorem State.rootRequest_nextWf (s : State) (code : Nat) (ws : List DWord) (f : Except Nat State) (hf : OkWf f)
    (h0 : Memory.wf s.mem = true) : NextWf (s.rootRequest code ws f) := by
  fun_cases State.rootRequest
  case case3 => simpa using hf
  all_goals simp [h0]

@[simp] theorem execAsidDebug_nextWf (w1 : DWord) (s : State) (h0 : Memory.wf s.mem = true) : NextWf (execAsidDebug w1 s) := by
  simp only [execAsidDebug]
  refine State.rootRequest_nextWf _ _ _ _ ?_ h0
  have hall (l : List (Nat × Attachment)) (u : State) (hu : Memory.wf u.mem = true) :
      Memory.wf (l.foldl (fun s e => s.detachNow e.1 e.2) u).mem = true := foldl_wf _ _ _ (fun _ _ h => by simp [h]) hu
  simp [h0, hall]

@[simp] theorem execInvalidate_nextWf (w1 w2 : DWord) (s : State) (h0 : Memory.wf s.mem = true) : NextWf (execInvalidate w1 w2 s) := by
  fun_cases execInvalidate
  case case3 s1 _ =>
    have h1 : s1.mem = s.mem := foldl_mem _ _ _ (by simp)
    simp +zetaDelta only [nextWf_next, State.rootDone_mem]
    rw [h1]; exact h0
  all_goals simp [h0]

@[simp] theorem execInvalidationComplete_nextWf (j : Nat) (s : State) (h0 : Memory.wf s.mem = true) :
    NextWf (execInvalidationComplete j s) := by
  fun_cases execInvalidationComplete <;> simp [h0]

@[simp] theorem execAsidFree_nextWf (a : Nat) (s : State) (h0 : Memory.wf s.mem = true) : NextWf (execAsidFree a s) := by
  fun_cases execAsidFree
  case case2 => rw [nextWf_next, foldl_mem _ _ _ (by simp)]; exact h0
  all_goals simp [h0]

@[simp] theorem execManagementImage_nextWf (w1 w2 : DWord) (s : State) (h0 : Memory.wf s.mem = true) : NextWf (execManagementImage w1 w2 s) := by
  fun_cases execManagementImage
  case case4 => simp [wf_of_eq ‹s.rootRead _ _ = _› (by simp [h0])]
  all_goals simp [h0]

@[simp] theorem State.spdmSay_nextWf (s : State) (code : Nat) (body : List Byte) (h0 : Memory.wf s.mem = true) :
    NextWf (s.spdmSay code body) := by
  fun_cases State.spdmSay <;> simp [h0]

@[simp] theorem State.spdmAfter_nextWf (s : State) (code : Nat) (ok : Bool) (body : List Byte) (h0 : Memory.wf s.mem = true) :
    NextWf (s.spdmAfter code ok body) := by
  fun_cases State.spdmAfter <;> simp [h0]

@[simp] theorem execNegotiateAlgorithms_nextWf (s : State) (h0 : Memory.wf s.mem = true) : NextWf (execNegotiateAlgorithms s) := by
  fun_cases execNegotiateAlgorithms <;> simp [h0]

/-! ### Debug requests (R457 to R459) -/

@[simp] theorem State.mgmtRequest_nextWf (s : State) (code : Nat) (ws : List DWord) (f : Except Nat State) (hf : OkWf f)
    (h0 : Memory.wf s.mem = true) : NextWf (s.mgmtRequest code ws f) := by
  fun_cases State.mgmtRequest
  case case3 => simpa using hf
  all_goals simp [h0]

theorem State.onRegions_okWf (s : State) (place : Nat) (f : List Nat → Except Nat State) (hf : ∀ ps, OkWf (f ps)) :
    OkWf (s.onRegions place f) := by
  fun_cases State.onRegions <;> simp [hf]

@[simp] theorem execDetach_nextWf (a : Nat) (s : State) (h0 : Memory.wf s.mem = true) : NextWf (execDetach a s) := by
  refine State.mgmtRequest_nextWf _ _ _ _ ?_ h0
  split <;> simp [h0]

@[simp] theorem execBreakArm_nextWf (w1 w2 : DWord) (s : State) (h0 : Memory.wf s.mem = true) : NextWf (execBreakArm w1 w2 s) := by
  simp only [execBreakArm]
  refine State.mgmtRequest_nextWf _ _ _ _ ((okWf_ite _ _ _).2 ⟨fun _ => okWf_error _, fun _ => State.onRegions_okWf _ _ _ fun ps => ?_⟩) h0
  refine (okWf_ite _ _ _).2 ⟨fun _ => okWf_error _, fun _ => (okWf_ok _).2 (foldl_wf _ _ _ (fun u p hu => ?_) h0)⟩
  split <;> simp [hu]

@[simp] theorem execBreakDisarm_nextWf (w1 : DWord) (s : State) (h0 : Memory.wf s.mem = true) : NextWf (execBreakDisarm w1 s) := by
  simp only [execBreakDisarm]
  refine State.mgmtRequest_nextWf _ _ _ _ ((okWf_ite _ _ _).2 ⟨fun _ => okWf_error _, fun _ => State.onRegions_okWf _ _ _ fun ps => ?_⟩) h0
  exact (okWf_ite _ _ _).2 ⟨fun _ => okWf_error _, fun _ => (okWf_ok _).2 (foldl_wf _ _ _ (fun _ _ hu => hu) h0)⟩

@[simp] theorem execDebugStop_nextWf (w1 : DWord) (s : State) (h0 : Memory.wf s.mem = true) : NextWf (execDebugStop w1 s) := by
  simp only [execDebugStop]
  refine State.mgmtRequest_nextWf _ _ _ _ ((okWf_ite _ _ _).2 ⟨fun _ => okWf_error _, fun _ => State.onRegions_okWf _ _ _ fun ps => ?_⟩) h0
  exact (okWf_ok _).2 (foldl_wf _ _ _ (fun _ _ hu => hu) h0)

@[simp] theorem execDebugResume_nextWf (w1 : DWord) (s : State) (h0 : Memory.wf s.mem = true) : NextWf (execDebugResume w1 s) := by
  simp only [execDebugResume]
  refine State.mgmtRequest_nextWf _ _ _ _ ((okWf_ite _ _ _).2 ⟨fun _ => okWf_error _, fun _ => State.onRegions_okWf _ _ _ fun ps => ?_⟩) h0
  exact (okWf_ite _ _ _).2 ⟨fun _ => okWf_error _, fun _ => (okWf_ok _).2 (foldl_wf _ _ _ (fun _ _ hu => by simp [hu]) h0)⟩

@[simp] theorem execDebugRead_nextWf (w1 w2 w3 w4 : DWord) (s : State) (h0 : Memory.wf s.mem = true) : NextWf (execDebugRead w1 w2 w3 w4 s) := by
  simp only [execDebugRead]
  refine State.mgmtRequest_nextWf _ _ _ _ ((okWf_ite _ _ _).2 ⟨fun _ => okWf_error _, fun _ => State.onRegions_okWf _ _ _ fun ps => ?_⟩) h0
  repeat' split
  all_goals simp [h0]

@[simp] theorem execDebugTrace_nextWf (w1 w2 w3 : DWord) (s : State) (h0 : Memory.wf s.mem = true) : NextWf (execDebugTrace w1 w2 w3 s) := by
  refine State.mgmtRequest_nextWf _ _ _ _ ?_ h0
  repeat' split
  all_goals simp [h0]

@[simp] theorem execDebugUntrace_nextWf (w1 : DWord) (s : State) (h0 : Memory.wf s.mem = true) : NextWf (execDebugUntrace w1 s) := by
  refine State.mgmtRequest_nextWf _ _ _ _ ?_ h0
  repeat' split
  all_goals simp [h0]

/-! ### The FPU (R157 to R159) -/

@[simp] theorem State.fpu_nextWf (s : State) (rd ra rb : Reg) (f : Nat → Nat → Nat × Flags) (h0 : Memory.wf s.mem = true) :
    NextWf (s.fpu rd ra rb f) := by
  simp [State.fpu, State.writesFlags, h0]

@[simp] theorem State.cvtToFloat_nextWf (s : State) (rd ra : Reg) (f : DWord → Nat × Flags) (h0 : Memory.wf s.mem = true) :
    NextWf (s.cvtToFloat rd ra f) := by
  simp [State.cvtToFloat, State.writesFlags, h0]

@[simp] theorem State.cvtToInt_nextWf (s : State) (rd ra : Reg) (w : Nat) (sgn : Bool) (m : Rnd) (sat : Sat) (h0 : Memory.wf s.mem = true) :
    NextWf (s.cvtToInt rd ra w sgn m sat) := by
  simp [State.cvtToInt, State.writesFlags, h0]

/-! ### waitv (R153) -/

@[simp] theorem execWaitv_nextWf (rd ra rb : Reg) (s : State) (h0 : Memory.wf s.mem = true) : NextWf (execWaitv rd ra rb s) := by
  fun_cases execWaitv
  case case1 | case2 | case3 | case4 => simp [h0]
  all_goals simp [wf_of_eq ‹s.accessConduct _ _ _ _ = _› (by simp [h0])]

/-! ### Soft errors (R423) -/

@[simp] theorem execSoftErrorDetect_nextWf (at_ : ErrSite) (s : State) (h0 : Memory.wf s.mem = true) :
    NextWf (execSoftErrorDetect at_ s) := by
  fun_cases execSoftErrorDetect <;> simp [h0]

/-! ### Host accesses (R448) -/

@[simp] theorem execHostMemLoad_nextWf (a n : Nat) (s : State) (h0 : Memory.wf s.mem = true) : NextWf (execHostMemLoad a n s) := by
  fun_cases execHostMemLoad
  case case3 s1 =>
    have h1 : Memory.wf s1.mem = true := foldl_wf _ _ _ (fun _ _ h => by simp [h]) h0
    simp [h1]
  all_goals simp [h0]

@[simp] theorem execHostMemStore_nextWf (a : Nat) (bs : List Byte) (s : State) (h0 : Memory.wf s.mem = true) : NextWf (execHostMemStore a bs s) := by
  fun_cases execHostMemStore
  case case3 =>
    exact (nextWf_next _).2 (List.foldlRecOn _ _ (motive := fun x : List Byte × State => Memory.wf x.2.mem = true) h0 fun x h e _ => by simp [h])
  all_goals simp [h0]

end Sys2Proof.Machine
end

section
/-! SUPPORT of O5. Every instruction keeps the form of memory. -/
namespace Sys2Proof.Machine

/-- Attaching writes the two words of the trace ring's head, each as four bytes, and no other byte. -/
@[simp] theorem execAttach_nextWf (w1 w2 w3 : DWord) (s : State) (h0 : Memory.wf s.mem = true) : NextWf (execAttach w1 w2 w3 s) := by
  refine State.mgmtRequest_nextWf _ _ _ _ ?_ h0
  simp [h0]

/-! ### Every instruction -/

/-- Every instruction keeps the form. Constructors that are one use of a shared operation stand together, with the lemma of that
operation; each of the others has the lemma of its own meaning, which `simp` knows. -/
theorem exec_nextWf (i : Instr) (s : State) (h0 : Memory.wf s.mem = true) : NextWf (exec i s) := by
  cases i with
  | add | sub | and | or | xor | shl | shr | sra | mul | mulh | mulhn | div | divn | rem | remn | min | max | minn | maxn | slt | sltn | seq =>
    simp [exec, execAdd, execSub, execAnd, execOr, execXor, execShl, execShr, execSra, execMul, execMulh, execMulhn, execDiv, execDivn,
      execRem, execRemn, execMin, execMax, execMinn, execMaxn, execSlt, execSltn, execSeq, h0]
  | fadd | fsub | fmul | fma | fmin | fmax | fcmpEq | fcmpLt | fcmpLe | fcmpUn =>
    simp [exec, execFadd, execFsub, execFmul, execFma, execFmin, execFmax, execFcmpEq, execFcmpLt, execFcmpLe, execFcmpUn, h0]
  | fcvtF32I32 | fcvtF32N32 | fcvtF32I64 | fcvtF32N64 | fcvtF32Bf16 | fcvtF32F16 | fcvtBf16F32 | fcvtF16F32 =>
    simp [exec, execFcvtF32I32, execFcvtF32N32, execFcvtF32I64, execFcvtF32N64, execFcvtF32Bf16, execFcvtF32F16, execFcvtBf16F32,
      execFcvtF16F32, h0]
  | fcvtI32F32 | fcvtN32F32 | fcvtI64F32 | fcvtN64F32 =>
    simp [exec, execFcvtI32F32, execFcvtN32F32, execFcvtI64F32, execFcvtN64F32, h0]
  | amoAdd | amoAnd | amoOr | amoXor | amoMin | amoMax | amoMinn | amoMaxn | amoSwap | amoFadd | cas =>
    simp [exec, execAmoAdd, execAmoAnd, execAmoOr, execAmoXor, execAmoMin, execAmoMax, execAmoMinn, execAmoMaxn, execAmoSwap, execAmoFadd,
      execCas, h0]
  | hwait | hroom | hpop | hpush =>
    simp [exec, execHwait, execHroom, execHpop, execHpush, h0]
  | hget =>
    simp [exec, execHget, h0]
  | done | nop | trap | mtcFpflags | mtcHen | mtcResume | mtcTimer | mtcFpop | meter | atime | registerWrite | timeFlitReceive =>
    simp [exec, execDone, execNop, execTrap, execMtcFpflags, execMtcHen, execMtcResume, execMtcTimer, execMtcFpop, execMeter, execAtime,
      execRegisterWrite, execTimeFlitReceive, h0]
  | time | lhi =>
    simp [exec, execTime, execLhi, h0]
  | ret | jmp | call =>
    simp [exec, execRet, execJmp, execCall, h0]
  | addi | andi | ori | xori | shli | shri | srai | slti =>
    simp [exec, execAddi, execAndi, execOri, execXori, execShli, execShri, execSrai, execSlti, h0]
  | prd | prdC | pset =>
    simp [exec, execPrd, execPrdC, execPset, h0]
  | ldB | ldH | ldW | ldD | ldBN | ldHN | ldWN =>
    simp [exec, execLdB, execLdH, execLdW, execLdD, execLdBN, execLdHN, execLdWN, h0]
  | stB | stH | stW | stD =>
    simp [exec, execStB, execStH, execStW, execStD, h0]
  | bEq | bNe | bLt | bGe | bLtn | bGen =>
    simp [exec, execBEq, execBNe, execBLt, execBGe, execBLtn, execBGen, h0]
  | bindr | bindw | bindg | binds | bindc =>
    simp [exec, execBindr, execBindw, execBindg, execBinds, execBindc, h0]
  | bindf | weir | ctl =>
    simp [exec, execBindf, execWeir, execCtl, h0]
  | gbind | gbindDetach =>
    simp [exec, execGbind, execGbindDetach, h0]
  | mload | mswap | mrow | mcol | moriginFixed | moriginWalk | mmask =>
    simp [exec, execMload, execMswap, execMrow, execMcol, execMoriginFixed, execMoriginWalk, execMmask, h0]
  | copy => simp [exec, execCopy, h0]
  | portTakeToken | mamoAccess =>
    simp [exec, execPortTakeToken, execMamoAccess, h0]
  | cellAdd | cellSub | cellMul | cellFma | cellMin | cellMax | cellAbs | cellNeg | cellAnd | cellOr | cellXor | cellShl | cellShr | cellSra |
    cellCmp | cellScale | cellPopc | cellClz =>
    exact State.fireWith_nextWf s _ _ _ _ (fun _ _ _ _ h => State.lanesFire_wf _ _ _ _ _ _ h) h0
  | cellSel => exact State.fireWith_nextWf s _ _ _ _ (fun _ _ _ _ h => State.selFire_wf _ _ _ _ _ _ h) h0
  | cellMov => exact State.fireWith_nextWf s _ _ _ _ (fun _ _ _ _ h => State.movFire_wf _ _ _ _ _ _ h) h0
  | cellCvt => exact State.fireWith_nextWf s _ _ _ _ (fun _ _ _ _ h => State.cvtFire_wf _ _ _ _ _ _ h) h0
  | cellQnt => exact State.fireWith_nextWf s _ _ _ _ (fun _ _ _ _ h => State.qntFire_wf _ _ _ _ _ _ h) h0
  | cellDqn => exact State.fireWith_nextWf s _ _ _ _ (fun _ _ _ _ h => State.dqnFire_wf _ _ _ _ _ _ h) h0
  | cellAcc => exact State.fireWith_nextWf s _ _ _ _ (fun _ _ _ _ h => State.accFire_wf _ _ _ _ _ _ h) h0
  | cellRunacc => exact State.fireWith_nextWf s _ _ _ _ (fun _ _ _ _ h => State.runaccFire_wf _ _ _ _ _ _ h) h0
  | cellPoolc => exact State.fireWith_nextWf s _ _ _ _ (fun _ _ _ _ h => State.poolcFire_wf _ _ _ _ _ _ h) h0
  | cellStat => exact State.fireWith_nextWf s _ _ _ _ (fun _ _ _ _ h => State.statFire_wf _ _ _ _ _ _ h) h0
  | cellNfin => exact State.fireWith_nextWf s _ _ _ _ (fun _ _ _ _ h => State.nfinFire_wf _ _ _ _ _ _ h) h0
  | cellRcpe => exact State.fireWith_nextWf s _ _ _ _ (fun _ _ _ _ h => by simp [h]) h0
  | xfnGrant =>
    simp [exec, execXfnGrant, h0]
  | routerPass | routerSteer | routerMerge | routerCarry | routerRepeat | routerDrop =>
    simp [exec, execRouterPass, execRouterSteer, execRouterMerge, execRouterCarry, execRouterRepeat, execRouterDrop, h0]
  | rmwFadd | rmwIadd | rmwFmax =>
    simp [exec, execRmwFadd, execRmwIadd, execRmwFmax, h0]
  | asidLive | asidRelease | group | channel | queuePrivilege | saveArea =>
    simp [exec, execAsidLive, execAsidRelease, execGroup, execChannel, execQueuePrivilege, execSaveArea, h0]
  | getVersion | getCapabilities =>
    simp [exec, execGetVersion, execGetCapabilities, h0]
  | getDigests | getCertificate | challenge | getMeasurements =>
    simp [exec, execGetDigests, execGetCertificate, execChallenge, execGetMeasurements, h0]
  | _ => simp [exec, h0]

end Sys2Proof.Machine
end

section
/-! PROOF of O5. A step issues, takes a command, makes a move of one of the agents or carries out an action; each of these is the meaning of
an instruction, or an operation that writes no memory. -/
namespace Sys2Proof.Machine

/-! ### Issuing (R135, R140, R162) -/

theorem State.evalAt_nextWf (s : State) (p k : Nat) (h0 : Memory.wf s.mem = true) : NextWf (s.evalAt p k) := by
  fun_cases State.evalAt
  case case1 | case2 => simp +zetaDelta [h0]
  case case3 => exact exec_nextWf _ _ h0

theorem State.issueAt_nextWf (s : State) (p k : Nat) (h0 : Memory.wf s.mem = true) : NextWf (s.issueAt p k) := by
  have he := s.evalAt_nextWf p k h0
  fun_cases State.issueAt
  case case1 => simp [h0]
  case case2 u hu _ => simpa using he u hu
  case case3 u hu _ => simpa using he u hu
  case case4 => exact he

/-- Every handler that is tried issues, stalls or is passed over. -/
theorem State.tryHandlers_nextWf (p : Nat) (ks : List Nat) (s : State) (h0 : Memory.wf s.mem = true) :
    NextWf (State.tryHandlers p ks s) := by
  fun_induction State.tryHandlers p ks s
  case case1 => simpa using h0
  case case2 ih => exact ih h0
  case case3 => simpa using h0
  case case4 => exact State.issueAt_nextWf _ p _ (by simpa using h0)
  case case5 u hu _ ih => exact ih (State.issueAt_nextWf _ p _ h0 u hu)
  case case6 u hu _ => simpa using State.issueAt_nextWf _ p _ h0 u hu
  case case7 => exact State.issueAt_nextWf _ p _ h0

theorem State.issue_nextWf (s : State) (p : Nat) (h0 : Memory.wf s.mem = true) : NextWf (s.issue p) := by
  fun_cases State.issue
  case case1 => exact State.issueAt_nextWf _ p _ (by simp [h0])
  case case2 => exact State.tryHandlers_nextWf p _ s h0
  case case3 => exact s.evalAt_nextWf p _ h0
  case case4 => simp [h0]

theorem State.runCommand_nextWf (s : State) (p : Nat) (h0 : Memory.wf s.mem = true) : NextWf (s.runCommand p) := by
  fun_cases State.runCommand
  case case3 => exact exec_nextWf _ _ h0
  all_goals simp [h0]

/-! ### Agents -/

/-- A move that keeps memory in its form. -/
def Keeps (f : Move) : Prop := ∀ s : State, Memory.wf s.mem = true → NextWf (f s)

/-- Moves that all keep the form. -/
def AllKeep (l : List Move) : Prop := ∀ f ∈ l, Keeps f

@[simp] theorem allKeep_nil : AllKeep [] := by simp [AllKeep]
@[simp] theorem allKeep_cons (f : Move) (l : List Move) : AllKeep (f :: l) ↔ Keeps f ∧ AllKeep l := by simp [AllKeep]
@[simp] theorem allKeep_append (l m : List Move) : AllKeep (l ++ m) ↔ AllKeep l ∧ AllKeep m := by
  simp [AllKeep, or_imp, forall_and]

theorem allKeep_map {α : Type} (l : List α) (f : α → Move) (h : ∀ e, Keeps (f e)) : AllKeep (l.map f) := by
  intro g hg
  obtain ⟨e, -, rfl⟩ := List.mem_map.1 hg
  exact h e

theorem allKeep_flatMap {α : Type} (l : List α) (f : α → List Move) (h : ∀ e, AllKeep (f e)) : AllKeep (l.flatMap f) := by
  intro g hg
  obtain ⟨e, -, he⟩ := List.mem_flatMap.1 hg
  exact h e g he

theorem exec_keeps (i : Instr) : Keeps (exec i) := exec_nextWf i

/-- Events, each the meaning of an instruction, keep the form. -/
theorem events_keep (is : List Instr) : AllKeep (is.map exec) := allKeep_map is exec exec_keeps

theorem State.walked_nextWf {s : State} {o : Out} (least : Nat) (h0 : Memory.wf s.mem = true) (ho : NextWf o) :
    NextWf (s.walked least o) := by
  intro t ht
  obtain h | h := s.walked_next t least o ht
  · exact ho t h
  · rw [h]; exact h0

theorem cellActs_keep (p c : Nat) (op : CellOp) : AllKeep (cellActs p c op) := by
  cases op with
  | add => exact events_keep [.cellAdd p c]
  | sub => exact events_keep [.cellSub p c]
  | mul => exact events_keep [.cellMul p c]
  | fma => exact events_keep [.cellFma p c]
  | min => exact events_keep [.cellMin p c]
  | max => exact events_keep [.cellMax p c]
  | abs => exact events_keep [.cellAbs p c]
  | neg => exact events_keep [.cellNeg p c]
  | and => exact events_keep [.cellAnd p c]
  | or => exact events_keep [.cellOr p c]
  | xor => exact events_keep [.cellXor p c]
  | shl => exact events_keep [.cellShl p c]
  | shr => exact events_keep [.cellShr p c]
  | sra => exact events_keep [.cellSra p c]
  | cmp => exact events_keep [.cellCmp p c]
  | sel => exact events_keep [.cellSel p c]
  | mov => exact events_keep [.cellMov p c]
  | scale => exact events_keep [.cellScale p c]
  | popc => exact events_keep [.cellPopc p c]
  | clz => exact events_keep [.cellClz p c]
  | cvt => exact events_keep [.cellCvt p c]
  | qnt => exact events_keep [.cellQnt p c]
  | dqn => exact events_keep [.cellDqn p c]
  | acc => exact events_keep [.cellAcc p c]
  | runacc => exact events_keep [.cellRunacc p c]
  | cnt => exact events_keep [.cellCnt p c]
  | xfn => exact events_keep [.xfnGrant p (c % 32), .xfnReply p c]
  | rcpe => exact events_keep [.cellRcpe p c]
  | join => exact events_keep [.cellJoin p c]
  | poolc => exact events_keep [.cellPoolc p c]
  | stat => exact events_keep [.cellStat p c]
  | nfin => exact events_keep [.cellNfin p c]
  | mld | mst | mamo | xlat | msgout | rmwFadd | rmwIadd | rmwFmax | clipb | gauge | pack | unpack => exact allKeep_nil

theorem routerActs_keep (p c : Nat) (d : Dir) (o : Option RouterOut) : AllKeep (routerActs p c d o) := by
  fun_cases routerActs
  case case1 => exact allKeep_nil
  case case2 => exact events_keep [.routerPass p c d]
  case case3 => exact events_keep [.routerSteer p c d]
  case case4 => exact events_keep [.routerMerge p c d]
  case case5 => exact events_keep [.routerCarry p c d]
  case case6 => exact events_keep [.routerRepeat p c d]
  case case7 => exact events_keep [.routerDrop p c d]

theorem cellEvents_keep (p c : Nat) (x : Cell) : AllKeep (cellEvents p c x) := by
  rw [cellEvents, allKeep_append, allKeep_append]
  refine ⟨⟨events_keep [.cellEosFiring p c, .cellMarkerFiring p c], ?_⟩, allKeep_flatMap _ _ fun d => routerActs_keep p c d _⟩
  split
  · exact cellActs_keep p c _
  · exact allKeep_nil

theorem portEvents_keep (p n : Nat) : AllKeep (portEvents p n) :=
  events_keep [.portEmitToken p n, .portTakeToken p n, .bindingComplete p n, .mamoAccess p n, .xlatTranslate p n, .msgoutPost p n,
    .spillwayRetry p n, .stalledPortRetry p n]

theorem regionEvents_keep (p : Nat) (r : Region) : AllKeep (regionEvents p r) := by
  simp only [regionEvents, allKeep_append, and_assoc]
  exact ⟨events_keep [.configImageLoaded p, .timerExpiry p, .atimeRelease p, .matrixVectorStart p, .matrixVectorDone p, .mloadComplete p,
      .matrixStepPass p, .matrixMarkerFiring p, .splicePointSave p, .cutClose p, .freeze p, .retireClear p, .forcedClear p,
      .successorStart p],
    allKeep_map _ _ fun e => exec_keeps (.waittExpiry p e.1), allKeep_flatMap _ _ fun e => cellEvents_keep p e.1 e.2,
    allKeep_flatMap _ _ fun e => portEvents_keep p e.1, allKeep_map _ _ fun e => exec_keeps (.relatchTokenAtPort p e.1),
    allKeep_map _ _ fun e => exec_keeps (.rillWindowExpiry p e.1)⟩

theorem dieEvents_keep (d : Nat) (x : Die) : AllKeep (dieEvents d x) := by
  simp only [dieEvents, allKeep_append, and_assoc]
  exact ⟨events_keep [.sluiceInboxLaunch d, .placeInstance d, .autoPreempt d, .preemptMarkerInject d, .preemptResume d],
    allKeep_map _ _ fun e => exec_keeps (.sluiceTakeRecord d e.1),
    allKeep_flatMap _ _ fun e => events_keep [.effectiveClassAging d e.1, .launchAnchor d e.1],
    allKeep_flatMap _ _ fun e => events_keep [.holderAdmit d e.1, .admissionTimeout d e.1],
    allKeep_map _ _ fun h => exec_keeps (.admissionTimeout d h.id),
    allKeep_flatMap _ _ fun e => events_keep [.copy d e.1, .copyi d e.1, .fill d e.1],
    allKeep_flatMap _ _ fun j => events_keep [.wset d j, .gread d j, .gpol d j, .gclr d j],
    allKeep_map _ _ fun j => exec_keeps (.rillRootWindowExpiry d j), allKeep_map _ _ fun c => exec_keeps (.clusterGate d c),
    allKeep_flatMap _ _ fun e => events_keep [.clusterGateEntryComplete d e.1, .clusterExitComplete d e.1],
    allKeep_map _ _ fun e => exec_keeps (.domainClockStep d e.1)⟩

theorem nodeEvents_keep (r n : Nat) (op : ChunkOp) : AllKeep (nodeEvents r n op) := by
  cases op with
  | send _ => exact events_keep [.chunkSend r n, .chunkNodeComplete r n]
  | recv _ => exact events_keep [.chunkRecv r n, .chunkNodeComplete r n]
  | red _ => exact events_keep [.red r n, .chunkNodeComplete r n]
  | redc => exact events_keep [.redc r n, .chunkNodeComplete r n]
  | copy => exact events_keep [.chunkCopy r n, .chunkNodeComplete r n]
  | a2a => exact events_keep [.a2a r n, .chunkNodeComplete r n]
  | signal => exact events_keep [.signal r n, .chunkNodeComplete r n]

theorem conduitSlot_keeps (n : Nat) : Keeps (State.conduitSlot n) := by
  intro s h0
  fun_cases State.conduitSlot <;> simp +zetaDelta [h0]

theorem wellEvents_keep (w : Wellhead) : AllKeep (wellEvents w) := by
  simp only [wellEvents, allKeep_append, and_assoc]
  refine ⟨allKeep_map _ _ conduitSlot_keeps,
    allKeep_flatMap _ _ fun e => events_keep [.gload e.1, .replay e.1, .gfree e.1, .gstat e.1, .rwrite e.1, .rread e.1],
    allKeep_flatMap _ _ fun e => events_keep [.rwrite e.1, .rread e.1],
    allKeep_flatMap _ _ fun e => (allKeep_cons _ _).2 ⟨exec_keeps (.replayPeerTimeout e.1), ?_⟩⟩
  split
  · exact allKeep_flatMap _ _ fun x => nodeEvents_keep _ _ _
  · exact allKeep_nil

theorem msgEvents_keep (m : Nat) (b : Body) : AllKeep (msgEvents m b) := by
  cases b with
  | loadReq => exact events_keep [.homeReadRequest m]
  | loadReply => exact events_keep [.loadReply m]
  | storeReq => exact events_keep [.homeWriteRequest m]
  | ownReply => exact events_keep [.ownershipReply m]
  | writeBack => exact events_keep [.writeBackAck m]
  | atomic | waitv => exact events_keep [.homeAtomic m]
  | atomicReply => exact events_keep [.atomicReply m]
  | waitvArmed => exact events_keep [.waitvWake m]
  | arrive | await => exact events_keep [.barrierArriveAtHome m]
  | header => exact events_keep [.handleHeaderAction m]
  | claim => exact events_keep [.claimAtCursor m]
  | chanWord | heldReply => exact events_keep [.channelWordEnter m]
  | poolDecl => exact events_keep [.poolDeclareAtHome m]
  | poolCon => exact events_keep [.poolFold m]
  | gather => exact events_keep [.poolGather m]
  | completion => exact events_keep [.poolCompletionWord m]
  | engine => exact events_keep [.engineMessageArrive m]
  | reply => exact events_keep [.engineReplyArrive m]
  | holder => exact events_keep [.holderArrive m]
  | weirElem => exact events_keep [.weirGraphElement m]
  | rmw op =>
    rw [msgEvents]
    split
    · exact events_keep [.rmwFadd m]
    · split
      · exact events_keep [.rmwIadd m]
      · exact events_keep [.rmwFmax m]
  | ack => exact events_keep [.syncwAck m]
  | train n =>
    cases n with
    | none => exact events_keep [.trainApply m]
    | some _ => exact events_keep [.rillNodeTakeTrain m]
  | sealMark n =>
    cases n with
    | none => exact events_keep [.sealAction m]
    | some _ => exact events_keep [.rillNodeTakeTrain m]
  | genWord => exact events_keep [.generationWordArrive m]
  | rescale => exact events_keep [.rescaleEventArrive m]
  | credit => exact events_keep [.chunkCreditArrive m]
  | sent | farGot | flit => exact allKeep_nil
  -- the one kind left: its name is a keyword of Lean
  | _ => exact events_keep [.recall m]

theorem runMoves_keeps (l : List Move) (hl : AllKeep l) : Keeps (runMoves l) := by
  induction l with
  | nil => intro s h0; simpa [runMoves] using h0
  | cons f t ih =>
    obtain ⟨hf, ht⟩ := (allKeep_cons f t).1 hl
    intro s h0
    rw [runMoves]
    split
    next u hu => exact ih ht u (hf s h0 u hu)
    all_goals simp [NextWf]

theorem lineArrived_keeps (p : Nat) : Keeps (State.lineArrived p) := by
  intro s h0
  refine runMoves_keeps _ ?_ s h0
  rw [allKeep_append, allKeep_cons]
  exact ⟨⟨fun u hu => u.issue_nextWf p hu,
    allKeep_flatMap _ _ fun e => events_keep [.portEmitToken p e.1, .portTakeToken p e.1, .spillwayRetry p e.1]⟩,
    events_keep [.matrixVectorStart p, .matrixVectorDone p, .mloadComplete p]⟩

/-- Moves keep the form when each is cut short where its walk does not end (R322). -/
theorem allKeep_walked (least : Nat) (l : List Move) (hl : AllKeep l) : AllKeep (l.map fun f s => s.walked least (f s)) := by
  intro g hg
  obtain ⟨f, hf, rfl⟩ := List.mem_map.1 hg
  exact fun s h0 => State.walked_nextWf least h0 (hl f hf s h0)

theorem State.agents_keep (s : State) : AllKeep s.agents := by
  rw [State.agents, allKeep_append]
  refine ⟨allKeep_walked 2 _ (allKeep_map _ _ fun e u hu => u.issue_nextWf e.1 hu), allKeep_walked 1 _ ?_⟩
  simp only [allKeep_append, and_assoc]
  exact ⟨allKeep_map _ _ fun e u hu => u.runCommand_nextWf e.1 hu, allKeep_flatMap _ _ fun x => msgEvents_keep _ _,
    allKeep_flatMap _ _ fun e => regionEvents_keep _ _, allKeep_flatMap _ _ fun d => dieEvents_keep _ _, wellEvents_keep _,
    allKeep_map _ _ fun e => exec_keeps (.asidFree e.1), allKeep_map _ _ fun e => exec_keeps (.invalidationComplete e.1)⟩

theorem State.chosen_keeps (s : State) (n : Nat) : Keeps (s.chosen n) := by
  rw [State.chosen]
  cases h : s.agents[n % (s.agents.length + 1)]? with
  | none => intro u hu; simpa using hu
  | some f => exact s.agents_keep f (List.mem_of_getElem? h)

/-! ### Actions of the agenda -/

theorem State.submit_nextWf (s : State) (root : Bool) (req : List DWord) (h0 : Memory.wf s.mem = true) : NextWf (s.submit root req) := by
  fun_cases State.submit
  case case1 => exact State.rootRequest_nextWf _ _ _ _ (okWf_error _) h0
  case case2 => exact State.mgmtRequest_nextWf _ _ _ _ (okWf_error _) h0
  case case3 => exact exec_nextWf (.asidLive _ _) s h0
  case case4 => exact exec_nextWf (.asidRelease _) s h0
  case case6 => exact exec_nextWf (.group _ _) s h0
  case case7 => exact exec_nextWf (.channel _) s h0
  case case8 => exact exec_nextWf (.queuePrivilege _) s h0
  case case9 => exact exec_nextWf (.saveArea _ _) s h0
  all_goals simp [h0]

theorem State.mailboxWrite_nextWf (s : State) (root : Bool) (off : Nat) (v : DWord) (h0 : Memory.wf s.mem = true) :
    NextWf (s.mailboxWrite root off v) := by
  fun_cases State.mailboxWrite
  case case3 => exact s.submit_nextWf root _ h0
  all_goals simp [h0]

theorem State.otherAttest_nextWf (s : State) (code : Nat) (h0 : Memory.wf s.mem = true) : NextWf (s.otherAttest code) := by
  fun_cases State.otherAttest <;> simp [h0]

@[simp] theorem State.createQp_mem (s : State) (qp : Nat) (asid : BitVec 16) (len : Nat) : (s.createQp qp asid len).mem = s.mem := by
  fun_cases State.createQp <;> rfl

theorem State.act_nextWf (s : State) (a : Action) (h0 : Memory.wf s.mem = true) : NextWf (s.act a) := by
  cases a with
  | issue p => exact s.issue_nextWf p h0
  | command p => exact s.runCommand_nextWf p h0
  | event i => exact exec_nextWf i s h0
  | tick => simp [State.act, h0]
  | arrived p => exact lineArrived_keeps p s h0
  | farload => simp [State.act, h0]
  | mailbox root off v => exact s.mailboxWrite_nextWf root off v h0
  | homeWord => simp [State.act, h0]
  | queuePair => simp [State.act, h0]
  | attest code => exact s.otherAttest_nextWf code h0
  | offer => simp [State.act, h0]

theorem step_nextWf (s : State) (h0 : Memory.wf s.mem = true) : NextWf (step s) := by
  fun_cases step
  case case1 => exact State.walked_nextWf _ h0 (State.act_nextWf _ _ h0)
  case case2 => exact exec_nextWf .powerOn s h0
  case case3 => exact s.chosen_keeps _ _ h0

end Sys2Proof.Machine

namespace Sys2Proof

/-- Settles O5: each action of the agenda, and each move that may be chosen, is a handler's issue, a queued command or the meaning of an
instruction, and every instruction writes memory through the operations that keep its form. -/
theorem stepKeepsMemory : Obligations.StepKeepsMemory := by
  unfold Obligations.StepKeepsMemory
  exact fun s t h0 ht => Machine.step_nextWf s h0 t ht

end Sys2Proof
end

section
/-! SUPPORT and PROOF of O31. A copy engine takes one step of the job at its head: it sends the reply that the job holds, reads its
operands, or moves one word. -/
namespace Sys2Proof.Machine

/-! ### One step of a copy engine (R311 to R313) -/

section
variable {s : State} {d e opc : Nat} {j : Job} (operands : Job → State) (hj : ((s.die d).engineQueue e).head? = some j) (ho : j.msg.opc = opc)
include hj ho

/-- A job that holds a reply tries to send it. -/
theorem State.copyStep_of_reply {st : Nat} (hr : j.reply = some st) : s.copyStep d e opc operands = .next (s.endCopy d e j st) := by
  simp [State.copyStep, hj, ho, hr]

/-- A job that has no operands yet reads them. -/
theorem State.copyStep_of_noArgs (hr : j.reply = none) (ha : j.args = none) : s.copyStep d e opc operands = .next (operands j) := by
  simp [State.copyStep, hj, ho, hr, ha]

/-- A job that has its operands comes to its next word. -/
theorem State.copyStep_of_args {src dst len : Nat} (hr : j.reply = none) (ha : j.args = some (src, dst, len)) :
    s.copyStep d e opc operands = .next (s.copyWord d e j src dst len) := by
  simp [State.copyStep, hj, ho, hr, ha]

end

/-- Each instruction of the copy engines is one step of the job at the head, if the job is of its opcode. -/
theorem exec_copyEngine {d e opc : Nat} {i : Instr} (hi : (i, opc) ∈ [(Instr.copy d e, 1), (.copyi d e, 2), (.fill d e, 3)]) (s : State) :
    ∃ operands : Job → State, exec i s = s.copyStep d e opc operands := by
  simp only [List.mem_cons, Prod.mk.injEq, List.not_mem_nil, or_false] at hi
  obtain ⟨rfl, rfl⟩ | ⟨rfl, rfl⟩ | ⟨rfl, rfl⟩ := hi
  · exact ⟨_, rfl⟩
  · exact ⟨_, rfl⟩
  · exact ⟨_, rfl⟩

/-! ### The word that a job comes to -/

theorem State.copyWord_of_done {s : State} {d e src dst len : Nat} {j : Job} (h : len ≤ 4 * j.pos) :
    s.copyWord d e j src dst len = s.endCopy d e j 0x00 := if_pos h

section
variable {s s1 s2 : State} {d e src dst len v : Nat} {j : Job} {c : DWord} (h : 4 * j.pos < len)
include h

/-- The word moves: its source reads as `v` and its destination takes it. -/
theorem State.copyWord_of_moved {u : Nat} {c2 : DWord} (hv : s.sourceWord d j src = (.done v c, s1))
    (hu : s1.jobWrite d j (dst + 4 * j.pos) v c = (.done u c2, s2)) :
    s.copyWord d e j src dst len = (s2.engUsed j).setCopyJob d e { j with clk := c2, pos := j.pos + 1 } := by
  simp [State.copyWord, Nat.not_le.2 h, hv, hu]

theorem State.copyWord_of_sourceBad {st : Nat} (hv : s.sourceWord d j src = (.bad st, s1)) :
    s.copyWord d e j src dst len = s1.endCopy d e j st := by
  simp [State.copyWord, Nat.not_le.2 h, hv]

theorem State.copyWord_of_destinationBad {st : Nat} (hv : s.sourceWord d j src = (.done v c, s1))
    (hu : s1.jobWrite d j (dst + 4 * j.pos) v c = (.bad st, s2)) :
    s.copyWord d e j src dst len = s2.endCopy d e { j with clk := c } st := by
  simp [State.copyWord, Nat.not_le.2 h, hv, hu]

end

/-! ### The operands of a job (R311, R312) -/

/-- An operand that is an address leaves the bits above the address space clear. -/
theorem div_vaTop_eq_zero {a : Nat} (h : a < 2 ^ 57) : a / vaTop = 0 := Nat.div_eq_of_lt h

section
variable {s : State} {d e : Nat} {j : Job} (hj : ((s.die d).engineQueue e).head? = some j) (hr : j.reply = none) (ha : j.args = none)
include hj hr ha

theorem execCopyi_of_operands (ho : j.msg.opc = 2) (h0 : j.msg.opnd 0 < 2 ^ 57) (h1 : j.msg.opnd 1 < 2 ^ 57) (h2 : j.msg.opnd 2 < 2 ^ 32) :
    execCopyi d e s = .next (s.startCopy d e j (some (j.msg.opnd 0)) (j.msg.opnd 1) (j.msg.opnd 2)) := by
  refine (State.copyStep_of_noArgs _ hj ho hr ha).trans (congrArg _ (if_neg ?_))
  simp only [div_vaTop_eq_zero h0, div_vaTop_eq_zero h1, Nat.div_eq_of_lt h2, ne_eq, not_true, or_false, not_false_eq_true]

theorem execFill_of_operands (ho : j.msg.opc = 3) (h0 : j.msg.opnd 0 < 2 ^ 57) :
    execFill d e s = .next (s.startCopy d e j none (j.msg.opnd 0) (j.msg.opnd 1 / 2 ^ 32)) :=
  (State.copyStep_of_noArgs _ hj ho hr ha).trans (congrArg _ (if_neg fun h => h (div_vaTop_eq_zero h0)))

theorem execCopy_of_noOperands (ho : j.msg.opc = 1) : execCopy d e s = .next (s.readDescriptor d e j) :=
  State.copyStep_of_noArgs _ hj ho hr ha

end

end Sys2Proof.Machine

namespace Sys2Proof

open Machine in
/-- Settles O31: what the engine does with the job at its head is read off the job's reply, its operands and the place that it has come
to. -/
theorem copyEngines : Obligations.CopyEngines := by
  unfold Obligations.CopyEngines
  intro s d e opc i j src dst len v u st c c2 s1 s2 hi hj ho
  obtain ⟨operands, hstep⟩ := exec_copyEngine hi s
  refine ⟨fun hr => hstep.trans (State.copyStep_of_reply operands hj ho hr), fun hr ha => ?_, fun hr ha => ⟨?_, ?_, ?_⟩⟩
  · rw [hstep, State.copyStep_of_args operands hj ho hr ha]
    exact ⟨fun h => congrArg _ (State.copyWord_of_done h),
      fun h hv hu => congrArg _ (State.copyWord_of_moved h (Prod.ext hv rfl) (Prod.ext hu rfl)),
      fun h hv => congrArg _ (State.copyWord_of_sourceBad h (Prod.ext hv rfl)),
      fun h hv hu => congrArg _ (State.copyWord_of_destinationBad h (Prod.ext hv rfl) (Prod.ext hu rfl))⟩
  · rintro rfl h0 h1 h2
    obtain rfl : i = .copyi d e := by simpa using hi
    exact execCopyi_of_operands hj hr ha ho h0 h1 h2
  · rintro rfl h0
    obtain rfl : i = .fill d e := by simpa using hi
    exact execFill_of_operands hj hr ha ho h0
  · rintro rfl
    obtain rfl : i = .copy d e := by simpa using hi
    exact execCopy_of_noOperands hj hr ha ho

end Sys2Proof
end

section
/-! SUPPORT and PROOF of O32. A weir job that holds no reply does what its opcode says; each of the four is read off the checks that it
passes. -/
namespace Sys2Proof.Machine

section
variable {s : State} {d i : Nat} {j : Job} (hj : (s.die d).weirJobs[i]? = some j) (hr : j.reply = none)
include hj hr

/-- One step of a weir job of an opcode, where the job there is of that opcode and holds no reply. -/
theorem State.weirJob_of_noReply {opc : Nat} (f : Job → State) (ho : j.msg.opc = opc) : s.weirJob d i opc f = .next (f j) := by
  simp [State.weirJob, hj, hr, ho]

/-! ### WSET (R314) -/

section
variable (ho : j.msg.opc = 5) (hva : j.msg.opnd 0 < 2 ^ 57) (hrange : rangesBad none (j.msg.opnd 0) (j.msg.opnd 1 / 2 ^ 32) = false)
include ho hva hrange

theorem execWset_of_done (hlen : j.msg.opnd 1 / 2 ^ 32 ≤ 4 * j.pos) : execWset d i s = .next (s.endWeirJob d i j 0x00) := by
  rw [execWset, State.weirJob_of_noReply hj hr _ ho]
  simp only [div_vaTop_eq_zero hva, hrange, hlen, ne_eq, not_true, if_false, if_true, Bool.false_eq_true]

/-- The next word is on a class W page of this package, and no update of it is under way. -/
theorem execWset_of_word {pa : Nat} {s1 : State} (hlen : 4 * j.pos < j.msg.opnd 1 / 2 ^ 32)
    (hcov : j.msg.covers (j.msg.opnd 0 + 4 * j.pos) 4 true = true)
    (hat : s.engAt d j.msg.asid (j.msg.opnd 0 + 4 * j.pos) .write = (.at pa true, s1)) (hhost : hostBit pa = false)
    (hupd : s1.updatePending pa = false) (hpoison : s1.homePoisoned (pa / 64) = false) :
    execWset d i s =
      .next (({ s1 with mem := Memory.writeLE s1.mem pa 4 (j.msg.opnd 1 % 2 ^ 32) } : State).setWeirJob d i { j with pos := j.pos + 1 }) := by
  rw [execWset, State.weirJob_of_noReply hj hr _ ho]
  simp only [div_vaTop_eq_zero hva, hrange, Nat.not_le.2 hlen, hcov, hat, hhost, State.weirWord, hupd, lineOf, hpoison, ne_eq, not_true, if_false,
    Bool.false_eq_true, Bool.not_true, Bool.or_false]

end

/-! ### Record jobs (R350, R353) -/

theorem execGread_of_record {g : GaugeRec} {pas : List Nat} {s1 : State} (ho : j.msg.opc = 8)
    (hg : s.recordCheck j.msg (decide (j.msg.opnd 0 / 2 ^ 20 ≠ 0) || decide (j.msg.opnd 1 / vaTop ≠ 0)) 0 = .ok g)
    (hline : j.msg.opnd 1 % 64 = 0) (hcov : j.msg.covers (j.msg.opnd 1) 512 true = true)
    (hl : State.bufferLines d j.msg.asid ((List.range 8).map fun k => (j.msg.opnd 1 + 64 * k) % vaTop) [] s = (.ok pas, s1)) :
    execGread d i s = .next ((s1.writeLines j pas g.image512 j.clk).2.endWeirJob d i
      { j with clk := (s1.writeLines j pas g.image512 j.clk).1 } 0x00) := by
  rw [execGread, State.weirJob_of_noReply hj hr _ ho]
  simp only [hg, hline, hcov, hl, ne_eq, not_true, if_false, Bool.not_true, Bool.false_eq_true]

theorem execGpol_of_record {g : GaugeRec} (ho : j.msg.opc = 9)
    (hg : s.recordCheck j.msg (decide (j.msg.opnd 0 / 2 ^ 30 ≠ 0)) (j.msg.opnd 1 / 2 ^ 32) = .ok g) :
    execGpol d i s = .next ((s.setRecord (j.msg.opnd 0 % 2 ^ 20)
      { g with margin := BitVec.ofNat 8 (j.msg.opnd 0 / 2 ^ 20), autoSeal := bit (j.msg.opnd 0) 28, clearLive := bit (j.msg.opnd 0) 29,
               satth := BitVec.ofNat 32 (j.msg.opnd 1), clip := BitVec.ofNat 32 (j.msg.opnd 1 / 2 ^ 32) }).endWeirJob d i j 0x00) := by
  rw [execGpol, State.weirJob_of_noReply hj hr _ ho]
  simp only [hg]

theorem execGclr_of_record {g : GaugeRec} (ho : j.msg.opc = 10)
    (hg : s.recordCheck j.msg (decide (j.msg.opnd 0 / 2 ^ 20 ≠ 0) || decide (j.msg.opnd 1 ≠ 0)) 0 = .ok g) :
    execGclr d i s = .next ((s.setRecord (j.msg.opnd 0 % 2 ^ 20) { g with live := [], rsc := false }).endWeirJob d i j 0x00) := by
  rw [execGclr, State.weirJob_of_noReply hj hr _ ho, hg]

end

end Sys2Proof.Machine

namespace Sys2Proof

open Machine in
/-- Settles O32: WSET by the word that it has come to, the record jobs by their record. -/
theorem weirJobs : Obligations.WeirJobs := by
  unfold Obligations.WeirJobs
  intro s d i pa j g pas m va a hj hr
  exact ⟨fun ho hva hrange => ⟨execWset_of_done hj hr ho hva hrange,
      fun hlen hcov hat hhost => execWset_of_word hj hr ho hva hrange hlen hcov (Prod.ext hat rfl) hhost⟩,
    fun ho hg hline hcov hp => execGread_of_record hj hr ho hg hline hcov (Prod.ext hp rfl), execGpol_of_record hj hr, execGclr_of_record hj hr⟩

end Sys2Proof
end

section
/-! SUPPORT and PROOF of O41. One lemma for each way in which a home bank answers a line request, for the arrival of a line in a stash, and
for recalls and write-backs. -/
namespace Sys2Proof.Machine

/-! ### Lines that act at their home alone (R293) -/

section
variable {s : State} {m p line : Nat} (hw : line ∈ s.homeWords)
include hw

theorem execHomeReadRequest_of_homeWord {clk : DWord} (hm : s.ready m = some (.loadReq p line clk)) :
    execHomeReadRequest m s = .next (s.refuseCopy m p line false) := by
  simp [execHomeReadRequest, hm, hw]

theorem execHomeWriteRequest_of_homeWord {whole : Bool} (hm : s.ready m = some (.storeReq p line whole)) :
    execHomeWriteRequest m s = .next (s.refuseCopy m p line true) := by
  simp [execHomeWriteRequest, hm, hw]

theorem execLoadReply_of_homeWord {data : Vector Byte 64} {w r : DWord} {bad : Bool} (hm : s.ready m = some (.loadReply p line data w r bad)) :
    execLoadReply m s = .next (s.refuseCopy m p line false) := by
  simp [execLoadReply, hm, hw]

theorem execOwnershipReply_of_homeWord {data : Vector Byte 64} {w r : DWord} {bad : Bool}
    (hm : s.ready m = some (.ownReply p line data w r bad)) : execOwnershipReply m s = .next (s.refuseCopy m p line true) := by
  simp [execOwnershipReply, hm, hw]

end

/-- A region of this package asks again: nothing is sent to another package. -/
theorem State.refuseCopy_of_here (s : State) {m p : Nat} (line : Nat) (store : Bool) (hp : isAway p = false) :
    s.refuseCopy m p line store = (s.unpost m).askAgain p line store := by
  simp [State.refuseCopy, hp]

@[simp] theorem State.askAgain_net (s : State) (p line : Nat) (store : Bool) : (s.askAgain p line store).net = s.net := rfl

@[simp] theorem State.askAgain_stash (s : State) (p line : Nat) (store : Bool) : ((s.askAgain p line store).region p).stash = (s.region p).stash := by
  change ((s.setRegion p _).region p).stash = _
  rw [State.setRegion_region]

/-! ### Requests at the home (R283, R285, R289, R290) -/

/-- What a load of a line of another package leaves here is its number. -/
theorem State.lineAway_net (s : State) (m p line : Nat) (clk : DWord) :
    (s.lineAway m p line clk).net = (s.unpost m).net ++ [{ src := none, body := .sent p noHandler s.well.sentNo (.line line) }] := rfl

theorem State.lineAway_regions (s : State) (m p line : Nat) (clk : DWord) : (s.lineAway m p line clk).regions = s.regions := rfl

/-- A line goes to a region of this package as a load reply. -/
theorem State.sendLine_of_here (s : State) {p : Nat} (line : Nat) (data : Vector Byte 64) (w r : DWord) (bad : Bool) (hp : isAway p = false) :
    s.sendLine p line data w r bad = s.post (keyReply p) (.loadReply p line data w r bad) := by
  simp [State.sendLine, hp]

/-- A recall of the line from its owner is on its way, and nothing else has changed. -/
theorem State.postRecall_posts (s : State) (o line : Nat) (drop : Bool) :
    (s.postRecall o line drop).mem = s.mem ∧ (s.postRecall o line drop).line line = s.line line ∧
      (s.postRecall o line drop).regions = s.regions ∧ (∃ x ∈ (s.postRecall o line drop).net, ∃ dr, x.body = .recall o line dr) ∧
      ∀ x ∈ s.net, x ∈ (s.postRecall o line drop).net := by
  fun_cases State.postRecall
  case case1 there hthere =>
    refine ⟨rfl, rfl, rfl, ?_, fun _ hx => hx⟩
    obtain ⟨x, hx, hrecall⟩ := List.any_eq_true.1 hthere
    split at hrecall
    next q l dr hbody => exact ⟨x, hx, dr, by simpa [hbody] using hrecall⟩
    next => cases hrecall
  case case2 => exact ⟨rfl, rfl, rfl, ⟨_, List.mem_append_right _ (List.mem_singleton.2 rfl), drop, rfl⟩, fun _ hx => List.mem_append_left _ hx⟩

section
variable {s : State} {m p o line : Nat} {clk : DWord} (hw : line ∉ s.homeWords) (hm : s.ready m = some (.loadReq p line clk))
include hw hm

theorem execHomeReadRequest_of_elsewhere (haway : s.elsewhere (64 * line) = true) :
    execHomeReadRequest m s = .next (s.lineAway m p line clk) := by
  simp [execHomeReadRequest, hm, hw, haway]

variable (hhere : s.elsewhere (64 * line) = false)
include hhere

/-- No other region owns the line: the lease is granted or extended. -/
theorem execHomeReadRequest_of_granted (hp : isAway p = false) (howner : (s.line line).owner = none ∨ (s.line line).owner = some p) :
    let lease := maxClk (s.line line).rts (maxClk ((s.line line).wts + 32) (clk + 32))
    execHomeReadRequest m s = .next (((s.unpost m).setLine line { s.line line with rts := lease }).post (keyReply p)
      (.loadReply p line (s.lineData line) (s.line line).wts lease (s.homePoisoned line))) := by
  obtain howner | howner := howner <;>
    simp [execHomeReadRequest, hm, hw, hhere, howner, State.sendLine_of_here, hp, Config.lease]

/-- Another region owns the line, and the request lies within the lease as it stands. -/
theorem execHomeReadRequest_of_leased (hp : isAway p = false) (howner : (s.line line).owner = some o) (ho : o ≠ p)
    (hclk : clk.toNat ≤ (s.line line).rts.toNat) :
    execHomeReadRequest m s = .next ((s.unpost m).post (keyReply p)
      (.loadReply p line (s.lineData line) (s.line line).wts (s.line line).rts (s.homePoisoned line))) := by
  simp [execHomeReadRequest, hm, hw, hhere, howner, ho, hclk, State.sendLine_of_here, hp]

theorem execHomeReadRequest_of_recalled (howner : (s.line line).owner = some o) (ho : o ≠ p) (hclk : (s.line line).rts.toNat < clk.toNat) :
    execHomeReadRequest m s = .next (s.postRecall o line false) := by
  simp [execHomeReadRequest, hm, hw, hhere, howner, ho, Nat.not_le.2 hclk]

end

section
variable {s : State} {m p o line : Nat} {whole : Bool} (hw : line ∉ s.homeWords)
include hw

/-- The region becomes the owner, and has the old data and their mark with the reply. -/
theorem execHomeWriteRequest_of_owned (hm : s.ready m = some (.storeReq p line false))
    (howner : (s.line line).owner = none ∨ (s.line line).owner = some p) :
    execHomeWriteRequest m s = .next (((s.unpost m).setLine line { s.line line with owner := some p }).post (keyReply p)
      (.ownReply p line (s.lineData line) (s.line line).wts (s.line line).rts (s.homePoisoned line))) := by
  obtain howner | howner := howner <;> simp [execHomeWriteRequest, hm, hw, howner]

/-- The region becomes the owner of a line that it will write whole: the reply has open values in place of the old data (R285). -/
theorem execHomeWriteRequest_of_whole (hm : s.ready m = some (.storeReq p line true))
    (howner : (s.line line).owner = none ∨ (s.line line).owner = some p) :
    execHomeWriteRequest m s =
      .next (({ (s.unpost m).setLine line { s.line line with owner := some p } with fresh := s.fresh + 64 } : State).post (keyReply p)
        (.ownReply p line (freeLine s.fresh) (s.line line).wts (s.line line).rts false)) := by
  obtain howner | howner := howner <;> simp [execHomeWriteRequest, hm, hw, howner]

theorem execHomeWriteRequest_of_recalled (hm : s.ready m = some (.storeReq p line whole)) (howner : (s.line line).owner = some o)
    (ho : o ≠ p) : execHomeWriteRequest m s = .next (s.postRecall o line true) := by
  simp [execHomeWriteRequest, hm, hw, howner, ho]

end

/-! ### Lines that arrive (R285, R289, R290) -/

@[simp] theorem Region.putStash_findLine (r : Region) (l : StashLine) : (r.putStash l).findLine l.line = some { l with stamp := r.stampNo } := by
  simp [Region.putStash, Region.findLine]

/-- A line that fills a stash stands there, whatever it evicts. -/
theorem State.fillStash_findLine (s : State) (p : Nat) (l : StashLine) :
    ((s.fillStash p l).region p).findLine l.line = some { l with stamp := (s.region p).stampNo } := by
  fun_cases State.fillStash
  case case1 => simp +zetaDelta
  case case2 r v _ _ _ =>
    rw [State.post_region, State.setRegion_region]
    exact (r.dropStash v.line).putStash_findLine l
  case case3 => simp +zetaDelta

theorem State.fillStash_regs (s : State) (p : Nat) (l : StashLine) : ((s.fillStash p l).region p).regs = (s.region p).regs := by
  fun_cases State.fillStash
  case case1 => simp +zetaDelta
  case case2 => simp +zetaDelta
  case case3 => simp +zetaDelta

/-- An arrived line stands in the stash as its reply has it, clean, leased or owned. -/
theorem State.arriveLine_arrives (s : State) (m p line : Nat) (data : Vector Byte 64) (w r : DWord) (bad owned : Bool) :
    let t := s.arriveLine m p line data w r bad owned
    (∃ l, (t.region p).findLine line = some l ∧ l.data = data ∧ l.wts = w ∧ l.rts = r ∧ l.owned = owned ∧ l.dirty = false ∧ l.poison = bad) ∧
      t.mem = s.mem ∧ (t.region p).regs = (s.region p).regs := by
  refine ⟨⟨_, State.fillStash_findLine _ p _, rfl, rfl, rfl, rfl, rfl, rfl⟩, State.arriveLine_mem s m p line data w r bad owned, ?_⟩
  refine (State.fillStash_regs _ p _).trans ?_
  rw [State.setRegion_region]
  rfl

section
variable {s : State} {m p line : Nat} {data : Vector Byte 64} {w r : DWord} {bad : Bool} (hw : line ∉ s.homeWords)
include hw

theorem execLoadReply_of_notOwned (hm : s.ready m = some (.loadReply p line data w r bad))
    (h : ∀ x, (s.region p).findLine line = some x → x.owned = false) :
    execLoadReply m s = .next (s.arriveLine m p line data w r bad false) := by
  cases hl : (s.region p).findLine line with
  | none => simp [execLoadReply, hm, hw, hl]
  | some x => simp [execLoadReply, hm, hw, hl, h x hl]

/-- A reply that an ownership has overtaken fills nothing: only the request that it answers is struck off. -/
theorem execLoadReply_of_owned {x : StashLine} (hm : s.ready m = some (.loadReply p line data w r bad))
    (hl : (s.region p).findLine line = some x) (hx : x.owned = true) :
    execLoadReply m s = .next ((s.unpost m).setRegion p { s.region p with asked := (s.region p).asked.filter fun a => a != (line, false) }) := by
  simp [execLoadReply, hm, hw, hl, hx]

theorem execOwnershipReply_of_arrived (hm : s.ready m = some (.ownReply p line data w r bad)) :
    execOwnershipReply m s = .next (s.arriveLine m p line data w r bad true) := by
  simp [execOwnershipReply, hm, hw]

end

/-! ### Recalls and write-backs (R287, R290) -/

theorem execRecall_of_owned {s : State} {m o line : Nat} {drop : Bool} {x : StashLine} (hm : s.ready m = some (.recall o line drop))
    (hl : (s.region o).findLine line = some x) (hx : x.owned = true) : execRecall m s = .next ((s.unpost m).recallNow line drop) := by
  simp [execRecall, hm, hl, hx]

theorem execRecall_of_notOwned {s : State} {m o line : Nat} {drop : Bool} (hm : s.ready m = some (.recall o line drop))
    (h : ∀ x, (s.region o).findLine line = some x → x.owned = false) : execRecall m s = .next (s.unpost m) := by
  cases hl : (s.region o).findLine line with
  | none => simp [execRecall, hm, hl]
  | some x => simp [execRecall, hm, hl, h x hl]

@[simp] theorem State.markPoison_lines (s : State) (line : Nat) (bad : Bool) : (s.markPoison line bad).lines = s.lines := rfl
@[simp] theorem State.markPoison_line (s : State) (line : Nat) (bad : Bool) (l : Nat) : (s.markPoison line bad).line l = s.line l := rfl

/-- The home has the line's data and its write timestamp, and no owner. -/
theorem State.performWriteBack_home (s : State) (p : Nat) (l : StashLine) :
    let t := s.performWriteBack p l
    t.mem = Memory.writeBytes s.mem (64 * l.line) l.data.toList ∧ (t.line l.line).owner = none ∧ (t.line l.line).wts = l.wts := by
  simp [State.performWriteBack, State.applyWriteBack, State.putLine]

theorem State.performWriteBack_wbOut (s : State) (p : Nat) (l : StashLine) :
    ((s.performWriteBack p l).region p).wbOut = (s.region p).wbOut - 1 := by
  rw [State.performWriteBack, State.setRegion_region]
  rfl

/-- The write-back is performed, and the region's sequencer is heard. -/
theorem execWriteBackAck_performs {s : State} {m p : Nat} {l : StashLine} (hm : s.ready m = some (.writeBack p l)) :
    ∃ a, execWriteBackAck m s = .next { (s.unpost m).performWriteBack p l with agenda := a } := by
  rw [execWriteBackAck, hm]
  exact ⟨_, rfl⟩

end Sys2Proof.Machine

namespace Sys2Proof

open Machine in
/-- Settles O41: each clause is one answer of a home bank, one arrival, one recall or one write-back. -/
theorem homeLines : Obligations.HomeLines := by
  unfold Obligations.HomeLines
  intro s m p o line clk w r data bad drop whole l h lease asks arrives
  have hasks {i : Instr} {dr : Bool} (he : exec i s = .next (s.postRecall o line dr)) : asks i := ⟨_, he, s.postRecall_posts o line dr⟩
  have harrives {i : Instr} {owned : Bool} (he : exec i s = .next (s.arriveLine m p line data w r bad owned)) : arrives i owned := by
    obtain ⟨⟨l2, hfind, hdata, hwts, hrts, howned, hdirty, hpoison⟩, hmem, hregs⟩ := s.arriveLine_arrives m p line data w r bad owned
    exact ⟨_, l2, he, hfind, hdata, hwts, hrts, howned, hdirty, hpoison, hmem, hregs⟩
  refine ⟨fun hw hp store => ?_, fun hw hm haway => ?_, fun hw hm hhere hp => ⟨?_, ?_, ?_⟩, fun hw hm => ⟨fun howner => ?_, ?_⟩,
    fun hw hm => ⟨?_, ?_⟩, fun hw hm => ?_, fun hm => ⟨?_, ?_⟩, fun hm => ?_⟩
  · intro dropped
    have hd : dropped = (s.unpost m).askAgain p line store := s.refuseCopy_of_here line store hp
    refine ⟨?_, ?_, ?_, ?_, by rw [hd]; rfl, by rw [hd]; rfl, by rw [hd, State.askAgain_stash]; rfl⟩
    · rintro rfl hm; exact execHomeReadRequest_of_homeWord hw hm
    · rintro rfl hm; exact execHomeWriteRequest_of_homeWord hw hm
    · rintro rfl hm; exact execLoadReply_of_homeWord hw hm
    · rintro rfl hm; exact execOwnershipReply_of_homeWord hw hm
  · exact ⟨_, execHomeReadRequest_of_elsewhere hw hm haway, s.lineAway_mem m p line clk, s.lineAway_regions m p line clk,
      s.lineAway_net m p line clk⟩
  · exact execHomeReadRequest_of_granted hw hm hhere hp
  · exact execHomeReadRequest_of_leased hw hm hhere hp
  · exact fun howner ho hclk => hasks (execHomeReadRequest_of_recalled hw hm hhere howner ho hclk)
  · cases whole with
    | false => exact ⟨_, _, _, execHomeWriteRequest_of_owned hw hm howner, fun _ => ⟨rfl, rfl, rfl⟩, nofun⟩
    | true => exact ⟨_, _, _, execHomeWriteRequest_of_whole hw hm howner, nofun, fun _ => ⟨rfl, rfl, rfl⟩⟩
  · exact fun howner ho => hasks (execHomeWriteRequest_of_recalled hw hm howner ho)
  · exact fun hnot => harrives (execLoadReply_of_notOwned hw hm hnot)
  · rintro ⟨x, hl, hx⟩
    exact ⟨_, execLoadReply_of_owned hw hm hl hx, by rw [State.setRegion_region], rfl⟩
  · exact harrives (execOwnershipReply_of_arrived hw hm)
  · rintro ⟨x, hl, hx⟩
    exact execRecall_of_owned hm hl hx
  · exact execRecall_of_notOwned hm
  · obtain ⟨a, ha⟩ := execWriteBackAck_performs hm
    obtain ⟨hmem, howner, hwts⟩ := (s.unpost m).performWriteBack_home p l
    exact ⟨_, ha, hmem, howner, hwts, (s.unpost m).performWriteBack_wbOut p l⟩

end Sys2Proof
end

section
/-! SUPPORT and PROOF of O58. A request of the root mailbox that is served does what its words say; invalidations complete, and an ASID is
FREE after them. -/
namespace Sys2Proof.Machine

/-! ### Lookups, lengths and packed words -/

@[simp] theorem State.setAsid_asidOf (s : State) (a : Nat) (e : AsidEntry) : (s.setAsid a e).asidOf a = e := Tbl.look_put_same _ _ _ _

theorem State.setAsid_asidOf_other (s : State) {a b : Nat} (e : AsidEntry) (h : b ≠ a) : (s.setAsid a e).asidOf b = s.asidOf b :=
  Tbl.look_put_other _ _ _ _ _ h

/-- A key that no entry has is set as a further entry. -/
theorem Tbl.length_put_of_fresh {α : Type} {t : Tbl α} {i : Nat} (v : α) (h : ∀ e ∈ t, e.1 ≠ i) : (Tbl.put t i v).length = t.length + 1 := by
  induction t with
  | nil => rfl
  | cons e t ih =>
    obtain ⟨hi, ht⟩ := List.forall_mem_cons.1 h
    obtain ⟨k, w⟩ := e
    by_cases hlt : i < k
    · simp [Tbl.put, hlt]
    · simp [Tbl.put, hlt, Ne.symm hi, ih ht]

/-- The search for the next key never falls below where it stands. -/
theorem Tbl.le_foldl_nextKey {α : Type} (t : Tbl α) (n : Nat) : n ≤ t.foldl (fun n e => if n ≤ e.1 then e.1 + 1 else n) n := by
  induction t generalizing n with
  | nil => exact Nat.le_refl n
  | cons e t ih =>
    have hstep : n ≤ if n ≤ e.1 then e.1 + 1 else n := by split <;> omega
    exact Nat.le_trans hstep (ih _)

theorem Tbl.lt_foldl_nextKey {α : Type} (t : Tbl α) (n : Nat) :
    ∀ e ∈ t, e.1 < t.foldl (fun n e => if n ≤ e.1 then e.1 + 1 else n) n := by
  induction t generalizing n with
  | nil => exact fun _ h => absurd h List.not_mem_nil
  | cons e t ih =>
    have hstep : e.1 < if n ≤ e.1 then e.1 + 1 else n := by split <;> omega
    exact List.forall_mem_cons.2 ⟨Nat.lt_of_lt_of_le hstep (Tbl.le_foldl_nextKey t _), ih _⟩

theorem Tbl.lt_nextKey {α : Type} (t : Tbl α) : ∀ e ∈ t, e.1 < Tbl.nextKey t := Tbl.lt_foldl_nextKey t 0

theorem bit_eq_testBit (n k : Nat) : bit n k = n.testBit k := by
  rw [Nat.testBit_eq_decide_div_mod_eq]; rfl

/-! ### Requests that are served (R453, R454) -/

section
variable {s : State} (hst : s.boot.st = 1) (hb : s.fw.root.busy = false)
include hst hb

theorem State.rootRequest_of_ok (code : Nat) (ws : List DWord) (t : State) :
    s.rootRequest code ws (.ok t) = .next (t.rootDone code ws 0) := by
  simp [State.rootRequest, hst, hb]

theorem State.rootRequest_of_error (code : Nat) (ws : List DWord) (res : Nat) :
    s.rootRequest code ws (.error res) = .next (s.rootDone code ws res) := by
  simp [State.rootRequest, hst, hb]

/-! ### The states of an ASID (R318, R457) -/

section
variable {w1 : DWord} {a : Nat} (ha : a < 2 ^ 16)
include ha

section
variable {w2 : DWord} {root : Nat} (hw1 : w1.toNat = a) (hw2 : w2.toNat = root) (halign : root % 4096 = 0) (hroot : root < 2 ^ 52)
include hw1 hw2 halign hroot

theorem execAsidLive_of_free (h : (s.asidOf a).st = .free) :
    execAsidLive w1 w2 s = .next ((s.setAsid a { root := root, dbg := false, st := .live }).rootDone 0x01 [w1, w2] 0) := by
  rw [← State.rootRequest_of_ok hst hb]
  simp only [execAsidLive, hw1, hw2, Nat.not_le.2 ha, halign, Nat.not_le.2 hroot, h, ne_eq, not_true, or_false, if_false]

theorem execAsidLive_of_notFree (h : (s.asidOf a).st ≠ .free) : execAsidLive w1 w2 s = .next (s.rootDone 0x01 [w1, w2] 1) := by
  rw [← State.rootRequest_of_error hst hb]
  simp only [execAsidLive, hw1, hw2, Nat.not_le.2 ha, halign, Nat.not_le.2 hroot, h, ne_eq, not_true, not_false_eq_true, or_false, if_false, if_true]

end

theorem execAsidRelease_of_live (hw1 : w1.toNat = a) (h : (s.asidOf a).st = .live) :
    execAsidRelease w1 s = .next ((s.setAsid a { s.asidOf a with st := .retiring }).rootDone 0x02 [w1] 0) := by
  rw [← State.rootRequest_of_ok hst hb]
  simp only [execAsidRelease, hw1, Nat.not_le.2 ha, h, ne_eq, not_true, if_false]

theorem execAsidRelease_of_notLive (hw1 : w1.toNat = a) (h : (s.asidOf a).st ≠ .live) :
    execAsidRelease w1 s = .next (s.rootDone 0x02 [w1] 1) := by
  rw [← State.rootRequest_of_error hst hb]
  simp only [execAsidRelease, hw1, Nat.not_le.2 ha, h, ne_eq, not_false_eq_true, if_false, if_true]

theorem execAsidDebug_of_set (hw1 : w1.toNat = a + 2 ^ 16) (h : (s.asidOf a).st = .live) :
    execAsidDebug w1 s = .next ((s.setAsid a { s.asidOf a with dbg := true }).rootDone 0x09 [w1] 0) := by
  have hasid : (a + 2 ^ 16) % 2 ^ 16 = a := by omega
  have hrest : (a + 2 ^ 16) / 2 ^ 17 = 0 := by omega
  have hon : bit (a + 2 ^ 16) 16 = true := beq_iff_eq.2 (by omega)
  rw [← State.rootRequest_of_ok hst hb]
  simp only [execAsidDebug, hw1, hasid, hrest, hon, h, ne_eq, not_true, if_false, if_true]

/-- Where no attachment is under the ASID, clearing DBG ends none. -/
theorem execAsidDebug_of_clear (hw1 : w1.toNat = a) (h : (s.asidOf a).st = .live) (hnone : ∀ y ∈ s.attach, y.2.asid.toNat ≠ a) :
    execAsidDebug w1 s = .next ((s.setAsid a { s.asidOf a with dbg := false }).rootDone 0x09 [w1] 0) := by
  have hrest : a / 2 ^ 17 = 0 := by omega
  have hoff : bit a 16 = false := beq_eq_false_iff_ne.2 (by omega)
  have hnil : (s.attach.filter fun e => e.2.asid.toNat == a) = [] := List.filter_eq_nil_iff.2 fun y hy => by simpa using hnone y hy
  have hattach (e : AsidEntry) : (s.setAsid a e).attach = s.attach := rfl
  rw [← State.rootRequest_of_ok hst hb]
  simp only [execAsidDebug, hw1, Nat.mod_eq_of_lt ha, hrest, hoff, h, hattach, hnil, List.foldl_nil, ne_eq, not_true, if_false, Bool.false_eq_true]

end

/-! ### Tables of root firmware (R108, R170, R398, R424) -/

theorem execGroup_of_root {w1 w2 : DWord} {g base : Nat} (hw1 : w1.toNat = g) (hw2 : w2.toNat = base) (hg : g < 2 ^ 10) (hbase : base < 2 ^ 52) :
    execGroup w1 w2 s =
      let t := (s.rootRead base 128).2
      .next (({ t with well := { t.well with groups := Tbl.put t.well.groups g (BitVec.ofNat 1024 (leValue (s.rootRead base 128).1)) } } :
        State).rootDone 0x04 [w1, w2] 0) := by
  rw [← State.rootRequest_of_ok hst hb]
  simp only [execGroup, hw1, hw2, Nat.not_le.2 hg, Nat.not_le.2 hbase, or_false, if_false]

/-- A request that gives a free channel, or frees an owned one, leaves it empty. -/
theorem execChannel_of_unsubscribed {w1 : DWord} {n d ch : Nat} (hw1 : w1.toNat = n) (hn : n < 2 ^ 27) (hd : n % 4 = d) (hch : fld n 2 8 = ch)
    (hsub : ((s.die d).chan ch).sub = none) (howner : bit n 26 = ((s.die d).chan ch).owner.isSome) :
    execChannel w1 s = .next ((s.setDie d ((s.die d).setChan ch
      { owner := if bit n 26 then none else some (BitVec.ofNat 16 (fld n 10 16)), words := [], sub := none,
        kept := ((s.die d).chan ch).kept })).rootDone 0x05 [w1] 0) := by
  rw [← State.rootRequest_of_ok hst hb]
  simp only [execChannel, hw1, Nat.div_eq_of_lt hn, hd, hch, hsub, howner, bne_self_eq_false, Option.isSome_none, Bool.or_self, Bool.false_eq_true,
    ne_eq, not_true, if_false]

theorem execChannel_of_free {w1 : DWord} {d ch asid : Nat} (hw1 : w1.toNat = d + 4 * ch + 2 ^ 10 * asid) (hd : d < 4) (hch : ch < 2 ^ 8)
    (ha : asid < 2 ^ 16) (hsub : ((s.die d).chan ch).sub = none) (hfree : ((s.die d).chan ch).owner = none) :
    execChannel w1 s = .next ((s.setDie d ((s.die d).setChan ch
      { owner := some (BitVec.ofNat 16 asid), words := [], sub := none, kept := ((s.die d).chan ch).kept })).rootDone 0x05 [w1] 0) := by
  have hgive : bit (d + 4 * ch + 2 ^ 10 * asid) 26 = false := beq_eq_false_iff_ne.2 (by omega)
  have hasid : fld (d + 4 * ch + 2 ^ 10 * asid) 10 16 = asid := by simp only [fld]; omega
  rw [execChannel_of_unsubscribed hst hb hw1 (by omega) (by omega) (by simp only [fld]; omega) hsub (by rw [hgive, hfree]; rfl), hgive, hasid,
    if_neg Bool.false_ne_true]

theorem execChannel_of_owned {w1 : DWord} {d ch : Nat} (hw1 : w1.toNat = d + 4 * ch + 2 ^ 26) (hd : d < 4) (hch : ch < 2 ^ 8)
    (hsub : ((s.die d).chan ch).sub = none) (howned : ((s.die d).chan ch).owner ≠ none) :
    execChannel w1 s = .next ((s.setDie d ((s.die d).setChan ch
      { owner := none, words := [], sub := none, kept := ((s.die d).chan ch).kept })).rootDone 0x05 [w1] 0) := by
  have hfree : bit (d + 4 * ch + 2 ^ 26) 26 = true := beq_iff_eq.2 (by omega)
  rw [execChannel_of_unsubscribed hst hb hw1 (by omega) (by omega) (by simp only [fld]; omega) hsub
    (by rw [hfree, Option.isSome_iff_ne_none.2 howned]), hfree, if_pos rfl]

theorem execQueuePrivilege_of_set {w1 : DWord} {d q : Nat} (hw1 : w1.toNat = d + 4 * q + 2 ^ 7) (hd : d < 4) (hq : q < 32) :
    execQueuePrivilege w1 s =
      .next ((s.setDie d ((s.die d).setQueue q { (s.die d).queue q with priv := true })).rootDone 0x06 [w1] 0) := by
  have hrest : (d + 4 * q + 2 ^ 7) / 2 ^ 8 = 0 := by omega
  have hdie : (d + 4 * q + 2 ^ 7) % 4 = d := by omega
  have hqueue : fld (d + 4 * q + 2 ^ 7) 2 5 = q := by simp only [fld]; omega
  have hpriv : bit (d + 4 * q + 2 ^ 7) 7 = true := beq_iff_eq.2 (by omega)
  rw [← State.rootRequest_of_ok hst hb]
  simp only [execQueuePrivilege, hw1, hrest, hdie, hqueue, hpriv, ne_eq, not_true, if_false]

theorem execSaveArea_of_unused {w1 w2 : DWord} {d k base : Nat} (hw1 : w1.toNat = d + 4 * k) (hw2 : w2.toNat = base) (hd : d < 4) (hk : k ≤ 4096)
    (hbase : base < 2 ^ 52) (halign : base % 2 ^ 21 = 0) (hhere : s.deviceMemory base = true) (hdie : dieOf base = d) (hok : paOk base = true)
    (hunused : (s.die d).slotsUsed = []) :
    execSaveArea w1 w2 s =
      .next (((s.setDie d { s.die d with saveBase := base, saveN := k }).startWaiting d).rootDone 0x07 [w1, w2] 0) := by
  have hrest : (d + 4 * k) / 2 ^ 15 = 0 := by omega
  have hd4 : (d + 4 * k) % 4 = d := by omega
  have hslots : fld (d + 4 * k) 2 13 = k := by simp only [fld]; omega
  rw [← State.rootRequest_of_ok hst hb]
  simp only [execSaveArea, hw1, hw2, hrest, hd4, hslots, Nat.not_lt.2 hk, halign, Nat.not_le.2 hbase, hhere, hdie, hok, hunused, List.isEmpty_nil,
    bne_self_eq_false, Bool.not_true, Bool.or_self, Bool.false_eq_true, ne_eq, not_true, or_false, and_false, if_false]

/-! ### The management image (R451) -/

theorem execManagementImage_of_read {w1 w2 : DWord} {base n : Nat} (hw1 : w1.toNat = base) (hw2 : w2.toNat = n) (hbase : base < 2 ^ 52)
    (hn : n ≤ 2 ^ 26) :
    execManagementImage w1 w2 s =
      let bs := (s.rootRead base n).1
      let t := (s.rootRead base n).2
      .next (if signatureOk bs = true
        then ({ t with fw := { t.fw with image := bs, verified := some (sha512 bs) } } : State).start t.fw.saved
        else s.rootDone 0x08 [w1, w2] 3) := by
  have hserved : (s.fw.root.busy || s.boot.st == 0) = false := by simp [hst, hb]
  have hrange : ¬ (2 ^ 52 ≤ base ∨ 2 ^ 26 < n) := by omega
  simp only [execManagementImage, hserved, hw1, hw2, if_neg hrange, Bool.false_eq_true, if_false]
  cases signatureOk (s.rootRead base n).1 <;> rfl

end

/-! ### Invalidations (R329) -/

@[simp] theorem State.invalidate_fw (s : State) (d : Nat) (asid : BitVec 16) (range : Option (Nat × Nat)) (release : Bool) :
    (s.invalidate d asid range release).fw = s.fw := rfl

/-- An invalidation that begins stands beside those under way. -/
theorem State.invalidate_invals_length (s : State) (d : Nat) (asid : BitVec 16) (range : Option (Nat × Nat)) (release : Bool) :
    (s.invalidate d asid range release).invals.length = s.invals.length + 1 :=
  Tbl.length_put_of_fresh _ fun e he => Nat.ne_of_lt (Tbl.lt_nextKey s.invals e he)

/-- One invalidation begins on each die of a list. -/
theorem State.foldl_invalidate_begins (asid : BitVec 16) (range : Option (Nat × Nat)) (release : Bool) (ds : List Nat) (s : State) :
    let t := ds.foldl (fun s d => s.invalidate d asid range release) s
    t.mem = s.mem ∧ t.invals.length = s.invals.length + ds.length := by
  induction ds generalizing s with
  | nil => exact ⟨rfl, rfl⟩
  | cons d ds ih =>
    obtain ⟨hmem, hlen⟩ := ih (s.invalidate d asid range release)
    refine ⟨hmem.trans (State.invalidate_mem ..), hlen.trans ?_⟩
    rw [State.invalidate_invals_length, List.length_cons, Nat.add_assoc, Nat.add_comm 1]

/-- The dies of the mask of an INVALIDATE request. -/
def invalidatedDies (n : Nat) : List Nat := (List.range 4).filter fun d => n.testBit (16 + d)

theorem isEmpty_invalidatedDies (n : Nat) : (!(invalidatedDies n).isEmpty) = (List.range 4).any fun d => n.testBit (16 + d) := by
  rw [invalidatedDies, Bool.eq_iff_iff, List.any_eq_true]
  simp

/-- INVALIDATE is busy with the invalidations that it begins, and RES stands until they have completed. -/
theorem execInvalidate_begins {s : State} {w1 w2 : DWord} {n base : Nat} (hst : s.boot.st = 1) (hb : s.fw.root.busy = false) (hw1 : w1.toNat = n)
    (hw2 : w2.toNat = base) (hn : n < 2 ^ 27) (hbase : base < 2 ^ 57) :
    ∃ t, execInvalidate w1 w2 s = .next t ∧ t.fw.root.busy = (!(invalidatedDies n).isEmpty) ∧ t.mem = s.mem ∧
      (t.fw.root.busy = true → t.fw.root.res = s.fw.root.res) ∧ t.invals.length = s.invals.length + (invalidatedDies n).length := by
  have hserved : (s.fw.root.busy || s.boot.st != 1) = false := by simp [hst, hb]
  have hok : ¬ (n / 2 ^ 27 ≠ 0 ∨ vaTop ≤ base) := by simp only [vaTop]; omega
  have hdies : ((List.range 4).filter fun d => bit n (16 + d)) = invalidatedDies n := by simp only [bit_eq_testBit, invalidatedDies]
  simp only [execInvalidate, hserved, hw1, hw2, if_neg hok, hdies, Bool.false_eq_true, if_false]
  obtain ⟨hmem, hlen⟩ := State.foldl_invalidate_begins (BitVec.ofNat 16 n) (if bit n 20 then none else some (base, 2 ^ (fld n 21 6 + 12))) false
    (invalidatedDies n) s
  refine ⟨_, rfl, rfl, hmem, fun hbusy => ?_, hlen⟩
  exact if_neg (by simpa using hbusy)

section
variable {s : State} {j : Nat} {x : Invalidation} (hx : Tbl.find s.invals j = some x) (hdone : x.done = false)
  (hperformed : s.translatedPending x = false)
include hx hdone hperformed

/-- The copies of its pages are written back and dropped first. -/
theorem execInvalidationComplete_of_holding (hheld : s.holding x ≠ []) :
    execInvalidationComplete j s = .next ((s.holding x).foldl (fun s e => s.dropPages x e.1) s) := by
  simp [execInvalidationComplete, hx, hdone, hperformed, hheld]

section
variable (hheld : s.holding x = []) (hhome : s.writingBack x = false)
include hheld hhome

theorem execInvalidationComplete_of_whole (hwhole : x.whole = true) :
    execInvalidationComplete j s = .next { s with invals := Tbl.put s.invals j { x with done := true } } := by
  simp [execInvalidationComplete, hx, hdone, hperformed, hheld, hhome, hwhole]

theorem execInvalidationComplete_of_others (hwhole : x.whole = false) (hothers : ((Tbl.drop s.invals j).any fun e => !e.2.whole) = true) :
    execInvalidationComplete j s = .next { s with invals := Tbl.drop s.invals j } := by
  simp only [execInvalidationComplete, hx, hdone, hperformed, hheld, hhome, hwhole, hothers, List.isEmpty_nil, Bool.or_self, Bool.not_true,
    Bool.false_eq_true, if_false, if_true]

/-- With the last invalidation of the request that is served, RES is written. -/
theorem execInvalidationComplete_of_last (hwhole : x.whole = false) (hlast : ((Tbl.drop s.invals j).any fun e => !e.2.whole) = false)
    (hbusy : s.fw.root.busy = true) :
    execInvalidationComplete j s =
      .next { s with invals := Tbl.drop s.invals j, fw := { s.fw with root := { s.fw.root with busy := false, res := 0 } } } := by
  simp only [execInvalidationComplete, hx, hdone, hperformed, hheld, hhome, hwhole, hlast, hbusy, List.isEmpty_nil, Bool.or_self, Bool.not_true,
    Bool.false_eq_true, if_false, if_true]

end

end

/-! ### An ASID of which nothing remains (R318) -/

/-- A RETIRING ASID is FREE once its own invalidations, which have begun, have completed. -/
theorem execAsidFree_of_completed {s : State} {a : Nat} (hst : (s.asidOf a).st = .retiring) (hgone : s.asidRemains (BitVec.ofNat 16 a) = false)
    (hbegun : ∃ y ∈ s.invals, y.2.whole = true ∧ y.2.asid = BitVec.ofNat 16 a)
    (hdone : ∀ y ∈ s.invals, y.2.whole = true → y.2.asid = BitVec.ofNat 16 a → y.2.done = true) :
    execAsidFree a s = .next (({ s with invals := s.invals.filter fun e => !(e.2.whole && e.2.asid == BitVec.ofNat 16 a) } : State).setAsid a
      { s.asidOf a with dbg := false, st := .free }) := by
  have hany : (s.invals.any fun e => e.2.whole && e.2.asid == BitVec.ofNat 16 a) = true := by
    simpa only [List.any_eq_true, Bool.and_eq_true, beq_iff_eq] using hbegun
  have hnone : (s.invals.any fun e => e.2.whole && e.2.asid == BitVec.ofNat 16 a && !e.2.done) = false := by
    refine List.any_eq_false.2 fun y hy => ?_
    simpa using hdone y hy
  simp only [execAsidFree, hst, hgone, hany, hnone, ne_eq, not_true, decide_false, Bool.or_self, Bool.not_true, Bool.false_eq_true, if_false]

end Sys2Proof.Machine

namespace Sys2Proof

open Machine in
/-- Settles O58: each request by what its words hold, and each way in which an invalidation goes on. -/
theorem mailboxRequests : Obligations.MailboxRequests := by
  unfold Obligations.MailboxRequests
  have hw {k : Nat} (h : k < 2 ^ 64) : (BitVec.ofNat 64 k).toNat = k := by rw [BitVec.toNat_ofNat, Nat.mod_eq_of_lt h]
  refine ⟨fun s a root n j x => ⟨fun hst hb ha => ⟨?live, ?notFree, ?release, ?notLive, ?debug, ?noDebug⟩, ?invalidate, ?free, ?complete⟩,
    fun s g base n d ch q k asid hst hb hbase hd => ⟨?group, ?channel, ?privilege, ?save, ?image⟩⟩
  case live => exact fun h hal hr => execAsidLive_of_free hst hb ha (hw (by omega)) (hw (by omega)) hal hr h
  case notFree => exact fun h hal hr => execAsidLive_of_notFree hst hb ha (hw (by omega)) (hw (by omega)) hal hr h
  case release => exact execAsidRelease_of_live hst hb ha (hw (by omega))
  case notLive => exact execAsidRelease_of_notLive hst hb ha (hw (by omega))
  case debug => exact execAsidDebug_of_set hst hb ha (hw (by omega))
  case noDebug => exact execAsidDebug_of_clear hst hb ha (hw (by omega))
  case invalidate =>
    intro hst hb hn hr
    rw [← isEmpty_invalidatedDies]
    exact execInvalidate_begins hst hb (hw (by omega)) (hw (by omega)) hn hr
  case free =>
    intro _ hst hgone hbegun hdone
    refine ⟨_, execAsidFree_of_completed hst hgone hbegun hdone, ?_, ?_, fun b hba => State.setAsid_asidOf_other _ _ hba⟩ <;>
      rw [State.setAsid_asidOf]
  case complete =>
    exact fun hx hdone hperf => ⟨execInvalidationComplete_of_holding hx hdone hperf, fun hheld hhome =>
      ⟨execInvalidationComplete_of_whole hx hdone hperf hheld hhome, fun hwhole =>
        ⟨execInvalidationComplete_of_others hx hdone hperf hheld hhome hwhole, execInvalidationComplete_of_last hx hdone hperf hheld hhome hwhole⟩⟩⟩
  case group => exact fun hg => execGroup_of_root hst hb (hw (by omega)) (hw (by omega)) hg hbase
  case channel =>
    exact fun hch ha hsub => ⟨execChannel_of_free hst hb (hw (by omega)) hd hch ha hsub, execChannel_of_owned hst hb (hw (by omega)) hd hch hsub⟩
  case privilege => exact fun hq => execQueuePrivilege_of_set hst hb (hw (by omega)) hd hq
  case save => exact fun hk => execSaveArea_of_unused hst hb (hw (by omega)) (hw (by omega)) hd hk hbase
  case image => exact fun hn => execManagementImage_of_read hst hb (hw (by omega)) (hw (by omega)) hbase hn

end Sys2Proof
end

section
/-! SUPPORT and PROOF of O53. Each event of the gauges by its equation where its guard holds: a train at an adder node, the ends of the
windows, a train at home, the last marker of a seal, a generation word at its region. Of a train at home: which words of the live half
each of its counts raises. -/
namespace Sys2Proof.Machine

/-! ### A train at an adder node (R344) -/

section
variable {s : State} {m p k u id g : Nat} {ws ws0 : List Nat} {nd : RillNode}
  (hm : s.ready m = some (.train (some (p, k)) u id g ws)) (hnode : Tbl.find (s.region p).rill k = some nd)
include hm hnode

theorem execRillNodeTakeTrain_of_empty (hempty : nd.train = none) :
    execRillNodeTakeTrain m s = .next ((s.unpost m).setRegion p { s.region p with
      rill := Tbl.put (s.region p).rill k { nd with train := some (g, ws), expiry := s.tide + cycles nd.grec.wait } }) := by
  simp only [execRillNodeTakeTrain, hm, State.unpost_region, State.unpost_tide, hnode, hempty]

theorem execRillNodeTakeTrain_of_same (hheld : nd.train = some (g, ws0)) :
    execRillNodeTakeTrain m s = .next ((s.unpost m).setRegion p { s.region p with
      rill := Tbl.put (s.region p).rill k { nd with train := some (g, mergeTrains ws0 ws) } }) := by
  simp only [execRillNodeTakeTrain, hm, State.unpost_region, hnode, hheld, if_true]

theorem execRillNodeTakeTrain_of_other {g2 : Nat} (hheld : nd.train = some (g2, ws0)) (hother : g2 ≠ g) :
    execRillNodeTakeTrain m s =
      let s1 := (s.unpost m).nodeFlush p k
      .next (s1.setRegion p { s1.region p with
        rill := Tbl.put (s1.region p).rill k { nd with train := some (g, ws), expiry := s1.tide + cycles nd.grec.wait } }) := by
  simp only [execRillNodeTakeTrain, hm, State.unpost_region, hnode, hheld, hother, if_false]

end

/-! ### The ends of the windows (R344) -/

/-- A node that holds a train of a record of its image passes it to the root of its die. -/
theorem State.nodeFlush_of_held {s : State} {p k id g : Nat} {ws : List Nat} {nd : RillNode}
    (hnode : Tbl.find (s.region p).rill k = some nd) (hheld : nd.train = some (g, ws)) (hrec : s.recordOf p nd.grec.decl = some id) :
    s.nodeFlush p k = (s.setRegion p { s.region p with
      rill := Tbl.put (s.region p).rill k { nd with train := none } }).rootTake (dieOfPlace p) id g ws := by
  simp only [State.nodeFlush, hnode, hheld, hrec]

theorem execRillWindowExpiry_of_over {s : State} {p k : Nat} {nd : RillNode} (hnode : Tbl.find (s.region p).rill k = some nd)
    (hheld : nd.train.isSome = true) (hover : nd.expiry ≤ s.tide) : execRillWindowExpiry p k s = .next (s.nodeFlush p k) := by
  simp only [execRillWindowExpiry, hnode, hheld, hover, decide_true, Bool.and_self, if_true]

theorem execRillRootWindowExpiry_of_over {s : State} {d j : Nat} {t : RootTrain} (ht : (s.die d).rillRoot[j]? = some t)
    (hover : t.expiry ≤ s.tide) :
    execRillRootWindowExpiry d j s = .next ((s.setDie d { s.die d with rillRoot := removeAt (s.die d).rillRoot j }).post (keyRoot d)
      (.train none 0 t.id t.gen8 t.words)) := by
  simp only [execRillRootWindowExpiry, ht, hover, if_true]

/-! ### The words of a live half that a train raises (R339, R345) -/

@[simp] theorem halfWords_length (h : List Nat) : (halfWords h).length = 40 := by simp [halfWords]

/-- A half with word i raised by k, saturating. -/
def raised (h : List Nat) (i k : Nat) : List Nat := h.set i (satAdd32 (h.getD i 0) k)

@[simp] theorem raised_length (h : List Nat) (i k : Nat) : (raised h i k).length = h.length := List.length_set

theorem raised_getD_same {h : List Nat} {i : Nat} (hi : i < h.length) (k : Nat) :
    (raised h i k).getD i 0 = satAdd32 (h.getD i 0) k := by
  simp [raised, List.getD_eq_getElem?_getD, hi]

theorem raised_getD_other (h : List Nat) {i j : Nat} (hij : i ≠ j) (k : Nat) : (raised h i k).getD j 0 = h.getD j 0 := by
  simp [raised, List.getD_eq_getElem?_getD, List.getElem?_set_ne hij]

/-- A half with its first n words raised by those of a train. -/
def raisedBelow (n : Nat) (h ws : List Nat) : List Nat := (List.range n).foldl (fun h i => raised h i (ws.getD i 0)) h

theorem raisedBelow_succ (n : Nat) (h ws : List Nat) : raisedBelow (n + 1) h ws = raised (raisedBelow n h ws) n (ws.getD n 0) := by
  simp only [raisedBelow, List.range_succ, List.foldl_append, List.foldl_cons, List.foldl_nil]

@[simp] theorem raisedBelow_length (n : Nat) (h ws : List Nat) : (raisedBelow n h ws).length = h.length := by
  induction n with
  | zero => rfl
  | succ n ih => rw [raisedBelow_succ, raised_length, ih]

theorem raisedBelow_getD_ge {n j : Nat} (h ws : List Nat) (hj : n ≤ j) : (raisedBelow n h ws).getD j 0 = h.getD j 0 := by
  induction n with
  | zero => rfl
  | succ n ih => rw [raisedBelow_succ, raised_getD_other _ (by omega), ih (by omega)]

theorem raisedBelow_getD_lt {n i : Nat} {h : List Nat} (ws : List Nat) (hn : n ≤ h.length) (hi : i < n) :
    (raisedBelow n h ws).getD i 0 = satAdd32 (h.getD i 0) (ws.getD i 0) := by
  induction n with
  | zero => omega
  | succ n ih =>
    rw [raisedBelow_succ]
    by_cases hin : i = n
    · subst hin
      rw [raised_getD_same (by rw [raisedBelow_length]; omega), raisedBelow_getD_ge h ws (Nat.le_refl i)]
    · rw [raised_getD_other _ (Ne.symm hin), ih (by omega) (by omega)]

/-- A half with the bins, MAXM, NELEM, NZERO, NSAT and NNF of a train added: what every train adds, of whatever generation. -/
def histogramAdded (h ws : List Nat) : List Nat :=
  let h1 := raisedBelow 32 h ws
  let h2 := h1.set 32 (if h1.getD 32 0 < ws.getD 32 0 then ws.getD 32 0 else h1.getD 32 0)
  raised (raised (raised (raised h2 34 (ws.getD 33 0)) 35 (ws.getD 34 0)) 36 (ws.getD 35 0)) 33
    ((List.range 32).foldl (fun n i => n + ws.getD i 0) (ws.getD 33 0 + ws.getD 35 0))

@[simp] theorem histogramAdded_length (h ws : List Nat) : (histogramAdded h ws).length = h.length := by
  simp only [histogramAdded, raised_length, List.length_set, raisedBelow_length]

/-- Outside words 32 to 36 only the bins are raised. -/
theorem histogramAdded_getD (h ws : List Nat) {j : Nat} (hj : j < 32 ∨ 36 < j) :
    (histogramAdded h ws).getD j 0 = (raisedBelow 32 h ws).getD j 0 := by
  rw [histogramAdded, raised_getD_other _ (by omega), raised_getD_other _ (by omega), raised_getD_other _ (by omega),
    raised_getD_other _ (by omega), List.getD_eq_getElem?_getD, List.getElem?_set_ne (by omega), List.getD_eq_getElem?_getD]

theorem histogramAdded_bin (h ws : List Nat) {i : Nat} (hi : i < 32) :
    (histogramAdded (halfWords h) ws).getD i 0 = satAdd32 ((halfWords h).getD i 0) (ws.getD i 0) := by
  rw [histogramAdded_getD _ _ (.inl hi), raisedBelow_getD_lt ws (by rw [halfWords_length]; decide) hi]

/-- LATE and GSAT are not part of a histogram. -/
theorem histogramAdded_getD_gt (h ws : List Nat) {j : Nat} (hj : 36 < j) : (histogramAdded h ws).getD j 0 = h.getD j 0 := by
  rw [histogramAdded_getD _ _ (.inr hj), raisedBelow_getD_ge _ _ (by omega)]

/-- A further word raised, LATE or GSAT, leaves the bins as the train has raised them. -/
theorem raised_histogramAdded_bin (h ws : List Nat) {i j : Nat} (k : Nat) (hi : i < 32) (hj : 32 ≤ j) :
    (raised (histogramAdded (halfWords h) ws) j k).getD i 0 = satAdd32 ((halfWords h).getD i 0) (ws.getD i 0) := by
  rw [raised_getD_other _ (by omega), histogramAdded_bin h ws hi]

theorem raised_histogramAdded_same (h ws : List Nat) {j : Nat} (k : Nat) (hgt : 36 < j) (hlt : j < 40) :
    (raised (histogramAdded (halfWords h) ws) j k).getD j 0 = satAdd32 ((halfWords h).getD j 0) k := by
  rw [raised_getD_same (by rw [histogramAdded_length, halfWords_length]; exact hlt), histogramAdded_getD_gt _ _ hgt]

/-! ### A train at home (R345, R351) -/

/-- Messages of one source that are sent one after another stand at the end of what is in flight, in their order. -/
theorem State.foldl_post (src : Option Nat) (body : Nat → Body) (qs : List Nat) (s : State) :
    qs.foldl (fun s q => s.post src (body q)) s = { s with net := s.net ++ qs.map fun q => { src := src, body := body q } } := by
  induction qs generalizing s with
  | nil => simp only [List.foldl_nil, List.map_nil, List.append_nil]
  | cons q qs ih =>
    rw [List.foldl_cons, ih]
    simp only [State.post, List.map_cons, List.append_assoc, List.singleton_append]

theorem State.foldl_post_record (src : Option Nat) (body : Nat → Body) (qs : List Nat) (s : State) (id : Nat) :
    (qs.foldl (fun s q => s.post src (body q)) s).record id = s.record id := by
  rw [State.foldl_post]; rfl

theorem State.mem_foldl_post_net (src : Option Nat) (body : Nat → Body) {qs : List Nat} (s : State) {q : Nat} (hq : q ∈ qs) :
    ∃ x ∈ (qs.foldl (fun s q => s.post src (body q)) s).net, x.body = body q := by
  rw [State.foldl_post]
  exact ⟨_, List.mem_append_right _ (List.mem_map_of_mem hq), rfl⟩

/-- The live half of a record that a train of another generation has reached. -/
def GaugeRec.countedLate (r : GaugeRec) (ws : List Nat) : List Nat := raised (histogramAdded (halfWords r.live) ws) 37 1

theorem GaugeRec.countedLate_bin (r : GaugeRec) (ws : List Nat) {i : Nat} (hi : i < 32) :
    (r.countedLate ws).getD i 0 = satAdd32 ((halfWords r.live).getD i 0) (ws.getD i 0) :=
  raised_histogramAdded_bin _ ws _ hi (by decide)

theorem GaugeRec.countedLate_late (r : GaugeRec) (ws : List Nat) :
    (r.countedLate ws).getD 37 0 = satAdd32 ((halfWords r.live).getD 37 0) 1 :=
  raised_histogramAdded_same _ ws _ (by decide) (by decide)

/-- The live half of a record that a train of the record's own generation has reached. -/
def GaugeRec.counted (r : GaugeRec) (ws : List Nat) : List Nat := raised (histogramAdded (halfWords r.live) ws) 38 (ws.getD 34 0)

theorem GaugeRec.counted_bin (r : GaugeRec) (ws : List Nat) {i : Nat} (hi : i < 32) :
    (r.counted ws).getD i 0 = satAdd32 ((halfWords r.live).getD i 0) (ws.getD i 0) :=
  raised_histogramAdded_bin _ ws _ hi (by decide)

theorem GaugeRec.counted_late (r : GaugeRec) (ws : List Nat) : (r.counted ws).getD 37 0 = (halfWords r.live).getD 37 0 := by
  rw [GaugeRec.counted, raised_getD_other _ (by decide), histogramAdded_getD_gt _ _ (by decide)]

theorem GaugeRec.counted_gsat (r : GaugeRec) (ws : List Nat) :
    (r.counted ws).getD 38 0 = satAdd32 ((halfWords r.live).getD 38 0) (ws.getD 34 0) :=
  raised_histogramAdded_same _ ws _ (by decide) (by decide)

/-- Whether a train of the record's own generation brings GSAT to a SATTH that is set, from below it (R345). -/
@[reducible] def GaugeRec.Crosses (r : GaugeRec) (ws : List Nat) : Prop :=
  r.satth.toNat ≠ 0 ∧ (histogramAdded (halfWords r.live) ws).getD 38 0 < r.satth.toNat ∧ r.satth.toNat ≤ (r.counted ws).getD 38 0

/-- A histogram leaves GSAT, so that it is the record's own GSAT that was below. -/
theorem GaugeRec.crosses_iff (r : GaugeRec) (ws : List Nat) :
    r.Crosses ws ↔ r.satth ≠ 0 ∧ (halfWords r.live).getD 38 0 < r.satth.toNat ∧
      r.satth.toNat ≤ satAdd32 ((halfWords r.live).getD 38 0) (ws.getD 34 0) := by
  rw [GaugeRec.Crosses, histogramAdded_getD_gt _ _ (by decide), GaugeRec.counted_gsat]
  exact and_congr_left fun _ => not_congr (BitVec.toNat_eq (y := 0)).symm

section
variable {s : State} {m u id g8 : Nat} {ws : List Nat} (hm : s.ready m = some (.train none u id g8 ws))
  (hclean : (s.record id).psn = false) (halloc : (s.record id).alloc = true)
include hm hclean halloc

theorem execTrainApply_of_late (hgen : (s.record id).gen.toNat % 256 ≠ g8) :
    execTrainApply m s = .next ((s.unpost m).setRecord id { s.record id with live := (s.record id).countedLate ws }) := by
  simp only [execTrainApply, hm, State.unpost_record, hclean, halloc, hgen, Bool.not_true, Bool.or_self, Bool.false_eq_true, if_false,
    ne_eq, not_false_eq_true, if_true]
  rfl

variable (hgen : (s.record id).gen.toNat % 256 = g8)
include hgen

/-- A train of the record's own generation counts its saturations too; with a crossing the record is marked, is sealed under AUTOSEAL, and
every copy is told. -/
theorem execTrainApply_of_own :
    let s1 := (s.unpost m).setRecord id { s.record id with
      live := (s.record id).counted ws, rsc := (s.record id).rsc || decide ((s.record id).Crosses ws) }
    let s2 := if (s.record id).autoSeal then s1.sealNow id none else s1
    execTrainApply m s = if (s.record id).Crosses ws then
        .next ((s2.copyHolders (s.record id).image).foldl (fun s q => s.post none (.rescale q id)) s2)
      else .next s1 := by
  simp only [execTrainApply, hm, State.unpost_record, hclean, halloc, hgen, Bool.not_true, Bool.or_self, Bool.false_eq_true, if_false,
    ne_eq, not_true]
  rfl

theorem execTrainApply_of_below (hbelow : ¬ (s.record id).Crosses ws) :
    execTrainApply m s = .next ((s.unpost m).setRecord id { s.record id with live := (s.record id).counted ws }) := by
  rw [execTrainApply_of_own hm hclean halloc hgen, if_neg hbelow, decide_eq_false hbelow, Bool.or_false]

theorem execTrainApply_of_crossing (hcross : (s.record id).Crosses ws) (hauto : (s.record id).autoSeal = false) :
    execTrainApply m s = .next ((s.copyHolders (s.record id).image).foldl (fun s q => s.post none (.rescale q id))
      ((s.unpost m).setRecord id { s.record id with live := (s.record id).counted ws, rsc := true })) := by
  rw [execTrainApply_of_own hm hclean halloc hgen, if_pos hcross, decide_eq_true hcross, Bool.or_true, hauto]
  rfl

end

/-! ### The last marker of a seal, and generation words (R346, R347) -/

theorem execSealAction_of_lastMarker {s : State} {m w : Nat} {op : SealOp} (hm : s.ready m = some (.sealMark none w))
    (hop : Tbl.find s.seals (w / 2 ^ 40) = some op) (hlast : op.marks.filter (· != w % 2 ^ 40) = []) (hclean : (s.record op.id).psn = false) :
    execSealAction m s = .next ((({ s.unpost m with seals := Tbl.put s.seals (w / 2 ^ 40) { op with marks := [] } } : State).sealNow op.id
      (some (w / 2 ^ 40))).sealAnswer (w / 2 ^ 40)) := by
  have hclean' : (({ s.unpost m with seals := Tbl.put s.seals (w / 2 ^ 40) { op with marks := [] } } : State).record op.id).psn = false := hclean
  simp only [execSealAction, hm, State.unpost_seals, hop, hlast, hclean', List.isEmpty_nil, Bool.not_true, Bool.false_eq_true, if_false]

section
variable {s : State} {m p id : Nat} {gen : Word} {sc : BitVec 8} {c : GenCopy} (hm : s.ready m = some (.genWord p id gen sc none))
  (hcopy : Tbl.find (s.region p).gens id = some c)
include hm hcopy

theorem execGenerationWordArrive_of_newer (hnew : (gen - c.gen).toNat < 2 ^ 31) :
    execGenerationWordArrive m s = .next ((s.unpost m).setRegion p { s.region p with
      gens := Tbl.put (s.region p).gens id { gen := gen, scale := sc } }) := by
  simp only [execGenerationWordArrive, hm, State.unpost_region, hcopy, hnew, decide_true, if_true]

theorem execGenerationWordArrive_of_older (hold : 2 ^ 31 ≤ (gen - c.gen).toNat) :
    execGenerationWordArrive m s = .next (s.unpost m) := by
  simp only [execGenerationWordArrive, hm, State.unpost_region, hcopy, Nat.not_lt.2 hold, decide_false, Bool.false_eq_true, if_false]

end

end Sys2Proof.Machine

namespace Sys2Proof

open Machine in
/-- Settles O53, by the equation of each event. -/
theorem gaugeEvents : Obligations.GaugeEvents := by
  unfold Obligations.GaugeEvents
  intro s m p k u id g g2 d j w1 ws ws0 nd t op gen sc c s0 r
  refine ⟨fun hm hnode => ⟨?empty, ?same, ?other⟩, ?window, ?root, fun hm hclean halloc => ⟨?late, ?below, ?crossing⟩, ?sealed,
    fun hm hcopy => ⟨?newer, ?older⟩⟩
  case empty => exact execRillNodeTakeTrain_of_empty hm hnode
  case same => exact execRillNodeTakeTrain_of_same hm hnode
  case other => exact execRillNodeTakeTrain_of_other hm hnode
  case window =>
    intro hnode hheld hover hrec
    rw [← State.nodeFlush_of_held hnode hheld hrec]
    exact execRillWindowExpiry_of_over hnode (by rw [hheld]; rfl) hover
  case root => exact execRillRootWindowExpiry_of_over
  case late =>
    intro hgen
    refine ⟨_, execTrainApply_of_late hm hclean halloc hgen, rfl, ?_⟩
    simp only [State.setRecord_record, and_true]
    exact ⟨fun i hi => GaugeRec.countedLate_bin _ ws hi, GaugeRec.countedLate_late _ ws⟩
  case below =>
    intro hgen hzero
    have hbelow : ¬ (s.record id).Crosses ws := fun hcross => ((GaugeRec.crosses_iff _ _).1 hcross).1 hzero
    refine ⟨_, execTrainApply_of_below hm hclean halloc hgen hbelow, rfl, ?_⟩
    simp only [State.setRecord_record, true_and, and_true]
    exact ⟨fun i hi => GaugeRec.counted_bin _ ws hi, GaugeRec.counted_late _ ws, GaugeRec.counted_gsat _ ws⟩
  case crossing =>
    intro hgen hauto hset hbefore hafter
    have hcross : (s.record id).Crosses ws := (GaugeRec.crosses_iff _ _).2 ⟨hset, hbefore, hafter⟩
    refine ⟨_, execTrainApply_of_crossing hm hclean halloc hgen hcross hauto, ?_, fun q hq => State.mem_foldl_post_net _ _ _ hq⟩
    rw [State.foldl_post_record, State.setRecord_record]
  case sealed => exact execSealAction_of_lastMarker
  case newer =>
    intro hnew
    refine ⟨_, execGenerationWordArrive_of_newer hm hcopy hnew, ?_, fun q hq => State.setRegion_region_other _ _ _ _ hq, rfl⟩
    rw [State.setRegion_region]
    exact Tbl.look_put_same _ _ _ _
  case older => exact execGenerationWordArrive_of_older hm hcopy

end Sys2Proof
end

section
/-! SUPPORT and PROOF of O45. A contribution to a lane of a declared instance: the failure that it brings, what it makes of the lane, and
what the home counts. -/
namespace Sys2Proof.Machine

/-! ### Basins (R356) -/

theorem State.key_of_basin {s : State} {key : PoolKey} {b : HomeBasin} (hb : s.basin key = some b) : b.key = key := by
  have h := List.find?_some hb
  exact eq_of_beq h

theorem State.setBasin_basin (s : State) {b : HomeBasin} {key : PoolKey} (hkey : b.key = key) : (s.setBasin b).basin key = some b := by
  simp [State.setBasin, State.basin, hkey]

/-- Without a debugger's attachment a fold logs nothing. -/
theorem State.traceFold_of_notAttached {s : State} (h : s.attach = []) (key : PoolKey) (slot : Nat) (v : BitVec 64) (n : Nat) :
    s.traceFold key slot v n = s := by
  simp only [State.traceFold, State.traceFor, h, List.foldl_nil]

/-! ### What a contribution makes of its lane (R360 to R362, R368, R377) -/

/-- The failure with which a contribution comes: its own, or that its type is not the declared one. -/
def contributionFailure (declared : PoolType) : Option Nat → Option PoolType → Option Nat
  | some c, _ => some c
  | none, some t => if t == declared then none else some 1
  | none, none => none

theorem contributionFailure_of_ok {declared : PoolType} {bad : Option Nat} {ty : Option PoolType}
    (h : bad = none ∧ ∀ y, ty = some y → y = declared) : contributionFailure declared bad ty = none := by
  obtain ⟨rfl, hty⟩ := h
  cases ty with
  | none => rfl
  | some y => simp only [contributionFailure, hty y rfl, beq_self_eq_true, if_true]

theorem contributionFailure_of_failed {declared : PoolType} {bad : Option Nat} {ty : Option PoolType}
    (h : ¬ (bad = none ∧ ∀ y, ty = some y → y = declared)) : contributionFailure declared bad ty = some (bad.getD 1) := by
  match bad, ty with
  | some c, _ => rfl
  | none, none => exact absurd ⟨rfl, nofun⟩ h
  | none, some y =>
    have hy : y ≠ declared := fun hy => h ⟨rfl, fun z hz => by rw [← hy, Option.some.inj hz]⟩
    simp only [contributionFailure, beq_iff_eq, hy, if_false, Option.getD_none]

/-- A lane after a contribution of the value `x`, or of a failure, with the flags of the fold; its count apart. -/
def Lane.contributed (l : Lane) (d : PoolDecl) (x : BitVec 64) : Option Nat → Lane × Flags
  | some c => (l.poisonWith c, 0)
  | none =>
    if l.p then (l, 0)
    else if !l.v then ({ l with v := true, value := x }, 0)
    else let t := poolApply d.ty d.op l.value x; ({ l with value := t.1 }, t.2)

theorem Lane.contributed_keeps (l : Lane) (d : PoolDecl) (x : BitVec 64) (cause : Option Nat) :
    (l.contributed d x cause).1.slot = l.slot ∧ (l.contributed d x cause).1.n = l.n := by
  cases cause with
  | some c => simp only [Lane.contributed, Lane.poisonWith]; split <;> exact ⟨rfl, rfl⟩
  | none =>
    simp only [Lane.contributed]
    split
    · exact ⟨rfl, rfl⟩
    · split <;> exact ⟨rfl, rfl⟩

theorem Lane.contributed_value (l : Lane) (d : PoolDecl) (x : BitVec 64) :
    let l2 := (l.contributed d x none).1
    l2.p = l.p ∧ l2.cause = l.cause ∧ (l.p = true → l2.value = l.value ∧ l2.v = l.v) ∧
      (l.p = false → l2.v = true ∧ l2.value = if l.v then (poolApply d.ty d.op l.value x).1 else x) := by
  cases hp : l.p <;> cases hv : l.v <;> simp [Lane.contributed, hp, hv]

theorem Lane.contributed_failure (l : Lane) (d : PoolDecl) (x : BitVec 64) (c : Nat) :
    let l2 := (l.contributed d x (some c)).1
    l2.p = true ∧ l2.value = l.value ∧ l2.v = l.v ∧ l2.cause = if l.p then l.cause else c := by
  cases hp : l.p <;> simp [Lane.contributed, Lane.poisonWith, hp]

theorem satAddOne_eq_min (n : Nat) : satAddOne n = min (n + 1) (2 ^ 32 - 1) := by
  unfold satAddOne; split <;> omega

/-- The lane that a contribution of a single value leaves. -/
def State.foldedLane (s : State) (b : HomeBasin) (key : PoolKey) (slot : Nat) (v : BitVec 64) (bad : Option Nat) (ty : Option PoolType) :
    Lane × Flags :=
  (s.lane key slot).contributed b.decl (BitVec.ofNat 64 (v.toNat % 2 ^ poolWidth b.decl.ty)) (contributionFailure b.decl.ty bad ty)

/-- At a declared instance a contribution sets its lane; the home counts it, here or by a message (R366, R378). -/
theorem State.fold_of_basin {s : State} {key : PoolKey} {b : HomeBasin} (hb : s.basin key = some b) (slot : Nat) (v : BitVec 64)
    (clk : DWord) (bad : Option Nat) (ty : Option PoolType) :
    s.fold key slot v clk bad false ty =
      let x := s.foldedLane b key slot v bad ty
      let s0 := s.setLane { x.1 with n := satAddOne x.1.n }
      (if s.homeHere key then s0.setBasin { b with arr := b.arr + 1, flags := b.flags ||| x.2, clk := maxClk b.clk clk }
        else s0.emitTo (s.homePkg key) 3 (.contribution key x.2 clk)).traceFold key slot v (satAddOne x.1.n) := by
  simp only [State.fold, hb]
  rfl

theorem State.fold_of_home {s : State} {key : PoolKey} {b : HomeBasin} (hb : s.basin key = some b) (hnoAttach : s.attach = [])
    (hhere : s.homeHere key = true) (slot : Nat) (v : BitVec 64) (clk : DWord) (bad : Option Nat) (ty : Option PoolType) :
    let x := s.foldedLane b key slot v bad ty
    s.fold key slot v clk bad false ty = (s.setLane { x.1 with n := satAddOne x.1.n }).setBasin
      { b with arr := b.arr + 1, flags := b.flags ||| x.2, clk := maxClk b.clk clk } := by
  intro x
  simp only [State.fold_of_basin hb, hhere, if_true]
  exact State.traceFold_of_notAttached (by exact hnoAttach) _ _ _ _

theorem State.fold_of_away {s : State} {key : PoolKey} {b : HomeBasin} (hb : s.basin key = some b) (hnoAttach : s.attach = [])
    (haway : s.homeHere key = false) (slot : Nat) (v : BitVec 64) (clk : DWord) (bad : Option Nat) (ty : Option PoolType) :
    let x := s.foldedLane b key slot v bad ty
    s.fold key slot v clk bad false ty =
      (s.setLane { x.1 with n := satAddOne x.1.n }).emitTo (s.homePkg key) 3 (.contribution key x.2 clk) := by
  intro x
  simp only [State.fold_of_basin hb, haway, Bool.false_eq_true, if_false]
  exact State.traceFold_of_notAttached (by exact hnoAttach) _ _ _ _

/-- Settles O45: the lane by whether the contribution fails, the home by whether this package holds it. -/
theorem poolFolds : Obligations.PoolFolds := by
  unfold Obligations.PoolFolds
  intro s key slot v clk bad ty b l x t ok hnoAttach hb
  have hkey : b.key = key := State.key_of_basin hb
  let y := s.foldedLane b key slot v bad ty
  obtain ⟨hslot, hn⟩ : y.1.slot = l.slot ∧ y.1.n = l.n := Lane.contributed_keeps _ _ _ _
  have hcount : satAddOne y.1.n = min (l.n + 1) (2 ^ 32 - 1) := by rw [hn, satAddOne_eq_min]
  have hok (h : ok) : y = l.contributed b.decl x none := by
    simp only [y, State.foldedLane, contributionFailure_of_ok h]; rfl
  have hfailed (h : ¬ ok) : y = l.contributed b.decl x (some (bad.getD 1)) := by
    simp only [y, State.foldedLane, contributionFailure_of_failed h]; rfl
  have hvalue (h : ok) := hok h ▸ Lane.contributed_value l b.decl x
  have hfailure (h : ¬ ok) := hfailed h ▸ Lane.contributed_failure l b.decl x (bad.getD 1)
  cases hhere : s.homeHere key with
  | true =>
    have ht : t = _ := State.fold_of_home hb hnoAttach hhere slot v clk bad ty
    refine ⟨{ b with arr := b.arr + 1, flags := b.flags ||| y.2, clk := maxClk b.clk clk }, { y.1 with n := satAddOne y.1.n }, ?_, rfl,
      fun _ => ⟨rfl, rfl⟩, nofun, ?_, hslot, hcount, hvalue, hfailure⟩
    · rw [ht]; exact State.setBasin_basin _ hkey
    · rw [ht]; rfl
  | false =>
    have ht : t = _ := State.fold_of_away hb hnoAttach hhere slot v clk bad ty
    refine ⟨b, { y.1 with n := satAddOne y.1.n }, ?_, rfl, nofun, fun _ => rfl, ?_, hslot, hcount, hvalue, hfailure⟩
    · rw [ht]; exact hb
    · rw [ht]; rfl

end Sys2Proof.Machine
end

section
/-! SUPPORT and PROOF of O23. The pool words by what their handler waits for: each posts once, completes with the answer, or faults. -/
namespace Sys2Proof.Machine

/-! ### A word that posts a request and waits (R372, R374) -/

/-- A posted word leaves its handler waiting, its message at the end of what is in flight, and registers and memory as they were. -/
theorem posts_of_postAndWait {s : State} {i : Instr} {src : Option Nat} {b : Body} (h : exec i s = s.postAndWait src b) :
    ∃ t, exec i s = .next t ∧ t.waitOf = .posted ∧ t.net = s.net ++ [{ src := src, body := b }] ∧ t.mine.regs = s.mine.regs ∧
      t.mem = s.mem := by
  refine ⟨_, h.trans rfl, ?_, rfl, ?_, rfl⟩
  · simp [State.waitOf, State.mine, State.setWait, State.post, State.setRegion, State.region]
  · simp [State.mine, State.setWait, State.post, State.setRegion, State.region, Region.setHandler]

/-! ### pdcl (R372) -/

section
variable {s : State} {settle : Bool} {ra : Reg} {sc : Scope} {op : PoolOp} {ty : PoolType} {pl : Fin 64}

theorem execPdcl_of_answered {v clk : DWord} {f : Flags} (hw : s.waitOf = .answered v clk f) :
    execPdcl settle ra sc op ty pl s = .next (s.wentTo s.mine (s.here + 4)) := by
  simp only [execPdcl, hw, State.complete_eq]

/-- The declaration of a pdcl: without an initial value, with the count of its register where it names one. -/
def pdclDecl (s : State) (settle : Bool) (ra : Reg) (sc : Scope) (op : PoolOp) (ty : PoolType) : PoolDecl :=
  { ty := ty, op := op, scope := sc, settle := settle, cntv := decide (ra.val ≠ 0), count := (s.mine.get ra).toNat, init := none }

theorem execPdcl_of_count (hw : s.waitOf = .none) (hgood : ¬ (ra.val ≠ 0 ∧ ((s.mine.get ra).toNat = 0 ∨ 2 ^ 32 ≤ (s.mine.get ra).toNat))) :
    execPdcl settle ra sc op ty pl s = s.postAndWait (keyPool s.cur.1)
      (.poolDecl s.cur.1 s.cur.2 (s.poolKey s.mine pl.val sc) (pdclDecl s settle ra sc op ty) (s.mine.pool pl.val).isNone) := by
  simp only [execPdcl, hw, hgood, if_false, pdclDecl]

theorem execPdcl_of_badCount (hw : s.waitOf = .none) (hbad : ra.val ≠ 0 ∧ ((s.mine.get ra).toNat = 0 ∨ 2 ^ 32 ≤ (s.mine.get ra).toNat)) :
    execPdcl settle ra sc op ty pl s = s.raisePool (poolToken 4 0 0) := by
  simp only [execPdcl, hw]
  exact if_pos hbad

end

/-! ### pcon (R373) -/

theorem execPcon_of_undeclared {s : State} {ra : Reg} {pl : Fin 64} (hpool : s.mine.pool pl.val = none) :
    execPcon ra pl s = s.raisePool (poolToken 1 0 0) := by
  simp only [execPcon, hpool]

theorem execPcon_of_declared {s : State} {ra : Reg} {pl : Fin 64} {x : RegionPool} (hpool : s.mine.pool pl.val = some x)
    (hclean : s.mine.clean = true) (hheld : s.laneHeld s.cur.1 s.mine.stepNo pl.val 0 = false) :
    execPcon ra pl s =
      (s.post (keyPool s.cur.1) (.poolCon x.key (s.slotOf s.mine.placeId 0) (s.mine.get ra) s.mine.lclk none false none s.mine.stepNo)).complete
        { s.mine with pconOut := s.mine.pconOut + 1 } := by
  simp only [execPcon, hpool, hclean, hheld, Bool.not_true, Bool.false_eq_true, if_false]

/-! ### prd, prd.c and pset (R374, R375) -/

section
variable {s : State} {rd : Reg} {pl : Nat} {counted settle : Bool}

theorem State.gatherWord_of_answered {v clk : DWord} {f : Flags} (hw : s.waitOf = .answered v clk f) :
    s.gatherWord rd pl counted settle = .next (s.wentTo { s.mine.set rd v with
      fpflags := s.mine.fpflags ||| f, lclk := if counted then maxClk s.mine.lclk clk else (s.mine.set rd v).lclk } (s.here + 4)) := by
  simp only [State.gatherWord, hw, Region.set_fpflags, Region.set_lclk]
  exact State.complete_eq _ _ (Region.set_handlers _ _ _)

theorem State.gatherWord_of_undeclared (hw : s.waitOf = .none) (hpool : s.mine.pool pl = none) :
    s.gatherWord rd pl counted settle = s.raisePool (poolToken 1 0 0) := by
  simp only [State.gatherWord, hw, hpool]

theorem State.gatherWord_of_declared {x : RegionPool} (hw : s.waitOf = .none) (hpool : s.mine.pool pl = some x)
    (hcount : counted = true → x.decl.cntv = true) :
    s.gatherWord rd pl counted settle = s.postAndWait none (.gather s.cur.1 s.cur.2 x.key counted settle) := by
  simp only [State.gatherWord, hw, hpool]
  refine if_neg ?_
  simpa using hcount

theorem State.gatherWord_of_uncounted {x : RegionPool} (hw : s.waitOf = .none) (hpool : s.mine.pool pl = some x) (hcount : x.decl.cntv = false) :
    s.gatherWord rd pl true settle = s.raisePool (poolToken 2 0 0) := by
  simp only [State.gatherWord, hw, hpool, hcount, Bool.not_false, Bool.and_self, if_true]

end

/-- Settles O23, word by word, by what the handler waits for. -/
theorem poolWords : Obligations.PoolWords := by
  unfold Obligations.PoolWords
  intro s rd ra pl settle sc op ty v clk f x p r faults posts badCount
  refine ⟨fun hw => ⟨execPdcl_of_answered hw, State.gatherWord_of_answered hw, State.gatherWord_of_answered hw, State.gatherWord_of_answered hw⟩,
    fun hpool hclean hheld => ?pcon, fun hw hpool => ⟨?readPosts, ?settlePosts, ?countedPosts⟩, fun hw hgood => ?pdcl,
    fun hw hbad => execPdcl_of_badCount hw hbad, fun hpool => execPcon_of_undeclared hpool, fun hpool hw =>
      ⟨State.gatherWord_of_undeclared hw hpool, State.gatherWord_of_undeclared hw hpool, State.gatherWord_of_undeclared hw hpool⟩⟩
  case pcon =>
    refine ⟨_, (execPcon_of_declared hpool hclean hheld).trans (State.complete_eq _ _ rfl), ?_, rfl, ?_, rfl, ?_⟩ <;>
      simp only [State.wentTo_mine, State.post_cur, Region.setHandler_handler] <;> rfl
  case readPosts => exact posts_of_postAndWait (State.gatherWord_of_declared (counted := false) hw hpool nofun)
  case settlePosts => exact posts_of_postAndWait (State.gatherWord_of_declared (counted := false) hw hpool nofun)
  case countedPosts =>
    split
    case isTrue hcount => exact posts_of_postAndWait (State.gatherWord_of_declared hw hpool fun _ => hcount)
    case isFalse hcount => exact State.gatherWord_of_uncounted hw hpool (Bool.eq_false_iff.2 hcount)
  case pdcl =>
    exact ⟨pdclDecl s settle ra sc op ty, posts_of_postAndWait (execPdcl_of_count hw hgood), rfl, rfl, rfl, rfl, rfl, decide_eq_true_iff, rfl⟩

end Sys2Proof.Machine
end

section
/-! SUPPORT and PROOF of O44. Declarations, contributions, gathers and their answers at the home of a pool: each event's equation where
its guard holds. -/
namespace Sys2Proof.Machine

/-! ### Declarations (R356, R372) -/

section
variable {s : State} {m p k : Nat} {key : PoolKey} {d : PoolDecl} {fresh : Bool} (hm : s.ready m = some (.poolDecl p k key d fresh))
include hm

/-- What a declaration comes to at a home of this package: a first one of its region, or a later one. -/
def State.declaredAtHome (s : State) (p : Nat) (key : PoolKey) (d : PoolDecl) : Bool × State :=
  match (s.region p).pool key.pool with
  | none => s.declare p key.pool key d
  | some old => s.redeclare p old key d

theorem execPoolDeclareAtHome_of_here (hhere : s.homeHere key = true) :
    execPoolDeclareAtHome m s =
      let out := (s.unpost m).declaredAtHome p key d
      .next (out.2.poolAnswer p k (if out.1 then .answered 0 0 0 else .faulted 0x0B (poolToken 3 0 0))) := by
  simp only [execPoolDeclareAtHome, hm, hhere, Bool.not_true, Bool.false_and, Bool.false_eq_true, if_false]
  rfl

theorem execPoolDeclareAtHome_of_away (haway : s.homeHere key = false) (hnew : ((s.unpost m).region p).pool key.pool = none) :
    execPoolDeclareAtHome m s = .next ((s.unpost m).sendAway (s.homePkg key) p k (.decl key d) fun tag =>
      .poolDecl tag ((s.unpost m).region p).placeId key d (((s.unpost m).region p).inherited key.pool d)) := by
  simp only [execPoolDeclareAtHome, hm, haway, hnew, Option.all_none, Bool.not_false, Bool.and_self, if_true]

end

/-! ### Contributions of conduct words (R362, R373) -/

theorem execPoolFold_of_word {s : State} {m p slot num : Nat} {key : PoolKey} {v : BitVec 64} {clk : DWord} {bad : Option Nat} {pair : Bool}
    {ty : Option PoolType} (hnet : s.net[m]? = some { src := keyPool p, body := .poolCon key slot v clk bad pair ty num })
    (hp : 8 * p + 2 < 2 ^ 20) (hm : s.ready m = some (.poolCon key slot v clk bad pair ty num)) :
    execPoolFold m s =
      let s1 := (s.unpost m).fold key slot v clk bad pair ty
      .next (s1.setRegion p { s1.region p with pconOut := (s1.region p).pconOut - 1 }) := by
  have hsource : (8 * p + 2) % 8 = 2 ∧ 8 * p + 2 < 2 ^ 20 := ⟨by omega, hp⟩
  have hregion : (8 * p + 2) / 8 = p := by omega
  simp only [execPoolFold, hm, hnet, keyPool, hsource, hregion, and_self, if_true]

/-! ### Gathers (R363, R366, R378) -/

section
variable {s : State} {b : HomeBasin} {g : GatherState}

theorem State.gatherStep_of_end (h : nextLane b.key g.pos s.lanes = none) (settle : Bool) : s.gatherStep b g settle = none := by
  simp only [State.gatherStep, h, Option.map_none]

/-- The lanes that stand at the place `n` of the order of an instance: one live lane, or one parked. -/
def HomeBasin.lanesAt (b : HomeBasin) (n : Nat) (l : Lane) : Bool := l.key == b.key && l.order == n

theorem State.gatherStep_of_reading {n : Nat} (h : nextLane b.key g.pos s.lanes = some n) :
    s.gatherStep b g false = some (s.setBasin { b with gath := some ((s.lanes.filter (b.lanesAt n)).foldl (GatherState.take b) g) }) := by
  simp only [State.gatherStep, h, Option.map_some, Bool.false_eq_true, if_false]
  rfl

theorem State.gatherStep_of_settling {n : Nat} (h : nextLane b.key g.pos s.lanes = some n) :
    s.gatherStep b g true = some (({ s with lanes := s.lanes.filter fun l => !b.lanesAt n l } : State).setBasin
      { b with gath := some ((s.lanes.filter (b.lanesAt n)).foldl (GatherState.take b) g),
               arr := b.arr - (s.lanes.filter (b.lanesAt n)).foldl (fun n (l : Lane) => n + l.n) 0 }) := by
  simp only [State.gatherStep, h, Option.map_some, if_true]
  rfl

end

section
variable {s : State} {m p k : Nat} {key : PoolKey} {counted settle : Bool} {b : HomeBasin}
  (hm : s.ready m = some (.gather p k key counted settle)) (hhere : s.homeHere key = true) (hb : s.basin key = some b)
  (hahead : s.gatherAhead m key = false) (hcount : counted = true → b.gath = none → b.decl.count ≤ b.arr)
include hm hhere hb hahead hcount

omit hm hhere hb hahead in
/-- A gather whose count is reached, or that has begun, is not held. -/
theorem HomeBasin.notHeld : (counted && b.gath.isNone && decide (b.arr < b.decl.count)) = false := by
  cases hc : counted <;> cases hg : b.gath <;> simp
  exact hcount hc hg

theorem execPoolGather_of_lane {s1 : State} (hstep : s.gatherStep b (b.gath.getD (s.beginGather b)) settle = some s1) :
    execPoolGather m s = .next s1 := by
  simp only [execPoolGather, hm, hhere, hb, hahead, HomeBasin.notHeld hcount, hstep, Bool.not_true, Bool.or_self, Bool.false_eq_true, if_false]

theorem execPoolGather_of_end (hstep : s.gatherStep b (b.gath.getD (s.beginGather b)) settle = none)
    (hasked : (b.gath.getD (s.beginGather b)).asked = none) (hpkgs : (b.gath.getD (s.beginGather b)).pkgs = []) :
    execPoolGather m s =
      let out := (s.unpost m).gatherEnd b (b.gath.getD (s.beginGather b)) settle
      .next (out.2.gatherDone p k key out.1 counted) := by
  simp only [execPoolGather, hm, hhere, hb, hahead, HomeBasin.notHeld hcount, hstep, hasked, hpkgs, Bool.not_true, Bool.or_self,
    Bool.false_eq_true, if_false]

end

/-! ### Answers (R374) -/

section
variable {s : State} {p k : Nat} (hwait : ((s.region p).handler k).wait = .posted) (w : Wait)
include hwait

theorem State.poolAnswer_of_posted :
    s.poolAnswer p k w =
      { s.setRegion p ((s.region p).setHandler k { (s.region p).handler k with wait := w }) with agenda := .issue p :: s.agenda } := by
  simp only [State.poolAnswer, hwait, beq_self_eq_true, if_true]
  rfl

theorem State.poolAnswer_region_of_posted :
    (s.poolAnswer p k w).region p = (s.region p).setHandler k { (s.region p).handler k with wait := w } := by
  rw [State.poolAnswer_of_posted hwait]
  exact State.setRegion_region s p _

theorem State.poolAnswer_wait_of_posted : (((s.poolAnswer p k w).region p).handler k).wait = w := by
  rw [State.poolAnswer_region_of_posted hwait, Region.setHandler_handler]

theorem State.poolAnswer_mem_of_posted : (s.poolAnswer p k w).mem = s.mem := by
  rw [State.poolAnswer_of_posted hwait]; rfl

end

theorem execPoolCompletionWord_of_clean {s : State} {m p k : Nat} {v : BitVec 64} {f : Flags} {clk : DWord} {counted : Bool}
    (hm : s.ready m = some (.completion p k v f clk none counted)) :
    execPoolCompletionWord m s = .next ((s.unpost m).poolAnswer p k (.answered v clk f)) := by
  simp only [execPoolCompletionWord, hm]

theorem execPoolCompletionWord_of_poisoned {s : State} {m p k slot cause : Nat} {v : BitVec 64} {f : Flags} {clk : DWord} {counted : Bool}
    (hm : s.ready m = some (.completion p k v f clk (some (slot, cause)) counted)) :
    execPoolCompletionWord m s = .next ((s.unpost m).poolAnswer p k (.faulted 0x0B (poolToken 0 cause slot))) := by
  simp only [execPoolCompletionWord, hm, Cause.code]

/-- Settles O44, by the equation of each event. -/
theorem poolHome : Obligations.PoolHome := by
  unfold Obligations.PoolHome
  intro s m p k n slot num key d fresh counted settle pair b v clk f bad ty s0 r
  refine ⟨fun hm => ⟨execPoolDeclareAtHome_of_here hm, execPoolDeclareAtHome_of_away hm⟩, fun hnet hp hm => ?fold,
    fun hm hhere hb hahead hcount => ⟨fun hnext hset => ?take, fun hnext hset => ?settle, fun hnext => ?end_⟩, fun hm hwait => ?answer, fun a hm hwait => ?fault⟩
  case fold =>
    refine ⟨_, execPoolFold_of_word hnet hp hm, rfl, rfl, ?_⟩
    rw [State.setRegion_region]
  case take =>
    subst hset
    exact execPoolGather_of_lane hm hhere hb hahead hcount (State.gatherStep_of_reading hnext)
  case settle =>
    subst hset
    have hkey : b.key = key := State.key_of_basin hb
    exact ⟨_, _, execPoolGather_of_lane hm hhere hb hahead hcount (State.gatherStep_of_settling hnext),
      State.setBasin_basin _ hkey, rfl, rfl, rfl⟩
  case end_ => exact execPoolGather_of_end hm hhere hb hahead hcount (State.gatherStep_of_end hnext settle)
  case answer =>
    refine ⟨_, execPoolCompletionWord_of_clean hm, State.poolAnswer_wait_of_posted hwait _, ?_, State.poolAnswer_mem_of_posted hwait _⟩
    rw [State.poolAnswer_region_of_posted hwait]
    rfl
  case fault =>
    exact ⟨_, execPoolCompletionWord_of_poisoned hm, State.poolAnswer_wait_of_posted hwait _, State.poolAnswer_mem_of_posted hwait _⟩

end Sys2Proof.Machine
end

section
/-! SUPPORT and PROOF of O36. A flit at a conduit port by the branches of its receipt: out of turn, from outside the domain, for another
package, for this one; an access of another package at its home; the tide that the time protocol brings. -/
namespace Sys2Proof.Machine

/-! ### A flit at a port (R393, R394, R396) -/

/-- A port on which an intact flit has arrived in its turn expects the number after it. -/
theorem ConduitPort.advance_next (x : ConduitPort) (src dst cls : Nat) :
    (x.advance src dst cls).next src dst cls = x.next src dst cls + 1 := by
  simp only [ConduitPort.advance, ConduitPort.next, seqNext, seqOf, List.find?_cons, beq_self_eq_true, Bool.and_self]

theorem execConduitFlitReceive_of_refused {s : State} {port : Nat} {f : Flit}
    (h : f.crcOk = false ∨ f.seq ≠ (s.well.port port).next f.src f.dst (flitOrder f)) :
    execConduitFlitReceive port f s =
      .next (s.setConduit port { s.well.port port with retries := (s.well.port port).retries + 1 }) := by
  refine if_pos ?_
  rw [Bool.or_eq_true, Bool.not_eq_true', bne_iff_ne]
  exact h

section
variable {s : State} {port : Nat} {f : Flit} (hcrc : f.crcOk = true)
  (hseq : f.seq = (s.well.port port).next f.src f.dst (flitOrder f))
include hcrc hseq

/-- Past the checks of the link a flit of a package of the domain passes on or is delivered; another's ends here (log entry 46). -/
theorem execConduitFlitReceive_of_inTurn :
    execConduitFlitReceive port f s =
      let s1 := s.setConduit port ((s.well.port port).advance f.src f.dst (flitOrder f))
      if !s.well.domain.contains f.src then .next s1
      else if f.dst ≠ s.well.pkg then .next (s1.queueFlit f.src f.dst f.cls f.body)
      else if !flitClassOk f.cls f.body then .next s1
      else .next (s1.deliverFlit f.src f.body) := by
  refine if_neg ?_
  rw [hcrc, Bool.not_true, Bool.false_or, bne_iff_ne]
  exact not_not_intro hseq

theorem execConduitFlitReceive_of_here (hdom : s.well.domain.contains f.src = true) (hdst : f.dst = s.well.pkg)
    (hcls : flitClassOk f.cls f.body = true) :
    execConduitFlitReceive port f s =
      .next ((s.setConduit port ((s.well.port port).advance f.src f.dst (flitOrder f))).deliverFlit f.src f.body) := by
  simp only [execConduitFlitReceive_of_inTurn hcrc hseq, hdom, hdst, hcls, Bool.not_true, Bool.false_eq_true, ne_eq, not_true_eq_false,
    if_false]

theorem execConduitFlitReceive_of_passing (hdom : s.well.domain.contains f.src = true) (hdst : f.dst ≠ s.well.pkg) :
    execConduitFlitReceive port f s =
      .next ((s.setConduit port ((s.well.port port).advance f.src f.dst (flitOrder f))).queueFlit f.src f.dst f.cls f.body) := by
  simp only [execConduitFlitReceive_of_inTurn hcrc hseq, hdom, hdst, Bool.not_true, Bool.false_eq_true, ne_eq, not_false_eq_true, if_false,
    if_true]

theorem execConduitFlitReceive_of_stranger (hdom : s.well.domain.contains f.src = false) :
    execConduitFlitReceive port f s = .next (s.setConduit port ((s.well.port port).advance f.src f.dst (flitOrder f))) := by
  simp only [execConduitFlitReceive_of_inTurn hcrc hseq, hdom, Bool.not_false, if_true]

end

/-! ### Accesses of another package at their home (R283, R396) -/

section
variable {s : State} {pa : Nat} (hhome : s.elsewhere pa = false) (hpa : paOk pa = true) (src tag : Nat)
include hhome hpa

/-- A write that does not ask for the poison mark is made whatever mark the line carries. -/
theorem State.deliverFlit_write (n v : Nat) (clk : DWord) :
    s.deliverFlit src (.ask tag pa (.write n v false) clk) =
      let w := (s.recallNow (lineOf pa) true).homeWrite pa n v clk
      w.2.emitTo src 0 (.answer tag 0 w.1 0 none) := by
  simp only [State.deliverFlit, State.serveAccess, hhome, hpa, Bool.not_true, Bool.or_self, Bool.false_and, Bool.false_eq_true, if_false]

theorem State.deliverFlit_read (n : Nat) (clk : DWord) (hclean : (s.homeRead pa n clk).2.2.1 = false) :
    s.deliverFlit src (.ask tag pa (.read n) clk) =
      let g := s.homeRead pa n clk
      g.2.2.2.emitTo src 0 (.answer tag g.1 g.2.1 0 none) := by
  simp only [State.deliverFlit, State.serveAccess, hhome, hpa, hclean, Bool.not_true, Bool.or_self, Bool.false_eq_true, if_false]

theorem State.deliverFlit_atomic (op : AtomOp) (wide : Bool) (z clk : DWord) :
    s.deliverFlit src (.ask tag pa (.atomic op wide z) clk) = s.post none (.atomic (.stream (awayTag src tag)) op wide pa z clk) := by
  simp only [State.deliverFlit, State.serveAccess, hhome, hpa, Bool.not_true, Bool.or_self, Bool.false_eq_true, if_false]

end

theorem State.homeWrite_mem (s : State) (pa n v : Nat) (clk : DWord) :
    (s.homeWrite pa n v clk).2.mem = Memory.writeLE (s.recallNow (lineOf pa) true).mem pa n v := by
  simp only [State.homeWrite]
  split <;> rfl

theorem State.homeRead_value (s : State) (pa n : Nat) (clk : DWord) :
    (s.homeRead pa n clk).1 = Memory.readLE (s.homeRead pa n clk).2.2.2.mem pa n := rfl

/-! ### The time protocol (R19, R399) -/

/-- The time source stays where it is. -/
theorem State.correctTide_of_source {s : State} (h : s.well.timeSource = true) (src : Nat) :
    s.correctTide src = { s with well := { s.well with slew := 0, tlock := true } } := by
  simp only [State.correctTide, h, if_true]

/-- Another package slews toward the source, and is locked within the bound of R19 on either side of it. -/
theorem State.correctTide_of_other {s : State} (h : s.well.timeSource = false) (src : Nat) :
    s.correctTide src = { s with well := { s.well with
      slew := if s.tide < src then 1 else if src < s.tide then -1 else 0,
      tlock := decide ((if s.tide < src then src - s.tide else s.tide - src) ≤ tideBound) } } := by
  simp only [State.correctTide, h, Bool.false_eq_true, if_false]

/-- Settles O36, by the branches of a flit's receipt, of an access and of a correction of the tide. -/
theorem conduitFlits : Obligations.ConduitFlits := by
  unfold Obligations.ConduitFlits
  intro s port src f x put y
  refine ⟨execConduitFlitReceive_of_refused, fun hcrc hseq => ⟨?turn, execConduitFlitReceive_of_here hcrc hseq,
    execConduitFlitReceive_of_passing hcrc hseq, execConduitFlitReceive_of_stranger hcrc hseq⟩,
    fun tag pa n v wide op z clk hhome hpa => ⟨State.deliverFlit_write hhome hpa src tag n v clk, State.homeWrite_mem _ _ _ _ _,
      fun hclean => ⟨State.deliverFlit_read hhome hpa src tag n clk hclean, State.homeRead_value _ _ _ _⟩,
      State.deliverFlit_atomic hhome hpa src tag op wide z clk⟩, ?time⟩
  case turn => rw [hseq]; exact ConduitPort.advance_next _ _ _ _
  case time =>
    cases hsource : s.well.timeSource with
    | true => exact ⟨0, true, congrArg Host.Outcome.next (State.correctTide_of_source hsource src), fun _ => ⟨rfl, rfl⟩, nofun⟩
    | false =>
      refine ⟨_, _, congrArg Host.Outcome.next (State.correctTide_of_other hsource src), nofun, fun _ => ⟨fun hlt => if_pos hlt, fun hgt => ?_,
        fun heq => ?_, ?_⟩⟩
      · rw [if_neg (by omega), if_pos hgt]
      · rw [if_neg (by omega), if_neg (by omega)]
      · rw [decide_eq_true_iff, tideBound]
        split <;> omega

end Sys2Proof.Machine
end

section
/-! SUPPORT and PROOF of O33. The jobs of the cascade and of the scale-out ports: each event's equation where its checks pass. Translating
an access of an engine, and performing it at its home, leave the tables of the wellhead as they were. -/
namespace Sys2Proof.Machine

/-! ### What leaves the wellhead as it was (R287, R290, R316, R322) -/

theorem State.walkOne_well (s : State) (d : Nat) (asid : BitVec 16) (va : Nat) : (s.walkOne d asid va).2.well = s.well := by
  simp only [State.walkOne]
  split <;> rfl

theorem State.walkDown_well (s : State) (d : Nat) (asid : BitVec 16) (va n : Nat) : (s.walkDown d asid va n).well = s.well := by
  induction n generalizing s with
  | zero => rfl
  | succ n ih =>
    have hone := State.walkOne_well s d asid va
    simp only [State.walkDown]
    split
    · next hw => rw [ih, ← hone, hw]
    · rfl

theorem State.translateEngine_well (s : State) (d : Nat) (asid : BitVec 16) (va : Nat) : (s.translateEngine d asid va).2.well = s.well := by
  have hwalk : ((s.walkDown d asid va 4).walkOne d asid va).2.well = s.well := (State.walkOne_well _ _ _ _).trans (State.walkDown_well _ _ _ _ _)
  simp only [State.translateEngine]
  split
  · rfl
  · split
    · next hpage => rw [State.setDie_well, ← hwalk, hpage]
    · exact hwalk

theorem State.engAt_well (s : State) (d : Nat) (asid : BitVec 16) (va : Nat) (need : Need) : (s.engAt d asid va need).2.well = s.well := by
  have htrans := State.translateEngine_well s d asid va
  simp only [State.engAt]
  split
  case h_4 h =>
    rw [← htrans, h]
    split
    · rfl
    · split <;> rfl
  all_goals next h => rw [← htrans, h]

theorem State.flushLine_well (s : State) (line : Nat) : (s.flushLine line).well = s.well := by
  rw [State.flushLine]
  exact List.foldlRecOn (motive := fun (t : State) => t.well = s.well) _ _ rfl fun _ h _ _ => h

theorem State.recallNow_well (s : State) (line : Nat) (drop : Bool) : (s.recallNow line drop).well = s.well := by
  rw [← State.flushLine_well s line]
  simp only [State.recallNow]
  repeat' split
  all_goals rfl

theorem State.homeWrite_well (s : State) (pa n v : Nat) (clk : DWord) : (s.homeWrite pa n v clk).2.well = s.well := by
  rw [← State.recallNow_well s (lineOf pa) true]
  simp only [State.homeWrite]
  split <;> rfl

/-! ### Jobs of the cascade (R401, R402, R406) -/

theorem State.graph_of_jobGraph {s : State} {m : EngMsg} {g : Graph} (hg : s.jobGraph m = some g) : s.graph m.gid = some g := by
  simp only [State.jobGraph] at hg
  split at hg
  · next h => split at hg <;> simp_all
  · cases hg

theorem State.setGraph_graph (s : State) (gid : Nat) (g : Graph) : (s.setGraph gid g).graph gid = some g := Tbl.find_put_same _ _ _

/-- The wellhead without a graph and what its reservation of the chunk buffer holds. -/
def State.freeGraph (s : State) (gid : Nat) (g : Graph) : State :=
  { s with well := { s.well with
    graphs := Tbl.drop s.well.graphs gid,
    chunkMem := s.well.chunkMem.filter fun e => decide (e.1 < g.base) || decide (g.base + g.len ≤ e.1) } }

theorem State.freeGraph_graph (s : State) (gid : Nat) (g : Graph) : (s.freeGraph gid g).graph gid = none := Tbl.find_drop_same _ _

theorem State.freeGraph_chunkMem (s : State) (gid : Nat) (g : Graph) :
    ∀ e ∈ (s.freeGraph gid g).well.chunkMem, e.1 < g.base ∨ g.base + g.len ≤ e.1 := by
  intro e he
  simpa using (List.mem_filter.1 he).2

section
variable {s : State} {j : Nat} {job : Job} (hjob : Tbl.find s.well.jobs j = some job) (hreply : job.reply = none)
include hjob hreply

theorem State.cascadeJob_of_job {opc : Nat} (hopc : job.msg.opc = opc) (f : Job → State) : s.cascadeJob j opc f = .next (f job) := by
  simp only [State.cascadeJob, hjob, hreply, hopc, ne_eq, not_true_eq_false, if_false]

theorem execGload_of_read {vs : List Nat} {c : DWord} (hopc : job.msg.opc = 1) :
    let m := job.msg
    let n := fld (m.opnd 1) 0 12
    n ≠ 0 → fld (m.opnd 1) 12 4 = 0 → m.opnd 1 < 2 ^ 46 → m.va % 8 = 0 → s.graph m.gid = none → s.groupOk (fld (m.opnd 1) 16 16) = true →
      (s.casWords job m.va (2 * n)).1 = .done vs c →
      execGload j s = .next ((s.casWords job m.va (2 * n)).2.installGraph j { job with clk := c } (pairUp vs)) := by
  intro m n hn hres htop halign hgraph hgroup hread
  have hwords : ¬ (n = 0 ∨ fld (m.opnd 1) 12 4 ≠ 0 ∨ m.opnd 1 / 2 ^ 46 ≠ 0 ∨ m.va % 8 ≠ 0) := by
    have := Nat.div_eq_of_lt htop
    omega
  obtain ⟨s1, hs1⟩ : ∃ s1, s.casWords job m.va (2 * n) = (.done vs c, s1) := ⟨_, Prod.ext hread rfl⟩
  rw [execGload, State.cascadeJob_of_job hjob hreply hopc, hs1]
  refine congrArg Host.Outcome.next ((if_neg hwords).trans ?_)
  simp only [m, n] at hgraph hgroup hs1
  simp only [hgraph, hgroup, hs1, Option.any_none, Option.isSome_none, Bool.not_true, Bool.or_self, Bool.false_eq_true, if_false]

theorem execReplay_of_read {g : Graph} {vs : List Nat} {c : DWord} (hopc : job.msg.opc = 2) (halign : job.msg.va % 1024 = 0)
    (hsecond : job.msg.second = 0) (hg : s.jobGraph job.msg = some g) (hahead : s.replayAhead j job.msg.gid true = false)
    (hread : (s.casWords job job.msg.va 256).1 = .done vs c) :
    execReplay j s = .next ((s.casWords job job.msg.va 256).2.startReplay j { job with clk := c } g (quadUp vs)) := by
  obtain ⟨s1, hs1⟩ : ∃ s1, s.casWords job job.msg.va 256 = (.done vs c, s1) := ⟨_, Prod.ext hread rfl⟩
  rw [execReplay, State.cascadeJob_of_job hjob hreply hopc]
  refine congrArg Host.Outcome.next ((if_neg (by omega)).trans ?_)
  simp only [hg, hahead, hs1, Bool.false_eq_true, if_false]

theorem execGfree_of_idle {g : Graph} (hopc : job.msg.opc = 3) (hva : job.msg.va = 0) (hsecond : job.msg.second = 0)
    (hg : s.jobGraph job.msg = some g) (hahead : s.replayAhead j job.msg.gid false = false) :
    execGfree j s = .next ((s.freeGraph job.msg.gid g).endCascade j job 0x00) := by
  rw [execGfree, State.cascadeJob_of_job hjob hreply hopc]
  refine congrArg Host.Outcome.next ((if_neg (by omega)).trans ?_)
  simp only [hg, hahead, Bool.false_eq_true, if_false]
  rfl

theorem execGstat_of_written {g : Graph} {pa : Nat} (hopc : job.msg.opc = 4) (halign : job.msg.va % 64 = 0) (hsecond : job.msg.second = 0)
    (hg : s.jobGraph job.msg = some g) (hcovers : job.msg.covers job.msg.va 64 true = true)
    (hat : (s.engAt job.msg.die job.msg.asid job.msg.va .write).1 = .at pa false) (hhost : hostBit pa = false) (hhere : s.elsewhere pa = false) :
    let s1 := (s.engAt job.msg.die job.msg.asid job.msg.va .write).2
    let w := s1.homeWrite pa 64 (s1.statRecord job.msg) job.clk
    execGstat j s = .next ((w.2.setGraph job.msg.gid { g with flags := 0 }).endCascade j { job with clk := w.1 } 0x00) := by
  intro s1 w
  have hpair : s.engAt job.msg.die job.msg.asid job.msg.va .write = (.at pa false, s1) := Prod.ext hat rfl
  have hs1 : s1.well = s.well := State.engAt_well _ _ _ _ _
  have hhere1 : s1.elsewhere pa = false := by rw [State.elsewhere, hs1]; exact hhere
  have hgraph : w.2.graph job.msg.gid = some g := by
    rw [State.graph, State.homeWrite_well, hs1]
    exact State.graph_of_jobGraph hg
  have hline : s1.engLine job pa 64 (s1.statRecord job.msg) job.clk = w := by
    rw [State.engLine, hhere1]; rfl
  rw [execGstat, State.cascadeJob_of_job hjob hreply hopc]
  refine congrArg Host.Outcome.next ((if_neg (by omega)).trans ?_)
  simp only [hg, hcovers, hpair, hhost, hline, hgraph, Option.isNone_some, Bool.and_false, Bool.not_true, Bool.or_self, Bool.false_eq_true,
    if_false]

end

/-! ### Scale-out jobs (R416, R417) -/

section
variable {s : State} {j : Nat} {job : Job} (hreply : job.reply = none)
include hreply

section
variable (hnone : Tbl.find s.well.roce j = none) (hjob : Tbl.find s.well.jobs j = some job) (hqp : s.qpBusy j job.msg.qp = false)
include hnone hjob hqp

theorem State.roceJob_of_waiting {opc : Nat} (hopc : job.msg.opc = opc) (f : Job → State) : s.roceJob j opc f = .next (f job) := by
  simp only [State.roceJob, hnone, State.cascadeJob_of_job hjob hreply hopc, hqp, Bool.false_eq_true, if_false]

theorem execRwrite_of_read {vs : List Nat} {c : DWord} (hopc : job.msg.opc = 5) :
    let m := job.msg
    let s1 := (s.roceCheck m .read).2
    (s.roceCheck m .read).1 = none → (s1.casWords job m.rva (m.rlen / 4)).1 = .done vs c →
      execRwrite j s = .next ((s1.casWords job m.rva (m.rlen / 4)).2.beginRoce j { job with clk := c }
        (.rdmaWrite m.qp (m.opnd 2) (bytesOfWords vs))) := by
  intro m s1 hcheck hread
  have hs1 : s.roceCheck job.msg .read = (none, s1) := Prod.ext hcheck rfl
  obtain ⟨s2, hs2⟩ : ∃ s2, s1.casWords job m.rva (m.rlen / 4) = (.done vs c, s2) := ⟨_, Prod.ext hread rfl⟩
  rw [execRwrite, State.roceJob_of_waiting hreply hnone hjob hqp hopc, hs2]
  simp only [m] at hs2
  simp only [hs1, hs2, m]

theorem execRread_of_checked (hopc : job.msg.opc = 6) (hcheck : (s.roceCheck job.msg .write).1 = none) :
    execRread j s = .next ((s.roceCheck job.msg .write).2.beginRoce j job (.rdmaRead job.msg.qp (job.msg.opnd 2) job.msg.rlen)) := by
  obtain ⟨s1, hs1⟩ : ∃ s1, s.roceCheck job.msg .write = (none, s1) := ⟨_, Prod.ext hcheck rfl⟩
  rw [execRread, State.roceJob_of_waiting hreply hnone hjob hqp hopc]
  simp only [hs1]

end

variable (hjob : Tbl.find s.well.roce j = some job)
include hjob

theorem execRoceResponseReceive_of_acknowledged (hopc : job.msg.opc = 5) :
    execRoceResponseReceive j [] s = .next (s.endRoce j job 0x00) := by
  simp only [execRoceResponseReceive, hjob, hreply, hopc, Option.isSome_none, Bool.false_eq_true, if_false, if_true, List.isEmpty_nil]

theorem execRoceResponseReceive_of_bytes {bytes : List Byte} {u : List Nat} {c : DWord} (hopc : job.msg.opc ≠ 5) (hsome : bytes ≠ [])
    (hfour : bytes.length % 4 = 0) (hroom : 4 * job.pos + bytes.length ≤ job.msg.rlen) :
    let written := eachWrite (fun j off v s => s.casWrite j (j.msg.rva + off) v) (wordsOfBytes (bytes.length / 4) bytes) (4 * job.pos) job s
    written.1 = .done u c →
      let job1 : Job := { job with clk := c, pos := job.pos + bytes.length / 4 }
      execRoceResponseReceive j bytes s = .next (if job.msg.rlen ≤ 4 * job1.pos then written.2.endRoce j job1 0x00
        else { written.2 with well := { written.2.well with roce := Tbl.put written.2.well.roce j job1 } }) := by
  intro written hdone job1
  have hgoes : job.reply.isSome = false := Option.isSome_eq_false_iff.2 (Option.isNone_iff_eq_none.2 hreply)
  have hguard : (bytes.isEmpty || bytes.length % 4 != 0 || decide (job.msg.rlen < 4 * job.pos + bytes.length)) = false := by
    rw [List.isEmpty_eq_false_iff.2 hsome, hfour, bne_self_eq_false, decide_eq_false (Nat.not_lt.2 hroom)]; rfl
  obtain ⟨s3, hs3⟩ : ∃ s3, written = (.done u c, s3) := ⟨_, Prod.ext hdone rfl⟩
  rw [hs3]
  simp only [written] at hs3
  simp only [execRoceResponseReceive, hjob, hopc, hgoes, hguard, hs3, Bool.false_eq_true, if_false, job1]

theorem execTransportError_of_job : execTransportError j s = .next (s.endRoce j job 0x08) := by
  simp only [execTransportError, hjob, hreply, Option.isSome_none, Bool.false_eq_true, if_false]

end

theorem fld_zero (n w : Nat) : fld n 0 w = n % 2 ^ w := by rw [fld, Nat.pow_zero, Nat.div_one]

/-- Settles O33, job by job. -/
theorem engineJobs : Obligations.EngineJobs := by
  unfold Obligations.EngineJobs
  constructor
  · intro s j pa job g vs c m n hjob hreply
    refine ⟨fun hopc => ?gload, execReplay_of_read hjob hreply, fun hopc hva hsecond hg hahead => ?gfree,
      fun hopc halign hsecond hg hcovers hat hhost hhere => ?gstat⟩
    case gload =>
      have hcount : n = fld (m.opnd 1) 0 12 := (fld_zero _ _).symm
      rw [hcount]
      exact execGload_of_read hjob hreply hopc
    case gfree =>
      exact ⟨_, execGfree_of_idle hjob hreply hopc hva hsecond hg hahead, s.freeGraph_graph _ g, rfl, s.freeGraph_chunkMem _ g⟩
    case gstat =>
      exact ⟨_, _, execGstat_of_written hjob hreply hopc halign hsecond hg hcovers hat hhost hhere, State.setGraph_mem _ _ _, rfl,
        State.setGraph_graph _ _ _⟩
  · intro s j job vs u c bytes m s1 s2 written hreply
    exact ⟨fun hnone hjob hqp => ⟨execRwrite_of_read hreply hnone hjob hqp, execRread_of_checked hreply hnone hjob hqp⟩,
      fun hjob => ⟨execRoceResponseReceive_of_acknowledged hreply hjob, execRoceResponseReceive_of_bytes hreply hjob,
        execTransportError_of_job hreply hjob⟩⟩

end Sys2Proof.Machine
end

section
/-! SUPPORT and PROOF of O35. One step of a node that is neither waiting nor over, by its operation and where it stands; a credit; the end of
a node and of its time. -/
namespace Sys2Proof.Machine

/-! ### A step of a node (R406, R409, R413) -/

/-- A node acts that waits for no predecessor and is not over. -/
def NodeState.acts : NodeState → Bool
  | .waiting _ => false
  | .isOver => false
  | .done => false
  | _ => true

section
variable {s : State} {r n : Nat} {z : Replay} {g : Graph} {nd : ChunkNode} {st : NodeState}

/-- In a replay that stands and has not failed, a node that acts makes its step while none of its writes is on its way. -/
theorem State.nodeStep_of_acting (hz : Tbl.find s.well.replays r = some z) (hout : s.nodeOut z n = false) (hg : s.graph z.gid = some g)
    (hnd : g.nodes[n]? = some nd) (hst : z.nodes[n]? = some st) (hcause : z.cause = 0) (hreply : z.job.reply = none)
    (hacts : st.acts = true) (f : Replay → Graph → ChunkNode → NodeState → State) :
    s.nodeStep r n f = .next (f (z.atNode n) g nd st) := by
  simp only [State.nodeStep, hz, hg, hnd, hst, hcause, hreply, hout, ne_eq, not_true_eq_false, Option.isSome_none, Bool.false_eq_true, or_self,
    if_false]
  cases st with
  | waiting _ | isOver | done => exact absurd hacts Bool.false_ne_true
  | _ => rfl

variable (hz : Tbl.find s.well.replays r = some z) (hout : s.nodeOut z n = false) (hg : s.graph z.gid = some g)
  (hnd : g.nodes[n]? = some nd) (hst : z.nodes[n]? = some st) (hcause : z.cause = 0) (hreply : z.job.reply = none)
include hz hout hg hnd hst hcause hreply

theorem execChunkRecv_of_running {peer : Nat} (hop : nd.op = .recv peer) (hrun : st = .running) :
    let x := z.atNode n
    execChunkRecv r n s = .next
      ((s.emitTo peer nd.cls (.credit x.gid x.number nd.dst.val (x.entry nd.dst).len nd.cls.val)).goNode r x n (.receiving 0) x.job.clk) := by
  subst hrun
  simp only [execChunkRecv, State.nodeStep_of_acting hz hout hg hnd hst hcause hreply rfl, hop]

theorem execChunkSend_of_credit {peer : Nat} {cr : Nat × Nat × Nat × Nat} (hop : nd.op = .send peer) (hrun : st = .running)
    (hcredit : z.credits.find? (fun q => q.1 == nd.dst.val && q.2.2.2 == peer) = some cr) :
    let x := z.atNode n
    execChunkSend r n s = .next (
      if cr.2.1 = (x.entry nd.src).len ∧ cr.2.2.1 = nd.cls.val then s.goNode r x n (.sending 0) x.job.clk
      else (s.emitTo peer nd.cls (.mismatch x.gid x.number nd.dst.val)).endReplay r x 0x06) := by
  have hat : (z.atNode n).credits.find? (fun q => q.1 == nd.dst.val && q.2.2.2 == peer) = some cr := hcredit
  subst hrun
  simp only [execChunkSend, State.nodeStep_of_acting hz hout hg hnd hst hcause hreply rfl, hop, hat]

theorem execChunkSend_of_read {peer k : Nat} {vs : List Nat} {c : DWord} (hop : nd.op = .send peer) (hsend : st = .sending k) :
    let x := z.atNode n
    let e := x.entry nd.src
    let w := if e.len - k < 240 then (e.len - k) / 4 else 60
    (s.entryWords g e x.job k w).1 = .done vs c → execChunkSend r n s = .next
      (((s.entryWords g e x.job k w).2.emitTo peer nd.cls
          (.bytes x.gid x.number nd.dst.val k (bytesOfWords vs) (decide (e.len ≤ k + 4 * w)) c)).goNode r x n
        (if e.len ≤ k + 4 * w then .receiving 0 else .sending (k + 4 * w)) c) := by
  intro x e w hread
  subst hsend
  simp only [execChunkSend, State.nodeStep_of_acting hz hout hg hnd hst hcause hreply rfl, hop]
  rw [show s.entryWords g ((z.atNode n).entry nd.src) (z.atNode n).job k _ = (.done vs c, (s.entryWords g e x.job k w).2) from
    Prod.ext hread rfl]
  simp only [decide_eq_true_eq, x, e, w]

theorem execA2a_of_running (hop : nd.op = .a2a) (hrun : st = .running) :
    execA2a r n s = .next (s.a2aStart r n (z.atNode n) g nd) := by
  subst hrun
  simp only [execA2a, State.nodeStep_of_acting hz hout hg hnd hst hcause hreply rfl, hop]

theorem execA2a_of_counted {route : List (Nat × Nat × Nat)} {bad : Bool} {cs : List (Nat × Nat × Bool)} (hop : nd.op = .a2a)
    (hcounting : st = .counting route bad cs) (hall : cs.length = (s.groupMembers g.group).length) :
    execA2a r n s = .next (s.a2aJudge r n (z.atNode n) g nd route cs) := by
  subst hcounting
  simp only [execA2a, State.nodeStep_of_acting hz hout hg hnd hst hcause hreply rfl, hop, hall, if_true]

/-! ### The end of a node (R406) -/

omit hcause in
theorem execChunkNodeComplete_of_over (hover : st = .isOver) :
    let x1 := ((z.setNode n .done s.tide).countDown s.tide nd.succA).countDown s.tide nd.succB
    execChunkNodeComplete r n s = .next (if x1.nodes.all (· == .done) then s.endReplay r x1 0x00 else s.setReplay r x1) := by
  subst hover
  simp only [execChunkNodeComplete, hz, hreply, hg, Option.bind_some, hnd, hst, hout, Bool.false_eq_true, if_false]
  split <;> rfl

end

/-! ### Credits and the time of a node (R407, R409) -/

theorem execChunkCreditArrive_of_ready {s : State} {m r gid number to_ len cls peer : Nat} {z : Replay}
    (hm : s.ready m = some (.credit gid number to_ len cls peer))
    (hz : s.well.replays.find? (fun y => y.2.gid == gid && y.2.number == number) = some (r, z)) :
    execChunkCreditArrive m s = .next ((s.unpost m).setReplay r { z with credits := z.credits ++ [(to_, len, cls, peer)] }) := by
  simp only [execChunkCreditArrive, hm, hz]

theorem execReplayPeerTimeout_of_waiting {s : State} {r : Nat} {z : Replay} (hz : Tbl.find s.well.replays r = some z) (hcause : z.cause = 0)
    (hreply : z.job.reply = none) (hwaits : ∃ y ∈ z.nodes.zip z.since, y.1.waits = true ∧ y.2 + micros 100000 ≤ s.tide) :
    execReplayPeerTimeout r s = .next (s.endReplay r z 0x08) := by
  have hany : ((z.nodes.zip z.since).any fun e => e.1.waits && decide (e.2 + micros 100000 ≤ s.tide)) = true := by
    simpa only [List.any_eq_true, Bool.and_eq_true, decide_eq_true_eq] using hwaits
  simp only [execReplayPeerTimeout, hz, hcause, hreply, hany, Option.isNone_none, beq_self_eq_true, Bool.and_self, if_true]

/-- Settles O35, node by node, by where it stands. -/
theorem transferNodes : Obligations.TransferNodes := by
  unfold Obligations.TransferNodes
  intro s r n m peer k len cls gid number to_ x z g nd st cr vs c route bad cs e w hz hx hout hg hnd hst hcause hreply
  subst hx
  exact ⟨execChunkRecv_of_running hz hout hg hnd hst hcause hreply, execChunkSend_of_credit hz hout hg hnd hst hcause hreply,
    execChunkSend_of_read hz hout hg hnd hst hcause hreply, execA2a_of_running hz hout hg hnd hst hcause hreply,
    execA2a_of_counted hz hout hg hnd hst hcause hreply, execChunkCreditArrive_of_ready,
    fun hover => ⟨_, execChunkNodeComplete_of_over hz hout hg hnd hst hreply hover, rfl⟩,
    execReplayPeerTimeout_of_waiting hz hcause hreply⟩

end Sys2Proof.Machine
end

section
/-! SUPPORT and PROOF of O55. Pre-emptions and snaps: each event's equation where its guard holds. -/
namespace Sys2Proof.Machine

/-! ### Requests (R425) -/

/-- The instance that a write to PREQ names: a placed one, of the job, the ASID and the index of the word, which is no system's. -/
def Die.preemptNames (x : Die) (n : Nat) (e : Nat × Instance) : Bool :=
  e.2.placed && e.2.index == fld n 48 12 && (match x.launchRecOf e.2 with
    | some l => l.recd.job == fld n 0 32 && l.recd.asid.toNat == fld n 32 16 && !l.recd.sys
    | none => false)

/-- The pre-emption of an instance that has been found starts. -/
def State.preemptFound (s : State) (d : Nat) : Option (Nat × Instance) → Out
  | some (iid, i) => .next (s.startPreempt d iid i)
  | none => s.idle

theorem execPreemptRequest_of_named {s : State} {d iid : Nat} {v : BitVec 64} {i : Instance} (hbusy : (s.die d).busy = false)
    (htop : v.toNat < 2 ^ 60) (hfind : (s.die d).insts.find? ((s.die d).preemptNames v.toNat) = some (iid, i)) :
    execPreemptRequest d v s = .next (s.startPreempt d iid i) := by
  have hfield : fld v.toNat 60 4 = 0 := by unfold fld; omega
  refine (if_neg ?_).trans (congrArg (s.preemptFound d) hfind)
  rw [hbusy, hfield, bne_self_eq_false, Bool.or_self]
  exact Bool.false_ne_true

/-- The instance placed last of two. -/
def laterPlaced (b : Option (Nat × Instance)) (e : Nat × Instance) : Option (Nat × Instance) :=
  match b with
  | none => some e
  | some f => if f.2.stamp < e.2.stamp then some e else some f

theorem laterPlaced_mem (b : Option (Nat × Instance)) (f : Nat × Instance) : laterPlaced b f = some f ∨ laterPlaced b f = b := by
  cases b with
  | none => exact .inl rfl
  | some x =>
    simp only [laterPlaced]
    split
    · exact .inl rfl
    · exact .inr rfl

/-- Of two instances the one placed after every other is the later. -/
theorem laterPlaced_of_newest {b : Option (Nat × Instance)} {e f : Nat × Instance} (hb : ∀ x, b = some x → x ≠ e → x.2.stamp < e.2.stamp)
    (hf : f ≠ e → f.2.stamp < e.2.stamp) (he : b = some e ∨ f = e) : laterPlaced b f = some e := by
  cases b with
  | none => exact congrArg some (he.resolve_left nofun)
  | some x =>
    have hx : x ≠ e → x.2.stamp < e.2.stamp := hb x rfl
    rw [Option.some.injEq] at he
    simp only [laterPlaced]
    split <;> refine congrArg some (Classical.byContradiction fun hne => ?_)
    next hlt =>
      have := hf hne
      rw [he.resolve_right hne] at hlt
      omega
    next hge =>
      rw [he.resolve_left hne] at hge
      exact hge (hx hne)

theorem foldl_laterPlaced_of_newest {e : Nat × Instance} {es : List (Nat × Instance)} (hlast : ∀ f ∈ es, f ≠ e → f.2.stamp < e.2.stamp)
    (b : Option (Nat × Instance)) (hb : ∀ x, b = some x → x ≠ e → x.2.stamp < e.2.stamp) (he : b = some e ∨ e ∈ es) :
    es.foldl laterPlaced b = some e := by
  induction es generalizing b with
  | nil => exact he.resolve_right List.not_mem_nil
  | cons f fs ih =>
    obtain ⟨hf, hfs⟩ := List.forall_mem_cons.1 hlast
    refine ih hfs (laterPlaced b f) (fun x hx => ?_) ?_
    · rcases laterPlaced_mem b f with h | h
      · exact Option.some.inj (h.symm.trans hx) ▸ hf
      · exact hb x (h.symm.trans hx)
    · rw [List.mem_cons, ← or_assoc] at he
      exact he.imp_left fun he => laterPlaced_of_newest hb hf (he.imp_right Eq.symm)

theorem execAutoPreempt_of_newest {s : State} {d iid o : Nat} {i : Instance} {e : Nat × Launch} {rect : List Nat} (hautop : (s.die d).autop = true)
    (hbusy : (s.die d).busy = false) (hanchored : (s.die d).order.find? (fun e => e.2.anchored && e.2.cls == 3) = some e)
    (hfit : s.firstFit d e.1 e.2 (s.couldFree d) = some (o, rect)) (hin : (iid, i) ∈ s.inTheWay d rect)
    (hlast : ∀ f ∈ s.inTheWay d rect, f ≠ (iid, i) → f.2.stamp < i.stamp) :
    execAutoPreempt d s = .next (s.startPreempt d iid i) := by
  have hnewest : (s.inTheWay d rect).foldl laterPlaced none = some (iid, i) :=
    foldl_laterPlaced_of_newest hlast none nofun (.inr hin)
  obtain ⟨u, l⟩ := e
  simp only [execAutoPreempt, hautop, hbusy, hanchored, hfit, Bool.not_true, Bool.or_self, Bool.false_eq_true, if_false]
  split
  next h => cases h.symm.trans hnewest
  next h => cases h.symm.trans hnewest; rfl

/-! ### The three forms (R426 to R429) -/

theorem execSplicePointSave_of_torn {s : State} {p : Nat} {w : Preempt} (hsaving : s.saving p = some w) (hunder : (s.region p).modeUnder = .running)
    (hmode : (s.region p).mode = .running) (hsplice : (s.region p).atSplice = true) (htorn : s.tornAll p = true) :
    execSplicePointSave p s = .next (s.saveWhenSettled p 0) := by
  simp only [execSplicePointSave, hsaving, hunder, hmode, hsplice, htorn]
  rfl

/-- The regions of an instance into which a pre-emption injects its markers. -/
def State.toMark (s : State) (w : Preempt) (i : Instance) : List Nat :=
  i.places.filter fun q => decide (q < 256) && (s.region q).inst == w.inst &&
    ((s.region q).modeUnder.live || (s.region q).modeUnder == .draining) && !(s.region q).atSplice && !w.marked.contains q

theorem execPreemptMarkerInject_of_due {s : State} {d : Nat} {w : Preempt} {i : Instance} (hw : (s.die d).preempt = some w)
    (hi : Tbl.find (s.die d).insts w.inst = some i) (hdue : w.start + w.splTo ≤ s.tide) (hsome : s.toMark w i ≠ []) :
    execPreemptMarkerInject d s =
      .next (s.setDie d { s.die d with preempt := some { w with marked := w.marked ++ s.toMark w i } }) := by
  simp only [execPreemptMarkerInject, hw, hi]
  exact if_neg (not_or_intro (Nat.not_lt.2 hdue) hsome)

section
variable {s : State} {p : Nat} (hmoves : (s.region p).moves = true) (hcut : s.cutReady p = true) (hmarks : (s.region p).marksTaken = true)
include hmoves hcut hmarks

theorem execCutClose_of_snap {op : SnapOp} (hsnap : (s.region p).sif.snap = some op) : execCutClose p s = .next (s.snapSave p op 1) := by
  simp only [execCutClose, hmoves, hcut, hmarks, hsnap, Bool.not_true, Bool.or_self, Bool.false_eq_true, if_false]

theorem execCutClose_of_preempt {w : Preempt} (hsnap : (s.region p).sif.snap = none) (hsaving : s.saving p = some w)
    (hmode : (s.region p).mode ≠ .stopped) (hlatches : (s.region p).latchesClosed = true) :
    execCutClose p s = .next ((s.endRegionTiles p).saveWhenSettled p 1) := by
  simp only [execCutClose, hmoves, hcut, hmarks, hsnap, hsaving, hlatches, beq_eq_false_iff_ne.2 hmode, Bool.not_true, Bool.or_self,
    Bool.false_eq_true, if_false, if_true]

end

/-! ### A region freezes (R429, R434) -/

theorem State.freezeRegion_mode (s : State) (p : Nat) : ((s.freezeRegion p).region p).mode = .frozen := by
  simp only [State.freezeRegion, State.setRegion_region]

/-- A pre-emption freezes a region at SNAPTO after its markers, unless it has reached a splice point or its `snap` is already frozen. -/
theorem execFreeze_of_preempt {s : State} {p : Nat} {w : Preempt} (hsaving : s.saving p = some w) (hunder : (s.region p).modeUnder = .running)
    (hsnap : ∀ op, (s.region p).sif.snap = some op → op.frozen = false) (hsplice : (s.region p).atSplice = false)
    (hdue : w.start + w.splTo + w.snapTo ≤ s.tide) : execFreeze p s = .next (s.freezeRegion p) := by
  have hnone : (s.region p).sif.snap.filter (·.frozen) = none := by
    cases h : (s.region p).sif.snap with
    | none => rfl
    | some op => simp only [Option.filter, hsnap op h, Bool.false_eq_true, if_false]
  simp only [execFreeze, hsaving, hnone, hunder, hsplice, Nat.not_lt.2 hdue]
  rfl

theorem execFreeze_of_snap {s : State} {p : Nat} {op : SnapOp} (hsaving : s.saving p = none) (hsnap : (s.region p).sif.snap = some op) :
    execFreeze p s = s.freezeForSnap p op := by
  simp only [execFreeze, hsaving, hsnap]

theorem State.freezeForSnap_of_due {s : State} {p : Nat} {op : SnapOp} (hfrozen : op.frozen = false) (hmoves : (s.region p).moves = true)
    (hdue : op.since + micros (s.die (dieOfPlace p)).snapTo.toNat ≤ s.tide) :
    s.freezeForSnap p op = .next ((s.freezeRegion p).setRegion p { (s.freezeRegion p).region p with
      sif := { ((s.freezeRegion p).region p).sif with snap := some { op with frozen := true } } }) := by
  simp only [State.freezeForSnap, hfrozen, hmoves, Nat.not_lt.2 hdue, Bool.true_or, Bool.not_true, decide_false, Bool.or_self,
    Bool.false_eq_true, if_false]

theorem State.freezeForSnap_of_settled {s : State} {p : Nat} {op : SnapOp} (hfrozen : op.frozen = true) (hmode : (s.region p).mode = .frozen)
    (hclean : ∀ l ∈ (s.region p).stash, l.dirty = false) (hsettled : s.settled p = true) :
    s.freezeForSnap p op = .next ((s.snapSave p op 2).thaw p) := by
  have hdirty : (s.region p).stash.any (·.dirty) = false := by
    simpa only [List.any_eq_false, Bool.not_eq_true] using hclean
  simp only [State.freezeForSnap, hfrozen, hmode, hdirty, hsettled, bne_self_eq_false, Bool.false_eq_true, if_false, if_true]

/-! ### Resume (R433) -/

theorem execPreemptResume_of_next {s : State} {d u o iid : Nat} {l : Launch} {tried rect : List Nat} {i : Instance}
    (hnext : s.nextPlacement d (s.die d).allowed [] = some (u, l, tried, o, rect)) (hresume : l.resume = some iid)
    (hi : Tbl.find (s.die d).insts iid = some i) (hon : (s.wakeClusters d rect).1 = true) :
    let s2 := (s.wakeClusters d rect).2.markPlaced d u tried
    execPreemptResume d s = .next ((s2.setDie d
      ({ s2.die d with launches := Tbl.drop (s2.die d).launches u } : Die).turns).resumeInstance d iid i rect) := by
  have hwake : s.wakeClusters d rect = (true, (s.wakeClusters d rect).2) := Prod.ext hon rfl
  simp only [execPreemptResume, hnext, hresume, hi]
  rw [hwake]

/-- Settles O55, by the equation of each event. -/
theorem preemptionEvents : Obligations.PreemptionEvents := by
  unfold Obligations.PreemptionEvents
  intro s d p iid u o v i l w tried rect op named e x r
  refine ⟨?request, execAutoPreempt_of_newest, execSplicePointSave_of_torn, execPreemptMarkerInject_of_due,
    fun hmoves hcut hmarks => ⟨execCutClose_of_snap hmoves hcut hmarks, execCutClose_of_preempt hmoves hcut hmarks⟩,
    fun hsaving hunder hsnap hsplice hdue => ⟨_, execFreeze_of_preempt hsaving hunder hsnap hsplice hdue, s.freezeRegion_mode p⟩,
    fun hsaving hsnap => ⟨?freeze, ?frozen⟩, execPreemptResume_of_next⟩
  case request =>
    intro hnamed hbusy htop hfind
    subst hnamed
    exact execPreemptRequest_of_named hbusy htop hfind
  case freeze =>
    intro hfrozen hmoves hdue
    refine ⟨_, (execFreeze_of_snap hsaving hsnap).trans (State.freezeForSnap_of_due hfrozen hmoves hdue), ?_, ?_⟩ <;>
      rw [State.setRegion_region]
    exact s.freezeRegion_mode p
  case frozen =>
    intro hfrozen hmode hclean hsettled
    exact (execFreeze_of_snap hsaving hsnap).trans (State.freezeForSnap_of_settled hfrozen hmode hclean hsettled)

end Sys2Proof.Machine
end

section
/-! SUPPORT and PROOF of O56. The events of power and clocks by the equation of each where its guard holds. -/
namespace Sys2Proof.Machine

/-! ### Gating (R441, R442) -/

section
variable {s : State} {d c : Nat}

theorem execClusterGate_of_free (hc : c < 16) (hon : ((s.die d).cluster c).power = .on) (hdly : (s.die d).gateDly ≠ 0)
    (hfree : ∀ n ∈ regionsOfCluster c, s.regionFree d n = true) (hbasin : s.basinIn d c = false)
    (htime : ((s.die d).cluster c).freeFrom + micros (s.die d).gateDly.toNat ≤ s.tide) :
    execClusterGate d c s =
      .next (s.setDie d ((s.die d).setCluster c { (s.die d).cluster c with power := .entering (s.tide + micros 8) })) := by
  refine if_pos ?_
  simp only [hc, hon, hbasin, htime, bne_iff_ne.2 hdly, List.all_eq_true.2 hfree, beq_self_eq_true, decide_true, Bool.not_false, Bool.and_self]

theorem execClusterGateEntryComplete_of_due {due : Nat} (hpower : ((s.die d).cluster c).power = .entering due) (hdue : due ≤ s.tide) :
    execClusterGateEntryComplete d c s =
      .next (s.setDie d ((s.die d).setCluster c { (s.die d).cluster c with power := .gated })) := by
  simp only [execClusterGateEntryComplete, hpower, hdue, if_true]

theorem execClusterExitComplete_of_due {due : Nat} (hpower : ((s.die d).cluster c).power = .leaving due) (hdue : due ≤ s.tide) :
    execClusterExitComplete d c s = .next (s.setDie d ((s.die d).setCluster c { power := .on, freeFrom := s.tide })) := by
  simp only [execClusterExitComplete, hpower, hdue, if_true]

end

/-! ### Domains (R443) -/

section
variable {s : State} {d j : Nat} {v : BitVec 64}

theorem execDomainEntryWrite_of_refused (hj : j < 8) (hrefused : s.domainRefused d j v.toNat = true) :
    execDomainEntryWrite d j v s = .next (s.setDie d ((s.die d).setDomain j { (s.die d).domain j with err := true })) := by
  simp only [execDomainEntryWrite, hrefused, Nat.not_le.2 hj, if_false, if_true]

theorem execDomainEntryWrite_of_taken (hj : j < 8) (htaken : s.domainRefused d j v.toNat = false) :
    execDomainEntryWrite d j v s = .next (s.setDie d ((s.die d).setDomain j
      ({ ((s.die d).domain j).wanted v.toNat with err := false }.aim s.tide))) := by
  simp only [execDomainEntryWrite, htaken, Nat.not_le.2 hj, Bool.false_eq_true, if_false]

theorem execDomainClockStep_of_due {t : Nat} (hstep : ((s.die d).domain j).stepAt = some t) (htime : t ≤ s.tide)
    (hdiffer : ((s.die d).domain j).fcur ≠ ((s.die d).domain j).fcode) :
    execDomainClockStep d j s =
      let o := (s.die d).domain j
      let f := if o.fcur < o.fcode then o.fcur + 1 else o.fcur - 1
      .next (s.setDie d ((s.die d).setDomain j { o with fcur := f, stepAt := if f = o.fcode then none else some (t + micros 2) })) := by
  have hstepped {x y : Nat} (h : x ≠ y) : (if x < y then x + 1 else if y < x then x - 1 else x) = if x < y then x + 1 else x - 1 := by
    split
    · rfl
    · rw [if_pos (by omega)]
  simp only [execDomainClockStep, hstep, Nat.not_lt.2 htime, if_false, hstepped hdiffer, Domain.aim]

end

/-- Settles O56, by the equation of each event. -/
theorem powerEvents : Obligations.PowerEvents := by
  unfold Obligations.PowerEvents
  intro s d c j due t f v x k o
  refine ⟨execClusterGate_of_free, execClusterGateEntryComplete_of_due, execClusterExitComplete_of_due, execDomainEntryWrite_of_refused,
    fun hj htaken => ⟨_, execDomainEntryWrite_of_taken hj htaken, rfl, rfl, rfl, rfl, rfl, rfl, rfl, rfl⟩, fun hstep htime hdiffer hf => ?step⟩
  case step => rw [hf]; exact execDomainClockStep_of_due hstep htime hdiffer

end Sys2Proof.Machine
end

section
/-! SUPPORT and PROOF of O57. A start by whether one of its stages fails; an access of the host by the state of the device and its range. -/
namespace Sys2Proof.Machine

/-! ### Starts (R449 to R451) -/

theorem execPowerOn_of_starting {s : State} (h : s.boot.st = 0) :
    execPowerOn s = .next (({ s with fw := { s.fw with image := Config.firmwareImage 3 s.fw.starts } } : State).start false) :=
  if_neg (not_not_intro h)

theorem execColdStart_of_started {s : State} (h : s.boot.st ≠ 0) : execColdStart s = .next (s.start false) := if_neg h

theorem execWarmStart_of_started {s : State} (h : s.boot.st ≠ 0) : execWarmStart s = .next (s.start s.fw.saved) := if_neg h

/-- A start in which no stage fails leaves the machine as the start finds it, its device memory cleared, in RUN. -/
theorem State.start_of_passed {s : State} {warm : Bool} (h : s.stopped.failedStage warm = 0) :
    s.start warm = { s.stopped.clearMemory with
      boot := { stage := 7, warm := warm, fail := 0, st := 1 }, prot := Config.protectedRanges,
      well := s.stopped.clearMemory.well.routed (Config.routes s.stopped.fw.starts),
      fw := { s.stopped.clearMemory.fw with saved := true, log := s.stopped.measured, verified := some (sha512 s.stopped.fw.image) } } := by
  simp only [State.start, h, ne_eq, not_true_eq_false, if_false]

theorem State.start_of_failed {s : State} {warm : Bool} (h : s.stopped.failedStage warm ≠ 0) :
    s.start warm = { s.stopped with
      boot := { stage := s.stopped.failedStage warm, warm := warm, fail := s.stopped.failedStage warm, st := 2 },
      fw := { s.stopped.fw with saved := s.stopped.fw.saved || decide (3 < s.stopped.failedStage warm) } } := by
  simp only [State.start, h, ne_eq, not_false_eq_true, if_true]

/-- No byte of the package's device memory is listed once it has been cleared: each reads as zero. -/
theorem State.clearMemory_mem (s : State) : ∀ c ∈ s.clearMemory.mem, s.deviceMemory c.1 = false := by
  intro c hc
  simpa using (List.mem_filter.1 hc).2

/-! ### Accesses of the host (R448) -/

section
variable {s : State} {a n : Nat}

theorem execHostMemLoad_of_run (hrun : s.boot.st = 1) (hin : a + n ≤ deviceBytes) :
    let pa := s.well.pkg * 2 ^ 39 + a
    let s1 := (linesOf pa n).foldl (fun s l => s.recallNow l false) s
    execHostMemLoad a n s = .next (s1.hostGets (if (linesOf pa n).any s1.homePoisoned then none else some (Memory.bytes s1.mem pa n))) := by
  simp only [execHostMemLoad, Nat.not_lt.2 hin, hrun, ne_eq, not_true_eq_false, if_false]

theorem execHostMemLoad_of_notRun (hrun : s.boot.st ≠ 1) (hin : a + n ≤ deviceBytes) : execHostMemLoad a n s = .next (s.hostGets none) := by
  simp only [execHostMemLoad, Nat.not_lt.2 hin, hrun, ne_eq, not_false_eq_true, if_false, if_true]

end

section
variable {s : State} {a : Nat} {bytes : List Byte}

theorem execHostMemStore_of_notRun (hrun : s.boot.st ≠ 1) (hin : a + bytes.length ≤ deviceBytes) : execHostMemStore a bytes s = .next s := by
  simp only [execHostMemStore, Nat.not_lt.2 hin, hrun, ne_eq, not_false_eq_true, if_false, if_true, State.idle]

/-- A range within one line is one piece. -/
theorem piecesOf_of_oneLine {pa n : Nat} (hn : n ≠ 0) (hline : pa % 64 + n ≤ 64) : piecesOf pa n = [(pa, n)] := by
  have hfirst : (if n < 64 - pa % 64 then n else 64 - pa % 64) = n := by split <;> omega
  simp only [piecesOf, linePieces, hn, hfirst, Nat.sub_self, if_false, if_true]

theorem execHostMemStore_of_oneLine (hrun : s.boot.st = 1) (hin : a + bytes.length ≤ deviceBytes) (hsome : bytes ≠ [])
    (hline : a % 64 + bytes.length ≤ 64) :
    execHostMemStore a bytes s = .next (s.hostStore (s.well.pkg * 2 ^ 39 + a) bytes.length (leValue bytes)) := by
  have hpieces : piecesOf (s.well.pkg * 2 ^ 39 + a) bytes.length = [(s.well.pkg * 2 ^ 39 + a, bytes.length)] :=
    piecesOf_of_oneLine (fun h => hsome (List.eq_nil_of_length_eq_zero h)) (by omega)
  simp only [execHostMemStore, Nat.not_lt.2 hin, hrun, hpieces, ne_eq, not_true_eq_false, if_false, List.foldl_cons, List.foldl_nil,
    List.take_length]

theorem State.hostStore_mem (s : State) (pa n v : Nat) :
    (s.hostStore pa n v).mem = Memory.writeLE (s.recallNow (lineOf pa) true).mem pa n v := by
  simp only [State.hostStore, State.setDie_mem, State.homeWrite_mem]

end

/-- Settles O57, by the stages of a start and the branches of an access. -/
theorem startsAndHostAccesses : Obligations.StartsAndHostAccesses := by
  unfold Obligations.StartsAndHostAccesses
  intro s a n bytes warm pa
  refine ⟨execPowerOn_of_starting, fun h => ⟨execColdStart_of_started h, execWarmStart_of_started h⟩, fun hpassed => ?passed, fun hfailed => ?failed,
    execHostMemLoad_of_run, execHostMemLoad_of_notRun, execHostMemStore_of_notRun,
    fun hrun hin _ hsome hline => ⟨_, execHostMemStore_of_oneLine hrun hin hsome hline, State.hostStore_mem _ _ _ _⟩,
    execHostMemLoad_outside a n s, execHostMemStore_outside a bytes s⟩
  case passed =>
    rw [State.start_of_passed hpassed]
    exact ⟨rfl, rfl, rfl, rfl, rfl, State.clearMemory_mem s.stopped⟩
  case failed => rw [State.start_of_failed hfailed]; exact ⟨rfl, rfl⟩

end Sys2Proof.Machine
end

section
/-! SUPPORT and PROOF of O59. The requests of the management mailbox, each by its equation where it is not refused. -/
namespace Sys2Proof.Machine

/-! ### A request that is served (R458; log entry 7) -/

section
variable {s : State}

theorem State.mgmtRequest_of_ok {code : Nat} {ws : List DWord} {f : Except Nat State} {s1 : State} (hrun : s.boot.st = 1) (hf : f = .ok s1) :
    s.mgmtRequest code ws f = .next (s1.mgmtDone code ws 0) := by
  subst hf
  simp only [State.mgmtRequest, hrun, bne_self_eq_false, Bool.false_eq_true, if_false]

/-- A request that names regions acts on them: a region is named by an attachment. -/
theorem State.onRegions_of_named {place : Nat} (hnamed : s.allNamed place ≠ []) (f : List Nat → Except Nat State) :
    s.onRegions place f = f (s.allNamed place) := by
  have hattached : s.attach.isEmpty = false := by
    cases h : s.attach with
    | nil => exact absurd (by simp only [State.allNamed, h, List.filter_nil, List.flatMap_nil]) hnamed
    | cons e es => rfl
  simp only [State.onRegions, hattached, List.isEmpty_eq_false_iff.2 hnamed, Bool.false_eq_true, if_false]

end

/-! ### Requests on named regions (R458, R459) -/

/-- A comparator of a kind is armed in the lowest free place of a region, where there is one. -/
def State.armed (kind : Nat) (w2 : DWord) (s : State) (p : Nat) : State :=
  match (s.region p).freeComparator with
  | some k => s.setRegion p { s.region p with comps := Tbl.put (s.region p).comps k { kind := kind, w2 := w2, hits := 0 } }
  | none => s

theorem State.armed_mem (kind : Nat) (w2 : DWord) (s : State) (p : Nat) : (s.armed kind w2 p).mem = s.mem := by
  unfold State.armed; split <;> rfl

section
variable {s : State} {w1 : DWord} {place : Nat} (hrun : s.boot.st = 1) (hplace : fld w1.toNat 4 10 = place) (hnamed : s.allNamed place ≠ [])
include hrun hplace hnamed

theorem execBreakArm_of_free {w2 : DWord} (hn : w1.toNat < 2 ^ 14) (hok : breakOk (w1.toNat % 16) w2.toNat = true)
    (hfree : ∀ p ∈ s.allNamed place, (s.region p).freeComparator ≠ none) :
    execBreakArm w1 w2 s = .next (((s.allNamed place).foldl (State.armed (w1.toNat % 16) w2) s).mgmtDone 0x03 [w1, w2] 0) := by
  have hnone : (s.allNamed place).any (fun p => (s.region p).freeComparator.isNone) = false := by
    simpa only [List.any_eq_false, Option.isNone_iff_eq_none] using hfree
  refine State.mgmtRequest_of_ok hrun ?_
  simp only [Nat.div_eq_of_lt hn, hok, hplace, State.onRegions_of_named hnamed, hnone, ne_eq, not_true_eq_false, Bool.not_true,
    Bool.false_eq_true, or_self, if_false]
  rfl

theorem execBreakDisarm_of_armed (hn : w1.toNat < 2 ^ 14) (hk : w1.toNat % 16 < 4)
    (harmed : ∃ p ∈ s.allNamed place, Tbl.find (s.region p).comps (w1.toNat % 16) ≠ none) :
    execBreakDisarm w1 s = .next (((s.allNamed place).foldl (fun s p =>
      s.setRegion p { s.region p with comps := Tbl.drop (s.region p).comps (w1.toNat % 16) }) s).mgmtDone 0x04 [w1] 0) := by
  have hlow : w1.toNat % 4 = w1.toNat % 16 := by omega
  have hhigh : fld w1.toNat 2 2 = 0 := by unfold fld; omega
  have hsome : (s.allNamed place).all (fun p => (Tbl.find (s.region p).comps (w1.toNat % 16)).isNone) = false := by
    simpa only [List.all_eq_false, Option.isNone_iff_eq_none] using harmed
  refine State.mgmtRequest_of_ok hrun ?_
  simp only [Nat.div_eq_of_lt hn, hhigh, hlow, hplace, State.onRegions_of_named hnamed, hsome, ne_eq, not_true_eq_false,
    Bool.false_eq_true, or_self, if_false]

theorem execDebugStop_of_named (hn : w1.toNat < 2 ^ 14) (hlow : w1.toNat % 16 = 0) :
    execDebugStop w1 s = .next (((s.allNamed place).foldl (fun s p => s.setRegion p (s.region p).hold) s).mgmtDone 0x05 [w1] 0) := by
  refine State.mgmtRequest_of_ok hrun ?_
  simp only [Nat.div_eq_of_lt hn, hlow, hplace, State.onRegions_of_named hnamed, ne_eq, not_true_eq_false, or_self, if_false]

theorem execDebugResume_of_still (hn : w1.toNat < 2 ^ 14) (hlow : w1.toNat % 16 = 0)
    (hstill : ∃ p ∈ s.allNamed place, (s.region p).mode = .held ∨ (s.region p).mode = .halted ∨ (s.region p).stops ≠ []) :
    execDebugResume w1 s =
      .next ((((s.allNamed place).filter fun p => (s.region p).standsStill).foldl State.letGo s).mgmtDone 0x06 [w1] 0) := by
  have hsome : ((s.allNamed place).filter fun p => (s.region p).standsStill).isEmpty = false := by
    obtain ⟨p, hp, hstands⟩ := hstill
    refine List.isEmpty_eq_false_iff_exists_mem.2 ⟨p, List.mem_filter.2 ⟨hp, ?_⟩⟩
    rcases hstands with h | h | h <;> simp [Region.standsStill, h]
  refine State.mgmtRequest_of_ok hrun ?_
  simp only [Nat.div_eq_of_lt hn, hlow, hplace, State.onRegions_of_named hnamed, hsome, ne_eq, not_true_eq_false, Bool.false_eq_true, or_self,
    if_false]

theorem execDebugRead_of_record {w2 w3 w4 : DWord} (hn : w1.toNat < 2 ^ 16) (hlow : w1.toNat % 16 = 0) (hwhat : fld w1.toNat 14 2 = 1)
    (hhost : w3.toNat + w4.toNat ≤ 2 ^ 51) (hid : w2.toNat < 2 ^ 20) (halloc : (s.record w2.toNat).alloc = true)
    (hasid : (s.record w2.toNat).asid = (s.region ((s.allNamed place).headD 0)).asid) :
    execDebugRead w1 w2 w3 w4 s =
      .next ((s.toHost w3.toNat ((s.record w2.toNat).image512.take w4.toNat)).mgmtDone 0x07 [w1, w2, w3, w4] 0) := by
  refine State.mgmtRequest_of_ok hrun ?_
  simp only [Nat.div_eq_of_lt hn, hlow, hplace, hwhat, Nat.not_lt.2 hhost, Nat.not_le.2 hid, halloc, hasid, State.onRegions_of_named hnamed,
    ne_eq, not_true_eq_false, bne_self_eq_false, Bool.not_true, Bool.false_eq_true, or_self, if_false]

end

/-! ### Requests on the attachment made last (R457, R458) -/

section
variable {s : State} {w1 : DWord} {a : Nat} {x : Attachment} (hrun : s.boot.st = 1) (hlast : s.attached = some (a, x))
include hrun

include hlast in
theorem execDebugTrace_of_free {w2 w3 : DWord} {k : Nat} (hdbg : (s.asidOf x.asid.toNat).dbg = true) (hkind : w1.toNat ≤ 3) (hk : k < 16)
    (hbelow : ∀ i < k, Tbl.find x.traces i ≠ none) (hfree : Tbl.find x.traces k = none) :
    execDebugTrace w1 w2 w3 s = .next (({ s with attach := Tbl.put s.attach a { x with
      traces := Tbl.put x.traces k { kind := w1.toNat, obj := w2, len := w3 } } } : State).mgmtDone 0x08 [w1, w2, w3] 0) := by
  have hlowest : (List.range 16).find? (fun k => (Tbl.find x.traces k).isNone) = some k := by
    simp only [List.find?_range_eq_some, hfree, Option.isNone_none, List.mem_range, hk, true_and, Bool.not_eq_true', Option.isNone_eq_false_iff,
      Option.isSome_iff_ne_none]
    exact hbelow
  refine State.mgmtRequest_of_ok hrun ?_
  simp only [Nat.not_lt.2 hkind, hlast, hdbg, hlowest, Bool.not_true, Bool.false_eq_true, if_false]

include hlast in
theorem execDebugUntrace_of_traced (hk : w1.toNat < 16) (htraced : Tbl.find x.traces w1.toNat ≠ none) :
    execDebugUntrace w1 s = .next (({ s with attach := Tbl.put s.attach a { x with traces := Tbl.drop x.traces w1.toNat } } : State).mgmtDone
      0x09 [w1] 0) := by
  refine State.mgmtRequest_of_ok hrun ?_
  simp only [Nat.not_le.2 hk, hlast, Option.isNone_eq_false_iff.2 (Option.isSome_iff_ne_none.2 htraced), Bool.false_eq_true, if_false]

theorem execDetach_of_attached (hx : Tbl.find s.attach a = some x) : execDetach a s = .next ((s.detachNow a x).mgmtDone 0x02 [] 0) := by
  refine State.mgmtRequest_of_ok hrun ?_
  simp only [hx]

end

/-! ### Attaching (R457, R458) -/

/-- The instances that an attach request names: of its job, ASID and index, on every die. -/
def State.instancesNamed (s : State) (n : Nat) : List (Nat × Nat) :=
  (List.range 4).flatMap fun d => ((s.die d).insts.filter fun e => e.2.index == fld n 48 12 && (match (s.die d).launchRecOf e.2 with
    | some l => l.recd.job == fld n 0 32 && l.recd.asid == BitVec.ofNat 16 (fld n 32 16)
    | none => false)).map fun e => (d, e.1)

theorem hostPa_of_lt {a : Nat} (h : a < 2 ^ 51) : hostPa a = 2 ^ 51 + a := by
  rw [hostPa, Nat.mod_eq_of_lt h]

theorem execAttach_of_free {s : State} {w1 w2 w3 : DWord} (hrun : s.boot.st = 1) (htop : fld w1.toNat 60 4 = 0) (hpage : w2.toNat % 4096 = 0)
    (hbase : w2.toNat < 2 ^ 51) (hleast : 1 ≤ w3.toNat) (hmost : w3.toNat ≤ 4096) (hfound : s.instancesNamed w1.toNat ≠ [])
    (hdbg : (s.asidOf (BitVec.ofNat 16 (fld w1.toNat 32 16)).toNat).dbg = true)
    (hnew : ∀ e ∈ s.attach, ∀ i ∈ e.2.insts, i ∉ s.instancesNamed w1.toNat) :
    execAttach w1 w2 w3 s = .next (({ s with
      attach := Tbl.put s.attach (Tbl.nextKey s.attach)
        { insts := s.instancesNamed w1.toNat, asid := BitVec.ofNat 16 (fld w1.toNat 32 16), base := w2.toNat, size := w3.toNat, prod := 0,
          dropped := 0, traces := [] },
      mem := Memory.writeLE (Memory.writeLE s.mem (hostPa w2.toNat) 4 0) (hostPa w2.toNat + 8) 4 0 } : State).mgmtDone 0x01 [w1, w2, w3] 0) := by
  have hwords : ¬ (fld w1.toNat 60 4 ≠ 0 ∨ w2.toNat % 4096 ≠ 0 ∨ 2 ^ 51 ≤ w2.toNat ∨ w3.toNat < 1 ∨ 4096 < w3.toNat) := by omega
  have hattached : (s.attach.any fun e => e.2.insts.any (s.instancesNamed w1.toNat).contains) = false := by
    simpa only [List.any_eq_false, List.any_eq_true, not_exists, not_and, List.contains_iff_mem] using hnew
  refine State.mgmtRequest_of_ok hrun ((if_neg hwords).trans ((if_neg ?_).trans (if_neg ?_)))
  · rw [hdbg, Bool.not_true, Bool.or_false]
    exact Bool.not_eq_true _ ▸ List.isEmpty_eq_false_iff.2 hfound
  · exact Bool.not_eq_true _ ▸ hattached

/-- Settles O59, request by request. -/
theorem debugRequests : Obligations.DebugRequests := by
  unfold Obligations.DebugRequests
  constructor
  · intro s a place kind k x w1 w2 w3 w4 named n hrun hlast hx
    refine ⟨fun hn hnamed hplace => ⟨?arm, ?disarm, execDebugStop_of_named hrun hplace hnamed hn, execDebugResume_of_still hrun hplace hnamed hn⟩,
      ?read, execDebugTrace_of_free hrun hlast, fun _ => execDebugUntrace_of_traced hrun hlast, execDetach_of_attached hrun hx⟩
    case arm =>
      intro hkind hok hfree
      subst hkind
      exact ⟨_, execBreakArm_of_free hrun hplace hnamed hn hok hfree, foldl_mem _ _ _ (State.armed_mem _ _), rfl⟩
    case disarm =>
      intro hk hlt harmed
      subst hk
      exact execBreakDisarm_of_armed hrun hplace hnamed hn hlt harmed
    case read =>
      intro hn hnamed hlow hplace hwhat
      exact execDebugRead_of_record hrun hplace hnamed hn hlow hwhat
  · intro s w1 w2 w3 found n asid hfound hrun htop hpage hbase hleast hmost hsome hdbg hnew
    have hnamed : found = s.instancesNamed n := hfound
    subst hnamed
    refine ⟨_, execAttach_of_free hrun htop hpage hbase hleast hmost hsome hdbg hnew, rfl, ?_, rfl⟩
    rw [← hostPa_of_lt hbase]
    rfl

end Sys2Proof.Machine
end

section
/-! SUPPORT and PROOF of O60. The responder's answer to each request; where a soft error marks what it is found in. -/
namespace Sys2Proof.Machine

/-! ### Attestation (R455, R456; log entry 6) -/

section
variable {s : State} (hrun : s.boot.st = 1)
include hrun

theorem State.spdmSay_of_run (code : Nat) (body : List Byte) :
    s.spdmSay code body = .next { s with fw := { s.fw with spdm := s.fw.spdm ++ [(code, body)] } } :=
  if_neg (not_not_intro hrun)

theorem State.spdmAfter_of_negotiated (hneg : s.fw.negotiated = true) (code : Nat) {ok : Bool} (hok : ok = true) (body : List Byte) :
    s.spdmAfter code ok body = .next { s with fw := { s.fw with spdm := s.fw.spdm ++ [(code, body)] } } := by
  rw [State.spdmAfter, hneg, hok, Bool.and_self, if_pos rfl, State.spdmSay_of_run hrun]

theorem State.spdmAfter_of_notNegotiated (hneg : s.fw.negotiated = false) (code : Nat) (ok : Bool) (body : List Byte) :
    s.spdmAfter code ok body = .next { s with fw := { s.fw with spdm := s.fw.spdm ++ [(0x7F, [])] } } := by
  rw [State.spdmAfter, hneg, Bool.false_and, if_neg Bool.false_ne_true, State.spdmSay_of_run hrun, spdmError]

theorem execGetVersion_of_run :
    execGetVersion s = .next { s with fw := { s.fw with spdm := s.fw.spdm ++ [(0x04, Config.spdmBody 0x84 [])] } } := by
  rw [execGetVersion, State.spdmSay_of_run hrun]

theorem execGetCapabilities_of_run :
    execGetCapabilities s = .next { s with fw := { s.fw with spdm := s.fw.spdm ++ [(0x61, Config.spdmBody 0xE1 [])] } } := by
  rw [execGetCapabilities, State.spdmSay_of_run hrun]

theorem execNegotiateAlgorithms_of_offered (hsign : bit s.fw.offer.1 5 = true) (hhash : bit s.fw.offer.2 2 = true) :
    execNegotiateAlgorithms s = .next { s with fw := { s.fw with
      negotiated := true, spdm := s.fw.spdm ++ [(0x63, leBytes 4 (2 ^ 5) ++ leBytes 4 (2 ^ 2) ++ Config.spdmBody 0xE3 [])] } } := by
  rw [execNegotiateAlgorithms, hsign, hhash, Bool.and_self, if_pos rfl, State.spdmSay_of_run (by exact hrun)]
  simp only [hrun, beq_self_eq_true, Bool.or_true]

theorem execNegotiateAlgorithms_of_notOffered (hoffer : (bit s.fw.offer.1 5 && bit s.fw.offer.2 2) = false) :
    execNegotiateAlgorithms s = .next { s with fw := { s.fw with spdm := s.fw.spdm ++ [(0x7F, [])] } } := by
  rw [execNegotiateAlgorithms, hoffer, if_neg Bool.false_ne_true, State.spdmSay_of_run hrun, spdmError]

section
variable (hneg : s.fw.negotiated = true)
include hneg

theorem execGetDigests_of_negotiated :
    execGetDigests s = .next { s with fw := { s.fw with
      spdm := s.fw.spdm ++ [(0x01, leBytes 64 (sha512 Config.certificateChain).toNat)] } } := by
  rw [execGetDigests, State.spdmAfter_of_negotiated hrun hneg _ rfl]

theorem execGetCertificate_of_negotiated (off len : Nat) :
    execGetCertificate 0 off len s = .next { s with fw := { s.fw with
      spdm := s.fw.spdm ++ [(0x02, (Config.certificateChain.drop off).take len)] } } := by
  rw [execGetCertificate, beq_self_eq_true, State.spdmAfter_of_negotiated hrun hneg _ rfl]

theorem execChallenge_of_negotiated (nonce : List Byte) :
    execChallenge 0 nonce s = .next { s with fw := { s.fw with
      spdm := s.fw.spdm ++ [(0x03, Config.spdmBody 0x83 nonce ++ Config.signature (Config.spdmBody 0x83 nonce ++ nonce))] } } := by
  rw [execChallenge, beq_self_eq_true, State.spdmAfter_of_negotiated hrun hneg _ rfl]

/-- The block of one index is one measurement, signed with the nonce where that is asked. -/
theorem execGetMeasurements_of_block {index : Nat} (hleast : 1 ≤ index) (hmost : index ≤ 4) (signed : Bool)
    (nonce : List Byte) :
    let b := leBytes 64 (s.fw.log.getD (index - 1) 0).toNat
    execGetMeasurements index signed nonce s = .next { s with fw := { s.fw with
      spdm := s.fw.spdm ++ [(0x60, if signed then b ++ Config.signature (b ++ nonce) else b)] } } := by
  have hzero : index ≠ 0 := by omega
  have hall : index ≠ 0xFF := by omega
  intro b
  simp only [execGetMeasurements, hzero, hall, if_false]
  exact State.spdmAfter_of_negotiated hrun hneg _ (by rw [decide_eq_true hmost, Bool.true_or]) _

end

/-- Before the algorithms have been negotiated each request that asks for them is answered with an error. -/
theorem exec_of_notNegotiated (hneg : s.fw.negotiated = false) (slot off len index : Nat) (nonce : List Byte) (signed : Bool) :
    ∀ q ∈ [Instr.getDigests, .getCertificate slot off len, .challenge slot nonce, .getMeasurements index signed nonce],
      exec q s = .next { s with fw := { s.fw with spdm := s.fw.spdm ++ [(0x7F, [])] } } := by
  have herror (code : Nat) (ok : Bool) (body : List Byte) := State.spdmAfter_of_notNegotiated hrun hneg code ok body
  intro q hq
  simp only [List.mem_cons, List.not_mem_nil, or_false] at hq
  rcases hq with rfl | rfl | rfl | rfl <;> exact herror _ _ _

end

/-! ### Marks in lists (R423) -/

theorem contains_insertSorted (n : Nat) (l : List Nat) : (insertSorted n l).contains n = true := by
  induction l with
  | nil => simp [insertSorted]
  | cons k t ih =>
    simp only [insertSorted]
    split
    · simp only [List.contains_cons, beq_self_eq_true, Bool.true_or]
    · split
      · next heq => simp only [List.contains_cons, heq, beq_self_eq_true, Bool.true_or]
      · simp only [List.contains_cons, ih, Bool.or_true]

/-- A list with the element at one place changed. -/
def changedAt {α : Type} (l : List α) (i : Nat) (f : α → α) : List α :=
  (l.zip (List.range l.length)).map fun e => if e.2 = i then f e.1 else e.1

theorem getElem?_changedAt {α : Type} (l : List α) (i j : Nat) (f : α → α) :
    (changedAt l i f)[j]? = l[j]?.map fun a => if j = i then f a else a := by
  rcases Nat.lt_or_ge j l.length with hj | hj <;> simp [changedAt, hj]

theorem getElem?_changedAt_same {α : Type} {l : List α} {i : Nat} {a : α} (h : l[i]? = some a) (f : α → α) : (changedAt l i f)[i]? = some (f a) := by
  rw [getElem?_changedAt, h, Option.map_some, if_pos rfl]

theorem getElem?_changedAt_other {α : Type} (l : List α) {i j : Nat} (hij : j ≠ i) (f : α → α) : (changedAt l i f)[j]? = l[j]? := by
  simp only [getElem?_changedAt, hij, if_false, Option.map_id']

/-! ### Soft errors (R423) -/

theorem configured_of_cell {r : Region} {c : Nat} {x : Cell} (hc : c < 512) (hx : Tbl.find r.cells c = some x) : r.configured c = true := by
  rw [Region.configured, if_pos hc, hx, Option.isSome_some]

theorem execSoftErrorDetect_lane (i : Nat) (s : State) :
    execSoftErrorDetect (.lane i) s = .next { s with lanes := changedAt s.lanes i (·.poisonWith 4) } := rfl

theorem execSoftErrorDetect_homeBasin (i : Nat) (s : State) :
    execSoftErrorDetect (.homeBasin i) s = .next { s with basins := changedAt s.basins i fun b => { b with hpsn := true } } := rfl

/-- An error in the word of a cell faults the cell; the outputs of a router-only cell alone stop. -/
theorem State.poisonWord_of_word {s : State} {p c : Nat} (hc : c < 512) (hword : (s.cell p c).word ≠ none) :
    s.poisonWord p c = (s.setCell p c (s.cell p c)).cellFault p c .soft 1 0 0 none := by
  simp only [State.poisonWord, hc, Option.isSome_iff_ne_none.2 hword, if_true]

/-- Settles O60: the requests by whether the algorithms have been negotiated, the errors by where they are found. -/
theorem attestationAndErrors : Obligations.AttestationAndErrors := by
  unfold Obligations.AttestationAndErrors
  intro s l p c i off len slot index nonce signed answers x
  refine ⟨fun hrun => ?attest, ?home, ?stash, ?acc, ?lane, ?basin, ?record, ?cell, ?sequencer⟩
  case attest =>
    exact ⟨execGetVersion_of_run hrun, execGetCapabilities_of_run hrun, execNegotiateAlgorithms_of_offered hrun,
      execNegotiateAlgorithms_of_notOffered hrun, fun hneg => ⟨execGetDigests_of_negotiated hrun hneg,
        execGetCertificate_of_negotiated hrun hneg off len, execChallenge_of_negotiated hrun hneg nonce,
        fun hleast hmost => execGetMeasurements_of_block hrun hneg hleast hmost signed nonce⟩,
      fun hneg => exec_of_notNegotiated hrun hneg slot off len index nonce signed⟩
  case home => exact ⟨_, rfl, contains_insertSorted _ _, rfl, rfl⟩
  case stash =>
    refine ⟨_, rfl, fun y hy hline => ?_, rfl⟩
    rw [State.setRegion_region] at hy
    obtain ⟨z, _, rfl⟩ := List.mem_map.1 hy
    split at hline <;> simp_all
  case acc =>
    refine ⟨_, rfl, ?_, rfl⟩
    rw [State.setRegion_region]
    simp
  case lane =>
    exact fun ln hln => ⟨_, execSoftErrorDetect_lane i s, getElem?_changedAt_same hln (·.poisonWith 4),
      fun j hj => getElem?_changedAt_other s.lanes hj (·.poisonWith 4), rfl, rfl⟩
  case basin =>
    exact fun b hb => ⟨_, execSoftErrorDetect_homeBasin i s, getElem?_changedAt_same hb fun b => { b with hpsn := true },
      fun j hj => getElem?_changedAt_other s.basins hj fun b => { b with hpsn := true }, rfl, rfl⟩
  case record => rfl
  case sequencer => rfl
  case cell =>
    intro hc hx hword
    exact (if_pos (configured_of_cell hc hx)).trans (congrArg Host.Outcome.next (State.poisonWord_of_word hc hword))

end Sys2Proof.Machine
end

section
/-! SUPPORT and PROOF of O12 and O13. Each integer word and each scalar f32 word is one of a few forms, and each form completes. -/
namespace Sys2Proof.Machine

/-! ### Integer words (R145 to R147) -/

theorem exec_of_alu {i : Instr} {s : State} {rd ra rb : Reg} {f : DWord → DWord → DWord} {v : DWord} (hi : exec i s = s.alu rd ra rb f)
    (hv : f (s.mine.get ra) (s.mine.get rb) = v) : exec i s = .next (s.wrote rd v) := by
  rw [hi, State.alu, hv, State.writes_eq]

theorem exec_of_aluImm {i : Instr} {s : State} {rd ra : Reg} {f : DWord → DWord} {v : DWord} (hi : exec i s = s.aluImm rd ra f)
    (hv : f (s.mine.get ra) = v) : exec i s = .next (s.wrote rd v) := by
  rw [hi, State.aluImm, hv, State.writes_eq]

theorem exec_of_writes {i : Instr} {s : State} {rd : Reg} {v : DWord} (hi : exec i s = s.writes rd v) : exec i s = .next (s.wrote rd v) := by
  rw [hi, State.writes_eq]

theorem minS_eq (a b : DWord) : minS a b = if a.toInt ≤ b.toInt then a else b := by
  simp only [minS, ← Int.not_lt, ite_not]
theorem maxS_eq (a b : DWord) : maxS a b = if a.toInt ≤ b.toInt then b else a := by
  by_cases h : a.toInt < b.toInt
  · simp only [maxS, h, h.le, if_true]
  · by_cases heq : a.toInt = b.toInt
    · simp only [BitVec.eq_of_toInt_eq heq, maxS, ite_self]
    · simp only [maxS, h, if_false, show ¬ a.toInt ≤ b.toInt by omega]
theorem minU_eq (a b : DWord) : minU a b = if a.toNat ≤ b.toNat then a else b := by
  simp only [minU, ← Nat.not_lt, ite_not]
theorem maxU_eq (a b : DWord) : maxU a b = if a.toNat ≤ b.toNat then b else a := by
  by_cases h : a.toNat < b.toNat
  · simp only [maxU, h, h.le, if_true]
  · by_cases heq : a.toNat = b.toNat
    · simp only [BitVec.eq_of_toNat_eq heq, maxU, ite_self]
    · simp only [maxU, h, if_false, show ¬ a.toNat ≤ b.toNat by omega]

theorem flag64_decide (p : Prop) [Decidable p] : flag64 (decide p) = if p then 1 else 0 := by simp [flag64]

/-- Bit i of a register after a half has been replaced (R147). -/
theorem insertHalf_getLsbD (v : DWord) (k : BitVec 2) (imm : BitVec 16) {i : Nat} (hi : i < 64) :
    (insertHalf v k imm).getLsbD i =
      if 16 * k.toNat ≤ i ∧ i < 16 * k.toNat + 16 then imm.getLsbD (i - 16 * k.toNat) else v.getLsbD i := by
  have hmask (j : Nat) : (0xFFFF : DWord).getLsbD j = decide (j < 16) := by
    rw [show (0xFFFF : DWord) = BitVec.ofNat 64 (2 ^ 16 - 1) from rfl, BitVec.getLsbD_ofNat, Nat.testBit_two_pow_sub_one]
    simp only [Bool.and_eq_right_iff_imp, decide_eq_true_eq]
    omega
  simp only [insertHalf, zext16, BitVec.getLsbD_or, BitVec.getLsbD_and, BitVec.getLsbD_not, BitVec.getLsbD_shiftLeft, hmask,
    BitVec.getLsbD_setWidth, hi, decide_true, Bool.true_and]
  by_cases hlow : i < 16 * k.toNat
  · simp [hlow]
  · by_cases hhigh : i - 16 * k.toNat < 16
    · rw [if_pos (by omega)]; simp [hlow, hhigh]; omega
    · rw [if_neg (by omega)]; simp [hlow, hhigh, BitVec.getLsbD_of_ge imm _ (Nat.not_lt.1 hhigh)]

/-- Settles O12, by the equation of each form. -/
theorem integerWords : Obligations.IntegerWords := by
  unfold Obligations.IntegerWords
  constructor
  · intro s rd ra rb a b
    exact ⟨exec_of_alu (f := (· + ·)) rfl rfl, exec_of_alu (f := (· - ·)) rfl rfl, exec_of_alu (f := (· &&& ·)) rfl rfl,
      exec_of_alu (f := (· ||| ·)) rfl rfl, exec_of_alu (f := (· ^^^ ·)) rfl rfl, exec_of_alu (f := fun a b => a <<< shiftOf b) rfl rfl,
      exec_of_alu (f := fun a b => a >>> shiftOf b) rfl rfl, exec_of_alu (f := fun a b => a.sshiftRight (shiftOf b)) rfl rfl,
      exec_of_alu (f := (· * ·)) rfl rfl, exec_of_alu (f := mulHigh) rfl rfl, exec_of_alu (f := mulHighU) rfl rfl,
      exec_of_alu (f := divS) rfl rfl, exec_of_alu (f := divU) rfl rfl, exec_of_alu (f := remS) rfl rfl, exec_of_alu (f := remU) rfl rfl,
      exec_of_alu (f := minS) rfl (minS_eq _ _), exec_of_alu (f := maxS) rfl (maxS_eq _ _), exec_of_alu (f := minU) rfl (minU_eq _ _),
      exec_of_alu (f := maxU) rfl (maxU_eq _ _), exec_of_alu (f := fun a b => flag64 (ltS a b)) rfl (flag64_decide _),
      exec_of_alu (f := fun a b => flag64 (ltU a b)) rfl (flag64_decide _), exec_of_alu (f := fun a b => flag64 (a == b)) rfl (flag64_decide _)⟩
  · intro s rd ra imm sh k a
    exact ⟨exec_of_aluImm (f := (· + sext16 imm)) rfl rfl, exec_of_aluImm (f := (· &&& zext16 imm)) rfl rfl,
      exec_of_aluImm (f := (· ||| zext16 imm)) rfl rfl, exec_of_aluImm (f := (· ^^^ zext16 imm)) rfl rfl,
      exec_of_aluImm (f := (· <<< sh.toNat)) rfl rfl, exec_of_aluImm (f := (· >>> sh.toNat)) rfl rfl,
      exec_of_aluImm (f := (·.sshiftRight sh.toNat)) rfl rfl, exec_of_aluImm (f := fun a => flag64 (ltS a (sext16 imm))) rfl (flag64_decide _),
      ⟨insertHalf (s.mine.get rd) k imm, exec_of_writes rfl, fun i => insertHalf_getLsbD _ _ _⟩, exec_of_writes rfl⟩

/-! ### Scalar f32 (R157 to R159) -/

theorem exec_of_fpu {i : Instr} {s : State} {rd ra rb : Reg} {f : Nat → Nat → Nat × Flags} {r : Nat × Flags} (hi : exec i s = s.fpu rd ra rb f)
    (hr : f ((s.mine.get ra).toNat % 2 ^ 32) ((s.mine.get rb).toNat % 2 ^ 32) = r) :
    exec i s = .next (s.wroteFlags rd (BitVec.ofNat 64 r.1) r.2) := by
  rw [hi, State.fpu, State.writesFlags_eq, low32, low32, hr]

theorem exec_of_cvtToFloat {i : Instr} {s : State} {rd ra : Reg} {f : DWord → Nat × Flags} {r : Nat × Flags}
    (hi : exec i s = s.cvtToFloat rd ra f) (hr : f (s.mine.get ra) = r) : exec i s = .next (s.wroteFlags rd (BitVec.ofNat 64 r.1) r.2) := by
  rw [hi, State.cvtToFloat, State.writesFlags_eq, hr]

section
variable {i : Instr} {s : State} {rd ra : Reg} {w : Nat} {m : Rnd} {sat : Sat}

theorem exec_of_cvtToSigned (hi : exec i s = s.cvtToInt rd ra w true m sat) :
    let r := floatToInt fmtF32 w true m sat ((s.mine.get ra).toNat % 2 ^ 32)
    exec i s = .next (s.wroteFlags rd (BitVec.ofInt 64 (signedOf w r.1)) r.2) := by
  rw [hi, State.cvtToInt, State.writesFlags_eq]
  rfl

theorem exec_of_cvtToUnsigned (hi : exec i s = s.cvtToInt rd ra w false m sat) :
    let r := floatToInt fmtF32 w false m sat ((s.mine.get ra).toNat % 2 ^ 32)
    exec i s = .next (s.wroteFlags rd (BitVec.ofNat 64 r.1) r.2) := by
  rw [hi, State.cvtToInt, State.writesFlags_eq]
  rfl

end

/-- Settles O13, by the equation of each form. -/
theorem floatWords : Obligations.FloatWords := by
  unfold Obligations.FloatWords
  constructor
  · intro s rd ra rb a b c x y gives
    exact ⟨exec_of_fpu (f := fAdd fmtF32 .rne .ieee) rfl rfl, exec_of_fpu (f := fSub fmtF32 .rne .ieee) rfl rfl,
      exec_of_fpu (f := fMul fmtF32 .rne .ieee) rfl rfl,
      exec_of_fpu (f := fun a b => fFma fmtF32 .rne .ieee a b (low32 (s.mine.get rd))) rfl rfl,
      exec_of_fpu (f := fMin fmtF32) rfl rfl, exec_of_fpu (f := fMax fmtF32) rfl rfl,
      exec_of_fpu (f := compareF32 true FVal.eqNum) rfl rfl, exec_of_fpu (f := compareF32 false FVal.ltNum) rfl rfl,
      exec_of_fpu (f := compareF32 false fun x y => FVal.ltNum x y || FVal.eqNum x y) rfl rfl,
      exec_of_fpu (f := compareF32 true fun x y => x.isNaN || y.isNaN) rfl rfl⟩
  · intro s rd ra m sat g a float signed
    exact ⟨exec_of_cvtToFloat (f := fun v => intToFloat fmtF32 m .ieee (signedOf 32 v.toNat)) rfl rfl,
      exec_of_cvtToFloat (f := fun v => intToFloat fmtF32 m .ieee (low32 v : Int)) rfl rfl,
      exec_of_cvtToFloat (f := fun v => intToFloat fmtF32 m .ieee v.toInt) rfl rfl,
      exec_of_cvtToFloat (f := fun v => intToFloat fmtF32 m .ieee (v.toNat : Int)) rfl rfl,
      exec_of_cvtToSigned rfl, exec_of_cvtToUnsigned rfl, exec_of_cvtToSigned rfl, exec_of_cvtToUnsigned rfl,
      exec_of_cvtToFloat (f := fun v => floatToFloat fmtBf16 fmtF32 .rne .ieee (v.toNat % 2 ^ 16)) rfl rfl,
      exec_of_cvtToFloat (f := fun v => floatToFloat fmtF16 fmtF32 .rne .ieee (v.toNat % 2 ^ 16)) rfl rfl,
      exec_of_cvtToFloat (f := fun v => floatToFloat fmtF32 fmtBf16 m sat (low32 v)) rfl rfl,
      exec_of_cvtToFloat (f := fun v => floatToFloat fmtF32 fmtF16 m sat (low32 v)) rfl rfl⟩

end Sys2Proof.Machine
end

section
/-! SUPPORT and PROOF of O8. Every word that writes one register leaves the same kind of state, which keeps all else. -/
namespace Sys2Proof.Machine

/-- mfc of a control word other than hstat writes the word as it stands (R136). -/
theorem execMfc_of_plain (s : State) (rd : Reg) {c : Ctl} (hc : ∀ h, c ≠ .hstat h) :
    exec (.mfc rd c) s = .next (s.wrote rd (s.readCtl c)) := by
  refine Eq.trans ?_ (State.writes_eq s rd (s.readCtl c))
  cases c
  case hstat h => exact absurd rfl (hc h)
  all_goals rfl

/-- The words that write one register and leave the flags. -/
def registerWords (rd ra rb : Reg) (imm : BitVec 16) (sh : BitVec 6) (k : BitVec 2) (c : Ctl) : List Instr :=
  [.add rd ra rb, .sub rd ra rb, .and rd ra rb, .or rd ra rb, .xor rd ra rb, .shl rd ra rb, .shr rd ra rb, .sra rd ra rb,
    .mul rd ra rb, .mulh rd ra rb, .mulhn rd ra rb, .div rd ra rb, .divn rd ra rb, .rem rd ra rb, .remn rd ra rb, .min rd ra rb,
    .max rd ra rb, .minn rd ra rb, .maxn rd ra rb, .slt rd ra rb, .sltn rd ra rb, .seq rd ra rb, .addi rd ra imm, .andi rd ra imm,
    .ori rd ra imm, .xori rd ra imm, .shli rd ra sh, .shri rd ra sh, .srai rd ra sh, .slti rd ra imm, .lhi rd k imm, .time rd, .mfc rd c]

/-- The words that write one register and raise flags. -/
def flagWords (rd ra rb : Reg) (m : Rnd) (sat : Sat) : List Instr :=
  [.fadd rd ra rb, .fsub rd ra rb, .fmul rd ra rb, .fma rd ra rb, .fmin rd ra rb, .fmax rd ra rb, .fcmpEq rd ra rb,
    .fcmpLt rd ra rb, .fcmpLe rd ra rb, .fcmpUn rd ra rb, .fcvtF32I32 rd ra m, .fcvtF32N32 rd ra m, .fcvtF32I64 rd ra m,
    .fcvtF32N64 rd ra m, .fcvtI32F32 rd ra m sat, .fcvtN32F32 rd ra m sat, .fcvtI64F32 rd ra m sat, .fcvtN64F32 rd ra m sat,
    .fcvtF32Bf16 rd ra, .fcvtF32F16 rd ra, .fcvtBf16F32 rd ra m sat, .fcvtF16F32 rd ra m sat]

theorem exec_of_registerWord (s : State) (rd ra rb : Reg) (imm : BitVec 16) (sh : BitVec 6) (k : BitVec 2) {c : Ctl} (hc : ∀ h, c ≠ .hstat h) :
    ∀ i ∈ registerWords rd ra rb imm sh k c, ∃ v, exec i s = .next (s.wrote rd v) := by
  simp only [registerWords, List.forall_mem_cons, List.not_mem_nil, false_implies, implies_true, and_true]
  repeat' apply And.intro
  case right => exact ⟨_, execMfc_of_plain s rd hc⟩
  all_goals exact ⟨_, State.writes_eq s rd _⟩

theorem exec_of_flagWord (s : State) (rd ra rb : Reg) (m : Rnd) (sat : Sat) :
    ∀ i ∈ flagWords rd ra rb m sat, ∃ v f, exec i s = .next (s.wroteFlags rd v f) := by
  simp only [flagWords, List.forall_mem_cons, List.not_mem_nil, false_implies, implies_true, and_true]
  repeat' apply And.intro
  all_goals exact ⟨_, _, State.writesFlags_eq s rd _ _⟩

/-- What a completing word leaves as it was, when it changes no more of its region than registers and flags. -/
theorem State.wentTo_frame (s : State) {r : Region} (n : Nat) (hr : r = { s.mine with regs := r.regs, fpflags := r.fpflags }) :
    let t := s.wentTo r n
    (∀ j, j ≠ s.cur.2 → t.mine.handler j = s.mine.handler j) ∧ (∀ q, q ≠ s.cur.1 → t.region q = s.region q) ∧
      t = { s with regions := t.regions } ∧
      t.mine = { s.mine with regs := t.mine.regs, fpflags := t.mine.fpflags, handlers := t.mine.handlers } := by
  have hhandlers : r.handlers = s.mine.handlers := by rw [hr]
  refine ⟨fun j hj => ?_, fun q hq => State.wentTo_region_other _ _ _ _ hq, rfl, ?_⟩
  · rw [State.wentTo_mine, Region.setHandler_handler_other _ _ _ _ hj, Region.handler, hhandlers, Region.handler]
  · rw [State.wentTo_mine, hr]
    rfl

theorem State.wentTo_get (s : State) (r : Region) (n : Nat) (j : Reg) : (s.wentTo r n).mine.get j = r.get j := by
  rw [State.wentTo_mine]
  rfl

/-- Settles O8: each word leaves `State.wrote` or `State.wroteFlags`, and what these leave unchanged is `State.wentTo_frame`. -/
theorem registerWordFrame : Obligations.RegisterWordFrame := by
  unfold Obligations.RegisterWordFrame
  intro s t rd ra rb imm sh k c m sat i whole floats hi hc ht
  have hget (v : DWord) (r : Region) (hr : r.regs = (s.mine.set rd v).regs) (j : Reg) (hj : j ≠ rd) : r.get j = s.mine.get j := by
    rw [Region.get, hr]
    exact Region.set_get_other _ _ _ _ hj
  by_cases hw : i ∈ whole
  · obtain ⟨v, hv⟩ := exec_of_registerWord s rd ra rb imm sh k hc i hw
    obtain rfl : t = s.wrote rd v := Host.Outcome.next.inj (ht.symm.trans hv)
    have hflags : (s.wrote rd v).mine.fpflags = s.mine.fpflags := by
      rw [State.wrote, State.wentTo_mine, Region.setHandler_fpflags, Region.set_fpflags]
    refine ⟨fun _ => rfl, fun j hj => ?_, rfl, fun _ => hflags, by rw [hflags, BitVec.or_self], ?_⟩
    · exact (State.wentTo_get ..).trans (hget v _ rfl j hj)
    · exact State.wentTo_frame s _ (by rw [Region.set_eq])
  · obtain ⟨v, f, hv⟩ := exec_of_flagWord s rd ra rb m sat i (hi.resolve_left hw)
    obtain rfl : t = s.wroteFlags rd v f := Host.Outcome.next.inj (ht.symm.trans hv)
    have hflags : (s.wroteFlags rd v f).mine.fpflags = s.mine.fpflags ||| f := by
      rw [State.wroteFlags, State.wentTo_mine, Region.setHandler_fpflags]
    refine ⟨fun _ => rfl, fun j hj => ?_, rfl, fun h => absurd h hw, ?_, ?_⟩
    · exact (State.wentTo_get ..).trans (hget v _ rfl j hj)
    · rw [hflags, BitVec.or_assoc, BitVec.or_comm f, ← BitVec.or_assoc, BitVec.or_self]
    · exact State.wentTo_frame s _ (by rw [Region.set_eq])

end Sys2Proof.Machine
end

section
/-! SUPPORT and PROOF of O2 and O3. A word's fields determine it and are determined by it, format by format (R83); each group of words (R85 to
R88) then decodes what its encoder wrote, and encodes what its decoder accepted. -/
namespace Sys2Proof

/-! ### Fields of a word -/

theorem fld_lt (n lo w : Nat) : fld n lo w < 2 ^ w := Nat.mod_lt _ (Nat.two_pow_pos w)

@[simp] theorem toNat_ofNat_fld (n lo w : Nat) : (BitVec.ofNat w (fld n lo w)).toNat = fld n lo w := by
  rw [BitVec.toNat_ofNat, Nat.mod_eq_of_lt (fld_lt n lo w)]

theorem eq_ofNat_fld {n lo w : Nat} {v : BitVec w} (h : fld n lo w = v.toNat) : v = BitVec.ofNat w (fld n lo w) := by
  rw [h, BitVec.ofNat_toNat, BitVec.setWidth_eq]

theorem eq_regAt {n lo : Nat} {r : Reg} (h : fld n lo 5 = r.val) : r = regAt n lo := Fin.ext h.symm
theorem eq_fin16At {n lo : Nat} {k : Fin 16} (h : fld n lo 4 = k.val) : k = fin16At n lo := Fin.ext h.symm
theorem eq_fin64At {n lo : Nat} {k : Fin 64} (h : fld n lo 6 = k.val) : k = fin64At n lo := Fin.ext h.symm

theorem bitOf_bit (n lo : Nat) : bitOf (bit n lo) = fld n lo 1 := by
  rcases Nat.mod_two_eq_zero_or_one (n / 2 ^ lo) with h | h <;> simp [bitOf, bit, fld, h]
theorem bitOf_le (b : Bool) : bitOf b ≤ 1 := by cases b <;> decide
theorem eq_bit {n lo : Nat} {b : Bool} (h : fld n lo 1 = bitOf b) : b = bit n lo := by
  rw [← bitOf_bit] at h
  revert h
  cases b <;> cases bit n lo <;> decide
theorem bit_eq_false {n lo : Nat} : bit n lo = false ↔ fld n lo 1 = 0 := by
  rw [← bitOf_bit]
  cases bit n lo <;> decide
theorem bit_eq_true {n lo : Nat} : bit n lo = true ↔ fld n lo 1 = 1 := by
  rw [← bitOf_bit]
  cases bit n lo <;> decide

@[simp] theorem accept_eq_ok {ok : Bool} {why : Reject} {i j : Instr} : accept ok why i = .ok j ↔ ok = true ∧ i = j := by
  cases ok <;> simp [accept]

/-- A word of the R format has its fields at their places. -/
theorem fields_of_wordR {op d a b fn n : Nat} (h : wordR op d a b fn = n) (hop : op < 64) (hd : d < 32) (ha : a < 32) (hb : b < 32)
    (hfn : fn < 2048) :
    n < 2 ^ 32 ∧ fld n 26 6 = op ∧ fld n 21 5 = d ∧ fld n 16 5 = a ∧ fld n 11 5 = b ∧ fld n 0 11 = fn := by
  simp only [wordR, fld] at *
  omega
theorem wordR_of_fields {op d a b fn n : Nat} (hn : n < 2 ^ 32) (hop : fld n 26 6 = op) (hd : fld n 21 5 = d) (ha : fld n 16 5 = a)
    (hb : fld n 11 5 = b) (hfn : fld n 0 11 = fn) : wordR op d a b fn = n := by
  simp only [wordR, fld] at *
  omega

/-- A word of the I, B or T format has its fields at their places. -/
theorem fields_of_wordI {op d a imm n : Nat} (h : wordI op d a imm = n) (hop : op < 64) (hd : d < 32) (ha : a < 32) (himm : imm < 65536) :
    n < 2 ^ 32 ∧ fld n 26 6 = op ∧ fld n 21 5 = d ∧ fld n 16 5 = a ∧ fld n 0 16 = imm := by
  simp only [wordI, fld] at *
  omega
theorem wordI_of_fields {op d a imm n : Nat} (hn : n < 2 ^ 32) (hop : fld n 26 6 = op) (hd : fld n 21 5 = d) (ha : fld n 16 5 = a)
    (himm : fld n 0 16 = imm) : wordI op d a imm = n := by
  simp only [wordI, fld] at *
  omega

theorem fields_of_wordJ {op off n : Nat} (h : wordJ op off = n) (hop : op < 64) (hoff : off < 2 ^ 26) :
    n < 2 ^ 32 ∧ fld n 26 6 = op ∧ fld n 0 26 = off := by
  simp only [wordJ, fld] at *
  omega
theorem wordJ_of_fields {op off n : Nat} (hn : n < 2 ^ 32) (hop : fld n 26 6 = op) (hoff : fld n 0 26 = off) : wordJ op off = n := by
  simp only [wordJ, fld] at *
  omega

/-- Every field of an I-format word whose three operands are read. -/
theorem operands_of_wordI {op n : Nat} {d a : Reg} {imm : BitVec 16} (h : wordI op d.val a.val imm.toNat = n) (hop : op < 64) :
    n < 2 ^ 32 ∧ fld n 26 6 = op ∧ d = regAt n 21 ∧ a = regAt n 16 ∧ imm = BitVec.ofNat 16 (fld n 0 16) := by
  obtain ⟨hn, hf, hd, ha, himm⟩ := fields_of_wordI h hop d.isLt a.isLt imm.isLt
  exact ⟨hn, hf, eq_regAt hd, eq_regAt ha, eq_ofNat_fld himm⟩

/-- Every field of an R-format word whose three registers are read. -/
theorem operands_of_wordR {op fn n : Nat} {d a b : Reg} (h : wordR op d.val a.val b.val fn = n) (hop : op < 64) (hfn : fn < 2048) :
    n < 2 ^ 32 ∧ fld n 26 6 = op ∧ d = regAt n 21 ∧ a = regAt n 16 ∧ b = regAt n 11 ∧ fld n 0 11 = fn := by
  obtain ⟨hn, hf, hd, ha, hb, hfn⟩ := fields_of_wordR h hop d.isLt a.isLt b.isLt hfn
  exact ⟨hn, hf, eq_regAt hd, eq_regAt ha, eq_regAt hb, hfn⟩

/-! ### Codes (R39, R40, R68, R72, R137, R175) -/

theorem rndOf_code (m : Rnd) : rndOf m.code = some m := by cases m <;> rfl
theorem satOf_code (s : Sat) : satOf s.code = some s := by cases s <;> rfl
theorem scopeOf_code (c : Scope) : scopeOf c.code = some c := by
  cases c
  case lvl k => revert k; decide
  all_goals rfl
theorem poolOpOf_code (o : PoolOp) : poolOpOf o.code = some o := by cases o <;> rfl
theorem poolTypeOf_code (t : PoolType) : poolTypeOf t.code = t := by cases t <;> rfl
theorem engClassOf_code (c : EngClass) : engClassOf c.code = some c := by cases c <;> rfl

theorem Rnd.code_lt (m : Rnd) : m.code < 8 := by cases m <;> decide
theorem Sat.code_lt (s : Sat) : s.code < 4 := by cases s <;> decide
theorem Scope.code_lt (c : Scope) : c.code < 8 := by
  cases c
  case lvl k => simp only [Scope.code]; omega
  all_goals decide
theorem PoolOp.code_lt (o : PoolOp) : o.code < 16 := by cases o <;> decide
theorem PoolType.code_lt (t : PoolType) : t.code < 4 := by cases t <;> decide
theorem EngClass.code_lt (c : EngClass) : c.code < 4 := by cases c <;> decide

theorem code_of_rndOf {n : Nat} {m : Rnd} (h : rndOf n = some m) : m.code = n := by
  unfold rndOf at h
  split at h <;> cases h <;> rfl
theorem code_of_satOf {n : Nat} {s : Sat} (h : satOf n = some s) : s.code = n := by
  unfold satOf at h
  split at h <;> cases h <;> rfl
theorem code_of_scopeOf {n : Nat} {c : Scope} (h : scopeOf n = some c) : c.code = n := by
  unfold scopeOf at h
  split at h <;> cases h <;> rfl
theorem code_of_poolOpOf {n : Nat} {o : PoolOp} (h : poolOpOf n = some o) : o.code = n := by
  unfold poolOpOf at h
  split at h <;> cases h <;> rfl
theorem code_of_engClassOf {n : Nat} {c : EngClass} (h : engClassOf n = some c) : c.code = n := by
  unfold engClassOf at h
  split at h <;> cases h <;> rfl
theorem code_poolTypeOf {n : Nat} (h : n < 4) : (poolTypeOf n).code = n := by
  revert n
  decide

theorem Ctl.num_lt (c : Ctl) : c.num < 0x60 := by
  cases c <;> simp only [Ctl.num] <;> omega
theorem ctlOf_num (c : Ctl) : ctlOf c.num = some c := by
  cases c
  case wf k => revert k; decide
  case fault k => revert k; decide
  case hstat h => revert h; decide
  case chmap k => revert k; decide
  all_goals rfl
theorem num_of_ctlOf {n : Nat} {c : Ctl} (h : ctlOf n = some c) : c.num = n := by
  unfold ctlOf at h
  split at h
  case h_29 =>
    split at h
    · cases h
      simp only [Ctl.num]
      omega
    · split at h
      · cases h
        simp only [Ctl.num]
        omega
      · cases h
  all_goals cases h; rfl

/-! ### From the primary opcode to its table (R84) -/

section
variable {n : Nat}

theorem decodeConduct_alu (h : fld n 26 6 = 0x01) : decodeConduct n = decodeAlu n := by unfold decodeConduct; rw [h]; rfl
theorem decodeConduct_fpu (h : fld n 26 6 = 0x02) : decodeConduct n = decodeFpu n := by unfold decodeConduct; rw [h]; rfl
theorem decodeConduct_amo (h : fld n 26 6 = 0x03) : decodeConduct n = decodeAmo n := by unfold decodeConduct; rw [h]; rfl
theorem decodeConduct_handle (h : fld n 26 6 = 0x04) : decodeConduct n = decodeHandle n := by unfold decodeConduct; rw [h]; rfl
theorem decodeConduct_course (h : fld n 26 6 = 0x05) : decodeConduct n = decodeCourse n := by unfold decodeConduct; rw [h]; rfl
theorem decodeConduct_sync (h : fld n 26 6 = 0x06) : decodeConduct n = decodeSync n := by unfold decodeConduct; rw [h]; rfl
theorem decodeConduct_sys (h : fld n 26 6 = 0x07) : decodeConduct n = decodeSys n := by unfold decodeConduct; rw [h]; rfl
theorem decodeConduct_mtc (h : fld n 26 6 = 0x12) : decodeConduct n = decodeMtc n := by unfold decodeConduct; rw [h]; rfl
theorem decodeConduct_pdcl (h : fld n 26 6 = 0x14) : decodeConduct n = decodePdcl n := by unfold decodeConduct; rw [h]; rfl
theorem decodeConduct_prd (h : fld n 26 6 = 0x16) : decodeConduct n = decodePrd n := by unfold decodeConduct; rw [h]; rfl
theorem decodeConduct_cop (h : fld n 26 6 = 0x33) : decodeConduct n = decodeCop n := by unfold decodeConduct; rw [h]; rfl

theorem accept_of {ok : Bool} (h : ok = true) (why : Reject) (i : Instr) : accept ok why i = .ok i := if_pos h

/-! ### The word of an instruction decodes to it -/

theorem decodeFpu_of_fcvt (h : 0x10 ≤ fld n 0 6) : decodeFpu n = decodeFcvt n := by
  unfold decodeFpu
  dsimp only
  split
  case h_11 => rfl
  all_goals (simp only [fld] at *; omega)

/-- The fields of an fcvt word (R85). -/
theorem fields_of_wordCvt {kind : Nat} {d a : Reg} {m : Rnd} {s : Sat} (h : wordCvt kind d a m s = n) (hlow : 0x10 ≤ kind) (hkind : kind < 64) :
    n < 2 ^ 32 ∧ decodeConduct n = decodeFcvt n ∧ d = regAt n 21 ∧ a = regAt n 16 ∧ fld n 11 5 = 0 ∧ fld n 0 6 = kind ∧
      rndOf (fld n 6 3) = some m ∧ satOf (fld n 9 2) = some s := by
  have hm := m.code_lt
  have hs := s.code_lt
  obtain ⟨hn, hop, hd, ha, hb, hfn⟩ := fields_of_wordR h (by decide) d.isLt a.isLt (by decide) (by omega)
  have hk : fld n 0 6 = kind := by simp only [fld] at *; omega
  have hm : fld n 6 3 = m.code := by simp only [fld] at *; omega
  have hs : fld n 9 2 = s.code := by simp only [fld] at *; omega
  exact ⟨hn, (decodeConduct_fpu hop).trans (decodeFpu_of_fcvt (hk ▸ hlow)), eq_regAt hd, eq_regAt ha, hb, hk, hm ▸ rndOf_code m,
    hs ▸ satOf_code s⟩

/-- The fields of an atomic word (R85). -/
theorem fields_of_wordAmo {op : Nat} {d a b : Reg} {w : Bool} (h : wordAmo op d a b w = n) (hlow : op % 64 < 16) (hop : op < 2048) :
    n < 2 ^ 32 ∧ fld n 26 6 = 0x03 ∧ d = regAt n 21 ∧ a = regAt n 16 ∧ b = regAt n 11 ∧ w = bit n 4 ∧ fld n 6 5 = op / 64 ∧ fld n 5 1 = 0 ∧
      fld n 0 4 = op % 64 ∧ fld n 0 11 = op + 16 * bitOf w := by
  have hw := bitOf_le w
  obtain ⟨hn, hf, hd, ha, hb, hfn⟩ := fields_of_wordR h (by decide) d.isLt a.isLt b.isLt (by omega)
  refine ⟨hn, hf, eq_regAt hd, eq_regAt ha, eq_regAt hb, eq_bit ?_, ?_⟩ <;> (simp only [fld] at *; omega)

/-- The fields of a word of a handle form (R85): the handle stands where ra stands, its fifth bit clear. -/
theorem fields_of_wordHandle {d b fn : Nat} {h : Fin 16} (hw : wordR 0x04 d h.val b fn = n) (hd : d < 32) (hb : b < 32) (hfn : fn < 2048) :
    n < 2 ^ 32 ∧ decodeConduct n = decodeHandle n ∧ bit n 20 = false ∧ h = fin16At n 16 ∧ fld n 21 5 = d ∧ fld n 11 5 = b ∧ fld n 0 11 = fn := by
  obtain ⟨hn, hop, hd, ha, hb, hfn⟩ := fields_of_wordR hw (by decide) hd (by omega) hb hfn
  refine ⟨hn, decodeConduct_handle hop, bit_eq_false.2 ?_, eq_fin16At ?_, hd, hb, hfn⟩ <;> (simp only [fld] at *; omega)

end

/-- The word of a well-formed instruction decodes to it. -/
theorem decodeConduct_of_encodeConduct {i : Instr} {n : Nat} (hwf : i.wf = true) (h : encodeConduct i = some n) :
    n < 2 ^ 32 ∧ decodeConduct n = .ok i := by
  cases i
  all_goals injection h
  case add d a b h | sub d a b h | and d a b h | or d a b h | xor d a b h | shl d a b h | shr d a b h | sra d a b h | mul d a b h
      | mulh d a b h | mulhn d a b h | div d a b h | divn d a b h | rem d a b h | remn d a b h | min d a b h | max d a b h | minn d a b h
      | maxn d a b h | slt d a b h | sltn d a b h | seq d a b h =>
    obtain ⟨hn, hop, rfl, rfl, rfl, hfn⟩ := operands_of_wordR h (by decide) (by decide)
    refine ⟨hn, (decodeConduct_alu hop).trans ?_⟩
    unfold decodeAlu
    rw [hfn]
    rfl
  case fadd d a b h | fsub d a b h | fmul d a b h | fma d a b h | fmin d a b h | fmax d a b h | fcmpEq d a b h | fcmpLt d a b h
      | fcmpLe d a b h | fcmpUn d a b h =>
    obtain ⟨hn, hop, rfl, rfl, rfl, hfn⟩ := operands_of_wordR h (by decide) (by decide)
    refine ⟨hn, (decodeConduct_fpu hop).trans ?_⟩
    unfold decodeFpu
    rw [hfn]
    rfl
  case fcvtF32I32 d a m h | fcvtF32N32 d a m h | fcvtF32I64 d a m h | fcvtF32N64 d a m h | fcvtI32F32 d a m s h | fcvtN32F32 d a m s h
      | fcvtI64F32 d a m s h | fcvtN64F32 d a m s h | fcvtF32Bf16 d a h | fcvtF32F16 d a h =>
    obtain ⟨hn, hdec, rfl, rfl, hb, hk, hm, hs⟩ := fields_of_wordCvt h (by decide) (by decide)
    refine ⟨hn, hdec.trans ?_⟩
    unfold decodeFcvt
    dsimp only
    rw [if_neg (not_not_intro hb), hm, hs, hk]
    rfl
  case fcvtBf16F32 d a m s h | fcvtF16F32 d a m s h =>
    obtain ⟨hn, hdec, rfl, rfl, hb, hk, hm, hs⟩ := fields_of_wordCvt h (by decide) (by decide)
    refine ⟨hn, hdec.trans ?_⟩
    unfold decodeFcvt
    dsimp only
    rw [if_neg (not_not_intro hb), hm, hs, hk]
    exact accept_of hwf .reservedCode _
  case amoAdd d a b w h | amoAnd d a b w h | amoOr d a b w h | amoXor d a b w h | amoMin d a b w h | amoMax d a b w h | amoMinn d a b w h
      | amoMaxn d a b w h | amoSwap d a b w h | cas d a b w h =>
    obtain ⟨hn, hop, rfl, rfl, rfl, rfl, hhigh, hmid, hlow, hfn⟩ := fields_of_wordAmo h (by decide) (by decide)
    refine ⟨hn, (decodeConduct_amo hop).trans ?_⟩
    unfold decodeAmo
    have := bitOf_le (bit n 4)
    dsimp only
    rw [if_neg (by omega), hhigh, hmid, hlow]
    rfl
  case amoFadd d a b h =>
    obtain ⟨hn, hop, rfl, rfl, rfl, hw, hhigh, hmid, hlow, hfn⟩ := fields_of_wordAmo h (by decide) (by decide)
    refine ⟨hn, (decodeConduct_amo hop).trans ?_⟩
    unfold decodeAmo
    dsimp only
    rw [hfn, hhigh, hmid, hlow, ← hw]
    rfl
  case waitv d a b h =>
    obtain ⟨hn, hop, rfl, rfl, rfl, hfn⟩ := operands_of_wordR h (by decide) (by decide)
    refine ⟨hn, (decodeConduct_amo hop).trans ?_⟩
    unfold decodeAmo
    dsimp only
    rw [if_pos hfn]
  case hwait k b h | hroom k b h | hpop k b h | hpush k b h =>
    obtain ⟨hn, hdec, hk, rfl, hd, hb, hfn⟩ := fields_of_wordHandle h (by decide) b.isLt (by decide)
    obtain rfl := eq_regAt hb
    refine ⟨hn, hdec.trans ?_⟩
    unfold decodeHandle
    dsimp only
    rw [hk, hfn, hd]
    rfl
  case hget d k h =>
    obtain ⟨hn, hdec, hk, rfl, hd, hb, hfn⟩ := fields_of_wordHandle h d.isLt (by decide) (by decide)
    obtain rfl := eq_regAt hd
    refine ⟨hn, hdec.trans ?_⟩
    unfold decodeHandle
    dsimp only
    rw [hk, hfn, hb]
    rfl
  case idrain k h =>
    obtain ⟨hn, hdec, hk, rfl, hd, hb, hfn⟩ := fields_of_wordHandle h (by decide) (by decide) (by decide)
    refine ⟨hn, hdec.trans ?_⟩
    unfold decodeHandle
    dsimp only
    rw [hk, hfn, hd, hb]
    rfl
  case next h | done h | nop h | halt h | wfe h | eret h | ret h =>
    subst h
    exact ⟨by decide, rfl⟩
  case claim d h =>
    obtain ⟨hn, hop, hd, ha, hb, hfn⟩ := fields_of_wordR h (by decide) d.isLt (by decide) (by decide) (by decide)
    obtain rfl := eq_regAt hd
    refine ⟨hn, (decodeConduct_course hop).trans ?_⟩
    unfold decodeCourse
    rw [hfn]
    exact accept_of (by simp only [fld, beq_iff_eq] at *; omega) .unusedField _
  case send a b h | await a b h =>
    obtain ⟨hn, hop, hd, ha, hb, hfn⟩ := fields_of_wordR h (by decide) (by decide) a.isLt b.isLt (by decide)
    obtain rfl := eq_regAt ha
    obtain rfl := eq_regAt hb
    refine ⟨hn, (decodeConduct_sync hop).trans ?_⟩
    unfold decodeSync
    dsimp only
    rw [hfn, hd]
    rfl
  case recv d a h | arrive d a h =>
    obtain ⟨hn, hop, hd, ha, hb, hfn⟩ := fields_of_wordR h (by decide) d.isLt a.isLt (by decide) (by decide)
    obtain rfl := eq_regAt hd
    obtain rfl := eq_regAt ha
    refine ⟨hn, (decodeConduct_sync hop).trans ?_⟩
    unfold decodeSync
    dsimp only
    rw [hfn, hb]
    rfl
  case fence c h =>
    subst h
    revert hwf
    cases c
    case lvl k => revert k; decide
    all_goals decide
  case trap c h =>
    obtain ⟨hn, hop, hd, ha, hb, hfn⟩ := fields_of_wordR h (by decide) (by decide) (by decide) (by decide) (by omega)
    have hc : fld n 4 7 = c.toNat := by simp only [fld] at *; omega
    refine ⟨hn, (decodeConduct_sys hop).trans ?_⟩
    unfold decodeSys
    rw [if_pos (by simp only [fld] at *; omega), ← eq_ofNat_fld hc]
    exact accept_of (by simp only [fld, beq_iff_eq] at *; omega) .unusedField _
  case time d h =>
    obtain ⟨hn, hop, hd, ha, hb, hfn⟩ := fields_of_wordR h (by decide) d.isLt (by decide) (by decide) (by decide)
    obtain rfl := eq_regAt hd
    refine ⟨hn, (decodeConduct_sys hop).trans ?_⟩
    unfold decodeSys
    rw [if_neg (by simp only [fld] at *; omega), hfn]
    exact accept_of (by simp only [fld, beq_iff_eq] at *; omega) .unusedField _
  case waitt a h =>
    obtain ⟨hn, hop, hd, ha, hb, hfn⟩ := fields_of_wordR h (by decide) (by decide) a.isLt (by decide) (by decide)
    obtain rfl := eq_regAt ha
    refine ⟨hn, (decodeConduct_sys hop).trans ?_⟩
    unfold decodeSys
    rw [if_neg (by simp only [fld] at *; omega), hfn, hd, hb]
    rfl
  case addi d a imm h | andi d a imm h | ori d a imm h | xori d a imm h | slti d a imm h | ldB d a imm h | ldH d a imm h | ldW d a imm h
      | ldD d a imm h | ldBN d a imm h | ldHN d a imm h | ldWN d a imm h | stB d a imm h | stH d a imm h | stW d a imm h | stD d a imm h
      | bEq d a imm h | bNe d a imm h | bLt d a imm h | bGe d a imm h | bLtn d a imm h | bGen d a imm h | issue d a imm h =>
    obtain ⟨hn, hop, rfl, rfl, rfl⟩ := operands_of_wordI h (by decide)
    refine ⟨hn, ?_⟩
    unfold decodeConduct
    rw [hop]
    rfl
  case shli d a sh h | shri d a sh h | srai d a sh h =>
    obtain ⟨hn, hop, hd, ha, himm⟩ := fields_of_wordI h (by decide) d.isLt a.isLt (by omega)
    have hsh : fld n 0 6 = sh.toNat := by simp only [fld] at *; omega
    obtain rfl := eq_regAt hd
    obtain rfl := eq_regAt ha
    obtain rfl := eq_ofNat_fld hsh
    refine ⟨hn, ?_⟩
    unfold decodeConduct
    rw [hop]
    exact accept_of (by simp only [fld, beq_iff_eq] at *; omega) .unusedField _
  case lhi d k imm h =>
    obtain ⟨hn, hop, hd, ha, himm⟩ := fields_of_wordI h (by decide) d.isLt (by omega) imm.isLt
    have hk : fld n 16 2 = k.toNat := by simp only [fld] at *; omega
    obtain rfl := eq_regAt hd
    obtain rfl := eq_ofNat_fld himm
    obtain rfl := eq_ofNat_fld hk
    refine ⟨hn, ?_⟩
    unfold decodeConduct
    rw [hop]
    exact accept_of (by simp only [fld, beq_iff_eq] at *; omega) .unusedField _
  case mfc d c h =>
    have hc := c.num_lt
    obtain ⟨hn, hop, hd, ha, himm⟩ := fields_of_wordI h (by decide) d.isLt (by decide) (by omega)
    obtain rfl := eq_regAt hd
    refine ⟨hn, ?_⟩
    unfold decodeConduct
    rw [hop]
    dsimp only
    rw [if_neg (not_not_intro ha), himm, ctlOf_num]
    rfl
  case mtcFpflags a h | mtcHen a h | mtcResume a h | mtcTimer a h | mtcFpop a h =>
    obtain ⟨hn, hop, hd, ha, himm⟩ := fields_of_wordI h (by decide) (by decide) a.isLt (by decide)
    obtain rfl := eq_regAt ha
    refine ⟨hn, (decodeConduct_mtc hop).trans ?_⟩
    unfold decodeMtc
    dsimp only
    rw [if_neg (not_not_intro hd), himm, ctlOf_num]
  case mtcChmap a k h =>
    have hc := (Ctl.chmap k).num_lt
    obtain ⟨hn, hop, hd, ha, himm⟩ := fields_of_wordI h (by decide) (by decide) a.isLt (by omega)
    obtain rfl := eq_regAt ha
    refine ⟨hn, (decodeConduct_mtc hop).trans ?_⟩
    unfold decodeMtc
    dsimp only
    rw [if_neg (not_not_intro hd), himm, ctlOf_num]
  case goto t h =>
    obtain ⟨hn, hop, hd, ha, himm⟩ := fields_of_wordI h (by decide) (by decide) (by decide) (by omega)
    have ht : fld n 0 4 = t.toNat := by simp only [fld] at *; omega
    obtain rfl := eq_ofNat_fld ht
    refine ⟨hn, ?_⟩
    unfold decodeConduct
    rw [hop]
    exact accept_of (by simp only [fld, beq_iff_eq] at *; omega) .unusedField _
  case pdcl st a sc op ty pl h =>
    have hst := bitOf_le st
    have hsc := sc.code_lt
    have hpo := op.code_lt
    have hty := ty.code_lt
    obtain ⟨hn, hop, hd, ha, himm⟩ := fields_of_wordI h (by decide) (by omega) a.isLt (by omega)
    have hst : fld n 21 1 = bitOf st := by simp only [fld] at *; omega
    have hsc : fld n 12 4 = sc.code := by simp only [fld] at *; omega
    have hpo : fld n 8 4 = op.code := by simp only [fld] at *; omega
    have hty : fld n 6 2 = ty.code := by simp only [fld] at *; omega
    have hpl : fld n 0 6 = pl.val := by simp only [fld] at *; omega
    obtain rfl := eq_regAt ha
    obtain rfl := eq_bit hst
    obtain rfl := eq_fin64At hpl
    refine ⟨hn, (decodeConduct_pdcl hop).trans ?_⟩
    unfold decodePdcl
    rw [if_neg (by simp only [fld] at *; omega), hsc, hpo, hty, scopeOf_code, poolOpOf_code]
    dsimp only
    rw [poolTypeOf_code]
    exact accept_of hwf .illegalPairing _
  case pcon a pl h =>
    obtain ⟨hn, hop, hd, ha, himm⟩ := fields_of_wordI h (by decide) (by decide) a.isLt (by omega)
    have hpl : fld n 0 6 = pl.val := by simp only [fld] at *; omega
    obtain rfl := eq_regAt ha
    obtain rfl := eq_fin64At hpl
    refine ⟨hn, ?_⟩
    unfold decodeConduct
    rw [hop]
    exact accept_of (by simp only [fld, beq_iff_eq, Bool.and_eq_true] at *; omega) .unusedField _
  case pset d pl h =>
    obtain ⟨hn, hop, hd, ha, himm⟩ := fields_of_wordI h (by decide) d.isLt (by decide) (by omega)
    have hpl : fld n 0 6 = pl.val := by simp only [fld] at *; omega
    obtain rfl := eq_regAt hd
    obtain rfl := eq_fin64At hpl
    refine ⟨hn, ?_⟩
    unfold decodeConduct
    rw [hop]
    exact accept_of (by simp only [fld, beq_iff_eq, Bool.and_eq_true] at *; omega) .unusedField _
  case prd d pl h =>
    obtain ⟨hn, hop, hd, ha, himm⟩ := fields_of_wordI h (by decide) d.isLt (by decide) (by omega)
    have hpl : fld n 0 6 = pl.val := by simp only [fld] at *; omega
    obtain rfl := eq_regAt hd
    obtain rfl := eq_fin64At hpl
    refine ⟨hn, (decodeConduct_prd hop).trans ?_⟩
    unfold decodePrd
    rw [if_neg (by simp only [fld] at *; omega), if_neg (by rw [bit_eq_true]; simp only [fld] at *; omega)]
  case prdC d pl h =>
    obtain ⟨hn, hop, hd, ha, himm⟩ := fields_of_wordI h (by decide) d.isLt (by decide) (by omega)
    have hpl : fld n 0 6 = pl.val := by simp only [fld] at *; omega
    obtain rfl := eq_regAt hd
    obtain rfl := eq_fin64At hpl
    refine ⟨hn, (decodeConduct_prd hop).trans ?_⟩
    unfold decodePrd
    rw [if_neg (by simp only [fld] at *; omega), if_pos (by rw [bit_eq_true]; simp only [fld] at *; omega)]
  case jmp off h | call off h =>
    obtain ⟨hn, hop, hoff⟩ := fields_of_wordJ h (by decide) off.isLt
    obtain rfl := eq_ofNat_fld hoff
    refine ⟨hn, ?_⟩
    unfold decodeConduct
    rw [hop]
    rfl
  case cop a b c op h =>
    have hc := c.code_lt
    obtain ⟨hn, hop, hd, ha, hb, hfn⟩ := fields_of_wordR h (by decide) (by decide) a.isLt b.isLt (by omega)
    have hc : fld n 8 3 = c.code := by simp only [fld] at *; omega
    have hcode : fld n 4 4 = op.toNat := by simp only [fld] at *; omega
    obtain rfl := eq_regAt ha
    obtain rfl := eq_regAt hb
    obtain rfl := eq_ofNat_fld hcode
    refine ⟨hn, (decodeConduct_cop hop).trans ?_⟩
    unfold decodeCop
    rw [if_neg (by simp only [fld] at *; omega), hc, engClassOf_code]
    dsimp only
    rw [if_neg (by rw [bit_eq_true]; simp only [fld] at *; omega), hd]
    rfl
  case copR d a b c op h =>
    have hc := c.code_lt
    obtain ⟨hn, hop, hd, ha, hb, hfn⟩ := fields_of_wordR h (by decide) d.isLt a.isLt b.isLt (by omega)
    have hc : fld n 8 3 = c.code := by simp only [fld] at *; omega
    have hcode : fld n 4 4 = op.toNat := by simp only [fld] at *; omega
    obtain rfl := eq_regAt hd
    obtain rfl := eq_regAt ha
    obtain rfl := eq_regAt hb
    obtain rfl := eq_ofNat_fld hcode
    refine ⟨hn, (decodeConduct_cop hop).trans ?_⟩
    unfold decodeCop
    rw [if_neg (by simp only [fld] at *; omega), hc, engClassOf_code]
    dsimp only
    rw [if_pos (by rw [bit_eq_true]; simp only [fld] at *; omega)]

/-! ### A word that decodes is the word of its instruction -/

section
variable {n : Nat} {i : Instr} (hn : n < 2 ^ 32)
include hn

/-- The instruction is well formed and the word is its own. -/
def IsWordOf (n : Nat) (i : Instr) : Prop := i.wf = true ∧ encodeConduct i = some n

theorem isWordOf_of_decodeAlu (hop : fld n 26 6 = 0x01) (h : decodeAlu n = .ok i) : IsWordOf n i := by
  unfold decodeAlu at h
  dsimp only at h
  split at h
  case h_23 => cases h
  all_goals
    next hfn =>
      cases h
      exact ⟨rfl, congrArg some (wordR_of_fields hn hop rfl rfl rfl hfn)⟩

theorem wordCvt_of_fields {kind : Nat} {m : Rnd} {s : Sat} (hop : fld n 26 6 = 0x02) (hb : fld n 11 5 = 0) (hk : fld n 0 6 = kind)
    (hm : rndOf (fld n 6 3) = some m) (hs : satOf (fld n 9 2) = some s) : wordCvt kind (regAt n 21) (regAt n 16) m s = n := by
  rw [wordCvt, code_of_rndOf hm, code_of_satOf hs]
  refine wordR_of_fields hn hop rfl rfl hb ?_
  simp only [fld] at *
  omega

theorem isWordOf_of_decodeFcvt (hop : fld n 26 6 = 0x02) (h : decodeFcvt n = .ok i) : IsWordOf n i := by
  unfold decodeFcvt at h
  dsimp only at h
  split at h
  · cases h
  · next hb =>
    have hb := not_not.1 hb
    split at h
    case h_2 => cases h
    case h_1 m s hm hs =>
      have hword {kind : Nat} (hk : fld n 0 6 = kind) := wordCvt_of_fields hn hop hb hk hm hs
      split at h
      case h_13 => cases h
      all_goals simp only [accept_eq_ok, Except.ok.injEq, beq_iff_eq, Bool.and_eq_true] at h
      case h_1 hk | h_2 hk | h_3 hk | h_4 hk =>
        obtain ⟨rfl, rfl⟩ := h
        exact ⟨rfl, congrArg some (hword hk)⟩
      case h_5 hk | h_6 hk | h_7 hk | h_8 hk =>
        subst h
        exact ⟨rfl, congrArg some (hword hk)⟩
      case h_9 hk | h_10 hk =>
        obtain ⟨⟨rfl, rfl⟩, rfl⟩ := h
        exact ⟨rfl, congrArg some (hword hk)⟩
      case h_11 hk | h_12 hk =>
        obtain ⟨hok, rfl⟩ := h
        exact ⟨hok, congrArg some (hword hk)⟩

theorem isWordOf_of_decodeFpu (hop : fld n 26 6 = 0x02) (h : decodeFpu n = .ok i) : IsWordOf n i := by
  unfold decodeFpu at h
  dsimp only at h
  split at h
  case h_11 => exact isWordOf_of_decodeFcvt hn hop h
  all_goals
    next hfn =>
      cases h
      exact ⟨rfl, congrArg some (wordR_of_fields hn hop rfl rfl rfl hfn)⟩

theorem isWordOf_of_decodeAmo (hop : fld n 26 6 = 0x03) (h : decodeAmo n = .ok i) : IsWordOf n i := by
  have hw := bitOf_bit n 4
  have hword {op : Nat} (hfn : fld n 0 11 = op + bitOf (bit n 4) * 2 ^ 4) : wordAmo op (regAt n 21) (regAt n 16) (regAt n 11) (bit n 4) = n :=
    wordR_of_fields hn hop rfl rfl rfl hfn
  unfold decodeAmo at h
  dsimp only at h
  split at h
  · next hfn =>
    cases h
    exact ⟨rfl, congrArg some (wordR_of_fields hn hop rfl rfl rfl hfn)⟩
  · split at h
    case h_12 => cases h
    case h_10 h1 h2 h3 =>
      obtain ⟨hfalse, rfl⟩ := accept_eq_ok.1 h
      have hfalse : bit n 4 = false := by simpa using hfalse
      refine ⟨rfl, congrArg some (Eq.trans ?_ (hword (op := 9) (by rw [hw]; simp only [fld] at *; omega)))⟩
      rw [hfalse]
    all_goals
      next h1 h2 h3 =>
        cases h
        exact ⟨rfl, congrArg some (hword (by rw [hw]; simp only [fld] at *; omega))⟩

theorem isWordOf_of_decodeHandle (hop : fld n 26 6 = 0x04) (h : decodeHandle n = .ok i) : IsWordOf n i := by
  unfold decodeHandle at h
  dsimp only at h
  split at h
  · cases h
  · next hbit =>
    have hk : fld n 16 5 = (fin16At n 16).val := by
      have := bit_eq_false.1 (Bool.eq_false_iff.2 hbit)
      simp only [fin16At, fld] at *
      omega
    split at h
    case h_7 => cases h
    all_goals simp only [accept_eq_ok, beq_iff_eq, Bool.and_eq_true] at h
    case h_1 hfn | h_2 hfn | h_3 hfn | h_4 hfn =>
      obtain ⟨hd, rfl⟩ := h
      exact ⟨rfl, congrArg some (wordR_of_fields hn hop hd hk rfl hfn)⟩
    case h_5 hfn =>
      obtain ⟨hb, rfl⟩ := h
      exact ⟨rfl, congrArg some (wordR_of_fields hn hop rfl hk hb hfn)⟩
    case h_6 hfn =>
      obtain ⟨⟨hd, hb⟩, rfl⟩ := h
      exact ⟨rfl, congrArg some (wordR_of_fields hn hop hd hk hb hfn)⟩

theorem isWordOf_of_decodeCourse (hop : fld n 26 6 = 0x05) (h : decodeCourse n = .ok i) : IsWordOf n i := by
  unfold decodeCourse at h
  split at h
  case h_4 => cases h
  all_goals
    next hfn =>
      simp only [accept_eq_ok, beq_iff_eq] at h
      obtain ⟨hzero, rfl⟩ := h
      refine ⟨rfl, congrArg some (wordR_of_fields hn hop ?_ ?_ ?_ hfn)⟩ <;> (simp only [regAt, fld] at *; omega)

theorem isWordOf_of_decodeSync (hop : fld n 26 6 = 0x06) (h : decodeSync n = .ok i) : IsWordOf n i := by
  unfold decodeSync at h
  dsimp only at h
  split at h
  case h_5 =>
    split at h
    case isFalse => cases h
    case isTrue hfn =>
      split at h
      case h_2 => cases h
      case h_1 c hc =>
        simp only [accept_eq_ok, beq_iff_eq] at h
        obtain ⟨hzero, rfl⟩ := h
        have hcode := code_of_scopeOf hc
        refine ⟨rfl, congrArg some (wordR_of_fields hn hop ?_ ?_ ?_ ?_)⟩ <;> (simp only [fld] at *; omega)
  all_goals simp only [accept_eq_ok, beq_iff_eq] at h
  case h_1 hfn | h_4 hfn =>
    obtain ⟨hd, rfl⟩ := h
    exact ⟨rfl, congrArg some (wordR_of_fields hn hop hd rfl rfl hfn)⟩
  case h_2 hfn | h_3 hfn =>
    obtain ⟨hb, rfl⟩ := h
    exact ⟨rfl, congrArg some (wordR_of_fields hn hop rfl rfl hb hfn)⟩

theorem isWordOf_of_decodeSys (hop : fld n 26 6 = 0x07) (h : decodeSys n = .ok i) : IsWordOf n i := by
  unfold decodeSys at h
  split at h
  · next hfn =>
    simp only [accept_eq_ok, beq_iff_eq] at h
    obtain ⟨hzero, rfl⟩ := h
    refine ⟨rfl, congrArg some (wordR_of_fields hn hop ?_ ?_ ?_ ?_)⟩
    case refine_4 => rw [toNat_ofNat_fld]; simp only [fld] at *; omega
    all_goals (simp only [fld] at *; omega)
  · split at h
    case h_8 => cases h
    all_goals
      next hfn =>
        simp only [accept_eq_ok, beq_iff_eq, Bool.and_eq_true] at h
        obtain ⟨hzero, rfl⟩ := h
        refine ⟨rfl, congrArg some (wordR_of_fields hn hop ?_ ?_ ?_ hfn)⟩ <;> (simp only [regAt, fld] at *; omega)

theorem isWordOf_of_decodeMtc (hop : fld n 26 6 = 0x12) (h : decodeMtc n = .ok i) : IsWordOf n i := by
  unfold decodeMtc at h
  dsimp only at h
  split at h
  · cases h
  · next hd =>
    split at h
    case h_7 | h_8 => cases h
    all_goals
      next hc =>
        cases h
        exact ⟨rfl, congrArg some (wordI_of_fields hn hop (not_not.1 hd) rfl (num_of_ctlOf hc).symm)⟩

theorem isWordOf_of_decodePdcl (hop : fld n 26 6 = 0x14) (h : decodePdcl n = .ok i) : IsWordOf n i := by
  unfold decodePdcl at h
  split at h
  · cases h
  · next hzero =>
    split at h
    case h_2 => cases h
    case h_1 sc op hsc hpo =>
      obtain ⟨hok, rfl⟩ := accept_eq_ok.1 h
      have hsc := code_of_scopeOf hsc
      have hpo := code_of_poolOpOf hpo
      have hty := code_poolTypeOf (fld_lt n 6 2)
      have hst := bitOf_bit n 21
      refine ⟨hok, congrArg some (wordI_of_fields hn hop ?_ rfl ?_)⟩ <;> (simp only [fin64At, fld] at *; omega)

theorem isWordOf_of_decodePrd (hop : fld n 26 6 = 0x16) (h : decodePrd n = .ok i) : IsWordOf n i := by
  unfold decodePrd at h
  split at h
  · cases h
  · split at h
    all_goals
      next hbit =>
        cases h
        simp only [bit_eq_true] at hbit
        refine ⟨rfl, congrArg some (wordI_of_fields hn hop rfl ?_ ?_)⟩ <;> (simp only [fin64At, fld] at *; omega)

theorem isWordOf_of_decodeCop (hop : fld n 26 6 = 0x33) (h : decodeCop n = .ok i) : IsWordOf n i := by
  unfold decodeCop at h
  split at h
  · cases h
  · split at h
    · cases h
    · next c hc =>
      have hc := code_of_engClassOf hc
      dsimp only at h
      split at h
      · next hbit =>
        cases h
        simp only [bit_eq_true] at hbit
        refine ⟨rfl, congrArg some (wordR_of_fields hn hop rfl rfl rfl ?_)⟩
        rw [toNat_ofNat_fld]
        simp only [fld] at *
        omega
      · next hbit =>
        simp only [bit_eq_true] at hbit
        simp only [accept_eq_ok, beq_iff_eq] at h
        obtain ⟨hd, rfl⟩ := h
        refine ⟨rfl, congrArg some (wordR_of_fields hn hop hd rfl rfl ?_)⟩
        rw [toNat_ofNat_fld]
        simp only [fld] at *
        omega

theorem isWordOf_of_decodeConduct (h : decodeConduct n = .ok i) : IsWordOf n i := by
  unfold decodeConduct at h
  dsimp only at h
  split at h
  case h_1 hop => exact isWordOf_of_decodeAlu hn hop h
  case h_2 hop => exact isWordOf_of_decodeFpu hn hop h
  case h_3 hop => exact isWordOf_of_decodeAmo hn hop h
  case h_4 hop => exact isWordOf_of_decodeHandle hn hop h
  case h_5 hop => exact isWordOf_of_decodeCourse hn hop h
  case h_6 hop => exact isWordOf_of_decodeSync hn hop h
  case h_7 hop => exact isWordOf_of_decodeSys hn hop h
  case h_12 hop | h_13 hop | h_14 hop =>
    simp only [accept_eq_ok, beq_iff_eq] at h
    obtain ⟨hzero, rfl⟩ := h
    refine ⟨rfl, congrArg some (wordI_of_fields hn hop rfl rfl ?_)⟩
    rw [toNat_ofNat_fld]
    simp only [fld] at *
    omega
  case h_16 hop =>
    simp only [accept_eq_ok, beq_iff_eq] at h
    obtain ⟨hzero, rfl⟩ := h
    refine ⟨rfl, congrArg some (wordI_of_fields hn hop rfl ?_ (toNat_ofNat_fld ..).symm)⟩
    rw [toNat_ofNat_fld]
    simp only [fld] at *
    omega
  case h_17 hop =>
    split at h
    · cases h
    · next ha =>
      split at h
      case h_2 => cases h
      case h_1 c hc =>
        cases h
        exact ⟨rfl, congrArg some (wordI_of_fields hn hop rfl (not_not.1 ha) (num_of_ctlOf hc).symm)⟩
  case h_18 hop => exact isWordOf_of_decodeMtc hn hop h
  case h_19 hop =>
    simp only [accept_eq_ok, beq_iff_eq] at h
    obtain ⟨hzero, rfl⟩ := h
    refine ⟨rfl, congrArg some (wordI_of_fields hn hop ?_ ?_ ?_)⟩
    case refine_3 => rw [toNat_ofNat_fld]; simp only [fld] at *; omega
    all_goals (simp only [fld] at *; omega)
  case h_20 hop => exact isWordOf_of_decodePdcl hn hop h
  case h_21 hop =>
    simp only [accept_eq_ok, beq_iff_eq, Bool.and_eq_true] at h
    obtain ⟨⟨hd, hzero⟩, rfl⟩ := h
    refine ⟨rfl, congrArg some (wordI_of_fields hn hop hd rfl ?_)⟩
    simp only [fin64At, fld] at *
    omega
  case h_22 hop => exact isWordOf_of_decodePrd hn hop h
  case h_23 hop =>
    simp only [accept_eq_ok, beq_iff_eq, Bool.and_eq_true] at h
    obtain ⟨⟨ha, hzero⟩, rfl⟩ := h
    refine ⟨rfl, congrArg some (wordI_of_fields hn hop rfl ha ?_)⟩
    simp only [fin64At, fld] at *
    omega
  case h_41 hop | h_42 hop =>
    cases h
    exact ⟨rfl, congrArg some (wordJ_of_fields hn hop (toNat_ofNat_fld ..).symm)⟩
  case h_44 hop => exact isWordOf_of_decodeCop hn hop h
  case h_45 => cases h
  all_goals
    next hop =>
      cases h
      exact ⟨rfl, congrArg some (wordI_of_fields hn hop rfl rfl (toNat_ofNat_fld ..).symm)⟩

end

/-- Settles O3, group by group of the tables, in both directions. -/
theorem conductRoundTrip : Obligations.ConductRoundTrip :=
  ⟨fun _ _ hwf h => decodeConduct_of_encodeConduct hwf h, fun _ _ hn h => isWordOf_of_decodeConduct hn h⟩

/-- Settles O2: the words written out are those of their instructions. -/
theorem decodeWords : Obligations.DecodeWords :=
  ⟨rfl, rfl, rfl, rfl, rfl, rfl, rfl, rfl, rfl, rfl, rfl, rfl, rfl, rfl, rfl, rfl⟩

end Sys2Proof
end

section
/-! SUPPORT and PROOF of O4. The fields of a command's word (R89, R90, R242, R259), and each command by its opcode. -/
namespace Sys2Proof

/-! ### Fields of a stream command -/

/-- A command's word has its fields at their places (R89). -/
theorem fields_of_wordS {opc h port slots fa fb n : Nat} (hw : wordS opc h port slots fa fb = n) (hopc : opc < 256) (hh : h < 16)
    (hport : port < 64) (hslots : slots < 2 ^ 14) (hfa : fa < 2 ^ 32) (hfb : fb < 2 ^ 64) :
    n < 2 ^ 128 ∧ fld n 120 8 = opc ∧ fld n 116 4 = h ∧ fld n 110 6 = port ∧ fld n 96 14 = slots ∧ fld n 64 32 = fa ∧ fld n 0 64 = fb := by
  simp only [wordS, fld] at *
  omega

/-- A field within a field. -/
theorem fld_within {n lo v x : Nat} (h : fld n lo v = x) (j w : Nat) (hj : j + w ≤ v) : fld n (lo + j) w = x / 2 ^ j % 2 ^ w := by
  subst h
  refine Nat.eq_of_testBit_eq fun i => ?_
  simp only [fld, Nat.testBit_mod_two_pow, Nat.testBit_div_two_pow]
  by_cases hi : i < w
  · simp only [hi, decide_true, Bool.true_and, show i + j < v by omega, Nat.add_assoc, Nat.add_comm lo j]
  · simp only [hi, decide_false, Bool.false_and]

theorem gateOf_code (g : Gate) : gateOf g.code = g := by cases g <;> rfl
theorem drainOf_code (d : Drain) : drainOf d.code = d := by cases d <;> rfl
theorem Gate.code_lt (g : Gate) : g.code < 4 := by cases g <;> decide
theorem Drain.code_lt (d : Drain) : d.code < 4 := by cases d <;> decide

theorem edgeOk_of_port {n : Nat} {port : EdgePort} (h : fld n 110 6 = port.val) : edgeOk n = true ∧ port = edgeAt n := by
  have hp := port.isLt
  constructor
  · rw [edgeOk, bit_eq_false.2, Bool.not_false]
    simp only [fld] at *
    omega
  · refine Fin.ext ?_
    simp only [edgeAt, fld] at *
    omega

/-- The fields of a binding's word (R259). -/
theorem fields_of_wordBind {opc own n : Nat} {b : BindArgs} (h : wordBind opc b own = n) (hopc : opc < 256) (hown : own < 16) :
    n < 2 ^ 128 ∧ fld n 120 8 = opc ∧ edgeOk n = true ∧ b = bindArgsAt n ∧ fld n 80 4 = own := by
  have hfv := bitOf_le b.fv
  have hends := bitOf_le b.ends
  have hgate := b.gate.code_lt
  obtain ⟨hn, hop, hh, hport, hslots, hfa, hfb⟩ := fields_of_wordS h hopc b.h.isLt (by omega) b.slots.isLt (by omega) b.base.isLt
  obtain ⟨hedge, hport⟩ := edgeOk_of_port hport
  have hfv : fld n 95 1 = bitOf b.fv := (fld_within hfa 31 1 (by decide)).trans (by omega)
  have hfoot : fld n 87 8 = b.foot.toNat := (fld_within hfa 23 8 (by decide)).trans (by omega)
  have hgate : fld n 85 2 = b.gate.code := (fld_within hfa 21 2 (by decide)).trans (by omega)
  have hends : fld n 84 1 = bitOf b.ends := (fld_within hfa 20 1 (by decide)).trans (by omega)
  have hown : fld n 80 4 = own := (fld_within hfa 16 4 (by decide)).trans (by omega)
  have hdesc : fld n 64 16 = b.desc.toNat := (fld_within hfa 0 16 (by decide)).trans (by omega)
  refine ⟨hn, hop, hedge, ?_, hown⟩
  rw [bindArgsAt, ← eq_fin16At hh, ← hport, ← eq_ofNat_fld hslots, ← eq_bit hfv, ← eq_ofNat_fld hfoot, hgate, gateOf_code, ← eq_bit hends,
    ← eq_ofNat_fld hdesc, ← eq_ofNat_fld hfb]

/-- The fields of mrow and mcol (R242). -/
theorem fields_of_wordMat {opc n : Nat} {m : MatArgs} (h : wordMat opc m = n) (hopc : opc < 256) :
    n < 2 ^ 128 ∧ fld n 120 8 = opc ∧ matArgsAt n = .ok m := by
  have hasrc := bitOf_le m.asrc
  have hzero := bitOf_le m.zero
  have hdr := m.dr.code_lt
  obtain ⟨hn, hop, hh, hport, hslots, hfa, hfb⟩ := fields_of_wordS h hopc m.h.isLt (by omega) m.slots.isLt (by omega) (by omega)
  have hclass : fld n 114 2 = 2 := (fld_within hport 4 2 (by decide)).trans (by omega)
  have hport : fld n 110 4 = m.port.val := (fld_within hport 0 4 (by decide)).trans (by omega)
  have hasrc : fld n 89 1 = bitOf m.asrc := (fld_within hfa 25 1 (by decide)).trans (by omega)
  have hzero : fld n 88 1 = bitOf m.zero := (fld_within hfa 24 1 (by decide)).trans (by omega)
  have hdr : fld n 86 2 = m.dr.code := (fld_within hfa 22 2 (by decide)).trans (by omega)
  have hwaw : fld n 83 3 = m.waw.val := (fld_within hfa 19 3 (by decide)).trans (by omega)
  have hla : fld n 81 2 = m.la.val := (fld_within hfa 17 2 (by decide)).trans (by omega)
  have hzh : fld n 77 4 = m.zh.val := (fld_within hfa 13 4 (by decide)).trans (by omega)
  have hnpm : fld n 72 5 = m.npm.val := (fld_within hfa 8 5 (by decide)).trans (by omega)
  have hzbase : fld n 64 8 = m.zbase.toNat := (fld_within hfa 0 8 (by decide)).trans (by omega)
  have hpool : fld n 10 6 = m.pool.val := (fld_within hfb 10 6 (by decide)).trans (by omega)
  have hlane : fld n 6 4 = m.lane.val := (fld_within hfb 6 4 (by decide)).trans (by omega)
  have htop : fld n 90 6 = 0 := (fld_within hfa 26 6 (by decide)).trans (by omega)
  have hmid : fld n 16 48 = 0 := (fld_within hfb 16 48 (by decide)).trans (by omega)
  have hlow : fld n 0 6 = 0 := (fld_within hfb 0 6 (by decide)).trans (by omega)
  refine ⟨hn, hop, ?_⟩
  simp only [matArgsAt, hclass, hwaw, hla, hdr, drainOf_code, htop, hmid, hlow, ne_eq, not_true, or_self, if_false, m.waw.isLt, m.la.isLt, dif_pos]
  rw [← eq_fin16At hh, ← eq_fin16At hport, ← eq_ofNat_fld hslots, ← eq_bit hasrc, ← eq_bit hzero, ← eq_fin16At hzh, ← eq_regAt hnpm,
    ← eq_ofNat_fld hzbase, ← eq_fin64At hpool, ← eq_fin16At hlane]

theorem accCmd_of {ok : Bool} {i : Instr} (hok : ok = true) (hwf : i.wf = true) : accCmd ok i = .ok i := by
  rw [accCmd, if_pos hok, if_pos hwf]

theorem topZero_of {n : Nat} (hh : fld n 116 4 = 0) (hport : fld n 110 6 = 0) (hslots : fld n 96 14 = 0) : topZero n = true := by
  simp only [topZero, fld, beq_iff_eq] at *
  omega
theorem handleSlotsZero_of {n : Nat} (hh : fld n 116 4 = 0) (hslots : fld n 96 14 = 0) : handleSlotsZero n = true := by
  rw [handleSlotsZero, hh, hslots]
  rfl

/-- The fields of a command that names no handle, port or slots (R90). -/
theorem fields_of_plainWord {opc fa fb n : Nat} (hw : wordS opc 0 0 0 fa fb = n) (hopc : opc < 256) (hfa : fa < 2 ^ 32) (hfb : fb < 2 ^ 64) :
    n < 2 ^ 128 ∧ fld n 120 8 = opc ∧ topZero n = true ∧ fld n 64 32 = fa ∧ fld n 0 64 = fb := by
  obtain ⟨hn, hop, hh, hport, hslots, hfa, hfb⟩ := fields_of_wordS hw hopc (by decide) (by decide) (by decide) hfa hfb
  exact ⟨hn, hop, topZero_of hh hport hslots, hfa, hfb⟩

/-- The fields of a command that names an edge port alone. -/
theorem fields_of_portWord {opc fa n : Nat} {port : EdgePort} (hw : wordS opc 0 port.val 0 fa 0 = n) (hopc : opc < 256) (hfa : fa < 2 ^ 32) :
    n < 2 ^ 128 ∧ fld n 120 8 = opc ∧ edgeOk n = true ∧ port = edgeAt n ∧ handleSlotsZero n = true ∧ fld n 64 32 = fa ∧ fld n 0 64 = 0 := by
  obtain ⟨hn, hop, hh, hport, hslots, hfa, hfb⟩ := fields_of_wordS hw hopc (by decide) (by omega) (by decide) hfa (by decide)
  obtain ⟨hedge, hport⟩ := edgeOk_of_port hport
  exact ⟨hn, hop, hedge, hport, handleSlotsZero_of hh hslots, hfa, hfb⟩

/-- The code of an index source in the own bits of a bindg (R266). -/
def IdxSrc.code : IdxSrc → Nat
  | .mem => 0 | .fab => 1 | .pa => 2

/-- The word of a well-formed command decodes to it. -/
theorem decodeStream_of_encodeStream {i : Instr} {n : Nat} (hwf : i.wf = true) (h : encodeStream i = some n) :
    n < 2 ^ 128 ∧ decodeStream n = .ok i := by
  cases i
  all_goals injection h
  case bindr b h | bindw b h =>
    obtain ⟨hn, hop, hedge, rfl, hown⟩ := fields_of_wordBind h (by decide) (by decide)
    refine ⟨hn, ?_⟩
    unfold decodeStream
    rw [hop]
    exact (if_pos hedge).trans (accCmd_of (by rw [hown]; rfl) hwf)
  case bindg b src sh h =>
    obtain ⟨hn, hop, hedge, rfl, hown⟩ := fields_of_wordBind h (by decide) (by cases src <;> (dsimp only; omega))
    have hsh : fld n 80 2 = sh.toNat := (fld_within hown 0 2 (by decide)).trans (by cases src <;> (dsimp only; omega))
    have hsrc : fld n 82 2 = src.code := (fld_within hown 2 2 (by decide)).trans (by cases src <;> (dsimp only [IdxSrc.code]; omega))
    obtain rfl := eq_ofNat_fld hsh
    refine ⟨hn, ?_⟩
    unfold decodeStream
    rw [hop]
    rw [hsrc]
    cases src <;> exact (if_pos hedge).trans (accCmd_of rfl hwf)
  case binds b sh h =>
    obtain ⟨hn, hop, hedge, rfl, hown⟩ := fields_of_wordBind h (by decide) (by omega)
    have hsh : fld n 80 2 = sh.toNat := (fld_within hown 0 2 (by decide)).trans (by omega)
    have hzero : fld n 82 2 = 0 := (fld_within hown 2 2 (by decide)).trans (by omega)
    obtain rfl := eq_ofNat_fld hsh
    refine ⟨hn, ?_⟩
    unfold decodeStream
    rw [hop]
    exact (if_pos hedge).trans (accCmd_of (by rw [hzero]; rfl) hwf)
  case bindc b sel out h =>
    have hsel := bitOf_le sel
    have hout := bitOf_le out
    obtain ⟨hn, hop, hedge, rfl, hown⟩ := fields_of_wordBind h (by decide) (by omega)
    have hsel : fld n 83 1 = bitOf sel := (fld_within hown 3 1 (by decide)).trans (by omega)
    have hout : fld n 82 1 = bitOf out := (fld_within hown 2 1 (by decide)).trans (by omega)
    have hzero : fld n 80 2 = 0 := (fld_within hown 0 2 (by decide)).trans (by omega)
    obtain rfl := eq_bit hsel
    obtain rfl := eq_bit hout
    refine ⟨hn, ?_⟩
    unfold decodeStream
    rw [hop]
    exact (if_pos hedge).trans (accCmd_of (by rw [hzero]; rfl) hwf)
  case bindf k port slots ends out h =>
    have hends := bitOf_le ends
    have hout := bitOf_le out
    obtain ⟨hn, hop, hk, hport, hslots, hfa, hfb⟩ :=
      fields_of_wordS h (by decide) k.isLt (by omega) slots.isLt (by omega) (by decide)
    have hends : fld n 84 1 = bitOf ends := (fld_within hfa 20 1 (by decide)).trans (by omega)
    have hout : fld n 83 1 = bitOf out := (fld_within hfa 19 1 (by decide)).trans (by omega)
    have hhigh : fld n 85 11 = 0 := (fld_within hfa 21 11 (by decide)).trans (by omega)
    have hlow : fld n 64 19 = 0 := (fld_within hfa 0 19 (by decide)).trans (by omega)
    have hzero : fld n 0 83 = 0 := by simp only [fld] at hlow hfb ⊢; omega
    obtain ⟨hedge, rfl⟩ := edgeOk_of_port hport
    obtain rfl := eq_fin16At hk
    obtain rfl := eq_ofNat_fld hslots
    obtain rfl := eq_bit hends
    obtain rfl := eq_bit hout
    refine ⟨hn, ?_⟩
    unfold decodeStream
    rw [hop]
    exact (if_pos hedge).trans (accCmd_of (by rw [hzero, hhigh]; rfl) hwf)
  case weir k port mask nrec image h =>
    obtain ⟨hn, hop, hk, hport, hslots, hfa, hfb⟩ := fields_of_wordS h (by decide) k.isLt (by omega) (by decide) (by omega) image.isLt
    have hmask : fld n 80 16 = mask.toNat := (fld_within hfa 16 16 (by decide)).trans (by omega)
    have hnrec : fld n 64 16 = nrec.toNat := (fld_within hfa 0 16 (by decide)).trans (by omega)
    obtain ⟨hedge, rfl⟩ := edgeOk_of_port hport
    obtain rfl := eq_fin16At hk
    obtain rfl := eq_ofNat_fld hmask
    obtain rfl := eq_ofNat_fld hnrec
    obtain rfl := eq_ofNat_fld hfb
    refine ⟨hn, ?_⟩
    unfold decodeStream
    rw [hop]
    exact (if_pos hedge).trans (accCmd_of (by rw [hslots]; rfl) hwf)
  case barrierFence h | mswap h =>
    subst h
    exact ⟨by decide, rfl⟩
  case barrierArrive bar h =>
    obtain ⟨hn, hop, htop, hfa, hfb⟩ := fields_of_plainWord h (by decide) (by decide) (by omega)
    have hbar : fld n 0 57 = bar.toNat := (fld_within hfb 0 57 (by decide)).trans (by omega)
    have hzero : fld n 57 5 = 0 := (fld_within hfb 57 5 (by decide)).trans (by omega)
    have harrive : bit n 63 = true := bit_eq_true.2 ((fld_within hfb 63 1 (by decide)).trans (by omega))
    have hwait : bit n 62 = false := bit_eq_false.2 ((fld_within hfb 62 1 (by decide)).trans (by omega))
    obtain rfl := eq_ofNat_fld hbar
    refine ⟨hn, ?_⟩
    unfold decodeStream
    rw [hop, htop, hzero, harrive, hwait, hfa]
    rfl
  case barrierArriveWait bar h =>
    obtain ⟨hn, hop, htop, hfa, hfb⟩ := fields_of_plainWord h (by decide) (by decide) (by omega)
    have hbar : fld n 0 57 = bar.toNat := (fld_within hfb 0 57 (by decide)).trans (by omega)
    have hzero : fld n 57 5 = 0 := (fld_within hfb 57 5 (by decide)).trans (by omega)
    have harrive : bit n 63 = true := bit_eq_true.2 ((fld_within hfb 63 1 (by decide)).trans (by omega))
    have hwait : bit n 62 = true := bit_eq_true.2 ((fld_within hfb 62 1 (by decide)).trans (by omega))
    obtain rfl := eq_ofNat_fld hbar
    refine ⟨hn, ?_⟩
    unfold decodeStream
    rw [hop, htop, hzero, harrive, hwait, hfa]
    rfl
  case barrierWait bar ph h =>
    obtain ⟨hn, hop, htop, hfa, hfb⟩ := fields_of_plainWord h (by decide) ph.isLt (by omega)
    have hbar : fld n 0 57 = bar.toNat := (fld_within hfb 0 57 (by decide)).trans (by omega)
    have hzero : fld n 57 5 = 0 := (fld_within hfb 57 5 (by decide)).trans (by omega)
    have harrive : bit n 63 = false := bit_eq_false.2 ((fld_within hfb 63 1 (by decide)).trans (by omega))
    have hwait : bit n 62 = true := bit_eq_true.2 ((fld_within hfb 62 1 (by decide)).trans (by omega))
    obtain rfl := eq_ofNat_fld hbar
    obtain rfl := eq_ofNat_fld hfa
    refine ⟨hn, ?_⟩
    unfold decodeStream
    rw [hop, htop, hzero, harrive, hwait]
    rfl
  case meter port r h =>
    obtain ⟨hn, hop, hedge, rfl, hrest, hfa, hfb⟩ := fields_of_portWord h (by decide) (by omega)
    have hr : fld n 64 9 = r.toNat := (fld_within hfa 0 9 (by decide)).trans (by omega)
    have hzero : fld n 73 23 = 0 := (fld_within hfa 9 23 (by decide)).trans (by omega)
    obtain rfl := eq_ofNat_fld hr
    refine ⟨hn, ?_⟩
    unfold decodeStream
    rw [hop]
    exact (if_pos hedge).trans (accCmd_of (by rw [hrest, hfb, hzero]; rfl) hwf)
  case snap save rv rch h =>
    have hrv := bitOf_le rv
    obtain ⟨hn, hop, htop, hfa, hfb⟩ := fields_of_plainWord h (by decide) (by omega) save.isLt
    have hrv : fld n 72 1 = bitOf rv := (fld_within hfa 8 1 (by decide)).trans (by omega)
    have hrch : fld n 64 8 = rch.toNat := (fld_within hfa 0 8 (by decide)).trans (by omega)
    have hzero : fld n 73 23 = 0 := (fld_within hfa 9 23 (by decide)).trans (by omega)
    obtain rfl := eq_bit hrv
    obtain rfl := eq_ofNat_fld hrch
    obtain rfl := eq_ofNat_fld hfb
    refine ⟨hn, ?_⟩
    unfold decodeStream
    rw [hop]
    exact accCmd_of (by rw [htop, hzero]; rfl) hwf
  case relatch asid base log rv rch h =>
    have hrv := bitOf_le rv
    obtain ⟨hn, hop, htop, hfa, hfb⟩ := fields_of_plainWord h (by decide) (by omega) (by omega)
    have hasid : fld n 80 16 = asid.toNat := (fld_within hfa 16 16 (by decide)).trans (by omega)
    have hrch : fld n 72 8 = rch.toNat := (fld_within hfa 8 8 (by decide)).trans (by omega)
    have hrv : fld n 71 1 = bitOf rv := (fld_within hfa 7 1 (by decide)).trans (by omega)
    have hgap : fld n 70 1 = 0 := (fld_within hfa 6 1 (by decide)).trans (by omega)
    have hlog : fld n 64 6 = log.toNat := (fld_within hfa 0 6 (by decide)).trans (by omega)
    have hzero : fld n 57 7 = 0 := (fld_within hfb 57 7 (by decide)).trans (by omega)
    have hbase : fld n 0 57 = base.toNat := (fld_within hfb 0 57 (by decide)).trans (by omega)
    obtain rfl := eq_ofNat_fld hasid
    obtain rfl := eq_ofNat_fld hrch
    obtain rfl := eq_bit hrv
    obtain rfl := eq_ofNat_fld hlog
    obtain rfl := eq_ofNat_fld hbase
    refine ⟨hn, ?_⟩
    unfold decodeStream
    rw [hop]
    exact accCmd_of (by rw [htop, hgap, hzero]; rfl) hwf
  next id rv rch h =>
    have hrv := bitOf_le rv
    obtain ⟨hn, hop, htop, hfa, hfb⟩ := fields_of_plainWord h (by decide) (by omega) (by omega)
    have hrec : fld n 64 20 = id.toNat := (fld_within hfa 0 20 (by decide)).trans (by omega)
    have hhigh : fld n 84 12 = 0 := (fld_within hfa 20 12 (by decide)).trans (by omega)
    have hrv : fld n 8 1 = bitOf rv := (fld_within hfb 8 1 (by decide)).trans (by omega)
    have hrch : fld n 0 8 = rch.toNat := (fld_within hfb 0 8 (by decide)).trans (by omega)
    have hzero : fld n 9 55 = 0 := (fld_within hfb 9 55 (by decide)).trans (by omega)
    obtain rfl := eq_ofNat_fld hrec
    obtain rfl := eq_bit hrv
    obtain rfl := eq_ofNat_fld hrch
    refine ⟨hn, ?_⟩
    unfold decodeStream
    rw [hop]
    exact accCmd_of (by rw [htop, hhigh, hzero]; rfl) hwf
  case gbind port id h =>
    obtain ⟨hn, hop, hedge, rfl, hrest, hfa, hfb⟩ := fields_of_portWord h (by decide) (by omega)
    have hrec : fld n 64 20 = id.toNat := (fld_within hfa 0 20 (by decide)).trans (by omega)
    have hdetach : bit n 84 = false := bit_eq_false.2 ((fld_within hfa 20 1 (by decide)).trans (by omega))
    have hzero : fld n 85 11 = 0 := (fld_within hfa 21 11 (by decide)).trans (by omega)
    obtain rfl := eq_ofNat_fld hrec
    refine ⟨hn, ?_⟩
    unfold decodeStream
    rw [hop]
    refine (if_pos hedge).trans ?_
    rw [hrest, hfb, hzero, hdetach]
    rfl
  case gbindDetach port h =>
    obtain ⟨hn, hop, hedge, rfl, hrest, hfa, hfb⟩ := fields_of_portWord h (by decide) (by decide)
    have hrec : fld n 64 20 = 0 := fld_within hfa 0 20 (by decide)
    have hdetach : bit n 84 = true := bit_eq_true.2 (fld_within hfa 20 1 (by decide))
    have hzero : fld n 85 11 = 0 := fld_within hfa 21 11 (by decide)
    refine ⟨hn, ?_⟩
    unfold decodeStream
    rw [hop]
    refine (if_pos hedge).trans ?_
    rw [hrest, hfb, hzero, hdetach, hrec]
    rfl
  case msg c addr h =>
    have hc := c.code_lt
    obtain ⟨hn, hop, htop, hfa, hfb⟩ := fields_of_plainWord h (by decide) (by omega) addr.isLt
    have hc : fld n 80 2 = c.code := (fld_within hfa 16 2 (by decide)).trans (by omega)
    have hbind : bit n 82 = false := bit_eq_false.2 ((fld_within hfa 18 1 (by decide)).trans (by omega))
    have hhigh : fld n 83 13 = 0 := (fld_within hfa 19 13 (by decide)).trans (by omega)
    have hmid : fld n 70 10 = 0 := (fld_within hfa 6 10 (by decide)).trans (by omega)
    have hlow : fld n 64 6 = 0 := (fld_within hfa 0 6 (by decide)).trans (by omega)
    obtain rfl := eq_ofNat_fld hfb
    refine ⟨hn, ?_⟩
    unfold decodeStream
    rw [hop, hc, engClassOf_code, htop, hhigh, hmid, hbind, hlow]
    rfl
  case msgBind mp c h =>
    have hc := c.code_lt
    obtain ⟨hn, hop, htop, hfa, hfb⟩ := fields_of_plainWord h (by decide) (by omega) (by decide)
    have hc : fld n 80 2 = c.code := (fld_within hfa 16 2 (by decide)).trans (by omega)
    have hbind : bit n 82 = true := bit_eq_true.2 ((fld_within hfa 18 1 (by decide)).trans (by omega))
    have hhigh : fld n 83 13 = 0 := (fld_within hfa 19 13 (by decide)).trans (by omega)
    have hmid : fld n 70 10 = 0 := (fld_within hfa 6 10 (by decide)).trans (by omega)
    have hmp : fld n 64 6 = mp.toNat := (fld_within hfa 0 6 (by decide)).trans (by omega)
    obtain rfl := eq_ofNat_fld hmp
    refine ⟨hn, ?_⟩
    unfold decodeStream
    rw [hop, hc, engClassOf_code, htop, hhigh, hmid, hbind, hfb]
    exact accCmd_of rfl hwf
  case card c op nf f0 f1 opnd h =>
    have hc := c.code_lt
    obtain ⟨hn, hop, htop, hfa, hfb⟩ := fields_of_plainWord h (by decide) (by omega) opnd.isLt
    have hcode : fld n 92 4 = op.toNat := (fld_within hfa 28 4 (by decide)).trans (by omega)
    have hc : fld n 90 2 = c.code := (fld_within hfa 26 2 (by decide)).trans (by omega)
    have hnf : fld n 88 2 = nf.toNat := (fld_within hfa 24 2 (by decide)).trans (by omega)
    have hzero : fld n 80 8 = 0 := (fld_within hfa 16 8 (by decide)).trans (by omega)
    have hf1 : fld n 72 8 = f1.toNat := (fld_within hfa 8 8 (by decide)).trans (by omega)
    have hf0 : fld n 64 8 = f0.toNat := (fld_within hfa 0 8 (by decide)).trans (by omega)
    obtain rfl := eq_ofNat_fld hcode
    obtain rfl := eq_ofNat_fld hnf
    obtain rfl := eq_ofNat_fld hf1
    obtain rfl := eq_ofNat_fld hf0
    obtain rfl := eq_ofNat_fld hfb
    refine ⟨hn, ?_⟩
    unfold decodeStream
    rw [hop, hc, engClassOf_code]
    exact accCmd_of (by rw [htop, hzero]; rfl) hwf
  case atime t h =>
    obtain ⟨hn, hop, htop, hfa, hfb⟩ := fields_of_plainWord h (by decide) (by decide) t.isLt
    obtain rfl := eq_ofNat_fld hfb
    refine ⟨hn, ?_⟩
    unfold decodeStream
    rw [hop]
    exact accCmd_of (by rw [htop, hfa]; rfl) hwf
  case ctl port v h =>
    obtain ⟨hn, hop, hedge, rfl, hrest, hfa, hfb⟩ := fields_of_portWord h (by decide) v.isLt
    obtain rfl := eq_ofNat_fld hfa
    refine ⟨hn, ?_⟩
    unfold decodeStream
    rw [hop]
    exact (if_pos hedge).trans (accCmd_of (by rw [hrest, hfb]; rfl) hwf)
  case syncw w k h =>
    obtain ⟨hn, hop, htop, hfa, hfb⟩ := fields_of_plainWord h (by decide) k.isLt w.isLt
    obtain rfl := eq_ofNat_fld hfa
    obtain rfl := eq_ofNat_fld hfb
    refine ⟨hn, ?_⟩
    unfold decodeStream
    rw [hop]
    exact accCmd_of htop hwf
  case mload k slots bm pack wbw tcols trows h =>
    have hbm := bitOf_le bm
    have hpack := bitOf_le pack
    obtain ⟨hn, hop, hk, hport, hslots, hfa, hfb⟩ := fields_of_wordS h (by decide) k.isLt (by decide) slots.isLt (by omega) (by decide)
    have hbm : fld n 82 1 = bitOf bm := (fld_within hfa 18 1 (by decide)).trans (by omega)
    have hpack : fld n 81 1 = bitOf pack := (fld_within hfa 17 1 (by decide)).trans (by omega)
    have hwbw : fld n 78 3 = wbw.toNat := (fld_within hfa 14 3 (by decide)).trans (by omega)
    have htcols : fld n 71 7 = tcols.toNat := (fld_within hfa 7 7 (by decide)).trans (by omega)
    have htrows : fld n 64 7 = trows.toNat := (fld_within hfa 0 7 (by decide)).trans (by omega)
    have hzero : fld n 83 13 = 0 := (fld_within hfa 19 13 (by decide)).trans (by omega)
    obtain rfl := eq_fin16At hk
    obtain rfl := eq_ofNat_fld hslots
    obtain rfl := eq_bit hbm
    obtain rfl := eq_bit hpack
    obtain rfl := eq_ofNat_fld hwbw
    obtain rfl := eq_ofNat_fld htcols
    obtain rfl := eq_ofNat_fld htrows
    refine ⟨hn, ?_⟩
    unfold decodeStream
    rw [hop]
    exact accCmd_of (by rw [hport, hfb, hzero]; rfl) hwf
  case mrow m h | mcol m h =>
    obtain ⟨hn, hop, hm⟩ := fields_of_wordMat h (by decide)
    refine ⟨hn, ?_⟩
    unfold decodeStream
    rw [hop, hm]
    exact accCmd_of rfl hwf
  case moriginFixed y x h =>
    obtain ⟨hn, hop, htop, hfa, hfb⟩ := fields_of_plainWord h (by decide) (by omega) (by decide)
    have hmode : fld n 80 2 = 0 := (fld_within hfa 16 2 (by decide)).trans (by omega)
    have hhigh : fld n 82 14 = 0 := (fld_within hfa 18 14 (by decide)).trans (by omega)
    have hmid : fld n 78 2 = 0 := (fld_within hfa 14 2 (by decide)).trans (by omega)
    have hlow : fld n 70 2 = 0 := (fld_within hfa 6 2 (by decide)).trans (by omega)
    have hy : fld n 72 6 = y.toNat := (fld_within hfa 8 6 (by decide)).trans (by omega)
    have hx : fld n 64 6 = x.toNat := (fld_within hfa 0 6 (by decide)).trans (by omega)
    obtain rfl := eq_ofNat_fld hy
    obtain rfl := eq_ofNat_fld hx
    refine ⟨hn, ?_⟩
    unfold decodeStream
    rw [hop, htop, hfb, hhigh, hmid, hlow, hmode]
    rfl
  case moriginWalk y x h =>
    obtain ⟨hn, hop, htop, hfa, hfb⟩ := fields_of_plainWord h (by decide) (by omega) (by decide)
    have hmode : fld n 80 2 = 1 := (fld_within hfa 16 2 (by decide)).trans (by omega)
    have hhigh : fld n 82 14 = 0 := (fld_within hfa 18 14 (by decide)).trans (by omega)
    have hmid : fld n 78 2 = 0 := (fld_within hfa 14 2 (by decide)).trans (by omega)
    have hlow : fld n 70 2 = 0 := (fld_within hfa 6 2 (by decide)).trans (by omega)
    have hy : fld n 72 6 = y.toNat := (fld_within hfa 8 6 (by decide)).trans (by omega)
    have hx : fld n 64 6 = x.toNat := (fld_within hfa 0 6 (by decide)).trans (by omega)
    obtain rfl := eq_ofNat_fld hy
    obtain rfl := eq_ofNat_fld hx
    refine ⟨hn, ?_⟩
    unfold decodeStream
    rw [hop, htop, hfb, hhigh, hmid, hlow, hmode]
    rfl
  case mmask k port slots h =>
    obtain ⟨hn, hop, hk, hport, hslots, hfa, hfb⟩ := fields_of_wordS h (by decide) k.isLt (by omega) slots.isLt (by decide) (by decide)
    have hclass : fld n 114 2 = 2 := (fld_within hport 4 2 (by decide)).trans (by omega)
    have hport : fld n 110 4 = port.toNat := (fld_within hport 0 4 (by decide)).trans (by omega)
    have hzero : fld n 0 96 = 0 := by simp only [fld] at hfa hfb ⊢; omega
    obtain rfl := eq_fin16At hk
    obtain rfl := eq_ofNat_fld hport
    obtain rfl := eq_ofNat_fld hslots
    refine ⟨hn, ?_⟩
    unfold decodeStream
    rw [hop, hclass, hzero]
    exact accCmd_of rfl hwf

/-- Settles O4, command by command. -/
theorem streamRoundTrip : Obligations.StreamRoundTrip := fun _ _ hwf h => decodeStream_of_encodeStream hwf h

end Sys2Proof
end

section
/-! SUPPORT and PROOF of O9. What a fault and the end of a course keep, what they leave of the handlers, and the fault word's fields
(R143, R144, R418, R421). -/
namespace Sys2Proof.Machine

/-! ### Faults and the end of a course keep registers and flags -/

/-- Every region keeps its general registers and its flags. -/
def State.KeepsRegs (s t : State) : Prop := ∀ q, (t.region q).regs = (s.region q).regs ∧ (t.region q).fpflags = (s.region q).fpflags

theorem State.KeepsRegs.refl (s : State) : s.KeepsRegs s := fun _ => ⟨rfl, rfl⟩
theorem State.KeepsRegs.trans {s t u : State} (h : s.KeepsRegs t) (k : t.KeepsRegs u) : s.KeepsRegs u :=
  fun q => ⟨(k q).1.trans (h q).1, (k q).2.trans (h q).2⟩

theorem State.keepsRegs_of_regions {s t : State} (h : t.regions = s.regions) : s.KeepsRegs t := fun q => by
  rw [show t.region q = s.region q from congrArg (Tbl.look · q Region.free) h]
  exact ⟨rfl, rfl⟩

theorem State.setRegion_keepsRegs {s : State} {p : Nat} {r : Region} (hregs : r.regs = (s.region p).regs)
    (hflags : r.fpflags = (s.region p).fpflags) : s.KeepsRegs (s.setRegion p r) := fun q => by
  by_cases hq : q = p
  · subst hq
    rw [State.setRegion_region]
    exact ⟨hregs, hflags⟩
  · rw [State.setRegion_region_other _ _ _ _ hq]
    exact ⟨rfl, rfl⟩

theorem foldl_keepsRegs {α : Type} (f : State → α → State) (hf : ∀ (s : State) a, s.KeepsRegs (f s a)) (l : List α) (s : State) :
    s.KeepsRegs (l.foldl f s) := by
  induction l generalizing s with
  | nil => exact .refl s
  | cons a l ih => exact (hf s a).trans (ih _)

theorem Region.hold_regs (r : Region) : r.hold.regs = r.regs ∧ r.hold.fpflags = r.fpflags := by
  unfold Region.hold
  repeat' split
  all_goals exact ⟨rfl, rfl⟩

theorem State.startDone_keepsRegs (s : State) (p : Nat) (k : Bool) : s.KeepsRegs (s.startDone p k) :=
  .trans (t := s.orphan p none false) (State.keepsRegs_of_regions rfl) (State.setRegion_keepsRegs (by simp) (by simp))

theorem State.endInstance_keepsRegs (s : State) (p : Nat) : s.KeepsRegs (s.endInstance p) := by
  have hfail : s.KeepsRegs (s.markFailed p) := State.keepsRegs_of_regions rfl
  simp only [State.endInstance]
  split
  · exact hfail.trans (State.startDone_keepsRegs _ _ _)
  · refine hfail.trans (foldl_keepsRegs _ (fun u q => ?_) _ _)
    split
    · exact State.startDone_keepsRegs _ _ _
    · exact .refl u

/-- The region as `stopRegion` leaves it before its instance ends: it has stopped, and so have its handlers. -/
def Region.withStop (r : Region) : Region :=
  { r.setMode .stopped with handlers := r.handlers.map fun e => (e.1, { e.2 with st := .stopped, wait := .none }) }

/-- The state as `stopRegion` leaves it before the instance ends. -/
def State.withStop (s : State) (p : Nat) : State :=
  ({ s with well := s.well.freeRooms p none (s.region p).handlers } : State).setRegion p (s.region p).withStop

theorem State.stopRegion_of_live {s : State} {p : Nat} (h : (s.region p).modeUnder.live = true) :
    s.stopRegion p = match (s.die (dieOfPlace p)).preempt with
      | some x => if x.inst = (s.region p).inst then (s.withStop p).markFailed p else (s.withStop p).endInstance p
      | none => (s.withStop p).endInstance p := by
  have hdrain : ((s.region p).modeUnder == .draining) = false := by cases hm : (s.region p).modeUnder <;> simp_all [RegionMode.live]
  simp only [State.stopRegion, hdrain, h, Bool.not_true, Bool.false_eq_true, if_false]
  rfl

theorem State.stopRegion_of_draining {s : State} {p : Nat} (h : (s.region p).modeUnder = .draining) :
    s.stopRegion p = s.setRegion p { s.region p with lateFault := true } := by
  simp only [State.stopRegion, h, beq_self_eq_true, if_true]

theorem State.stopRegion_of_gone {s : State} {p : Nat} (hdrain : (s.region p).modeUnder ≠ .draining)
    (h : (s.region p).modeUnder.live = false) : s.stopRegion p = s := by
  simp only [State.stopRegion, beq_iff_eq, hdrain, h, Bool.not_false, if_false, if_true]

/-- What a region may be when it is told to stop. -/
theorem State.stopRegion_cases {P : State → Prop} {s : State} {p : Nat} (hdrain : (s.region p).modeUnder = .draining → P (s.setRegion p { s.region p with lateFault := true }))
    (hgone : P s) (hfail : P ((s.withStop p).markFailed p)) (hend : P ((s.withStop p).endInstance p)) : P (s.stopRegion p) := by
  by_cases hd : (s.region p).modeUnder = .draining
  · rw [State.stopRegion_of_draining hd]
    exact hdrain hd
  · cases hl : (s.region p).modeUnder.live
    · rw [State.stopRegion_of_gone hd hl]
      exact hgone
    · rw [State.stopRegion_of_live hl]
      split
      · split
        · exact hfail
        · exact hend
      · exact hend

theorem State.withStop_keepsRegs (s : State) (p : Nat) : s.KeepsRegs (s.withStop p) :=
  .trans (t := { s with well := s.well.freeRooms p none (s.region p).handlers }) (State.keepsRegs_of_regions rfl)
    (State.setRegion_keepsRegs (by simp [Region.withStop, State.region]) (by simp [Region.withStop, State.region]))

theorem State.stopRegion_keepsRegs (s : State) (p : Nat) : s.KeepsRegs (s.stopRegion p) :=
  State.stopRegion_cases (P := s.KeepsRegs) (fun _ => State.setRegion_keepsRegs rfl rfl) (.refl s)
    ((State.withStop_keepsRegs s p).trans (State.keepsRegs_of_regions rfl)) ((State.withStop_keepsRegs s p).trans (State.endInstance_keepsRegs _ _))

theorem State.trace_keepsRegs (s : State) (p kind place : Nat) (tells : List Nat) (hit : Trace → Bool) :
    s.KeepsRegs (s.trace p kind place tells hit) := by
  refine foldl_keepsRegs _ (fun u e => ?_) _ _
  dsimp only
  split
  · exact foldl_keepsRegs _ (fun v _ => State.keepsRegs_of_regions (State.logTo_regions _ _ _ _ _)) _ _
  · exact .refl u

theorem State.faultSeen_keepsRegs (s : State) (p : Nat) (w : BitVec 256) : s.KeepsRegs (s.faultSeen p w) := by
  simp only [State.faultSeen]
  refine State.KeepsRegs.trans ?_ (State.trace_keepsRegs _ _ _ _ _ _)
  split
  · exact State.setRegion_keepsRegs (Region.hold_regs _).1 (Region.hold_regs _).2
  · exact .refl s

theorem State.filed_keepsRegs {s : State} {p : Nat} {r : Region} (hregs : r.regs = (s.region p).regs)
    (hflags : r.fpflags = (s.region p).fpflags) (w : BitVec 256) : s.KeepsRegs ((s.setRegion p r).faultSeen p w) :=
  (State.setRegion_keepsRegs hregs hflags).trans (State.faultSeen_keepsRegs _ _ _)

theorem State.enterFault_keepsRegs (s : State) (p : Nat) (w : BitVec 256) : s.KeepsRegs (s.enterFault p w) := by
  simp only [State.enterFault]
  split
  · exact .refl s
  split
  · split
    · exact State.filed_keepsRegs (by rfl) (by rfl) w
    · exact State.setRegion_keepsRegs (by rfl) (by rfl)
  split
  · exact State.stopRegion_keepsRegs _ _
  split
  · exact State.filed_keepsRegs (by rfl) (by rfl) w
  · exact (State.filed_keepsRegs (by rfl) (by rfl) w).trans (State.stopRegion_keepsRegs _ _)

theorem State.takeFault_keepsRegs (s : State) (c : Cause) (detail addr token : Nat) : s.KeepsRegs (s.takeFault c detail addr token) := by
  have hentered (w : BitVec 256) (h : Handler) :
      s.KeepsRegs ((s.setRegion s.cur.1 ((s.region s.cur.1).setHandler s.cur.2 h)).enterFault s.cur.1 w) :=
    (State.setRegion_keepsRegs (by rfl) (by rfl)).trans (State.enterFault_keepsRegs _ _ _)
  simp only [State.takeFault]
  split
  · exact (hentered _ _).trans (State.stopRegion_keepsRegs _ _)
  · exact hentered _ _

/-! ### Without a debugger a fault writes no memory -/

theorem State.faultSeen_of_no_attach {s : State} (h : s.attach = []) (p : Nat) (w : BitVec 256) :
    s.faultSeen p w = if (s.region p).comps.any (fun e => e.2.kind == 3) then s.setRegion p (s.region p).hold else s := by
  simp only [State.faultSeen]
  refine State.trace_of_no_attach ?_ _ _ _ _ _
  split <;> exact h

theorem State.faultSeen_mem {s : State} (h : s.attach = []) (p : Nat) (w : BitVec 256) : (s.faultSeen p w).mem = s.mem := by
  rw [State.faultSeen_of_no_attach h]
  split <;> rfl

theorem State.enterFault_mem {s : State} (h : s.attach = []) (p : Nat) (w : BitVec 256) : (s.enterFault p w).mem = s.mem := by
  simp only [State.enterFault]
  split
  · rfl
  split
  · split
    · exact State.faultSeen_mem (by exact h) _ _
    · rfl
  split
  · exact State.stopRegion_mem _ _
  split
  · exact State.faultSeen_mem (by exact h) _ _
  · exact (State.stopRegion_mem _ _).trans (State.faultSeen_mem (by exact h) _ _)

theorem State.takeFault_mem {s : State} (h : s.attach = []) (c : Cause) (detail addr token : Nat) :
    (s.takeFault c detail addr token).mem = s.mem := by
  simp only [State.takeFault]
  split
  · rw [State.stopRegion_mem, State.enterFault_mem (by exact h), State.setRegion_mem]
  · rw [State.enterFault_mem (by exact h), State.setRegion_mem]

end Sys2Proof.Machine

namespace Sys2Proof.Machine

/-! ### A region that stops leaves no handler at work (R144, R435) -/

/-- No handler of the region is active or suspended. -/
def Region.Quiet (r : Region) : Prop := ∀ k, (r.handler k).st ≠ .active ∧ (r.handler k).st ≠ .suspended

theorem Region.quiet_of_handlers {r x : Region} (h : r.handlers = x.handlers) (hx : x.Quiet) : r.Quiet := fun k => by
  rw [Region.handler, h]
  exact hx k

theorem Region.withStop_quiet (r : Region) : r.withStop.Quiet :=
  handler_stopped _ (fun h => { h with st := .stopped, wait := .none }) (fun _ => rfl) _ rfl

theorem State.startDone_quiet {s : State} {p : Nat} (h : (s.region p).Quiet) (q : Nat) (k : Bool) : ((s.startDone q k).region p).Quiet := by
  by_cases hq : p = q
  · subst hq
    obtain ⟨-, -, -, hhandlers⟩ := State.startDone_region s p k
    exact handler_stopped _ (fun h => { h with st := .stopped, wait := .none, latch := none }) (fun _ => rfl) _ hhandlers
  · rw [State.startDone_region_other _ _ _ _ hq]
    exact h

/-- Ending one region's course keeps another's stop. -/
theorem State.endOne_quiet {s : State} {p : Nat} (h : (s.region p).Quiet) (c : Bool) (q : Nat) :
    ((if c then s.startDone q true else s).region p).Quiet := by
  split
  · exact State.startDone_quiet h q true
  · exact h

theorem State.endInstance_quiet {s : State} {p : Nat} (h : (s.region p).Quiet) (q : Nat) : ((s.endInstance q).region p).Quiet := by
  simp only [State.endInstance]
  split
  · exact State.startDone_quiet h q true
  · exact List.foldlRecOn (motive := fun t : State => (t.region p).Quiet) _ _ h fun t ht x _ => State.endOne_quiet ht _ x

theorem State.withStop_region (s : State) (p : Nat) : (s.withStop p).region p = (s.region p).withStop := State.setRegion_region _ _ _

theorem State.withStop_quiet (s : State) (p : Nat) : ((s.withStop p).region p).Quiet := by
  rw [State.withStop_region]
  exact Region.withStop_quiet _

/-- A region that has stopped stays so when it is told to stop again. -/
theorem State.stopRegion_keeps_quiet {s : State} {p : Nat} (h : (s.region p).Quiet) : ((s.stopRegion p).region p).Quiet :=
  State.stopRegion_cases (P := fun t => (t.region p).Quiet) (fun _ => by rw [State.setRegion_region]; exact Region.quiet_of_handlers rfl h) h
    (State.withStop_quiet s p) (State.endInstance_quiet (State.withStop_quiet s p) p)

theorem State.stopRegion_quiet {s : State} {p : Nat} (h : (s.region p).modeUnder.live = true) : ((s.stopRegion p).region p).Quiet := by
  rw [State.stopRegion_of_live h]
  split
  · split
    · exact State.withStop_quiet s p
    · exact State.endInstance_quiet (State.withStop_quiet s p) p
  · exact State.endInstance_quiet (State.withStop_quiet s p) p

/-! ### A fault that ends an instance leaves its regions draining (R144; log entry 13) -/

theorem State.startDone_modeUnder (s : State) (p : Nat) (k : Bool) : ((s.startDone p k).region p).modeUnder = .draining :=
  (State.startDone_region s p k).1

theorem State.startDone_inst (s : State) (p q : Nat) (k : Bool) : ((s.startDone q k).region p).inst = (s.region p).inst := by
  by_cases hq : p = q
  · subst hq
    simp [State.startDone]
  · rw [State.startDone_region_other _ _ _ _ hq]

/-- Ending the course of every place of an instance, where it still runs, leaves each of its regions draining. -/
theorem State.foldl_startDone_modeUnder {p n : Nat} (l : List Nat) (s : State) (hinst : (s.region p).inst = n)
    (hp : (p ∈ l ∧ (s.region p).modeUnder.live = true) ∨ (s.region p).modeUnder = .draining) :
    ((l.foldl (fun s q => if (s.region q).modeUnder.live && (s.region q).inst == n then s.startDone q true else s) s).region p).modeUnder
      = .draining := by
  induction l generalizing s with
  | nil => exact hp.resolve_left fun h => absurd h.1 List.not_mem_nil
  | cons q l ih =>
    rw [List.foldl_cons]
    by_cases hq : p = q
    · subst hq
      rcases hp with ⟨-, hlive⟩ | hdrain
      · rw [if_pos (by rw [hlive, hinst, beq_self_eq_true, Bool.and_self])]
        exact ih _ ((State.startDone_inst _ _ _ _).trans hinst) (.inr (State.startDone_modeUnder _ _ _))
      · rw [if_neg (by rw [hdrain]; simp [RegionMode.live])]
        exact ih _ hinst (.inr hdrain)
    · have hsame : ∀ c : Bool, (if c then s.startDone q true else s).region p = s.region p := fun c => by
        split
        · exact State.startDone_region_other _ _ _ _ hq
        · rfl
      refine ih _ (by rw [hsame, hinst]) ?_
      rw [hsame]
      exact hp.imp_left fun h => ⟨(List.mem_cons.1 h.1).resolve_left hq, h.2⟩

theorem State.endInstance_modeUnder {s : State} {p : Nat} (hlive : (s.region p).modeUnder.live = true)
    (hplaces : ∀ x, Tbl.find (s.die (dieOfPlace p)).insts (s.region p).inst = some x → p ∈ x.places) :
    ((s.endInstance p).region p).modeUnder = .draining := by
  simp only [State.endInstance]
  split
  · exact State.startDone_modeUnder _ _ _
  · next x hx => exact State.foldl_startDone_modeUnder _ _ rfl (.inl ⟨hplaces x hx, hlive⟩)

theorem State.withStop_modeUnder (s : State) (p : Nat) : ((s.withStop p).region p).modeUnder = .stopped := by
  rw [State.withStop_region]
  exact Region.setMode_modeUnder (s.region p) .stopped (by decide)

theorem State.stopRegion_keeps_draining {s : State} {p : Nat} (h : (s.region p).modeUnder = .draining) :
    ((s.stopRegion p).region p).modeUnder = .draining := by
  rw [State.stopRegion_of_draining h, State.setRegion_region]
  exact h

theorem State.stopRegion_modeUnder {s : State} {p : Nat} (hlive : (s.region p).modeUnder.live = true)
    (hpreempt : (s.die (dieOfPlace p)).preempt = none)
    (hplaces : ∀ x, Tbl.find (s.die (dieOfPlace p)).insts (s.region p).inst = some x → p ∈ x.places) :
    ((s.stopRegion p).region p).modeUnder = .draining := by
  rw [State.stopRegion_of_live hlive, hpreempt]
  refine State.endInstance_modeUnder (by rw [State.withStop_modeUnder]; rfl) fun x hx => hplaces x ?_
  rwa [State.withStop_region, show (s.region p).withStop.inst = (s.region p).inst by simp [Region.withStop],
    show (s.withStop p).die (dieOfPlace p) = s.die (dieOfPlace p) from rfl] at hx

end Sys2Proof.Machine

namespace Sys2Proof.Machine

/-! ### A fault word in the fault file (R418, R421) -/

theorem Cause.code_lt (c : Cause) : c.code < 2 ^ 8 := by cases c <;> decide

/-- A new entry goes behind the entries that it does not come before. -/
theorem insertFault_split (w : BitVec 256) (l : List (BitVec 256)) :
    ∃ a b, l = a ++ b ∧ insertFault w l = a ++ w :: b ∧ ∀ y ∈ b.head?, faultOrder w < faultOrder y := by
  induction l with
  | nil => exact ⟨[], [], rfl, rfl, fun y hy => nomatch hy⟩
  | cons x t ih =>
    rw [insertFault]
    split
    · next hx => exact ⟨[], x :: t, rfl, rfl, fun y hy => by obtain rfl := Option.some.inj hy; exact hx⟩
    · obtain ⟨a, b, rfl, hins, hb⟩ := ih
      exact ⟨x :: a, b, rfl, by rw [hins]; rfl, hb⟩

/-- Where a fault file takes an entry: behind those of earlier cycles, before the later ones of this cycle. -/
theorem Region.fileFault_split (r : Region) (tide : Nat) (w : BitVec 256) :
    ∃ a b, r.faults = a ++ b ∧ (r.fileFault tide w).faults = a ++ [w] ++ b ∧ (r.faultsAt ≠ tide → b = []) ∧ b.length ≤ r.faultsIn ∧
      ∀ y ∈ b.head?, faultOrder w < faultOrder y := by
  obtain ⟨k, hk⟩ : ∃ k, k = if r.faultsAt = tide then min r.faultsIn r.faults.length else 0 := ⟨_, rfl⟩
  obtain ⟨a, b, hdrop, hins, hb⟩ := insertFault_split w (r.faults.drop (r.faults.length - k))
  have hlen : (a ++ b).length = k := by
    rw [← hdrop, List.length_drop, hk]
    split <;> omega
  rw [List.length_append] at hlen
  refine ⟨r.faults.take (r.faults.length - k) ++ a, b, ?_, ?_, fun hat => ?_, ?_, hb⟩
  · rw [List.append_assoc, ← hdrop, List.take_append_drop]
  · simp only [Region.fileFault, ← hk, hins]
    simp
  · rw [if_neg hat] at hk
    exact List.eq_nil_of_length_eq_zero (by omega)
  · have : k ≤ r.faultsIn := by rw [hk]; split <;> omega
    omega

/-- The fault word of a conduct word. -/
def conductFault (c : Cause) (detail wid addr token k place : Nat) : BitVec 256 :=
  FaultInfo.word { cause := c, unit := 0, detail := detail, wid := wid, addr := addr, token := token, hidx := some k, place := place }

theorem conductFault_toNat (c : Cause) (detail wid addr token k place : Nat) :
    (conductFault c detail wid addr token k place).toNat
      = wid % 2 ^ 64 * 2 ^ 192 + addr % 2 ^ 64 * 2 ^ 128 + token % 2 ^ 32 * 2 ^ 96 + c.code * 2 ^ 56 + detail % 128 * 2 ^ 40 + 2 ^ 39
        + k % 32 * 2 ^ 32 + place % 1024 * 2 ^ 16 := by
  have hc := c.code_lt
  simp only [conductFault, FaultInfo.word, BitVec.toNat_ofNat]
  rw [Nat.mod_eq_of_lt (by omega)]
  omega

theorem conductFault_fields (c : Cause) (detail addr token k place : Nat) {wid : Nat} (hwid : wid < 2 ^ 64) :
    let w := conductFault c detail wid addr token k place
    faultField w 192 64 = wid ∧ faultField w 128 64 = addr % 2 ^ 64 ∧ faultField w 96 32 = token % 2 ^ 32 ∧ faultField w 91 1 = 0 ∧
      faultField w 56 8 = c.code ∧ faultField w 52 4 = 0 ∧ faultField w 40 7 = detail % 128 ∧ faultField w 39 1 = 1 ∧
      faultField w 32 5 = k % 32 ∧ faultField w 16 10 = place % 1024 ∧ faultField w 0 16 = 0 := by
  have hc := c.code_lt
  simp only [faultField, conductFault_toNat]
  refine ⟨?_, ?_, ?_, ?_, ?_, ?_, ?_, ?_, ?_, ?_, ?_⟩ <;> omega

/-! ### Entering a fault word where no debugger looks (R143, R144) -/

/-- The region with one more fault word filed, event 1 pending. -/
def Region.filed (r : Region) (tide : Nat) (w : BitVec 256) : Region := { r.fileFault tide w with ev := r.ev || r.faults.isEmpty }

theorem Region.drains_of_live {r : Region} (h : r.modeUnder.live = true) : r.drains = false := by
  unfold Region.drains
  cases hm : r.modeUnder <;> simp_all [RegionMode.live]

theorem State.enterFault_of_live {s : State} {p : Nat} {w : BitVec 256} (hattach : s.attach = []) (hlive : (s.region p).modeUnder.live = true)
    (hcomps : ∀ e ∈ (s.region p).comps, e.2.kind ≠ 3) :
    s.enterFault p w = if 8 ≤ (s.region p).faults.length then s.stopRegion p
      else if ((s.region p).handler 1).decl then s.setRegion p ((s.region p).filed s.tide w)
      else (s.setRegion p ((s.region p).filed s.tide w)).stopRegion p := by
  have hmode : ((s.region p).modeUnder == .free || (s.region p).modeUnder == .retired) = false := by
    cases hm : (s.region p).modeUnder <;> simp_all [RegionMode.live]
  have hseen : (s.setRegion p ((s.region p).filed s.tide w)).faultSeen p w = s.setRegion p ((s.region p).filed s.tide w) := by
    rw [State.faultSeen_of_no_attach (by exact hattach), State.setRegion_region, if_neg]
    simpa [Region.filed, Region.fileFault] using hcomps
  simp only [State.enterFault, hmode, Region.drains_of_live hlive, Bool.false_eq_true, if_false]
  rw [← Region.filed, hseen]

/-- The handler as a fault suspends it. -/
def Handler.faulted (h : Handler) : Handler := { h with st := .suspended, wait := .none }

/-- The fault word that a fault of the word being executed enters. -/
def State.faultWord (s : State) (c : Cause) (detail addr token : Nat) : BitVec 256 :=
  conductFault c detail s.mine.wid.toNat addr token s.cur.2 s.mine.placeId

/-- The state with the handler of the faulting word suspended. -/
def State.suspended (s : State) : State := s.setRegion s.cur.1 (s.mine.setHandler s.cur.2 (s.mine.handler s.cur.2).faulted)

theorem State.takeFault_eq (s : State) (c : Cause) (detail addr token : Nat) :
    s.takeFault c detail addr token =
      if s.cur.2 = 1 then (s.suspended.enterFault s.cur.1 (s.faultWord c detail addr token)).stopRegion s.cur.1
      else s.suspended.enterFault s.cur.1 (s.faultWord c detail addr token) := rfl

theorem State.suspended_region (s : State) : s.suspended.region s.cur.1 = s.mine.setHandler s.cur.2 (s.mine.handler s.cur.2).faulted :=
  State.setRegion_region _ _ _

/-- The state with the handler of the faulting word suspended and the fault word filed. -/
def State.faultFiled (s : State) (w : BitVec 256) : State :=
  s.suspended.setRegion s.cur.1 ((s.suspended.region s.cur.1).filed s.suspended.tide w)

theorem State.faultFiled_region (s : State) (w : BitVec 256) :
    (s.faultFiled w).region s.cur.1 = (s.mine.setHandler s.cur.2 (s.mine.handler s.cur.2).faulted).filed s.tide w := by
  rw [State.faultFiled, State.setRegion_region, State.suspended_region]
  rfl

theorem State.suspended_die (s : State) (d : Nat) : s.suspended.die d = s.die d := State.setRegion_die _ _ _ _
theorem State.faultFiled_die (s : State) (w : BitVec 256) (d : Nat) : (s.faultFiled w).die d = s.die d :=
  (State.setRegion_die _ _ _ _).trans (State.suspended_die s d)
theorem State.faultFiled_mem (s : State) (w : BitVec 256) : (s.faultFiled w).mem = s.mem := by
  rw [State.faultFiled, State.setRegion_mem, State.suspended, State.setRegion_mem]
theorem State.faultFiled_region_other (s : State) (w : BitVec 256) {q : Nat} (hq : q ≠ s.cur.1) : (s.faultFiled w).region q = s.region q := by
  rw [State.faultFiled, State.setRegion_region_other _ _ _ _ hq, State.suspended, State.setRegion_region_other _ _ _ _ hq]
@[simp] theorem Region.filed_inst (r : Region) (tide : Nat) (w : BitVec 256) : (r.filed tide w).inst = r.inst := rfl
@[simp] theorem Region.filed_modeUnder (r : Region) (tide : Nat) (w : BitVec 256) : (r.filed tide w).modeUnder = r.modeUnder := rfl
@[simp] theorem Region.filed_regs (r : Region) (tide : Nat) (w : BitVec 256) : (r.filed tide w).regs = r.regs := rfl
@[simp] theorem Region.filed_fpflags (r : Region) (tide : Nat) (w : BitVec 256) : (r.filed tide w).fpflags = r.fpflags := rfl
@[simp] theorem Region.filed_handler (r : Region) (tide : Nat) (w : BitVec 256) (k : Nat) : (r.filed tide w).handler k = r.handler k := rfl
@[simp] theorem Region.filed_faultsAt (r : Region) (tide : Nat) (w : BitVec 256) : (r.filed tide w).faultsAt = tide := rfl
@[simp] theorem Region.filed_faults (r : Region) (tide : Nat) (w : BitVec 256) : (r.filed tide w).faults = (r.fileFault tide w).faults := rfl
theorem Region.suspend_modeUnder (r : Region) (k : Nat) (h : Handler) : (r.setHandler k h).modeUnder = r.modeUnder := rfl

/-- A fault with a handler for it and room in the fault file suspends the handler and files the word. -/
theorem State.takeFault_files {s : State} {c : Cause} {detail addr token : Nat} (hattach : s.attach = []) (hlive : s.mine.modeUnder.live = true)
    (hcomps : ∀ e ∈ s.mine.comps, e.2.kind ≠ 3) (hk : s.cur.2 ≠ 1) (hdecl : (s.mine.handler 1).decl = true) (hroom : s.mine.faults.length < 8) :
    s.takeFault c detail addr token = s.faultFiled (s.faultWord c detail addr token) := by
  have hsuspended : (s.suspended.region s.cur.1).modeUnder.live = true := by rwa [State.suspended_region, Region.suspend_modeUnder]
  rw [State.takeFault_eq, if_neg hk, State.enterFault_of_live (by exact hattach) hsuspended (by rw [State.suspended_region]; exact hcomps),
    ← State.faultFiled, State.suspended_region, Region.setHandler_handler_other _ _ _ _ (Ne.symm hk), if_neg (by simpa using hroom), if_pos hdecl]

/-- What the end of a region's instance leaves of it: no handler at work and, without a pre-emption, a draining region. -/
def State.Ended (s t : State) (p : Nat) : Prop :=
  (t.region p).Quiet ∧ ((s.die (dieOfPlace p)).preempt = none →
    (∀ x, Tbl.find (s.die (dieOfPlace p)).insts (s.region p).inst = some x → p ∈ x.places) → (t.region p).modeUnder = .draining)

/-- A live region that stops has ended. -/
theorem State.stopRegion_ended {s u : State} {p : Nat} (hlive : (u.region p).modeUnder.live = true)
    (hdie : u.die (dieOfPlace p) = s.die (dieOfPlace p)) (hinst : (u.region p).inst = (s.region p).inst) : s.Ended (u.stopRegion p) p :=
  ⟨State.stopRegion_quiet hlive, fun hpre hplaces => State.stopRegion_modeUnder hlive (by rw [hdie, hpre]) (by rwa [hdie, hinst])⟩

/-- A region that has ended is told to stop once more. -/
theorem State.Ended.stopRegion {s u : State} {p : Nat} (h : s.Ended u p) : s.Ended (u.stopRegion p) p :=
  ⟨State.stopRegion_keeps_quiet h.1, fun hpre hplaces => State.stopRegion_keeps_draining (h.2 hpre hplaces)⟩

/-- A fault of handler 1, without a handler 1, or without room ends the instance. -/
theorem State.takeFault_ends {s : State} {c : Cause} {detail addr token : Nat} (hattach : s.attach = []) (hlive : s.mine.modeUnder.live = true)
    (hcomps : ∀ e ∈ s.mine.comps, e.2.kind ≠ 3) (h : s.cur.2 = 1 ∨ (s.mine.handler 1).decl = false ∨ 8 ≤ s.mine.faults.length) :
    s.Ended (s.takeFault c detail addr token) s.cur.1 := by
  have hsuspended : (s.suspended.region s.cur.1).modeUnder.live = true := by rwa [State.suspended_region, Region.suspend_modeUnder]
  have hfull : s.Ended (s.suspended.stopRegion s.cur.1) s.cur.1 :=
    State.stopRegion_ended hsuspended (State.suspended_die _ _) (by rw [State.suspended_region, Region.setHandler_inst]; rfl)
  have hfiled (w : BitVec 256) : s.Ended ((s.faultFiled w).stopRegion s.cur.1) s.cur.1 :=
    State.stopRegion_ended (by rwa [State.faultFiled_region, Region.filed_modeUnder, Region.suspend_modeUnder]) (State.faultFiled_die _ _ _)
      (by rw [State.faultFiled_region, Region.filed_inst, Region.setHandler_inst]; rfl)
  rw [State.takeFault_eq, State.enterFault_of_live (by exact hattach) hsuspended (by rw [State.suspended_region]; exact hcomps), ← State.faultFiled]
  by_cases hk : s.cur.2 = 1
  · rw [if_pos hk]
    split
    · exact hfull.stopRegion
    split
    · exact hfiled _
    · exact (hfiled _).stopRegion
  · rw [if_neg hk, State.suspended_region, Region.setHandler_handler_other _ _ _ _ (Ne.symm hk)]
    split
    · exact hfull
    · next hroom =>
      rw [if_neg (by rw [(h.resolve_left hk).resolve_right hroom]; decide)]
      exact hfiled _

/-- Settles O9: a fault that is filed writes the handler and the fault file alone; one that cannot be ends the instance. -/
theorem faultEntry : Obligations.FaultEntry := by
  unfold Obligations.FaultEntry
  intro s c detail addr token p k r t hattach hlive hcomps
  refine ⟨fun hk hdecl hroom => ?_, fun h => ?_⟩
  · have ht : t = s.faultFiled (s.faultWord c detail addr token) := State.takeFault_files hattach hlive hcomps hk hdecl hroom
    have hregion : t.region p = (r.setHandler k (r.handler k).faulted).filed s.tide (s.faultWord c detail addr token) := by
      rw [ht, State.faultFiled_region]
    have hmine : t.mine = (r.setHandler k (r.handler k).faulted).filed s.tide (s.faultWord c detail addr token) := by
      rw [← hregion, State.mine, (State.takeFault_cur s c detail addr token).1]
    obtain ⟨a, b, hold, hnew, hearlier, hlen, hlater⟩ :=
      Region.fileFault_split (r.setHandler k (r.handler k).faulted) s.tide (s.faultWord c detail addr token)
    obtain ⟨hwid, haddr, htoken, hkind, hcode, hunit, hdetail, hvalid, hidx, hplace, hcoord⟩ :=
      conductFault_fields c detail addr token k r.placeId r.wid.isLt
    clear_value t
    simp only [hmine, Region.filed_handler, Region.filed_regs, Region.filed_fpflags, Region.filed_faultsAt, Region.filed_faults,
      Region.setHandler_handler, Region.setHandler_regs, Region.setHandler_fpflags]
    refine ⟨rfl, rfl, ⟨_, a, b, hold, hnew, hearlier, hlen, fun y hy => Nat.lt_of_le_of_lt (Nat.zero_le _) (hlater y hy), trivial, hwid, haddr, htoken,
      hkind, hcode, hunit, hdetail, hvalid, hidx, hplace, hcoord⟩, ?_, trivial, trivial, ?_, fun j hj => Region.setHandler_handler_other _ _ _ _ hj,
      fun q hq => ?_⟩
    · simp [State.eventPending, hregion, hnew]
    · rw [ht, State.faultFiled_mem]
    · rw [ht, State.faultFiled_region_other _ _ hq]
  · have hmine : t.mine = t.region p := by rw [State.mine, (State.takeFault_cur s c detail addr token).1]
    obtain ⟨hquiet, hdrain⟩ := State.takeFault_ends (c := c) (detail := detail) (addr := addr) (token := token) hattach hlive hcomps h
    rw [hmine]
    exact ⟨hquiet, State.takeFault_mem hattach _ _ _ _, (State.takeFault_keepsRegs s c detail addr token p).1, hdrain⟩

end Sys2Proof.Machine

end

section
/-! SUPPORT and PROOF of O10 and O14. Where branches, jmp, call and ret continue, and that a target outside the handler's code faults
(R154 to R156). -/
namespace Sys2Proof.Machine

/-! ### The code of a handler (R141, R156) -/

/-- The length of a handler's code in bytes. -/
def codeLen (img : Image) (r : Region) (k : Nat) : Nat :=
  if k = 0 then ((img.steps[r.cc.toNat]?).map fun x => 4 * x.len).getD 0 else 4 * img.code.length - (r.handler k).off

theorem codeRange_len (img : Image) (r : Region) (k : Nat) : (codeRange img r k).2 = codeLen img r k := by
  unfold codeRange codeLen
  split
  · cases img.steps[r.cc.toNat]? <;> rfl
  · rfl

theorem State.inCode_of_image {s : State} {img : Image} (h : s.imageOf s.mine = some img) (t : Int) :
    s.inCode t = (decide (0 ≤ t) && decide (t + 4 ≤ (codeLen img s.mine s.cur.2 : Int)) && decide (t % 4 = 0)) := by
  simp only [State.inCode, h, codeRange_len]

/-- A target outside the handler's code, or at no word boundary, is not in the code. -/
theorem State.inCode_of_outside {s : State} {img : Image} (h : s.imageOf s.mine = some img) {t : Int}
    (ht : (t < 0 ∨ (codeLen img s.mine s.cur.2 : Int) < t + 4) ∨ t % 4 ≠ 0) : s.inCode t = false := by
  rw [State.inCode_of_image h]
  simp only [Bool.and_eq_false_iff, decide_eq_false_iff_not]
  omega

theorem State.fetch_of_past {s : State} {p k ia : Nat} {img : Image} (h : s.imageOf (s.region p) = some img)
    (hia : codeLen img (s.region p) k < ia + 4) : s.fetch p k ia = none := by
  rw [← codeRange_len] at hia
  simp only [State.fetch, h, if_neg (Nat.not_le.2 hia)]

/-- A handler whose address lies outside its code faults there. -/
theorem State.evalAt_of_no_word {s : State} {p k : Nat} (h : s.fetch p k ((s.region p).handler k).ia = none) :
    s.evalAt p k = ({ s with cur := (p, k), stalled := false } : State).raise .fetchBound 0 0 := by
  rw [State.evalAt]
  rw [show ({ s with cur := (p, k), stalled := false } : State).fetch p k ({ s with cur := (p, k), stalled := false } : State).here = none from h]

/-! ### Branches (R154) -/

/-- A branch continues at its target where its condition holds, at the following word where not. -/
theorem exec_of_branch {i : Instr} {s : State} {ra rb : Reg} {off : BitVec 16} {taken : DWord → DWord → Bool} {holds : Prop} [Decidable holds]
    (hi : exec i s = s.branch ra rb off taken) (h : taken (s.mine.get ra) (s.mine.get rb) = decide holds) :
    exec i s = if holds then s.transfer s.mine ((s.here : Int) + 4 * off.toInt) else .next (s.wentTo s.mine (s.here + 4)) := by
  rw [hi, State.branch, h, State.complete_eq s s.mine rfl]
  simp only [decide_eq_true_eq]
  rfl

section
variable (s : State) (ra rb : Reg) (off : BitVec 16)

theorem exec_bEq : exec (.bEq ra rb off) s =
    if s.mine.get ra = s.mine.get rb then s.transfer s.mine ((s.here : Int) + 4 * off.toInt) else .next (s.wentTo s.mine (s.here + 4)) :=
  exec_of_branch (taken := fun a b => a == b) rfl (beq_eq_decide _ _)

theorem exec_bNe : exec (.bNe ra rb off) s =
    if s.mine.get ra ≠ s.mine.get rb then s.transfer s.mine ((s.here : Int) + 4 * off.toInt) else .next (s.wentTo s.mine (s.here + 4)) :=
  exec_of_branch (taken := fun a b => a != b) rfl (by simp [bne, beq_eq_decide])

theorem exec_bLt : exec (.bLt ra rb off) s =
    if (s.mine.get ra).toInt < (s.mine.get rb).toInt then s.transfer s.mine ((s.here : Int) + 4 * off.toInt)
    else .next (s.wentTo s.mine (s.here + 4)) :=
  exec_of_branch (taken := fun a b => decide (a.toInt < b.toInt)) rfl rfl

theorem exec_bGe : exec (.bGe ra rb off) s =
    if (s.mine.get rb).toInt ≤ (s.mine.get ra).toInt then s.transfer s.mine ((s.here : Int) + 4 * off.toInt)
    else .next (s.wentTo s.mine (s.here + 4)) :=
  exec_of_branch (taken := fun a b => decide (b.toInt ≤ a.toInt)) rfl rfl

theorem exec_bLtn : exec (.bLtn ra rb off) s =
    if (s.mine.get ra).toNat < (s.mine.get rb).toNat then s.transfer s.mine ((s.here : Int) + 4 * off.toInt)
    else .next (s.wentTo s.mine (s.here + 4)) :=
  exec_of_branch (taken := fun a b => decide (a.toNat < b.toNat)) rfl rfl

theorem exec_bGen : exec (.bGen ra rb off) s =
    if (s.mine.get rb).toNat ≤ (s.mine.get ra).toNat then s.transfer s.mine ((s.here : Int) + 4 * off.toInt)
    else .next (s.wentTo s.mine (s.here + 4)) :=
  exec_of_branch (taken := fun a b => decide (b.toNat ≤ a.toNat)) rfl rfl

end

/-- Settles O14: each word decodes by the round trip of O3, and continues as the condition and the code of its handler say. -/
theorem branchesContinue : Obligations.BranchesContinue := by
  unfold Obligations.BranchesContinue
  intro s ra rb off off26
  refine ⟨?_, (decodeConduct_of_encodeConduct (i := .jmp off26) rfl rfl).2, (decodeConduct_of_encodeConduct (i := .call off26) rfl rfl).2,
    (decodeConduct_of_encodeConduct (i := .bLtn 2 3 5) rfl rfl).2, (decodeConduct_of_encodeConduct (i := .jmp (-4)) rfl rfl).2,
    (decodeConduct_of_encodeConduct (i := .call 10) rfl rfl).2, (decodeConduct_of_encodeConduct (i := .ret) rfl rfl).2, ?_⟩
  · simp only [List.forall_mem_cons, List.not_mem_nil, false_imp_iff, implies_true, and_true]
    exact ⟨(decodeConduct_of_encodeConduct (i := .bEq ra rb off) rfl rfl).2, (decodeConduct_of_encodeConduct (i := .bNe ra rb off) rfl rfl).2,
      (decodeConduct_of_encodeConduct (i := .bLt ra rb off) rfl rfl).2, (decodeConduct_of_encodeConduct (i := .bGe ra rb off) rfl rfl).2,
      (decodeConduct_of_encodeConduct (i := .bLtn ra rb off) rfl rfl).2, (decodeConduct_of_encodeConduct (i := .bGen ra rb off) rfl rfl).2⟩
  · simp only [← State.transfer_eq]
    exact ⟨exec_bEq s ra rb off, exec_bNe s ra rb off, exec_bLt s ra rb off, exec_bGe s ra rb off, exec_bLtn s ra rb off, exec_bGen s ra rb off,
      rfl, State.transfer_eq _ _ _, rfl⟩

/-- Settles O10: a target outside the code is refused by `State.transfer_eq`, and the fault keeps registers, flags and memory. -/
theorem transferOutsideCode : Obligations.TransferOutsideCode := by
  unfold Obligations.TransferOutsideCode
  intro s ra rb off off26 img p k r a b len outside faults
  refine ⟨fun himg => ?_, fun hattach _ => ?_, fun himg hpast => ?_⟩
  · have hlen : len = codeLen img r s.cur.2 := rfl
    have hfault (x : Region) (t : Int) (ht : outside t ∨ t % 4 ≠ 0) : s.transfer x t = .next (s.takeFault .fetchBound 0 0 s.here) := by
      rw [State.transfer_eq, State.inCode_of_outside himg (by rwa [← hlen]), if_neg Bool.false_ne_true]
    refine ⟨fun ht => ?_, fun ht => ⟨hfault _ _ (.inl ht), hfault _ _ (.inl ht)⟩, fun ht => hfault s.mine ((r.get 31).toNat : Int) (ht.imp_right (by omega))⟩
    have hto := hfault s.mine _ (.inl ht)
    exact ⟨fun h => (exec_bEq s ra rb off).trans ((if_pos h).trans hto), fun h => (exec_bNe s ra rb off).trans ((if_pos h).trans hto), fun h => (exec_bLt s ra rb off).trans ((if_pos h).trans hto),
      fun h => (exec_bGe s ra rb off).trans ((if_pos h).trans hto), fun h => (exec_bLtn s ra rb off).trans ((if_pos h).trans hto), fun h => (exec_bGen s ra rb off).trans ((if_pos h).trans hto)⟩
  · obtain ⟨hregs, hflags⟩ := State.takeFault_keepsRegs s .fetchBound 0 0 s.here s.cur.1
    have hmine : (s.takeFault .fetchBound 0 0 s.here).mine = (s.takeFault .fetchBound 0 0 s.here).region s.cur.1 := by
      rw [State.mine, (State.takeFault_cur s .fetchBound 0 0 s.here).1]
    exact ⟨by rw [hmine]; exact hregs, by rw [hmine]; exact hflags, State.takeFault_mem hattach _ _ _ _⟩
  · exact State.evalAt_of_no_word (State.fetch_of_past himg hpast)

end Sys2Proof.Machine
end

section
/-! SUPPORT and PROOF of O11, O15 and O16. idrain, the system words and the control words (R136 to R143, R163, R167, R173, R174). -/
namespace Sys2Proof.Machine

/-! ### idrain (R163) -/

/-- Settles O11: idrain looks for the handle among the live bindings and the queued commands. -/
theorem idrainWaits : Obligations.IdrainWaits := by
  unfold Obligations.IdrainWaits
  intro s h r waits
  have hwaits : (s.mine.live.any (·.2 == h.val) || s.mine.cmdQ.any (·.names h.val)) = true ↔ waits := by
    simp only [Bool.or_eq_true, List.any_eq_true, beq_iff_eq]
    rfl
  have hexec : exec (.idrain h) s =
      if s.mine.live.any (·.2 == h.val) || s.mine.cmdQ.any (·.names h.val) then s.stall else s.complete s.mine := rfl
  refine ⟨(decodeConduct_of_encodeConduct (i := .idrain h) rfl rfl).2, (decodeConduct_of_encodeConduct (i := .idrain 2) rfl rfl).2,
    fun hw => ?_, fun hw => ?_⟩
  · rw [hexec, if_pos (hwaits.2 hw), State.stall_eq]
  · rw [hexec, if_neg (mt hwaits.1 hw), State.complete_eq s s.mine rfl]

/-! ### System words (R141, R167, R173, R435) -/

@[simp] theorem Region.advance_handler (r : Region) (k : Nat) :
    (r.advance k).handler k = { r.handler k with ia := (r.handler k).ia + 4, wait := .none } := Region.setHandler_handler _ _ _
theorem Region.advance_handler_other (r : Region) {k j : Nat} (h : j ≠ k) : (r.advance k).handler j = r.handler j :=
  Region.setHandler_handler_other _ _ _ _ h
@[simp] theorem Region.advance_regs (r : Region) (k : Nat) : (r.advance k).regs = r.regs := rfl

theorem State.returnFrom_mine (s : State) :
    (s.returnFrom s.cur.1 s.cur.2).mine =
      { s.mine.setHandler s.cur.2 { s.mine.handler s.cur.2 with st := .idle, ia := 0, wait := .none } with ev := true } :=
  State.mine_setRegion _ _

/-- halt under a debugger leaves the region halted at the following word. -/
theorem exec_halt_of_attached {s : State} (h : (s.attachedTo s.cur.1).isSome = true) :
    exec .halt s = .next (s.setRegion s.cur.1 { s.mine.advance s.cur.2 with mode := .halted, halter := some s.cur.2 }) := by
  obtain ⟨n, hn⟩ := Option.isSome_iff_exists.1 h
  rw [show exec .halt s = execHalt s from rfl, execHalt, hn]

theorem exec_halt_of_unattached {s : State} (h : s.attachedTo s.cur.1 = none) : exec .halt s = .next (s.stopRegion s.cur.1) := by
  rw [show exec .halt s = execHalt s from rfl, execHalt, h]

/-- The mode of a region that drains, where no debugger holds it. -/
theorem State.startDone_mode {s : State} {p : Nat} (h : (s.region p).mode ≠ .held) (k : Bool) : ((s.startDone p k).region p).mode = .draining := by
  simp [State.startDone, Region.setMode, h]

/-- Settles O15: each word is the state that its form in `Control` names. -/
theorem systemWords : Obligations.SystemWords := by
  unfold Obligations.SystemWords
  intro s ra c
  refine ⟨State.complete_eq s s.mine rfl, fun hev => ?wfe, fun ht => ?waitt, rfl, fun hk => ?eret, fun h => ?halt, exec_halt_of_unattached,
    fun hheld => ?done⟩
  case wfe =>
    rw [show exec .wfe s = if s.mine.ev then s.complete { s.mine with ev := false } else s.stall from rfl, if_pos hev, State.complete_eq]
    rfl
  case waitt =>
    have hnow : s.tideNow.toNat = s.tide / 8000 % 2 ^ 64 := BitVec.toNat_ofNat _ _
    rw [show exec (.waitt ra) s = if (s.mine.get ra).toNat ≤ s.tideNow.toNat then s.complete s.mine else s.stall from rfl,
      if_pos (by rwa [hnow]), State.complete_eq s s.mine rfl]
  case eret =>
    refine ⟨s.returnFrom s.cur.1 s.cur.2, ?_, ?_⟩
    · rw [show exec .eret s = if s.cur.2 = 0 then s.raiseIllegal else .next (s.returnFrom s.cur.1 s.cur.2) from rfl, if_neg hk]
    · have hhandler : (s.returnFrom s.cur.1 s.cur.2).mine.handler s.cur.2 =
          { s.mine.handler s.cur.2 with st := .idle, ia := 0, wait := .none } := by
        rw [State.returnFrom_mine]
        exact Region.setHandler_handler _ _ _
      rw [hhandler, State.returnFrom_mine]
      exact ⟨rfl, rfl, rfl, rfl, rfl⟩
  case halt =>
    refine ⟨_, exec_halt_of_attached h, ?_⟩
    rw [State.mine_setRegion]
    exact ⟨rfl, congrArg Handler.ia (Region.advance_handler s.mine s.cur.2), rfl, rfl⟩
  case done =>
    obtain ⟨-, -, hfaults, hhandlers⟩ := State.startDone_region s s.cur.1 false
    exact ⟨_, rfl, State.startDone_mode hheld false, hfaults,
      fun k => (handler_stopped _ (fun h => { h with st := .stopped, wait := .none, latch := none }) (fun _ => rfl) _ hhandlers k).1,
      State.startDone_mem _ _ _⟩

/-! ### Control words (R136 to R143) -/

theorem exec_mfc_hstat (s : State) (rd : Reg) (h : Fin 16) : exec (.mfc rd (.hstat h)) s = exec (.hget rd h) s := rfl

theorem readCtl_fault {s : State} {w : BitVec 256} (h : s.mine.faults.head? = some w) (q : Fin 4) :
    s.readCtl (.fault q) = BitVec.ofNat 64 (w.toNat / 2 ^ (64 * q.val) % 2 ^ 64) := by
  obtain ⟨l, hl⟩ := List.head?_eq_some_iff.1 h
  simp only [State.readCtl, Region.faultPart, hl, faultField]

/-- mtc to hen: bits of declared handlers other than 0 are taken. -/
def Handler.enabled (v k : Nat) (h : Handler) : Handler := if k != 0 && h.decl then { h with hen := v / 2 ^ k % 2 == 1 } else h

theorem Region.enabled_handler {r t : Region} (v : Nat) (ht : t.handlers = r.handlers.map fun e => (e.1, e.2.enabled v e.1)) (k : Nat) :
    t.handler k = (r.handler k).enabled v k := by
  have hmap := Tbl.find_map r.handlers (fun i h => Handler.enabled v i h) k
  simp only [Region.handler, Tbl.look, ht, hmap]
  cases Tbl.find r.handlers k with
  | none => simp [Handler.enabled, Handler.undeclared]
  | some h => rfl

theorem Handler.enabled_hen (v k : Nat) (h : Handler) :
    (h.enabled v k).hen = if k ≠ 0 ∧ h.decl = true then v.testBit k else h.hen := by
  simp only [Handler.enabled, Bool.and_eq_true, bne_iff_ne]
  split
  · rw [Nat.testBit_eq_decide_div_mod_eq]
    rfl
  · rfl

/-- A handler that is advanced keeps its enable. -/
theorem Region.advance_hen (r : Region) (k j : Nat) : ((r.advance k).handler j).hen = (r.handler j).hen := by
  by_cases h : j = k
  · subst h
    rw [Region.advance_handler]
  · rw [Region.advance_handler_other _ h]

theorem State.resumeHandler_of_suspended {s : State} {p k : Nat} (h : ((s.region p).handler k).st = .suspended) (skip : Bool) :
    s.resumeHandler p k skip = s.setRegion p ((s.region p).setHandler k
      { (s.region p).handler k with st := .active, wait := .none, ia := if skip then ((s.region p).handler k).ia + 4 else ((s.region p).handler k).ia }) := by
  simp only [State.resumeHandler, h, beq_self_eq_true, if_true]

/-! ### The channel of a chmap (R142) -/

/-- A channel as the release of a subscriber leaves it. -/
def Channel.released (c : Channel) (p k : Nat) : Channel := if c.sub == some (p, k) then { c with sub := none } else c

theorem State.releaseChannel_chan (s : State) (p k x : Nat) :
    ((s.releaseChannel p k).die (dieOfPlace p)).chan x = ((s.die (dieOfPlace p)).chan x).released p k := by
  have hmap := Tbl.find_map (s.die (dieOfPlace p)).chans (fun _ c => c.released p k) x
  have hchans : ((s.releaseChannel p k).die (dieOfPlace p)).chans = (s.die (dieOfPlace p)).chans.map fun e => (e.1, e.2.released p k) := by
    rw [State.releaseChannel, State.setDie_die]
    rfl
  simp only [Die.chan, Tbl.look, hchans, hmap]
  cases Tbl.find (s.die (dieOfPlace p)).chans x with
  | none => simp [Channel.released, Channel.reset]
  | some c => rfl

theorem Channel.released_sub (c : Channel) (p k : Nat) : (c.released p k).sub ≠ some (p, k) := by
  simp only [Channel.released, beq_iff_eq]
  split
  · exact nofun
  · assumption

/-- mtc to a chmap with V = 0 stores the word and releases. -/
theorem exec_mtcChmap_release {s : State} {ra : Reg} {k : Fin 28} (hv : (s.mine.get ra).toNat / 256 % 2 = 0) :
    exec (.mtcChmap ra k) s = (s.releaseChannel s.cur.1 (k.val + 4)).complete
      { (s.releaseChannel s.cur.1 (k.val + 4)).mine with
        chmap := Tbl.put s.mine.chmap (k.val + 4) (BitVec.ofNat 9 (s.mine.get ra).toNat) } := by
  rw [show exec (.mtcChmap ra k) s = execMtcChmap ra k s from rfl]
  simp only [execMtcChmap, if_pos hv]

/-- The state in which a chmap has released what it held and holds a channel. -/
def State.subscribed (s : State) (p k ch : Nat) : State :=
  let d := (s.releaseChannel p k).die (dieOfPlace p)
  (s.releaseChannel p k).setDie (dieOfPlace p) (d.setChan ch { d.chan ch with sub := some (p, k) })

theorem State.subscribed_sub (s : State) (p k ch x : Nat) :
    (((s.subscribed p k ch).die (dieOfPlace p)).chan x).sub = some (p, k) ↔ x = ch := by
  rw [State.subscribed, State.setDie_die]
  by_cases hx : x = ch
  · subst hx
    simp
  · rw [Die.setChan_chan_other _ _ _ _ hx, State.releaseChannel_chan]
    exact ⟨fun h => absurd h (Channel.released_sub _ _ _), fun h => absurd h hx⟩

/-- mtc to a chmap with V = 1 and a channel that is the region's and free subscribes it. -/
theorem exec_mtcChmap_subscribe {s : State} {ra : Reg} {k : Fin 28} (hv : (s.mine.get ra).toNat / 256 % 2 = 1)
    (howner : ((s.die (dieOfPlace s.cur.1)).chan ((s.mine.get ra).toNat % 256)).owner = some s.mine.asid)
    (hsub : ((s.die (dieOfPlace s.cur.1)).chan ((s.mine.get ra).toNat % 256)).sub = none) :
    exec (.mtcChmap ra k) s = (s.subscribed s.cur.1 (k.val + 4) ((s.mine.get ra).toNat % 256)).complete
      { (s.subscribed s.cur.1 (k.val + 4) ((s.mine.get ra).toNat % 256)).mine with
        chmap := Tbl.put s.mine.chmap (k.val + 4) (BitVec.ofNat 9 (s.mine.get ra).toNat),
        ev := s.mine.ev || !((s.die (dieOfPlace s.cur.1)).chan ((s.mine.get ra).toNat % 256)).words.isEmpty } := by
  rw [show exec (.mtcChmap ra k) s = execMtcChmap ra k s from rfl]
  simp only [execMtcChmap]
  rw [if_neg (by rw [hv]; decide), if_neg (by simp [howner]), if_neg (by simp [hsub])]
  rfl

/-- Settles O16: reads are the map of R137, and each mtc form is a state named above. -/
theorem controlWords : Obligations.ControlWords := by
  unfold Obligations.ControlWords
  intro s rd ra c k j p r a
  refine ⟨execMfc_of_plain s rd, exec_mfc_hstat s rd, rfl, rfl, rfl, fun q w hw => readCtl_fault hw q, ?flags, ?timer, ?fpop, ?hen, ?resume,
    fun hv => ?release, fun hv howner hsub => ?subscribe⟩
  case flags =>
    refine (State.complete_eq s { s.mine with fpflags := (s.mine.get ra).setWidth 6 } rfl).trans ?_
    rw [← BitVec.ofNat_toNat]
  case timer =>
    refine State.complete_eq s { s.mine.latchTimer s.tideNow with timer := s.mine.get ra } ?_
    simp only [Region.latchTimer]
    split <;> rfl
  case fpop => exact State.complete_eq s { s.mine with faults := s.mine.faults.drop 1 } rfl
  case hen =>
    refine ⟨_, rfl, ?_⟩
    rw [State.mine_setRegion]
    refine ⟨rfl, rfl, ?_⟩
    rw [Region.advance_hen, Region.enabled_handler (r := s.mine) a rfl j, Handler.enabled_hen]
  case resume =>
    intro hj hother hst
    subst hj
    have hexec : exec (.mtcResume ra) s = (s.resumeHandler s.cur.1 (a % 32) (a / 32 % 2 == 1)).complete
      (s.resumeHandler s.cur.1 (a % 32) (a / 32 % 2 == 1)).mine := rfl
    rw [hexec, State.resumeHandler_of_suspended hst]
    refine ⟨_, rfl, ?_⟩
    rw [State.mine_setRegion, State.setRegion_cur, State.mine_setRegion, Region.advance_handler_other _ hother, Region.setHandler_handler]
    refine ⟨rfl, rfl, rfl, ?_⟩
    simp only [beq_iff_eq]
    split <;> rfl
  case release =>
    refine ⟨_, exec_mtcChmap_release hv, ?_⟩
    rw [State.mine_setRegion]
    refine ⟨Tbl.look_put_same _ _ _ _, fun x => ?_, rfl, rfl⟩
    rw [State.setRegion_die, State.releaseChannel_chan]
    exact Channel.released_sub _ _ _
  case subscribe =>
    refine ⟨_, exec_mtcChmap_subscribe hv howner hsub, ?_⟩
    rw [State.mine_setRegion]
    refine ⟨Tbl.look_put_same _ _ _ _, fun x => ?_, rfl, rfl⟩
    rw [State.setRegion_die, State.subscribed_sub]

end Sys2Proof.Machine
end

section
/-! SUPPORT and PROOF of O17, O18, O19 and O20. Conduct accesses through the stash and at the homes: what an access keeps of the regions
(R148 to R153, R165, R171, R283 to R293). -/
namespace Sys2Proof.Machine

/-! ### What an access at a home keeps of every region -/

theorem Region.set_regs_congr {r x : Region} (h : r.regs = x.regs) (i : Reg) (v : DWord) : (r.set i v).regs = (x.set i v).regs := by
  simp only [Region.set]
  split
  · exact h
  · rw [h]

theorem Region.get_congr {r x : Region} (h : r.regs = x.regs) (i : Reg) : r.get i = x.get i := by rw [Region.get, Region.get, h]

/-- The current handler, and every region's registers, flags, handlers and course, are as before. -/
def State.KeepsCore (s t : State) : Prop :=
  t.cur = s.cur ∧ ∀ q, ((t.region q).regs, (t.region q).fpflags, (t.region q).handlers) = ((s.region q).regs, (s.region q).fpflags, (s.region q).handlers)

theorem State.KeepsCore.refl (s : State) : s.KeepsCore s := ⟨rfl, fun _ => rfl⟩
theorem State.KeepsCore.trans {s t u : State} (h : s.KeepsCore t) (k : t.KeepsCore u) : s.KeepsCore u :=
  ⟨k.1.trans h.1, fun q => (k.2 q).trans (h.2 q)⟩

theorem State.keepsCore_of_regions {s t : State} (hcur : t.cur = s.cur) (h : t.regions = s.regions) : s.KeepsCore t :=
  ⟨hcur, fun q => by rw [show t.region q = s.region q from congrArg (Tbl.look · q Region.free) h]⟩

theorem State.setRegion_keepsCore {s : State} {p : Nat} {r : Region} (hregs : r.regs = (s.region p).regs)
    (hflags : r.fpflags = (s.region p).fpflags) (hhandlers : r.handlers = (s.region p).handlers) : s.KeepsCore (s.setRegion p r) :=
  ⟨rfl, fun q => by
    by_cases hq : q = p
    · subst hq
      rw [State.setRegion_region, hregs, hflags, hhandlers]
    · rw [State.setRegion_region_other _ _ _ _ hq]⟩

theorem State.KeepsCore.mine {s t : State} (h : s.KeepsCore t) :
    t.mine.regs = s.mine.regs ∧ t.mine.fpflags = s.mine.fpflags ∧ t.mine.handlers = s.mine.handlers := by
  obtain ⟨hcur, hregions⟩ := h
  have hp := hregions s.cur.1
  simp only [Prod.mk.injEq] at hp
  rw [State.mine, hcur]
  exact hp

theorem State.applyWriteBack_keepsCore (s : State) (l : StashLine) : s.KeepsCore (s.applyWriteBack l) :=
  State.keepsCore_of_regions rfl rfl

theorem State.performWriteBack_keepsCore (s : State) (p : Nat) (l : StashLine) : s.KeepsCore (s.performWriteBack p l) :=
  (State.applyWriteBack_keepsCore s l).trans (State.setRegion_keepsCore rfl rfl rfl)

theorem State.flushLine_keepsCore (s : State) (line : Nat) : s.KeepsCore (s.flushLine line) := by
  have hfold (l : List (Nat × StashLine)) (t : State) : t.KeepsCore (l.foldl (fun s x => s.performWriteBack x.1 x.2) t) := by
    induction l generalizing t with
    | nil => exact .refl t
    | cons x l ih => exact (State.performWriteBack_keepsCore t _ _).trans (ih _)
  exact .trans (t := { s with net := _ }) (State.keepsCore_of_regions rfl rfl) (hfold _ _)

theorem State.cancelOwn_keepsCore (s : State) (o line : Nat) : s.KeepsCore (s.cancelOwn o line) :=
  .trans (t := s.setRegion o { s.region o with asked := (s.region o).asked.filter (fun a => a != (line, true)) })
    (State.setRegion_keepsCore rfl rfl rfl) (State.keepsCore_of_regions rfl rfl)

theorem State.recallNow_keepsCore (s : State) (line : Nat) (drop : Bool) : s.KeepsCore (s.recallNow line drop) := by
  refine (State.flushLine_keepsCore s line).trans ?_
  simp only [State.recallNow]
  split
  · exact .refl _
  · next o _ =>
    have hcancel : (s.flushLine line).KeepsCore (((s.flushLine line).cancelOwn o line).setLine line
        { (s.flushLine line).line line with owner := none }) :=
      (State.cancelOwn_keepsCore _ _ _).trans (State.keepsCore_of_regions rfl rfl)
    split
    · next l _ =>
      split
      · refine (State.applyWriteBack_keepsCore _ l).trans ?_
        cases drop <;> exact State.setRegion_keepsCore rfl rfl rfl
      · exact hcancel
    · exact hcancel

theorem State.markHome_keepsCore (s : State) (line : Nat) : s.KeepsCore (s.markHome line) := by
  simp only [State.markHome]
  split
  · exact .refl s
  · obtain ⟨hcur, hregions⟩ := State.recallNow_keepsCore s line true
    refine ⟨hcur, fun q => .trans ?_ (hregions q)⟩
    have hmap := Tbl.find_map (s.recallNow line true).regions (fun _ r => r.dropStash line) q
    simp only [State.region, Tbl.look, hmap]
    cases Tbl.find (s.recallNow line true).regions q <;> rfl

theorem State.homeRead_keepsCore (s : State) (pa n : Nat) (clk : DWord) : s.KeepsCore (s.homeRead pa n clk).2.2.2 := by
  have hrecall : s.KeepsCore (if (s.line (lineOf pa)).owner.isSome && decide (clk.toNat > (s.line (lineOf pa)).rts.toNat)
      then s.recallNow (lineOf pa) false else s) := by
    split
    · exact State.recallNow_keepsCore _ _ _
    · exact .refl s
  refine hrecall.trans ?_
  simp only [State.homeRead]
  repeat' split
  all_goals exact State.keepsCore_of_regions rfl rfl

theorem State.homeWrite_keepsCore (s : State) (pa n v : Nat) (clk : DWord) : s.KeepsCore (s.homeWrite pa n v clk).2 := by
  refine (State.recallNow_keepsCore s (lineOf pa) true).trans ?_
  simp only [State.homeWrite]
  split <;> exact State.keepsCore_of_regions rfl rfl

/-! ### What a translation keeps (R316, R322) -/

theorem State.walkOne_cur (s : State) (d : Nat) (asid : BitVec 16) (va : Nat) : (s.walkOne d asid va).2.cur = s.cur := by
  simp only [State.walkOne]
  split <;> rfl

/-- A translation leaves its region but for the translations that it holds. -/
theorem State.translateRegion_frame (s : State) (p : Nat) (asid : BitVec 16) (va : Nat) :
    (s.translateRegion p asid va).2.cur = s.cur ∧ ∃ c, (s.translateRegion p asid va).2.region p = { s.region p with tlb := c } := by
  have hcur := State.walkOne_cur s (dieOfPlace p) asid va
  have hregion : (s.walkOne (dieOfPlace p) asid va).2.region p = s.region p :=
    congrArg (Tbl.look · p Region.free) (State.walkOne_regions s (dieOfPlace p) asid va)
  simp only [State.translateRegion]
  split
  · exact ⟨rfl, _, rfl⟩
  · split
    · next e s1 hw =>
      rw [hw] at hcur hregion
      exact ⟨hcur, _, by rw [State.setRegion_region, hregion]⟩
    · exact ⟨hcur, _, hregion⟩

theorem State.accessRegion_state (s : State) (p va : Nat) (need : Need) :
    (s.accessRegion p va need).2 = (s.translateRegion p (s.region p).asid va).2 := by
  simp only [State.accessRegion]
  split <;> simp_all

theorem State.accessConduct_frame (s : State) (p va size : Nat) (need : Need) :
    (s.accessConduct p va size need).2.cur = s.cur ∧ ∃ c, (s.accessConduct p va size need).2.region p = { s.region p with tlb := c } := by
  have hregion := State.translateRegion_frame s p (s.region p).asid va
  rw [← State.accessRegion_state s p va need] at hregion
  simp only [State.accessConduct]
  split
  · exact ⟨rfl, _, rfl⟩
  · split
    · next hw =>
      rw [hw] at hregion
      exact hregion
    · exact hregion

theorem State.accessConduct_of_misaligned {s : State} {p va size : Nat} (h : va % size ≠ 0) (need : Need) :
    s.accessConduct p va size need = (.bad .alignment 0, s) := by
  simp only [State.accessConduct, if_pos h]

/-! ### Loads (R148, R149, R289, R293) -/

section
variable {s s1 : State} {p va pa n : Nat} {cls : Bool} {need : Need}

theorem accessConduct_of_ok (hok : (s.accessConduct p va n need).1 = .ok pa cls) :
    s.accessConduct p va n need = (.ok pa cls, (s.accessConduct p va n need).2) := Prod.ext hok rfl

theorem State.stashRead_of_line {l : StashLine} {unit : Nat} (hhome : s.actsHome p va pa = false)
    (hstore : s.elsewhere pa = true → s.storeOut p (lineOf pa) = false) (hfind : (s.region p).findLine (lineOf pa) = some l)
    (hread : (s.region p).readable l = true) :
    s.stashRead p va pa n unit = (some (lineRead l.data (pa % 64) n, l.poison),
      s.setRegion p { (s.region p).putStash { l.seen (s.region p).asid va with pinned := l.pinned || (s.region p).ringVa va } with
        lclk := maxClk (s.region p).lclk l.wts }) := by
  have hwaits : (s.elsewhere pa && s.storeOut p (lineOf pa)) = false := by
    cases helse : s.elsewhere pa
    · rfl
    · rw [hstore helse]
      rfl
  simp only [State.stashRead, hwaits, hhome, Bool.and_false, Bool.false_eq_true, if_false, hfind, hread, if_true]

theorem State.stashRead_of_home {unit : Nat} (hhome : s.actsHome p va pa = true) (helse : s.elsewhere pa = false) :
    let g := (s.markHome (lineOf pa)).homeRead pa n (s.region p).lclk
    s.stashRead p va pa n unit = (some (g.1, g.2.2.1), g.2.2.2.setRegion p { g.2.2.2.region p with lclk := g.2.1 }) := by
  simp only [State.stashRead, helse, hhome, Bool.false_and, Bool.false_eq_true, if_false, if_true]

theorem State.load_of_value {rd ra : Reg} {off : BitVec 16} {signed : Bool} {v : Nat} {t : State}
    (hok : s.accessConduct s.cur.1 (loadAddr (s.mine.get ra) off) n .read = (.ok pa cls, s1))
    (hread : s1.stashRead s.cur.1 (loadAddr (s.mine.get ra) off) pa n s.cur.2 = (some (v, false), t)) :
    s.load rd ra off n signed = t.writes rd (extendBytes n signed v) := by
  simp only [State.load, hok, hread, Bool.false_eq_true, if_false]

end

/-- The instruction, the bytes and the extension of each load word. -/
def loadForms (rd ra : Reg) (off : BitVec 16) : List (Instr × Nat × Bool) :=
  [(.ldB rd ra off, 1, true), (.ldH rd ra off, 2, true), (.ldW rd ra off, 4, true), (.ldD rd ra off, 8, true),
    (.ldBN rd ra off, 1, false), (.ldHN rd ra off, 2, false), (.ldWN rd ra off, 4, false)]

theorem exec_load {s : State} {rd ra : Reg} {off : BitVec 16} {i : Instr} {n : Nat} {signed : Bool}
    (h : (i, n, signed) ∈ loadForms rd ra off) : exec i s = s.load rd ra off n signed := by
  simp only [loadForms, List.mem_cons, Prod.mk.injEq, List.not_mem_nil, or_false] at h
  rcases h with h | h | h | h | h | h | h <;> obtain ⟨rfl, rfl, rfl⟩ := h <;> rfl

theorem State.writes_mine {s : State} {rd : Reg} {v : DWord} : ∃ t, s.writes rd v = .next t ∧ t.mine = (s.mine.set rd v).advance s.cur.2 ∧ t.mem = s.mem :=
  ⟨_, rfl, State.mine_setRegion _ _, rfl⟩

/-- Settles O17: the line in the stash serves the load, or the home does. -/
theorem loadWords : Obligations.LoadWords := by
  unfold Obligations.LoadWords
  intro s rd ra off i n signed pa cls l p va s1 hi hok
  have hcur : s1.cur = s.cur := (State.accessConduct_frame s p va n .read).1
  have hmine : s1.mine = s1.region p := by rw [State.mine, hcur]
  refine ⟨fun hhome hstore hfind hleased hclean => ?_, fun hhome helse hclean => ?_⟩
  · have hread : (s1.region p).readable l = true := by
      rw [← hmine]
      simpa [Region.readable] using hleased
    have hvalue := State.stashRead_of_line (n := n) (unit := s.cur.2) hhome hstore (hmine ▸ hfind) hread
    rw [hclean] at hvalue
    obtain ⟨t, ht, htm, hmem⟩ := State.writes_mine (rd := rd) (v := extendBytes n signed (lineRead l.data (pa % 64) n)) (s :=
      s1.setRegion p { (s1.region p).putStash { l.seen (s1.region p).asid va with pinned := l.pinned || (s1.region p).ringVa va } with
        lclk := maxClk (s1.region p).lclk l.wts })
    refine ⟨t, { (s1.region p).putStash { l.seen (s1.region p).asid va with pinned := l.pinned || (s1.region p).ringVa va } with
        lclk := maxClk (s1.region p).lclk l.wts }, ?_, ?_, ?_, ?_, hmem⟩
    · rw [exec_load hi, State.load_of_value (accessConduct_of_ok hok) hvalue, ht]
    · rw [htm, State.setRegion_cur, hcur, State.mine, State.setRegion_cur, hcur, State.setRegion_region]
    · rw [hmine]
      rfl
    · rw [hmine]
  · have hvalue := State.stashRead_of_home (n := n) (unit := s.cur.2) hhome helse
    dsimp only at hvalue
    rw [show lineOf pa = pa / 64 from rfl, ← hmine, hclean] at hvalue
    obtain ⟨g, hg⟩ : ∃ g, g = (s1.markHome (pa / 64)).homeRead pa n s1.mine.lclk := ⟨_, rfl⟩
    have hkeeps : s1.KeepsCore (g.2.2.2.setRegion p { g.2.2.2.region p with lclk := g.2.1 }) := by
      rw [hg]
      exact ((State.markHome_keepsCore s1 _).trans (State.homeRead_keepsCore _ _ _ _)).trans (State.setRegion_keepsCore rfl rfl rfl)
    rw [← hg] at hvalue
    obtain ⟨hregs, -, hhandlers⟩ := hkeeps.mine
    obtain ⟨t, ht, htm, hmem⟩ := State.writes_mine (rd := rd) (v := extendBytes n signed g.1) (s :=
      g.2.2.2.setRegion p { g.2.2.2.region p with lclk := g.2.1 })
    have hread : g.1 = Memory.readLE t.mem pa n := by
      rw [hmem, State.setRegion_mem, hg]
      exact State.homeRead_value _ _ _ _
    refine ⟨t, by rw [exec_load hi, State.load_of_value (accessConduct_of_ok hok) hvalue, ht], ?_, ?_⟩
    · rw [htm, ← hread, Region.advance_regs, Region.set_regs_congr hregs]
    · rw [htm, hkeeps.1, hcur, Region.advance_handler, Region.handler, Region.set_handlers, hhandlers]
      rfl

end Sys2Proof.Machine

namespace Sys2Proof.Machine

/-! ### Misaligned accesses (R149) -/

section
variable {s : State}

theorem State.load_of_misaligned {rd ra : Reg} {off : BitVec 16} {n : Nat} {signed : Bool} (h : loadAddr (s.mine.get ra) off % n ≠ 0) :
    s.load rd ra off n signed = .next (s.takeFault .alignment 0 (loadAddr (s.mine.get ra) off) s.here) := by
  simp only [State.load, State.accessConduct_of_misaligned h]
  rfl

theorem State.store_of_misaligned {rv ra : Reg} {off : BitVec 16} {n : Nat} (hw : s.waitOf = .none) (h : loadAddr (s.mine.get ra) off % n ≠ 0) :
    s.store rv ra off n = .next (s.takeFault .alignment 0 (loadAddr (s.mine.get ra) off) s.here) := by
  simp only [State.store, hw, State.accessConduct_of_misaligned h]
  rfl

theorem State.atomic_of_misaligned {rd ra : Reg} {wide : Bool} {op : AtomOp} {v : DWord} (hw : s.waitOf = .none)
    (h : confine (s.mine.get ra) % (if wide then 8 else 4) ≠ 0) :
    s.atomic rd ra wide op v = .next (s.takeFault .alignment 0 (confine (s.mine.get ra)) s.here) := by
  simp only [State.atomic, hw, State.accessConduct_of_misaligned h]
  rfl

theorem execWaitv_of_misaligned {rd ra rb : Reg} (hw : s.waitOf = .none) (h : confine (s.mine.get ra) % 8 ≠ 0) :
    execWaitv rd ra rb s = .next (s.takeFault .alignment 0 (confine (s.mine.get ra)) s.here) := by
  simp only [execWaitv, hw, State.accessConduct_of_misaligned h]
  rfl

theorem execArrive_of_misaligned {rd ra : Reg} (hw : s.waitOf = .none) (h : confine (s.mine.get ra) % 16 ≠ 0) :
    execArrive rd ra s = .next (s.takeFault .alignment 0 (confine (s.mine.get ra)) s.here) := by
  simp only [execArrive, hw, State.accessConduct_of_misaligned h]
  rfl

theorem execAwait_of_misaligned {ra rb : Reg} (hw : s.waitOf = .none) (h : confine (s.mine.get ra) % 16 ≠ 0) :
    execAwait ra rb s = .next (s.takeFault .alignment 0 (confine (s.mine.get ra)) s.here) := by
  simp only [execAwait, hw, State.accessConduct_of_misaligned h]
  rfl

end

/-- The instruction and the bytes of each store word. -/
def storeForms (rv ra : Reg) (off : BitVec 16) : List (Instr × Nat) :=
  [(.stB rv ra off, 1), (.stH rv ra off, 2), (.stW rv ra off, 4), (.stD rv ra off, 8)]

theorem exec_store {rv ra : Reg} {off : BitVec 16} {i : Instr} {n : Nat} (h : (i, n) ∈ storeForms rv ra off) (s : State) :
    exec i s = s.store rv ra off n := by
  simp only [storeForms, List.mem_cons, Prod.mk.injEq, List.not_mem_nil, or_false] at h
  rcases h with h | h | h | h <;> obtain ⟨rfl, rfl⟩ := h <;> rfl

/-- The instruction, the operation and the width of each atomic word. -/
def atomicForms (s : State) (rd ra rb : Reg) (w : Bool) : List (Instr × AtomOp × Bool) :=
  [(.amoAdd rd ra rb w, .add, w), (.amoAnd rd ra rb w, .and, w), (.amoOr rd ra rb w, .or, w), (.amoXor rd ra rb w, .xor, w),
    (.amoMin rd ra rb w, .min, w), (.amoMax rd ra rb w, .max, w), (.amoMinn rd ra rb w, .minn, w), (.amoMaxn rd ra rb w, .maxn, w),
    (.amoSwap rd ra rb w, .swap, w), (.amoFadd rd ra rb, .fadd, false), (.cas rd ra rb w, .cas (s.mine.get rd), w)]

theorem exec_atomic {s : State} {rd ra rb : Reg} {w : Bool} {i : Instr} {op : AtomOp} {wide : Bool}
    (h : (i, op, wide) ∈ atomicForms s rd ra rb w) : exec i s = s.atomic rd ra wide op (s.mine.get rb) := by
  simp only [atomicForms, List.mem_cons, Prod.mk.injEq, List.not_mem_nil, or_false] at h
  rcases h with h | h | h | h | h | h | h | h | h | h | h <;> obtain ⟨rfl, rfl, rfl⟩ := h <;> rfl

/-- Settles O19: each word checks the alignment of its address before anything else. -/
theorem misalignedAccess : Obligations.MisalignedAccess := by
  unfold Obligations.MisalignedAccess
  intro s rd ra rb off w i n disp base width
  refine ⟨fun hi hmis => ?_, fun hw hi hmis => ?_, fun hw hi hmis => ?_⟩
  · obtain ⟨signed, hform⟩ : ∃ signed, (i, n, signed) ∈ loadForms rd ra off := by
      simp only [List.mem_cons, Prod.mk.injEq, List.not_mem_nil, or_false] at hi
      rcases hi with h | h | h | h | h | h | h <;> obtain ⟨rfl, rfl⟩ := h
      exacts [⟨true, by simp [loadForms]⟩, ⟨false, by simp [loadForms]⟩, ⟨true, by simp [loadForms]⟩, ⟨true, by simp [loadForms]⟩,
        ⟨true, by simp [loadForms]⟩, ⟨false, by simp [loadForms]⟩, ⟨false, by simp [loadForms]⟩]
    rw [exec_load hform]
    exact State.load_of_misaligned hmis
  · rw [exec_store hi]
    exact State.store_of_misaligned hw hmis
  · simp only [List.mem_cons, Prod.mk.injEq, List.not_mem_nil, or_false] at hi
    rcases hi with h | h | h | h | h | h | h | h | h | h | h | h | h | h <;> obtain ⟨rfl, rfl⟩ := h
    exacts [State.atomic_of_misaligned hw hmis, State.atomic_of_misaligned hw hmis, State.atomic_of_misaligned hw hmis,
      State.atomic_of_misaligned hw hmis, State.atomic_of_misaligned hw hmis, State.atomic_of_misaligned hw hmis,
      State.atomic_of_misaligned hw hmis, State.atomic_of_misaligned hw hmis, State.atomic_of_misaligned hw hmis,
      State.atomic_of_misaligned hw hmis, State.atomic_of_misaligned (wide := false) hw hmis, execWaitv_of_misaligned hw hmis,
      execArrive_of_misaligned hw hmis, execAwait_of_misaligned hw hmis]

/-! ### Words that a home answers (R150 to R153, R165, R171) -/

theorem extendBytes_word (wide : Bool) (v : DWord) :
    extendBytes (if wide then 8 else 4) true v.toNat = if wide then v else BitVec.ofInt 64 (signedOf 32 v.toNat) := by
  cases wide
  · rfl
  · have h := v.isLt
    simp only [extendBytes, extendBytes.signedOf, if_true, Nat.reduceMul, Nat.mod_eq_of_lt h]
    split
    · exact BitVec.ofInt_natCast _ _ |>.trans (BitVec.ofNat_toNat _ _ |>.trans (BitVec.setWidth_eq v))
    · refine BitVec.eq_of_toNat_eq ?_
      rw [BitVec.toNat_ofInt]
      omega

section
variable {s : State} {v clk : DWord} {f : Flags}

theorem State.atomic_of_answered {rd ra : Reg} {wide : Bool} {op : AtomOp} {x : DWord} (hw : s.waitOf = .answered v clk f) :
    s.atomic rd ra wide op x = .next (s.wentTo { s.mine.set rd (if wide then v else BitVec.ofInt 64 (signedOf 32 v.toNat)) with
      lclk := maxClk s.mine.lclk clk, fpflags := s.mine.fpflags ||| f } (s.here + 4)) := by
  simp only [State.atomic, hw, extendBytes_word, Region.set_lclk, Region.set_fpflags]
  exact State.complete_eq _ _ (Region.set_handlers _ _ _)

theorem clocked_set (r : Region) (rd : Reg) (v clk : DWord) :
    { r.set rd v with lclk := maxClk (r.set rd v).lclk clk } = ({ r with lclk := maxClk r.lclk clk } : Region).set rd v := by
  simp only [Region.set]
  split <;> rfl

/-- A word that writes rd and takes in the clock of its answer. -/
theorem State.complete_clocked (s : State) (rd : Reg) (v clk : DWord) :
    s.complete { s.mine.set rd v with lclk := maxClk (s.mine.set rd v).lclk clk }
      = .next (s.wentTo (({ s.mine with lclk := maxClk s.mine.lclk clk } : Region).set rd v) (s.here + 4)) := by
  rw [clocked_set]
  exact State.complete_eq s _ (Region.set_handlers _ _ _)

theorem execWaitv_of_answered {rd ra rb : Reg} (hw : s.waitOf = .answered v clk f) : execWaitv rd ra rb s =
    .next (s.wentTo (({ s.mine with lclk := maxClk s.mine.lclk clk } : Region).set rd v) (s.here + 4)) := by
  simp only [execWaitv, hw]
  exact State.complete_clocked _ _ _ _

theorem execArrive_of_answered {rd ra : Reg} (hw : s.waitOf = .answered v clk f) : execArrive rd ra s =
    .next (s.wentTo (({ s.mine with lclk := maxClk s.mine.lclk clk } : Region).set rd v) (s.here + 4)) := by
  simp only [execArrive, hw]
  exact State.complete_clocked _ _ _ _

theorem execAwait_of_answered {ra rb : Reg} (hw : s.waitOf = .answered v clk f) :
    execAwait ra rb s = .next (s.wentTo { s.mine with lclk := maxClk s.mine.lclk clk } (s.here + 4)) := by
  simp only [execAwait, hw]
  exact State.complete_eq s { s.mine with lclk := maxClk s.mine.lclk clk } rfl

theorem execClaim_of_answered {rd : Reg} (hw : s.waitOf = .answered v clk f) (hk : s.cur.2 = 0) (helastic : s.mine.elastic = true) :
    execClaim rd s = .next (s.wrote rd v) := by
  simp only [execClaim, hw, hk, helastic, State.writes_eq]
  rfl

end

theorem execClaim_of_rigid {s : State} {rd : Reg} (hk : s.cur.2 = 0) (hrigid : s.mine.elastic = false) :
    execClaim rd s = .next (s.wrote rd 0) := by
  simp only [execClaim, hk, hrigid, State.writes_eq]
  rfl

theorem execClaim_of_other {s : State} {rd : Reg} (hk : s.cur.2 ≠ 0) : ∃ a, execClaim rd s = .next (s.takeFault .illegal 0 a s.here) := by
  simp only [execClaim, if_pos hk]
  exact ⟨_, rfl⟩

theorem execClaim_posts {s : State} {rd : Reg} (hw : s.waitOf = .none) (hk : s.cur.2 = 0) (helastic : s.mine.elastic = true) :
    execClaim rd s = s.postAndWait none (.claim s.cur.1 0) := by
  simp only [execClaim, hw, hk, helastic]
  rfl

/-- What a word that posts a request leaves. -/
theorem State.postAndWait_posts (s : State) (src : Option Nat) (b : Body) :
    ∃ t, s.postAndWait src b = .next t ∧ t.waitOf = .posted ∧ t.net = s.net ++ [{ src := src, body := b }] ∧ t.mine.regs = s.mine.regs ∧
      t.mem = s.mem := by
  refine ⟨_, rfl, ?_, rfl, ?_, rfl⟩
  · simp [State.waitOf, State.mine, State.setWait, State.post, State.setRegion, State.region]
  · simp [State.mine, State.setWait, State.post, State.setRegion, State.region, Region.setHandler]

/-- The line of an atomic leaves the stash of its region (R152). -/
theorem State.writeBackLine_keepsCore (s : State) (p line : Nat) : s.KeepsCore (s.writeBackLine p line) := by
  simp only [State.writeBackLine]
  split
  · exact .refl s
  · split
    · exact (State.setRegion_keepsCore (by rfl) (by rfl) (by rfl)).trans (State.keepsCore_of_regions rfl rfl)
    · exact State.setRegion_keepsCore (by rfl) (by rfl) (by rfl)

theorem Region.dropStash_findLine (r : Region) (line : Nat) : (r.dropStash line).findLine line = none := by
  simp [Region.findLine, Region.dropStash, List.find?_eq_none]

theorem State.writeBackLine_findLine (s : State) (p line : Nat) : ((s.writeBackLine p line).region p).findLine line = none := by
  simp only [State.writeBackLine]
  split
  · assumption
  · split
    · exact (congrArg (Region.findLine · line) (State.setRegion_region s p _)).trans (Region.dropStash_findLine _ _)
    · rw [State.setRegion_region]
      exact Region.dropStash_findLine _ _

/-! ### The request of an access word -/

section
variable {s s1 : State} {pa : Nat} {cls : Bool}

theorem State.atomic_of_ok {rd ra : Reg} {wide : Bool} {op : AtomOp} {x : DWord} (hw : s.waitOf = .none)
    (hok : s.accessConduct s.cur.1 (confine (s.mine.get ra)) (if wide then 8 else 4) .write = (.ok pa cls, s1)) :
    s.atomic rd ra wide op x = (s1.writeBackLine s.cur.1 (lineOf pa)).postAndWait (keyMem s.cur.1) (.atomic s1.asker op wide pa x s1.mine.lclk) := by
  simp only [State.atomic, hw, hok]

theorem execWaitv_of_ok {rd ra rb : Reg} (hw : s.waitOf = .none)
    (hok : s.accessConduct s.cur.1 (confine (s.mine.get ra)) 8 .read = (.ok pa cls, s1)) :
    execWaitv rd ra rb s = s1.postAndWait (keyMem s.cur.1) (.waitv s1.asker pa ((s1.mine.get rb).toNat % 2 ^ 16) s1.mine.lclk) := by
  simp only [execWaitv, hw, hok]

theorem execAwait_of_ok {ra rb : Reg} (hw : s.waitOf = .none)
    (hok : s.accessConduct s.cur.1 (confine (s.mine.get ra)) 16 .read = (.ok pa cls, s1)) :
    execAwait ra rb s = s1.postAndWait (keyMem s.cur.1) (.await s1.asker pa (low32 (s1.mine.get rb)) s1.mine.lclk) := by
  simp only [execAwait, hw, hok]

theorem execArrive_of_ok {rd ra : Reg} (hw : s.waitOf = .none) (hclean : s1.mine.clean = true)
    (hok : s.accessConduct s.cur.1 (confine (s.mine.get ra)) 16 .write = (.ok pa cls, s1)) :
    execArrive rd ra s = s1.postAndWait (keyMem s.cur.1) (.arrive s1.asker pa s1.mine.lclk) := by
  simp only [execArrive, hw, hok, hclean]
  rfl

end

/-- After a translation the region is the same but for the translations that it holds. -/
theorem State.accessConduct_mine (s : State) (va size : Nat) (need : Need) :
    (s.accessConduct s.cur.1 va size need).2.cur = s.cur ∧
      ∃ c, (s.accessConduct s.cur.1 va size need).2.mine = { s.mine with tlb := c } := by
  obtain ⟨hcur, c, hregion⟩ := State.accessConduct_frame s s.cur.1 va size need
  exact ⟨hcur, c, by rw [State.mine, hcur, hregion]; rfl⟩

/-- Settles O20: each word by what its handler waits for. -/
theorem homeAnswers : Obligations.HomeAnswers := by
  unfold Obligations.HomeAnswers
  refine ⟨fun s rd ra rb w old clk f => ⟨fun hw => ?_, execClaim_of_rigid, execClaim_of_other⟩, ?_⟩
  · exact ⟨State.atomic_of_answered hw, State.atomic_of_answered hw, State.atomic_of_answered hw, State.atomic_of_answered hw,
      State.atomic_of_answered hw, State.atomic_of_answered hw, State.atomic_of_answered hw, State.atomic_of_answered hw,
      State.atomic_of_answered hw, State.atomic_of_answered (wide := false) hw, State.atomic_of_answered hw, execWaitv_of_answered hw,
      execArrive_of_answered hw, execAwait_of_answered hw, execClaim_of_answered hw⟩
  intro s rd ra rb w i op wide pa cls p va who b posts hw
  have hasks {i : Instr} {s1 u : State} {src : Option Nat} {m : Body} (hi : exec i s = u.postAndWait src m) (hregs : u.mine.regs = s.mine.regs)
      (hu : u = s1) : posts i s1 src m := by
    subst hu
    obtain ⟨t, ht, hwait, hnet, htregs, hmem⟩ := State.postAndWait_posts u src m
    exact ⟨t, hi.trans ht, hwait, hnet, htregs.trans hregs, hmem⟩
  refine ⟨fun hi => ?_, fun hok => ?_, fun hok => ?_, fun hok hclean => ?_, fun hk helastic => ?_⟩
  · intro s1 hok
    obtain ⟨hcur, c, hmine⟩ := State.accessConduct_mine s va (if wide then 8 else 4) .write
    obtain ⟨hregs, -, -⟩ := (State.writeBackLine_keepsCore s1 p (pa / 64)).mine
    have hwbcur := (State.writeBackLine_keepsCore s1 p (pa / 64)).1
    have hasker : s1.asker = who := by rw [State.asker, hcur]
    have hexec := (exec_atomic hi).trans (State.atomic_of_ok hw (accessConduct_of_ok hok))
    rw [show (s.accessConduct s.cur.1 (confine (s.mine.get ra)) (if wide then 8 else 4) .write).2 = s1 from rfl, hasker] at hexec
    refine ⟨hasks hexec ?_ rfl, ?_⟩
    · exact hregs.trans (by rw [hmine])
    · rw [State.mine, hwbcur, hcur]
      exact State.writeBackLine_findLine _ _ _
  · intro s1
    obtain ⟨hcur, c, hmine⟩ := State.accessConduct_mine s va 8 .read
    have hexec : exec (.waitv rd ra rb) s = s1.postAndWait (keyMem p) (.waitv s1.asker pa ((s1.mine.get rb).toNat % 2 ^ 16) s1.mine.lclk) :=
      execWaitv_of_ok hw (accessConduct_of_ok hok)
    have hregs : s1.mine.regs = s.mine.regs := by rw [hmine]
    rw [State.asker, show s1.cur = s.cur from hcur, Region.get_congr hregs] at hexec
    exact hasks hexec hregs rfl
  · intro s1
    obtain ⟨hcur, c, hmine⟩ := State.accessConduct_mine s va 16 .read
    have hexec : exec (.await ra rb) s = s1.postAndWait (keyMem p) (.await s1.asker pa (low32 (s1.mine.get rb)) s1.mine.lclk) :=
      execAwait_of_ok hw (accessConduct_of_ok hok)
    have hregs : s1.mine.regs = s.mine.regs := by rw [hmine]
    rw [State.asker, show s1.cur = s.cur from hcur, Region.get_congr hregs] at hexec
    exact hasks hexec hregs rfl
  · intro s1
    obtain ⟨hcur, c, hmine⟩ := State.accessConduct_mine s va 16 .write
    have hexec : exec (.arrive rd ra) s = s1.postAndWait (keyMem p) (.arrive s1.asker pa s1.mine.lclk) :=
      execArrive_of_ok hw ((congrArg Region.clean hmine).trans hclean) (accessConduct_of_ok hok)
    have hregs : s1.mine.regs = s.mine.regs := by rw [hmine]
    rw [State.asker, show s1.cur = s.cur from hcur] at hexec
    exact hasks hexec hregs rfl
  · exact hasks (execClaim_posts hw hk helastic) rfl rfl

end Sys2Proof.Machine

namespace Sys2Proof.Machine

/-! ### A store to an owned line (R290) -/

theorem Region.findLine_line {r : Region} {line : Nat} {l : StashLine} (h : r.findLine line = some l) : l.line = line := by
  simpa using List.find?_some h

theorem Region.putStash_findLine_other (r : Region) (l : StashLine) {x : Nat} (h : x ≠ l.line) : (r.putStash l).findLine x = r.findLine x := by
  have hother : (l.line == x) = false := by simpa using Ne.symm h
  simp only [Region.findLine, Region.putStash, List.find?_cons, hother, List.find?_filter]
  congr 1
  funext y
  by_cases hy : y.line = x
  · simp [hy, h]
  · simp [hy]

/-- A byte of a value that a store cuts to its size. -/
theorem storeByte (x n k : Nat) (h : k < n) : BitVec.ofNat 8 (x % 2 ^ (8 * n) / 256 ^ k % 256) = BitVec.ofNat 8 (x / 256 ^ k) := by
  have hcut : x % 2 ^ (8 * n) / 256 ^ k % 256 = x / 256 ^ k % 256 := by
    rw [show (2 : Nat) ^ (8 * n) = 256 ^ n by rw [Nat.pow_mul], show n = k + (n - k - 1 + 1) by omega, Nat.pow_add,
      Nat.mod_mul_right_div_self, Nat.pow_succ, Nat.mod_mul_left_mod]
  rw [hcut]
  exact BitVec.eq_of_toNat_eq (by simp)

theorem lineWrite_byte (d : Vector Byte 64) (off n x : Nat) (b : Fin 64) :
    (lineWrite d off n (x % 2 ^ (8 * n)))[b] = if off ≤ b.val ∧ b.val < off + n then BitVec.ofNat 8 (x / 256 ^ (b.val - off)) else d[b] := by
  simp only [lineWrite, Fin.getElem_fin, Vector.getElem_ofFn]
  split
  · exact storeByte _ _ _ (by omega)
  · rfl

/-- The line of the stash as a store leaves it, but for its stamp. -/
def Region.storedLine (r : Region) (l : StashLine) (va off n v : Nat) : StashLine :=
  { l.seen r.asid va with
    data := lineWrite l.data off n v, dirty := true, wts := maxClk r.lclk (l.rts + 1), rts := maxClk r.lclk (l.rts + 1),
    pinned := l.pinned || r.ringVa va, poison := l.poison && n != 64 }

theorem Region.storeOwned_eq (r : Region) (l : StashLine) (va off n v : Nat) :
    r.storeOwned l va off n v = { r.putStash (r.storedLine l va off n v) with lclk := maxClk r.lclk (l.rts + 1) } := rfl

theorem Region.storeOwned_findLine (r : Region) (l : StashLine) (va off n v x : Nat) :
    (r.storeOwned l va off n v).findLine x = (r.putStash (r.storedLine l va off n v)).findLine x := by
  rw [Region.storeOwned_eq, Region.findLine, Region.findLine]

theorem StashLine.seen_line (l : StashLine) (asid : BitVec 16) (va : Nat) : (l.seen asid va).line = l.line := rfl

theorem Region.storedLine_line (r : Region) (l : StashLine) (va off n v : Nat) : (r.storedLine l va off n v).line = l.line := by
  rw [Region.storedLine, StashLine.seen_line]
@[simp] theorem Region.storeOwned_regs (r : Region) (l : StashLine) (va off n v : Nat) : (r.storeOwned l va off n v).regs = r.regs := by
  rw [Region.storeOwned_eq]
  rfl
@[simp] theorem Region.storeOwned_fpflags (r : Region) (l : StashLine) (va off n v : Nat) : (r.storeOwned l va off n v).fpflags = r.fpflags := by
  rw [Region.storeOwned_eq]
  rfl
@[simp] theorem Region.storeOwned_faults (r : Region) (l : StashLine) (va off n v : Nat) : (r.storeOwned l va off n v).faults = r.faults := by
  rw [Region.storeOwned_eq]
  rfl
@[simp] theorem Region.storeOwned_handlers (r : Region) (l : StashLine) (va off n v : Nat) : (r.storeOwned l va off n v).handlers = r.handlers := by
  rw [Region.storeOwned_eq]
  rfl
@[simp] theorem Region.storeOwned_lclk (r : Region) (l : StashLine) (va off n v : Nat) :
    (r.storeOwned l va off n v).lclk = maxClk r.lclk (l.rts + 1) := by rw [Region.storeOwned_eq]

theorem Region.storeOwned_findLine_same (r : Region) (l : StashLine) (va off n v : Nat) :
    (r.storeOwned l va off n v).findLine l.line = some { r.storedLine l va off n v with stamp := r.stampNo } := by
  rw [Region.storeOwned_findLine, ← Region.storedLine_line r l va off n v, Region.putStash_findLine]

theorem Region.storeOwned_findLine_other (r : Region) (l : StashLine) (va off n v : Nat) {x : Nat} (h : x ≠ l.line) :
    (r.storeOwned l va off n v).findLine x = r.findLine x := by
  rw [Region.storeOwned_findLine, Region.putStash_findLine_other _ _ (by rwa [Region.storedLine_line])]

/-! ### The store words (R148, R283, R290, R293) -/

section
variable {s s1 : State} {rv ra : Reg} {off : BitVec 16} {pa n : Nat} {cls : Bool}

theorem State.store_of_done {t : State} (hw : s.waitOf = .none)
    (hok : s.accessConduct s.cur.1 (loadAddr (s.mine.get ra) off) n .write = (.ok pa cls, s1)) (helse : s1.elsewhere pa = false)
    (hwrite : s1.stashWrite s.cur.1 (loadAddr (s.mine.get ra) off) pa n ((s1.mine.get rv).toNat % 2 ^ (8 * n)) = (true, t)) :
    s.store rv ra off n = t.complete { t.mine with storing := Tbl.drop t.mine.storing t.cur.2 } := by
  simp only [State.store, hw, hok, helse, hwrite, Bool.false_eq_true, if_false]

theorem State.store_of_elsewhere (hw : s.waitOf = .none)
    (hok : s.accessConduct s.cur.1 (loadAddr (s.mine.get ra) off) n .write = (.ok pa cls, s1)) (helse : s1.elsewhere pa = true) :
    s.store rv ra off n = (s1.setRegion s.cur.1 (s1.mine.dropStash (lineOf pa))).awaitHome pa
      (.write n ((s1.mine.get rv).toNat % 2 ^ (8 * n)) false) := by
  simp only [State.store, hw, hok, helse, if_true]

theorem State.store_of_answered {v clk : DWord} {f : Flags} (hw : s.waitOf = .answered v clk f) :
    s.store rv ra off n = .next (s.wentTo { s.mine with lclk := maxClk s.mine.lclk clk } (s.here + 4)) := by
  simp only [State.store, hw]
  exact State.complete_eq s { s.mine with lclk := maxClk s.mine.lclk clk } rfl

end

section
variable {s : State} {p va pa n v : Nat}

theorem State.stashWrite_of_owned {l : StashLine} (helse : s.elsewhere pa = false) (hhome : s.actsHome p va pa = false)
    (hfind : (s.region p).findLine (lineOf pa) = some l) (howned : l.owned = true) :
    s.stashWrite p va pa n v = (true, s.setRegion p ((s.region p).storeOwned l va (pa % 64) n v)) := by
  simp only [State.stashWrite, helse, hhome, hfind, howned, Bool.false_eq_true, if_false, if_true]

theorem State.stashWrite_of_home (helse : s.elsewhere pa = false) (hhome : s.actsHome p va pa = true) :
    let g := (s.markHome (lineOf pa)).homeWrite pa n v (s.region p).lclk
    s.stashWrite p va pa n v = (true, g.2.setRegion p { g.2.region p with lclk := g.1 }) := by
  simp only [State.stashWrite, helse, hhome, Bool.false_eq_true, if_false, if_true]

end

/-- A store at the home leaves the line unowned, at the clock of the store. -/
theorem State.homeWrite_line (s : State) (pa n v : Nat) (clk : DWord) :
    (s.homeWrite pa n v clk).2.line (pa / 64) = { wts := (s.homeWrite pa n v clk).1, rts := (s.homeWrite pa n v clk).1, owner := none } ∧
      (s.homeWrite pa n v clk).1 = maxClk clk (((s.recallNow (pa / 64) true).line (pa / 64)).rts + 1) := by
  refine ⟨?_, rfl⟩
  simp only [State.homeWrite]
  split <;> exact State.setLine_line _ _ _

/-- What a store that completes leaves: the state after the access with the handler at the following word. -/
def State.stored (t : State) : State :=
  t.setRegion t.cur.1 (({ t.mine with storing := Tbl.drop t.mine.storing t.cur.2 } : Region).advance t.cur.2)

theorem State.stored_mine (t : State) :
    t.stored.mine = ({ t.mine with storing := Tbl.drop t.mine.storing t.cur.2 } : Region).advance t.cur.2 := State.mine_setRegion _ _

section
variable (t : State)

theorem State.stored_findLine (x : Nat) : t.stored.mine.findLine x = t.mine.findLine x := by
  rw [State.stored_mine]
  rfl
theorem State.stored_lclk : t.stored.mine.lclk = t.mine.lclk := by
  rw [State.stored_mine]
  rfl
theorem State.stored_regs : t.stored.mine.regs = t.mine.regs := by
  rw [State.stored_mine]
  rfl
theorem State.stored_fpflags : t.stored.mine.fpflags = t.mine.fpflags := by
  rw [State.stored_mine]
  rfl
theorem State.stored_faults : t.stored.mine.faults = t.mine.faults := by
  rw [State.stored_mine]
  rfl
theorem State.stored_ia : (t.stored.mine.handler t.cur.2).ia = (t.mine.handler t.cur.2).ia + 4 := by
  rw [State.stored_mine, Region.advance_handler]
  rfl
theorem State.stored_mem : t.stored.mem = t.mem := State.setRegion_mem _ _ _
theorem State.stored_dies : t.stored.dies = t.dies := State.setRegion_dies _ _ _
theorem State.stored_line (x : Nat) : t.stored.line x = t.line x := State.setRegion_line _ _ _ _
theorem State.stored_region_other {q : Nat} (hq : q ≠ t.cur.1) : t.stored.region q = t.region q := State.setRegion_region_other _ _ _ _ hq

end

theorem Region.handler_congr {r x : Region} (h : r.handlers = x.handlers) (k : Nat) : r.handler k = x.handler k := by
  rw [Region.handler, Region.handler, h]

/-! ### A request to another package (R283, R396) -/

theorem Wellhead.queueFlit_port {w : Wellhead} {src dst port : Nat} {cls : Fin 4} {b : FlitBody} (h : Tbl.find w.routes dst = some port) :
    ((w.queueFlit src dst cls b).port port).queue =
      (w.port port).queue ++ [{ cls := cls, src := src, dst := dst, more := (flitBytes b - 1) / 240, body := b }] := by
  simp only [Wellhead.queueFlit, h, Wellhead.port, Tbl.look_put_same]

/-- What a word that asks another package leaves. -/
theorem State.awaitHome_asks {s : State} {pa port : Nat} {op : AwayOp} (h : Tbl.find s.well.routes (pkgOf pa) = some port) :
    ∃ t, s.awaitHome pa op = .next t ∧ t.waitOf = .posted ∧ t.mem = s.mem ∧
      t.net = s.net ++ [{ src := none, body := .sent s.cur.1 s.cur.2 s.well.sentNo (.home s.asker pa false) }] ∧
      (∃ f ∈ (t.well.port port).queue, f.cls = 0 ∧ f.dst = pkgOf pa ∧ f.body = .ask s.well.sentNo pa op s.mine.lclk) ∧
      t.mine = s.mine.setHandler s.cur.2 { s.mine.handler s.cur.2 with wait := .posted } := by
  have hqueue := Wellhead.queueFlit_port (w := { s.well with sentNo := s.well.sentNo + 1 }) (src := s.well.pkg) (cls := 0)
    (b := .ask s.well.sentNo pa op s.mine.lclk) h
  have hmine : (s.setWait .posted).mine = s.mine.setHandler s.cur.2 { s.mine.handler s.cur.2 with wait := .posted } := State.mine_setRegion _ _
  have hlclk : (s.setWait .posted).mine.lclk = s.mine.lclk := by rw [hmine, Region.setHandler_lclk]
  have hwait : ((s.setWait .posted).mine.handler s.cur.2).wait = .posted := by rw [hmine, Region.setHandler_handler]
  exact ⟨_, rfl, hwait, rfl, rfl, ⟨_, hqueue ▸ List.mem_append_right _ (List.mem_singleton_self _), rfl, rfl, rfl⟩, hmine⟩

/-- Settles O18: a store by where its line stands, and by what its handler waits for. -/
theorem storeWords : Obligations.StoreWords := by
  unfold Obligations.StoreWords
  intro s rv ra off i n pa port cls l p va s1 hi hw hok
  have hcur : s1.cur = s.cur := (State.accessConduct_frame s p va n .write).1
  have hmine : s1.mine = s1.region p := by rw [State.mine, hcur]
  refine ⟨fun helse hhome hfind howned => ?owned, fun helse hhome => ?home, fun helse hroute => ?elsewhere, fun v clk f s' _ hw' => ?answered⟩
  case owned =>
    obtain ⟨u, hu⟩ : ∃ u, u = s1.setRegion p ((s1.region p).storeOwned l va (pa % 64) n ((s1.mine.get rv).toNat % 2 ^ (8 * n))) := ⟨_, rfl⟩
    have hexec : exec i s = .next u.stored := by
      rw [exec_store hi, State.store_of_done hw (accessConduct_of_ok hok) helse (State.stashWrite_of_owned helse hhome (hmine ▸ hfind) howned), hu]
      rfl
    have hucur : u.cur = s.cur := by rw [hu, State.setRegion_cur, hcur]
    have humine : u.mine = s1.mine.storeOwned l va (pa % 64) n ((s1.mine.get rv).toNat % 2 ^ (8 * n)) := by
      rw [State.mine, hucur, hu, State.setRegion_region, hmine]
    have hline := Region.findLine_line hfind
    have hfound := Region.storeOwned_findLine_same s1.mine l va (pa % 64) n ((s1.mine.get rv).toNat % 2 ^ (8 * n))
    rw [hline] at hfound
    refine ⟨u.stored, _, hexec, by rw [State.stored_findLine, humine, hfound], ?_, ?_, ?_, ?_, ?_, ?_, ?_, ?_,
      fun x hx => ?_, ?_, ?_, fun q hq => ?_, ?_⟩
    · rw [Region.storedLine]
    · rw [Region.storedLine]
      exact fun b => lineWrite_byte _ _ _ _ _
    · rw [Region.storedLine]
    · rw [Region.storedLine]
    · rw [State.stored_lclk, humine, Region.storeOwned_lclk, Region.storedLine]
    · rw [State.stored_regs, humine, Region.storeOwned_regs]
    · rw [State.stored_mem, hu, State.setRegion_mem]
    · rw [← hucur, State.stored_ia, humine,
        Region.handler_congr (Region.storeOwned_handlers s1.mine l va (pa % 64) n ((s1.mine.get rv).toNat % 2 ^ (8 * n)))]
    · rw [State.stored_findLine, humine, Region.storeOwned_findLine_other _ _ _ _ _ _ (by rwa [hline])]
    · rw [State.stored_fpflags, humine, Region.storeOwned_fpflags]
    · rw [State.stored_faults, humine, Region.storeOwned_faults]
    · rw [State.stored_region_other _ (by rwa [hucur]), hu, State.setRegion_region_other _ _ _ _ hq]
    · rw [State.stored_dies, hu, State.setRegion_dies]
  case home =>
    intro s2
    obtain ⟨g, hg⟩ : ∃ g, g = (s1.markHome (pa / 64)).homeWrite pa n ((s1.mine.get rv).toNat % 2 ^ (8 * n)) s1.mine.lclk := ⟨_, rfl⟩
    obtain ⟨u, hu⟩ : ∃ u, u = g.2.setRegion p { g.2.region p with lclk := g.1 } := ⟨_, rfl⟩
    have hexec : exec i s = .next u.stored := by
      have hwrite := State.stashWrite_of_home (n := n) (v := (s1.mine.get rv).toNat % 2 ^ (8 * n)) helse hhome
      dsimp only at hwrite
      rw [show lineOf pa = pa / 64 from rfl, ← hmine, ← hg] at hwrite
      rw [exec_store hi, State.store_of_done hw (accessConduct_of_ok hok) helse hwrite, hu]
      rfl
    have hkeeps : s1.KeepsCore u := by
      rw [hu, hg]
      exact ((State.markHome_keepsCore s1 _).trans (State.homeWrite_keepsCore _ _ _ _ _)).trans (State.setRegion_keepsCore rfl rfl rfl)
    have hucur : u.cur = s.cur := hkeeps.1.trans hcur
    obtain ⟨hregs, -, hhandlers⟩ := hkeeps.mine
    obtain ⟨hline, hclk⟩ := State.homeWrite_line (s1.markHome (pa / 64)) pa n ((s1.mine.get rv).toNat % 2 ^ (8 * n)) s1.mine.lclk
    rw [← hg] at hline hclk
    have hwts : (u.stored.line (pa / 64)).wts = g.1 := by rw [State.stored_line, hu, State.setRegion_line, hline]
    refine ⟨u.stored, hexec, ?_, ?_, by rw [hwts, hclk], ?_, ?_⟩
    · rw [State.stored_mem, hu, State.setRegion_mem, hg, State.homeWrite_mem]
      rfl
    · rw [State.stored_lclk, hwts, State.mine, hucur, hu, State.setRegion_region]
    · rw [State.stored_regs, hregs]
    · rw [← hucur, State.stored_ia, Region.handler_congr hhandlers]
  case elsewhere =>
    obtain ⟨u, hu⟩ : ∃ u, u = s1.setRegion s.cur.1 (s1.mine.dropStash (lineOf pa)) := ⟨_, rfl⟩
    have hucur : u.cur = s.cur := by rw [hu, State.setRegion_cur, hcur]
    have humine : u.mine = s1.mine.dropStash (lineOf pa) := by rw [State.mine, hucur, hu, State.setRegion_region]
    have huwell : u.well = s1.well := by rw [hu, State.setRegion_well]
    obtain ⟨t, ht, hwait, hmem, hnet, ⟨f, hf, hcls, hdst, hbody⟩, htmine⟩ :=
      State.awaitHome_asks (s := u) (pa := pa) (op := .write n ((s1.mine.get rv).toNat % 2 ^ (8 * n)) false) (by rw [huwell]; exact hroute)
    refine ⟨t, ?_, hwait, ?_, ?_, ⟨f, hf, hcls, hdst, ?_⟩, ?_, ?_⟩
    · rw [exec_store hi, State.store_of_elsewhere hw (accessConduct_of_ok hok) helse, ← ht, hu]
      rfl
    · rw [hmem, hu, State.setRegion_mem]
    · rw [hnet, State.asker, hucur, huwell, hu]
      rfl
    · rw [hbody, huwell, humine]
      rfl
    · rw [htmine, Region.setHandler_regs, humine]
      rfl
    · rw [htmine, hucur, Region.setHandler_handler, humine]
      rfl
  case answered =>
    rw [exec_store hi]
    exact State.store_of_answered hw'

end Sys2Proof.Machine

end

section
/-! SUPPORT and PROOF of O21, O22, O25 and O26. Channels and fences, handles, engine messages and the issue of commands (R160 to R162,
R168 to R175, R255, R271). -/
namespace Sys2Proof.Machine

/-! ### send, recv and fence (R168 to R172) -/

/-- The package, the die and the channel that the register of a send names. -/
theorem send_address {a pkg d ch : Nat} (ha : a = pkg * 2 ^ 10 + d * 2 ^ 8 + ch) (hd : d < 4) (hch : ch < 256) (hpkg : pkg < 2 ^ 10) :
    a / 2 ^ 10 % 2 ^ 10 = pkg ∧ a / 2 ^ 8 % 4 = d ∧ a % 2 ^ 8 = ch ∧ a / 2 ^ 20 = 0 := by omega

section
variable {s : State} {ra rb : Reg}

theorem execSend_here (hw : s.waitOf = .none)
    (hnames : ¬ ((s.mine.get ra).toNat / 2 ^ 20 ≠ 0 ∨ s.well.domain.contains ((s.mine.get ra).toNat / 2 ^ 10 % 2 ^ 10) = false))
    (hpkg : (s.mine.get ra).toNat / 2 ^ 10 % 2 ^ 10 = s.well.pkg)
    (howner : ((s.die ((s.mine.get ra).toNat / 2 ^ 8 % 4)).chan ((s.mine.get ra).toNat % 2 ^ 8)).owner = some s.mine.asid)
    (hclean : s.mine.clean = true) (hroom : s.channelHasRoom ((s.mine.get ra).toNat / 2 ^ 8 % 4) ((s.mine.get ra).toNat % 2 ^ 8) = true) :
    execSend ra rb s = (s.enterChannel ((s.mine.get ra).toNat / 2 ^ 8 % 4) ((s.mine.get ra).toNat % 2 ^ 8) (s.mine.get rb) s.mine.lclk).complete
      (s.enterChannel ((s.mine.get ra).toNat / 2 ^ 8 % 4) ((s.mine.get ra).toNat % 2 ^ 8) (s.mine.get rb) s.mine.lclk).mine := by
  simp only [execSend, hw, if_neg hnames, howner, hclean, hroom, if_pos hpkg, ne_eq, not_true_eq_false, and_false, if_false, Bool.not_true,
    Bool.false_eq_true, if_true]

theorem execSend_asks (hw : s.waitOf = .none)
    (hnames : ¬ ((s.mine.get ra).toNat / 2 ^ 20 ≠ 0 ∨ s.well.domain.contains ((s.mine.get ra).toNat / 2 ^ 10 % 2 ^ 10) = false))
    (hpkg : (s.mine.get ra).toNat / 2 ^ 10 % 2 ^ 10 ≠ s.well.pkg) (hclean : s.mine.clean = true) :
    execSend ra rb s = ((s.setWait .posted).sendAway ((s.mine.get ra).toNat / 2 ^ 10 % 2 ^ 10) s.cur.1 s.cur.2 (.word (s.mine.get ra).toNat) fun tag =>
      .channelAsk tag s.mine.placeId s.mine.asid.toNat ((s.mine.get ra).toNat / 2 ^ 8 % 4) ((s.mine.get ra).toNat % 2 ^ 8)).stall := by
  simp only [execSend, hw, if_neg hnames, hpkg, hclean, false_and, if_false, Bool.not_true, Bool.false_eq_true]

theorem execSend_leaves (hw : s.waitOf = .room (s.mine.get ra).toNat) (hclean : s.mine.clean = true) :
    let s1 := s.emitTo ((s.mine.get ra).toNat / 2 ^ 10 % 2 ^ 10) 3
      (.channel s.mine.asid.toNat ((s.mine.get ra).toNat / 2 ^ 8 % 4) ((s.mine.get ra).toNat % 2 ^ 8) (s.mine.get rb) s.mine.lclk)
    execSend ra rb s = .next (s1.wentTo s1.mine (s.here + 4)) := by
  simp only [execSend, hw, hclean, ne_eq, not_true_eq_false, if_false, Bool.not_true, Bool.false_eq_true]
  exact State.complete_eq _ _ rfl

theorem execSend_gives_back {n : Nat} (hw : s.waitOf = .room n) (hn : n ≠ (s.mine.get ra).toNat) :
    execSend ra rb s = ((s.freeRoom n).setWait .none).stall := by
  simp only [execSend, hw, if_pos hn]

end

/-- A word that enters a channel goes to its tail, and the regions keep registers and handlers. -/
theorem State.enterChannel_words (s : State) (d ch : Nat) (v clk : DWord) :
    (((s.enterChannel d ch v clk).die d).chan ch).words = ((s.die d).chan ch).words ++ [(v, clk)] ∧ (s.enterChannel d ch v clk).mem = s.mem ∧
      s.KeepsCore (s.enterChannel d ch v clk) := by
  have hput : ((s.setDie d ((s.die d).setChan ch { (s.die d).chan ch with words := ((s.die d).chan ch).words ++ [(v, clk)] })).die d).chan ch =
      { (s.die d).chan ch with words := ((s.die d).chan ch).words ++ [(v, clk)] } := by rw [State.setDie_die, Die.setChan_chan]
  simp only [State.enterChannel]
  split
  · split
    · refine ⟨?_, rfl, (State.keepsCore_of_regions rfl rfl).trans (State.setRegion_keepsCore rfl rfl rfl)⟩
      rw [State.raiseEv, State.setRegion_die, hput]
    · exact ⟨by rw [hput], rfl, State.keepsCore_of_regions rfl rfl⟩
  · exact ⟨by rw [hput], rfl, State.keepsCore_of_regions rfl rfl⟩

theorem State.complete_mine {s : State} : ∃ t, s.complete s.mine = .next t ∧ t.mine.regs = s.mine.regs ∧ t.mem = s.mem ∧
    (t.mine.handler s.cur.2).ia = s.here + 4 ∧ ∀ d, t.die d = s.die d := by
  refine ⟨_, rfl, ?_⟩
  rw [State.mine_setRegion]
  exact ⟨rfl, rfl, by rw [Region.advance_handler]; rfl, fun d => rfl⟩

theorem execRecv_of_word {s : State} {rd ra : Reg} {v clk : DWord} {rest : List (DWord × DWord)} (ha : (s.mine.get ra).toNat < 256)
    (howner : ((s.die (dieOfPlace s.cur.1)).chan (s.mine.get ra).toNat).owner = some s.mine.asid)
    (hwords : ((s.die (dieOfPlace s.cur.1)).chan (s.mine.get ra).toNat).words = (v, clk) :: rest) :
    let s1 := s.setDie (dieOfPlace s.cur.1)
      ((s.die (dieOfPlace s.cur.1)).setChan (s.mine.get ra).toNat { (s.die (dieOfPlace s.cur.1)).chan (s.mine.get ra).toNat with words := rest })
    execRecv rd ra s = s1.complete { s1.mine.set rd v with lclk := maxClk (s1.mine.set rd v).lclk clk } := by
  have hchan : ¬ (s.mine.get ra).toNat / 2 ^ 8 ≠ 0 := by omega
  simp only [execRecv, if_neg hchan, howner, hwords, ne_eq, not_true_eq_false, if_false]

theorem execFence_of_reached {s : State} {c : Scope}
    (h : s.mine.reachIsRegion (s.mine.scopeReach c) = true ∨ (s.mine.clean = true ∧ s.mine.pconOut = 0)) :
    execFence c s = .next (s.wentTo s.mine (s.here + 4)) := by
  simp only [execFence]
  split
  · exact State.complete_eq _ _ rfl
  · next hreach =>
    obtain ⟨hclean, hpcon⟩ := h.resolve_left hreach
    rw [if_neg (by rw [hclean]; decide), if_neg (by rw [hpcon]; decide)]
    exact State.complete_eq _ _ rfl

/-- Settles O21: each word by what its handler waits for and by where the channel stands. -/
theorem channelWords : Obligations.ChannelWords := by
  unfold Obligations.ChannelWords
  refine ⟨?_, fun s c h => execFence_of_reached h⟩
  intro s rd ra rb pkg d ch n v clk rest r a
  refine ⟨fun ha hd hch hpkg hdomain hclean hw => ?_, fun ha hd hch hpkg hclean hw => ?_, fun hn hw => execSend_gives_back hw hn,
    fun ha howner hwords => ?_⟩
  · obtain ⟨hP, hD, hC, hN⟩ := send_address ha hd hch hpkg
    have hnames : ¬ ((s.mine.get ra).toNat / 2 ^ 20 ≠ 0 ∨ s.well.domain.contains ((s.mine.get ra).toNat / 2 ^ 10 % 2 ^ 10) = false) := by
      rw [hP, hdomain]
      exact fun h => h.elim (absurd hN) nofun
    refine ⟨fun hhere howner hroom => ?_, fun haway => ?_⟩
    · have hexec : exec (.send ra rb) s = _ := execSend_here (rb := rb) hw hnames (hP.trans hhere) (by rw [hD, hC]; exact howner) hclean
        (by rw [hD, hC]; exact decide_eq_true hroom)
      rw [hD, hC] at hexec
      obtain ⟨hwords, hmem, hkeeps⟩ := State.enterChannel_words s d ch (r.get rb) r.lclk
      obtain ⟨hregs, -, hhandlers⟩ := hkeeps.mine
      obtain ⟨t, ht, htregs, htmem, htia, htdie⟩ := State.complete_mine (s := s.enterChannel d ch (r.get rb) r.lclk)
      refine ⟨t, hexec.trans ht, by rw [htdie, hwords], htregs.trans hregs, htmem.trans hmem, ?_⟩
      have hhere : (s.enterChannel d ch (r.get rb) r.lclk).here = s.here := by
        rw [State.here, State.here, ← State.mine, ← State.mine, hkeeps.1, Region.handler_congr hhandlers]
      rw [← hkeeps.1, htia, hhere]
    · have hexec : exec (.send ra rb) s = _ := execSend_asks (rb := rb) hw hnames (by rwa [hP]) hclean
      rw [hP, hD, hC] at hexec
      exact hexec
  · obtain ⟨hP, hD, hC, -⟩ := send_address ha hd hch hpkg
    have hexec := execSend_leaves (rb := rb) hw hclean
    rw [hP, hD, hC] at hexec
    exact hexec
  · refine ⟨_, execRecv_of_word ha howner hwords, ?_, ?_, rfl⟩
    · rw [State.setRegion_die, State.setDie_die, Die.setChan_chan]
    · refine (State.mine_setRegion _ _).trans ?_
      exact congrArg (fun x => ({ s.mine.set rd v with lclk := maxClk x clk } : Region).advance s.cur.2) (Region.set_lclk _ _ _)

end Sys2Proof.Machine

namespace Sys2Proof.Machine

/-! ### Handles (R160, R161) -/

section
variable {s : State} {h : Fin 16} {rb : Reg} {op : Nat → HeaderOp} {bounded release : Bool}

theorem State.handleWord_of_refused
    (hbad : (s.mine.handle h.val).decl = false ∨ (bounded = true ∧ (s.mine.handle h.val).slots < (s.mine.get rb).toNat)) :
    s.handleWord h rb op bounded release = .next (s.takeFault .handle 0 0 s.here) := by
  have hcond : (!(s.mine.handle h.val).decl || (bounded && decide ((s.mine.handle h.val).slots < (s.mine.get rb).toNat))) = true := by
    rcases hbad with hdecl | ⟨hbounded, hn⟩
    · rw [hdecl]
      rfl
    · rw [hbounded, decide_eq_true hn]
      simp
  simp only [State.handleWord, hcond, if_true]
  rfl

/-- The checks of R160 pass. -/
theorem handle_checks {x : Handle} {n : Nat} (hdecl : x.decl = true) (hn : bounded = true → n ≤ x.slots) :
    (!x.decl || (bounded && decide (x.slots < n))) = false := by
  cases bounded
  · rw [hdecl]
    rfl
  · rw [hdecl, decide_eq_false (Nat.not_lt.2 (hn rfl))]
    rfl

theorem State.handleWord_of_zero (hdecl : (s.mine.handle h.val).decl = true) (hn : (s.mine.get rb).toNat = 0) :
    s.handleWord h rb op bounded release = .next (s.wentTo s.mine (s.here + 4)) := by
  have hcond := handle_checks (bounded := bounded) (n := (s.mine.get rb).toNat) hdecl fun _ => by rw [hn]; exact Nat.zero_le _
  rw [hn] at hcond
  simp only [State.handleWord, hn, hcond, Bool.false_eq_true, if_false, if_true]
  exact State.complete_eq _ _ rfl

theorem State.handleWord_of_far {v clk : DWord} {f : Flags} (hdecl : (s.mine.handle h.val).decl = true) (hloc : (s.mine.handle h.val).loc = true)
    (hw : s.waitOf = .answered v clk f) (hn : (s.mine.get rb).toNat ≠ 0) (hslots : (s.mine.get rb).toNat ≤ (s.mine.handle h.val).slots) :
    s.handleWord h rb op bounded release = .next (s.wentTo { s.mine with lclk := maxClk s.mine.lclk clk } (s.here + 4)) := by
  have hcond := handle_checks (bounded := bounded) hdecl fun _ => hslots
  simp only [State.handleWord, State.headerWord, hcond, if_neg hn, hloc, hw, Bool.false_eq_true, if_false, if_true]
  exact State.complete_eq s { s.mine with lclk := maxClk s.mine.lclk clk } rfl

theorem State.handleWord_of_near (hdecl : (s.mine.handle h.val).decl = true) (hloc : (s.mine.handle h.val).loc = false)
    (hn : (s.mine.get rb).toNat ≠ 0) (hslots : bounded = true → (s.mine.get rb).toNat ≤ (s.mine.handle h.val).slots) :
    s.handleWord h rb op bounded release = match (s.mine.handle h.val).act (op (s.mine.get rb).toNat) with
      | .error () => .next (s.takeFault .handle 0 0 s.here)
      | .ok none => .next { s with stalled := true }
      | .ok (some y) => .next (s.wentTo (s.mine.setHandle h.val y) (s.here + 4)) := by
  have hcond := handle_checks (bounded := bounded) hdecl hslots
  simp only [State.handleWord, hcond, if_neg hn, hloc, Bool.false_eq_true, if_false, State.raise_eq, State.stall_eq]
  rcases (s.mine.handle h.val).act (op (s.mine.get rb).toNat) with _ | _ | y
  · rfl
  · rfl
  · exact State.complete_eq _ _ rfl

end

/-- The four words that wait for or advance a handle. -/
def handleForms (h : Fin 16) (rb : Reg) : List Instr := [.hwait h rb, .hroom h rb, .hpop h rb, .hpush h rb]

theorem exec_handle {h : Fin 16} {rb : Reg} {i : Instr} (hi : i ∈ handleForms h rb) (s : State) :
    ∃ op bounded release, exec i s = s.handleWord h rb op bounded release := by
  simp only [handleForms, List.mem_cons, List.not_mem_nil, or_false] at hi
  rcases hi with rfl | rfl | rfl | rfl
  exacts [⟨.waitFilled, true, false, rfl⟩, ⟨.waitFree, true, false, rfl⟩, ⟨.pop, false, false, rfl⟩, ⟨.push, false, true, rfl⟩]

theorem execHget_of_near {s : State} {rd : Reg} {h : Fin 16} (hloc : (s.mine.handle h.val).loc = false) :
    execHget rd h s = .next (s.wrote rd (s.mine.handle h.val).word) := by
  simp only [execHget, State.handleStatus, hloc, Bool.and_false, Bool.not_false, if_true]
  exact State.writes_eq _ _ _

theorem execHget_of_far {s : State} {rd : Reg} {h : Fin 16} {v clk : DWord} {f : Flags} (hdecl : (s.mine.handle h.val).decl = true)
    (hloc : (s.mine.handle h.val).loc = true) (hw : s.waitOf = .answered v clk f) :
    execHget rd h s = .next (s.wentTo { s.mine.set rd v with lclk := maxClk s.mine.lclk clk } (s.here + 4)) := by
  simp only [execHget, State.handleStatus, State.headerWord, hdecl, hloc, hw, Bool.and_self, Bool.not_true, Bool.false_eq_true, if_false]
  have hdone := State.complete_eq s { s.mine.set rd v with lclk := maxClk s.mine.lclk clk } (Region.set_handlers _ _ _)
  rcases s.headerAt s.cur.1 (s.mine.handle h.val) .read with ⟨_ | _ | _, _⟩
  exacts [hdone, hdone, hdone]

/-- A handle that a word leaves in place. -/
theorem State.wentTo_setHandle (s : State) (h n : Nat) (y : Handle) :
    (s.wentTo (s.mine.setHandle h y) n).mine.handle h = y ∧ (s.wentTo (s.mine.setHandle h y) n).mine.regs = s.mine.regs ∧
      (s.wentTo (s.mine.setHandle h y) n).mem = s.mem := by
  rw [State.wentTo_mine]
  exact ⟨Tbl.look_put_same _ _ _ _, rfl, rfl⟩

/-- Settles O22: the checks of R160, then what `Handle.act` makes of the counts. -/
theorem handleWords : Obligations.HandleWords := by
  unfold Obligations.HandleWords
  intro s rd rb h r x n on bad four
  refine ⟨fun hdecl hn i hi => ?_, fun hdecl hloc hf => ⟨fun hn hle => ?_, fun hn hle => ?_, fun hlt hle => ?_, fun hlt hle => ?_, fun hlt => ?_,
    fun hn => ?_, fun hn => ?_, ?_⟩, fun v clk f hdecl hloc hw => ⟨fun hn hslots i hi => ?_, execHget_of_far hdecl hloc hw⟩, fun hdecl i hi => ?_⟩
  · obtain ⟨op, bounded, release, hexec⟩ := exec_handle hi s
    rw [hexec, State.handleWord_of_zero hdecl hn]
  · obtain ⟨hhandle, hregs, hmem⟩ := State.wentTo_setHandle s h.val (s.here + 4) x
    refine ⟨s.wentTo (r.setHandle h.val x) (s.here + 4), ?_, hhandle, hregs, hmem⟩
    refine (State.handleWord_of_near (op := .waitFilled) (release := false) hdecl hloc hn fun _ => Nat.le_trans hle hf).trans ?_
    rw [Handle.act, if_pos hle]
  · obtain ⟨hhandle, hregs, hmem⟩ := State.wentTo_setHandle s h.val (s.here + 4) x
    refine ⟨s.wentTo (r.setHandle h.val x) (s.here + 4), ?_, hhandle, hregs, hmem⟩
    refine (State.handleWord_of_near (op := .waitFree) (release := false) hdecl hloc hn fun _ => Nat.le_trans hle (Nat.sub_le _ _)).trans ?_
    rw [Handle.act, if_pos hle]
  · refine (State.handleWord_of_near (op := .waitFilled) (release := false) hdecl hloc (Nat.ne_of_gt (Nat.zero_lt_of_lt hlt)) fun _ => hle).trans ?_
    rw [Handle.act, if_neg (Nat.not_le.2 hlt)]
  · refine (State.handleWord_of_near (op := .waitFree) (release := false) hdecl hloc (Nat.ne_of_gt (Nat.zero_lt_of_lt hlt)) fun _ => hle).trans ?_
    rw [Handle.act, if_neg (Nat.not_le.2 hlt)]
  · exact ⟨State.handleWord_of_refused (.inr ⟨rfl, hlt⟩), State.handleWord_of_refused (.inr ⟨rfl, hlt⟩)⟩
  · refine (State.handleWord_of_near (op := .pop) (bounded := false) (release := false) hdecl hloc hn nofun).trans ?_
    by_cases hle : n ≤ x.f
    · rw [Handle.act, if_neg (Nat.not_lt.2 hle), if_pos hle]
    · rw [Handle.act, if_pos (Nat.not_le.1 hle), if_neg hle]
  · refine (State.handleWord_of_near (op := .push) (bounded := false) (release := true) hdecl hloc hn nofun).trans ?_
    by_cases hle : n ≤ x.slots - x.f
    · rw [Handle.act, if_neg (Nat.not_lt.2 hle), if_pos hle]
    · rw [Handle.act, if_pos (Nat.not_le.1 hle), if_neg hle]
  · refine (execHget_of_near hloc).trans ?_
    rw [Handle.word, if_pos hdecl]
  · obtain ⟨op, bounded, release, hexec⟩ := exec_handle hi s
    rw [hexec, State.handleWord_of_far hdecl hloc hw hn hslots]
  · obtain ⟨op, bounded, release, hexec⟩ := exec_handle hi s
    rw [hexec, State.handleWord_of_refused (.inl hdecl)]

/-! ### cop and cop.r (R175) -/

theorem msgNfp_msgWord0 (opc nop tag : Nat) : msgNfp (msgWord0 opc 0 nop tag) = 0 := by
  simp only [msgNfp, msgWord0, BitVec.toNat_ofNat]
  omega

/-- The message of a region without a card. -/
def State.plainMsg (s : State) (p : Nat) (c : EngClass) (words : List DWord) (latch : Option Nat) : EngMsg :=
  { cls := c, words := words, p := p, die := dieOfPlace p, asid := (s.region p).asid, sys := (s.region p).sys, clk := (s.region p).lclk,
    latch := latch, wid := (s.region p).wid, foots := s.cardFoots p words, carded := false, hold := none, pools := [] }

theorem State.postEngine_of_plain (s : State) (p : Nat) (src : Option Nat) (c : EngClass) (words : List DWord) (latch : Option Nat)
    (hcard : msgNfp (words.headD 0) = 0) :
    s.postEngine p src c words latch = s.post (keyEngine p) (.engine (s.plainMsg p c words latch)) := by
  simp only [State.postEngine, hcard, ne_eq, not_true_eq_false, false_and, if_false]
  rfl
theorem State.copWords_plain (s : State) (ra rb : Reg) (op : BitVec 4) : msgNfp ((s.copWords ra rb op).headD 0) = 0 := by
  rw [State.copWords, List.headD_cons, msgNfp_msgWord0]

/-- A message without a card is posted and holds nothing. -/
theorem State.postEngine_of_cop (s : State) (ra rb : Reg) (c : EngClass) (op : BitVec 4) (src latch : Option Nat) :
    s.postEngine s.cur.1 src c (s.copWords ra rb op) latch =
      s.post (keyEngine s.cur.1) (.engine (s.plainMsg s.cur.1 c (s.copWords ra rb op) latch)) :=
  State.postEngine_of_plain s s.cur.1 src c _ latch (State.copWords_plain s ra rb op)

section
variable {s : State} {rd ra rb : Reg} {cls : EngClass} {op : BitVec 4}

theorem execCop_of_room (hroom : s.inboxRoom s.cur.1 cls = true) :
    execCop ra rb cls op s = (s.postEngine s.cur.1 (keyHold s.cur.1) cls (s.copWords ra rb op) none).complete
      (s.postEngine s.cur.1 (keyHold s.cur.1) cls (s.copWords ra rb op) none).mine := by
  simp only [execCop, hroom, Bool.not_true, Bool.false_eq_true, if_false]

theorem execCopR_of_room (hw : s.waitOf = .none) (hroom : s.inboxRoom s.cur.1 cls = true) :
    execCopR rd ra rb cls op s =
      ((s.postEngine s.cur.1 (keyHold s.cur.1) cls (s.copWords ra rb op) (some s.cur.2)).setWait .posted).stall := by
  simp only [execCopR, hw, hroom, Bool.not_true, Bool.false_eq_true, if_false]

theorem execCopR_of_answered {v clk : DWord} {f : Flags} (hw : s.waitOf = .answered v clk f) :
    execCopR rd ra rb cls op s = s.complete
      { (s.mine.set rd v).setHandler s.cur.2 { (s.mine.set rd v).handler s.cur.2 with latch := none } with
        lclk := maxClk (s.mine.set rd v).lclk clk } := by
  simp only [execCopR, hw]

end

theorem State.setWait_waitOf (s : State) (w : Wait) : (s.setWait w).waitOf = w := by
  rw [State.waitOf, show (s.setWait w).mine = _ from State.mine_setRegion _ _]
  exact congrArg Handler.wait (Region.setHandler_handler _ _ _)

/-- Settles O25: the message is the one that `postEngine` makes of four words without a card. -/
theorem messageWords : Obligations.MessageWords := by
  unfold Obligations.MessageWords
  intro s rd ra rb cls op v clk f p r words msg
  refine ⟨fun hroom => ⟨?_, fun hw => ?_⟩, fun hw => ?_⟩
  · have hexec : exec (.cop ra rb cls op) s = _ := execCop_of_room (ra := ra) (rb := rb) (op := op) hroom
    rw [State.postEngine_of_cop] at hexec
    refine ⟨_, s.plainMsg p cls words none, hexec.trans rfl, rfl, rfl, ⟨rfl, rfl, rfl, rfl, rfl, rfl⟩, rfl, ?_, ?_⟩
    · rw [State.mine_setRegion]
      rfl
    · rw [State.mine_setRegion]
      exact congrArg Handler.ia (Region.advance_handler _ _)
  · have hexec : exec (.copR rd ra rb cls op) s = _ := execCopR_of_room (rd := rd) (ra := ra) (rb := rb) (op := op) hw hroom
    rw [State.postEngine_of_cop] at hexec
    exact ⟨_, s.plainMsg p cls words (some s.cur.2), hexec.trans rfl, rfl, rfl, ⟨rfl, rfl, rfl, rfl, rfl, rfl⟩, State.setWait_waitOf _ _, rfl⟩
  · refine ⟨_, (execCopR_of_answered hw).trans rfl, ?_⟩
    rw [State.mine_setRegion]
    refine ⟨rfl, ?_, ?_, ?_, rfl⟩
    · exact congrArg (maxClk · clk) (Region.set_lclk s.mine rd v)
    · rw [Region.advance_handler]
      exact congrArg Handler.latch (Region.setHandler_handler _ _ _)
    · rw [Region.advance_handler]
      refine (congrArg (Handler.ia · + 4) (Region.setHandler_handler _ _ _)).trans ?_
      change ((s.mine.set rd v).handler s.cur.2).ia + 4 = (s.mine.handler s.cur.2).ia + 4
      rw [Region.handler_congr (Region.set_handlers s.mine rd v)]

end Sys2Proof.Machine

namespace Sys2Proof.Machine

/-! ### issue posts the holder of a binding queued before (R125, R162) -/

/-- A binding of handle 0 at port 0 with footprint 0. -/
def footedBinding : Instr :=
  .bindr { h := 0, port := 0, slots := 0, fv := true, foot := 0, gate := .none, ends := false, desc := 0, base := 0 }

/-- That binding in the command queue, its holder not posted. -/
def footedCmd : QueuedCmd :=
  { bits := BitVec.ofNat 128 ((encodeStream footedBinding).getD 0), tmpl := 0, step := 1, lclk := 0, ctx := 0, hold := none }

/-- A template of an mswap. -/
def footedTemplate : Template := { cmd := BitVec.ofNat 128 (0x31 * 2 ^ 120), alsb := 0, awid := 0, blsb := 0, bwid := 0 }

/-- An image with one template, an mswap, and one footprint. -/
def footedImage : Image :=
  { asid := 5, spanW := 1, spanH := 1, entry := 0, steps := [], code := [], handlers := [],
    tmpls := [footedTemplate], pools := [], handles := [], gauges := [],
    foots := [(0, { base := 0, len := 64, acc := 1 })], cpoolVa := 0, cpoolLen := 0 }

/-- A machine whose region has the binding in its command queue. -/
def footedState : State :=
  { State.reset with
    images := [(1, footedImage)], regions := [(0, { Region.free with mode := .running, image := 1, asid := 5, cmdQ := [footedCmd] })] }

/-- Whether the command at the head of the queue has its holder, after a word. -/
def headHeld (o : Out) : Option Bool :=
  match o with
  | .next t => t.mine.cmdQ.head?.map (·.hold.isSome)
  | _ => none

theorem headHeld_issue : headHeld (exec (.issue 0 0 0) footedState) = some true := by decide

theorem decodeStream_mswap : decodeStream (0x31 * 2 ^ 120) = .ok .mswap := (decodeStream_of_encodeStream rfl rfl).2

/-- Refutes O26: where a binding with a footprint stands in the queue and its holder has not been posted, the issue of `mswap` places the
command and posts that holder (`State.postQueued`), so the entry before it changes. -/
theorem not_issueWord : ¬ Obligations.IssueWord := by
  unfold Obligations.IssueWord
  intro h
  obtain ⟨hplaces, -⟩ := h footedState 0 0 0 footedImage footedTemplate (0x31 * 2 ^ 120) .mswap footedState 0 (by rfl)
  obtain ⟨hqueued, -⟩ := hplaces (by rfl) (by decide) decodeStream_mswap (by decide) (by decide) (by decide) (by decide)
  obtain ⟨t, q, hexec, hcmdQ, -⟩ := hqueued nofun
  have hheld : headHeld (exec (.issue 0 0 0) footedState) = some false := by
    rw [hexec, headHeld, hcmdQ]
    rfl
  exact absurd (headHeld_issue.symm.trans hheld) (by decide)

end Sys2Proof.Machine

end

section
/-! SUPPORT and PROOF of O42 and O43. Words that enter a channel, and arrivals at a barrier (R170, R171, R291, R293). -/
namespace Sys2Proof.Machine

/-! ### A channel whose places are kept for other packages (R168; log entry 63) -/

/-- A channel without a word, all of whose places are kept. -/
def keptChannel : Channel := { owner := some 5, words := [], sub := none, kept := 32 }

/-- A machine in which a word of this package waits for that channel. -/
def keptState : State :=
  { State.reset with
    dies := [(0, { Die.reset with chans := [(0, keptChannel)] })], net := [{ src := none, body := .chanWord 0 0 0 0 7 9 5 }] }

/-- The words of channel 0 of die 0 that an event leaves. -/
def wordsLeft (o : Out) : Option Nat :=
  match o with
  | .next t => some ((t.die 0).chan 0).words.length
  | _ => none

theorem wordsLeft_channelWordEnter : wordsLeft (exec (.channelWordEnter 0) keptState) = some 0 := by decide

/-- Refutes O42: a word does not enter a channel that has fewer than 32 words when its other places are kept for words of other
packages, since `State.channelHasRoom` counts those too. -/
theorem not_homeActions : ¬ Obligations.HomeActions := by
  unfold Obligations.HomeActions
  intro h
  obtain ⟨-, -, -, -, -, -, -, -, -, -, henters⟩ := h keptState 0 0 0 0 0 0 0 0 0 (.stream 0) .read false 0 7 9 0 0 none 5
  obtain ⟨t, hexec, hwords, -⟩ := henters (by decide) (by decide) (by decide) (by decide)
  have hleft : wordsLeft (exec (.channelWordEnter 0) keptState) = some 1 := by
    rw [hexec, wordsLeft, hwords]
    decide
  exact absurd (wordsLeft_channelWordEnter.symm.trans hleft) (by decide)

/-! ### Arrivals at a barrier (R171) -/

theorem Memory.readLE_lt (n : Nat) : ∀ (m : List Host.Cell) (a : Nat), Memory.readLE m a n < 256 ^ n := by
  induction n with
  | zero => exact fun _ _ => Nat.one_pos
  | succ n ih =>
    intro m a
    have hbyte := (Memory.read m a).isLt
    have hrest := ih m (a + 1)
    rw [Memory.readLE, Nat.pow_succ]
    omega

/-- The fields of a barrier word. -/
theorem barrier_word (w : Nat) (h : w < 2 ^ 64) : w = barPhase w * 2 ^ 32 + barParties w * 2 ^ 16 + barArrived w := by
  simp only [barPhase, barParties, barArrived]
  omega

/-- The low half of a barrier after one more arrival. -/
def barrierNext (w : Nat) : Nat :=
  if barArrived w + 1 = barParties w then barParties w * 2 ^ 16 + (barPhase w + 1) % 2 ^ 32 * 2 ^ 32 else w + 1

theorem State.arriveAtHome_of_room {s : State} {who : Asker} {pa : Nat} {clk : DWord}
    (hclean : ((s.markHome (lineOf pa)).homeTake pa 8 clk).2.2.1 = false)
    (hroom : barArrived ((s.markHome (lineOf pa)).homeTake pa 8 clk).1 < barParties ((s.markHome (lineOf pa)).homeTake pa 8 clk).1) :
    let took := (s.markHome (lineOf pa)).homeTake pa 8 clk
    let hi := Memory.readLE took.2.2.2.mem (pa + 8) 8
    let put := took.2.2.2.homeWrite pa 16 (barrierNext took.1 + (if hi < clk.toNat then clk.toNat else hi) * 2 ^ 64) took.2.1
    s.arriveAtHome who pa clk = put.2.post none (.atomicReply who (BitVec.ofNat 64 (barPhase took.1)) put.1 0 none) := by
  have hparties : ¬ (barParties ((s.markHome (lineOf pa)).homeTake pa 8 clk).1 = 0 ∨
      barParties ((s.markHome (lineOf pa)).homeTake pa 8 clk).1 ≤ barArrived ((s.markHome (lineOf pa)).homeTake pa 8 clk).1) := by omega
  simp only [State.arriveAtHome, hclean, if_neg hparties, Bool.false_eq_true, if_false]
  rfl

theorem State.arriveAtHome_of_full {s : State} {who : Asker} {pa : Nat} {clk : DWord}
    (hclean : ((s.markHome (lineOf pa)).homeTake pa 8 clk).2.2.1 = false)
    (hfull : barParties ((s.markHome (lineOf pa)).homeTake pa 8 clk).1 = 0 ∨
      barParties ((s.markHome (lineOf pa)).homeTake pa 8 clk).1 ≤ barArrived ((s.markHome (lineOf pa)).homeTake pa 8 clk).1) :
    s.arriveAtHome who pa clk =
      ((s.markHome (lineOf pa)).homeTake pa 8 clk).2.2.2.post none (.atomicReply who 0 clk 0 (some Cause.barrier.code)) := by
  simp only [State.arriveAtHome, hclean, if_pos hfull, Bool.false_eq_true, if_false]

theorem State.homeTake_value (s : State) (pa n : Nat) (clk : DWord) :
    (s.homeTake pa n clk).1 = Memory.readLE (s.homeTake pa n clk).2.2.2.mem pa n := rfl

/-- Settles O43: the arrival writes the barrier's next word at its home and answers with the phase before it. -/
theorem barrierArrivals : Obligations.BarrierArrivals := by
  unfold Obligations.BarrierArrivals
  intro s pa who clk took s1 lo n k ph hi hclean
  have hlo : took.1 = lo := State.homeTake_value _ _ _ _
  have hn : barArrived took.1 = n := by rw [hlo]; rfl
  have hk : barParties took.1 = k := by rw [hlo]; rfl
  have hph : barPhase took.1 = ph := by rw [hlo]; rfl
  refine ⟨fun hroom => ?_, fun hfull => ?_⟩
  · rw [← hn, ← hk] at hroom
    have hword := barrier_word took.1 (by rw [hlo]; exact Memory.readLE_lt 8 _ _)
    obtain ⟨put, hput⟩ : ∃ put, put = s1.homeWrite pa 16 (barrierNext took.1 + (if hi < clk.toNat then clk.toNat else hi) * 2 ^ 64) took.2.1 :=
      ⟨_, rfl⟩
    have harrive : s.arriveAtHome who pa clk = put.2.post none (.atomicReply who (BitVec.ofNat 64 ph) put.1 0 none) := by
      rw [hput, ← hph]
      exact State.arriveAtHome_of_room hclean hroom
    have hmem : put.2.mem = Memory.writeLE (s1.recallNow (pa / 64) true).mem pa 16
        (barrierNext took.1 + (if hi < clk.toNat then clk.toNat else hi) * 2 ^ 64) := by
      rw [hput]
      exact State.homeWrite_mem s1 pa 16 _ _
    refine ⟨_, barrierNext took.1, harrive, hmem, ?_, put.1, List.getLast?_concat⟩
    rw [barrierNext, hn, hk, hph]
    rw [hn, hk, hph] at hword
    split <;> omega
  · rw [← hn, ← hk] at hfull
    exact State.arriveAtHome_of_full hclean hfull

end Sys2Proof.Machine
end

section
/-! SUPPORT and PROOF of O34. Nodes of a chunk graph that move element by element, and signal nodes (R100, R410 to R414). -/
namespace Sys2Proof.Machine

/-! ### What each kind of node does, where it acts -/

section
variable {s : State} {r n : Nat} {z : Replay} {g : Graph} {nd : ChunkNode} {st : NodeState}

theorem execRed_of_red {rop : Nat} (hstep : ∀ f, s.nodeStep r n f = .next (f (z.atNode n) g nd st)) (hop : nd.op = .red rop) :
    execRed r n s = .next (s.elemStep r n (z.atNode n) g nd st.elem (if rop = 2 then 2 else 1) (if rop = 2 then 2 else 1) true (redApply rop)) := by
  rw [execRed, hstep]
  simp only [hop]

theorem execRedc_of_redc (hstep : ∀ f, s.nodeStep r n f = .next (f (z.atNode n) g nd st)) (hop : nd.op = .redc) :
    execRedc r n s = .next (s.elemStep r n (z.atNode n) g nd st.elem (if ((z.atNode n).entry nd.src).pair then 2 else 1) 2 true fun b a =>
      (pairWords (pairAdd (pairFrom b) (pairFrom a)).1, (pairAdd (pairFrom b) (pairFrom a)).2)) := by
  rw [execRedc, hstep]
  simp only [hop]

theorem execChunkCopy_of_copy (hstep : ∀ f, s.nodeStep r n f = .next (f (z.atNode n) g nd st)) (hop : nd.op = .copy) :
    let x := z.atNode n
    let src := x.entry nd.src
    let dst := x.entry nd.dst
    execChunkCopy r n s = .next (
      if dst.space = 2 then s.copyToPool r n x g nd st.elem
      else if src.pair = dst.pair then s.elemStep r n x g nd st.elem 1 1 false fun _ a => (a, 0)
      else if dst.pair then s.elemStep r n x g nd st.elem 1 2 false fun _ a => (a ++ [0], 0)
      else s.elemStep r n x g nd st.elem 2 1 false fun _ a =>
        ([(fAdd fmtF32 .rne .ieee (a.getD 0 0) (a.getD 1 0)).1], (fAdd fmtF32 .rne .ieee (a.getD 0 0) (a.getD 1 0)).2)) := by
  rw [execChunkCopy, hstep]
  simp only [hop, beq_iff_eq]

theorem execSignal_of_signal {pa : Nat} (hstep : ∀ f, s.nodeStep r n f = .next (f (z.atNode n) g nd st)) (hop : nd.op = .signal)
    (hcovers : (z.atNode n).job.msg.covers ((z.atNode n).entry nd.dst).addr 8 true = true)
    (hat : (s.engAt (z.atNode n).job.msg.die (z.atNode n).job.msg.asid ((z.atNode n).entry nd.dst).addr .write).1 = .at pa false)
    (hhost : hostBit pa = false) (helse : s.elsewhere pa = false) :
    let x := z.atNode n
    let acted := (s.engAt x.job.msg.die x.job.msg.asid (x.entry nd.dst).addr .write).2.syncAct x.job.msg.p (x.entry nd.dst).addr pa
      ((x.entry nd.src).len / 4) 0 x.job.clk
    acted.1 = none → execSignal r n s = .next (acted.2.goNode r x n .isOver x.job.clk) := by
  intro x acted hacted
  have helse1 : (s.engAt x.job.msg.die x.job.msg.asid (x.entry nd.dst).addr .write).2.elsewhere pa = false := by
    rw [State.elsewhere, State.engAt_well]
    exact helse
  have hpage : s.engAt x.job.msg.die x.job.msg.asid (x.entry nd.dst).addr .write =
      (.at pa false, (s.engAt x.job.msg.die x.job.msg.asid (x.entry nd.dst).addr .write).2) := Prod.ext hat rfl
  have hdone : acted = (none, acted.2) := Prod.ext hacted rfl
  rw [execSignal, hstep]
  simp only [hop, hcovers, Bool.not_true, Bool.false_eq_true, if_false]
  rw [show s.engAt (z.atNode n).job.msg.die (z.atNode n).job.msg.asid ((z.atNode n).entry nd.dst).addr .write = _ from hpage]
  simp only [hhost, helse1, Bool.or_self, Bool.false_eq_true, if_false]
  rw [show State.syncAct _ _ _ _ _ _ _ = _ from hdone]

end

/-- Settles O34: the node acts, and its kind says what on. -/
theorem elementNodes : Obligations.ElementNodes := by
  unfold Obligations.ElementNodes
  intro s r n rop pa x z g nd st src dst k hz hx hout hg hnd hst hcause hreply hruns
  subst hx
  have hacts : st.acts = true := by
    rcases hruns with rfl | ⟨m, rfl⟩ <;> rfl
  have hstep (f : Replay → Graph → ChunkNode → NodeState → State) : s.nodeStep r n f = .next (f (z.atNode n) g nd st) :=
    State.nodeStep_of_acting hz hout hg hnd hst hcause hreply hacts f
  exact ⟨execRed_of_red hstep, execRedc_of_redc hstep, execChunkCopy_of_copy hstep, execSignal_of_signal hstep⟩

end Sys2Proof.Machine
end

section
/-! SUPPORT and PROOF of O54. Timers, waits and rescale events, and the ways by which a draining region is released (R139, R173, R174,
R351, R435 to R439). -/
namespace Sys2Proof.Machine

/-! ### Events of the sequencer (R139, R173, R174, R351) -/

section
variable {s : State} {m p k id : Nat}

/-- The tide in nanoseconds has reached a value. -/
theorem State.tideNow_toNat (s : State) : s.tideNow.toNat = s.tide / 8000 % 2 ^ 64 := BitVec.toNat_ofNat _ _

theorem execTimerExpiry_of_due (htimer : (s.region p).timer ≠ 0) (hdue : (s.region p).timer.toNat ≤ s.tideNow.toNat)
    (hlive : (s.region p).modeUnder.live = true) :
    execTimerExpiry p s = .next (s.setRegion p { s.region p with timer := 0, timerEv := true, ev := true }) := by
  have hcond : ((s.region p).timer != 0 && decide ((s.region p).timer.toNat ≤ s.tideNow.toNat) && (s.region p).modeUnder.live) = true := by
    rw [bne_iff_ne.2 htimer, decide_eq_true hdue, hlive]
    rfl
  simp only [execTimerExpiry, Region.latchTimer, hcond, if_true]

theorem execWaittExpiry_of_due {w : Word} {ra : Reg} (hactive : ((s.region p).handler k).st = .active)
    (hfetch : s.fetch p k ((s.region p).handler k).ia = some w) (hword : decodeConduct w.toNat = .ok (.waitt ra))
    (hdue : ((s.region p).get ra).toNat ≤ s.tideNow.toNat) :
    execWaittExpiry p k s = .next { s with agenda := .issue p :: s.agenda } := by
  simp only [execWaittExpiry, hactive, hfetch, hword, decide_eq_true hdue, beq_self_eq_true, Bool.and_self, if_true]

section
variable (hready : s.ready m = some (.rescale p id)) (hmode : (s.region p).mode ≠ .free)
include hready hmode

theorem execRescaleEventArrive_of_handler (hdecl : ((s.region p).handler 2).decl = true) : execRescaleEventArrive m s =
    .next ((s.unpost m).setRegion p { s.region p with rescale := true, ev := (s.region p).ev || !(s.region p).rescale }) := by
  simp only [execRescaleEventArrive, hready, State.unpost_region, beq_eq_false_iff_ne.2 hmode, hdecl, Bool.false_eq_true, if_false, if_true]

theorem execRescaleEventArrive_of_none (hdecl : ((s.region p).handler 2).decl = false) : execRescaleEventArrive m s =
    .next (if (s.region p).faults.any fun w => faultField w 56 8 == Cause.rescale.code && faultField w 96 32 == id % 2 ^ 32 then s.unpost m
      else (s.unpost m).weirFault p (id / 2 ^ 16) 0 .rescale id) := by
  simp only [execRescaleEventArrive, hready, State.unpost_region, beq_eq_false_iff_ne.2 hmode, hdecl, Bool.false_eq_true, if_false]
  exact (apply_ite Host.Outcome.next _ _ _).symm

end

end

/-! ### The release of a region (R435, R436, R439) -/

section
variable {s : State} {p : Nat}

theorem execRetireClear_of_drained (hmode : (s.region p).mode = .draining) (hstage : (s.region p).stage = 2) (hdrained : s.drained p = true) :
    execRetireClear p s = .next (s.clearRegion p) := by
  simp only [execRetireClear, hmode, hstage, hdrained, bne_self_eq_false, Bool.false_eq_true, if_false, if_true]

theorem execRetireClear_of_cleared (hmode : (s.region p).mode = .draining) (hstage : (s.region p).stage ≠ 2) (hwb : (s.region p).wbOut = 0)
    (hflight : s.inFlight p = false) (htrains : s.trainsHeld p = false) : execRetireClear p s =
      .next (if (s.heldAway p).isEmpty && (s.toSettle p).isEmpty then s.retire p else s.askReleases p) := by
  simp only [execRetireClear, hmode, hstage, hwb, hflight, htrains, bne_self_eq_false, Bool.false_eq_true, if_false, decide_true, Bool.not_false,
    Bool.and_self, if_true]

theorem execForcedClear_of_late (hmode : (s.region p).mode = .draining) (hstage : (s.region p).stage = 2)
    (hretTo : (s.die (dieOfPlace p)).retTo ≠ 0) (hlate : (s.region p).doneAt + micros (s.die (dieOfPlace p)).retTo.toNat ≤ s.tide) :
    execForcedClear p s = .next ((((s.setDie (dieOfPlace p) { s.die (dieOfPlace p) with fclr := (s.die (dieOfPlace p)).fclr + 1 }).dropElements
      p).unitEnds p).clearRegion p) := by
  simp only [execForcedClear, hmode, hstage, bne_iff_ne.2 hretTo, decide_eq_true hlate, beq_self_eq_true, Bool.and_self, if_true]

theorem execSuccessorStart_of_chained {i : Instance} {l : Launch} (hmode : (s.region p).mode = .retired)
    (hinst : Tbl.find (s.die (dieOfPlace p)).insts (s.region p).inst = some i) (hall : i.places.length ≤ i.retired.length)
    (hpreempt : ((s.die (dieOfPlace p)).preempt.map (·.inst)) ≠ some (s.region p).inst)
    (hlaunch : Tbl.find (s.die (dieOfPlace p)).launches i.launch = some l) (hover : l.isOver = false) (hchain : l.chain.contains i.index = true)
    (hinherit : (i.places.any fun q => s.inheritWaits q) = false) :
    execSuccessorStart p s = .next (((s.setDie (dieOfPlace p) { s.die (dieOfPlace p) with
        insts := Tbl.drop (s.die (dieOfPlace p)).insts (s.region p).inst,
        launches := Tbl.put (s.die (dieOfPlace p)).launches i.launch { l with chain := l.chain.filter (· != i.index) } }).dropAttach
          (dieOfPlace p) (s.region p).inst).placeAt (dieOfPlace p) i.launch i.index (i.places.headD 0 % 64) (i.places.map (· % 64))) := by
  simp only [execSuccessorStart, hmode, hinst, hlaunch, hover, hchain, hinherit, decide_eq_false (Nat.not_lt.2 hall), beq_eq_false_iff_ne.2 hpreempt,
    bne_self_eq_false, Bool.or_self, Bool.not_true, Bool.false_eq_true, if_false]

end

/-- Settles O54: each event where its condition holds. -/
theorem sequencerAndRetiring : Obligations.SequencerAndRetiring := by
  unfold Obligations.SequencerAndRetiring
  refine ⟨?_, ?_⟩
  · intro s m p k id w ra r
    simp only [← State.tideNow_toNat]
    exact ⟨execTimerExpiry_of_due, execWaittExpiry_of_due,
      fun hready hmode => ⟨execRescaleEventArrive_of_handler hready hmode, execRescaleEventArrive_of_none hready hmode⟩⟩
  · intro s p i l d r x
    exact ⟨execRetireClear_of_drained, execRetireClear_of_cleared, execForcedClear_of_late, execSuccessorStart_of_chained⟩

end Sys2Proof.Machine
end

section
/-! SUPPORT and PROOF of O1. A word that faults is an issue all the same: the waits of the other handlers are evaluated again (R135). -/
namespace Sys2Proof.Machine

/-- A handler that is active. -/
def activeHandler (off : Nat) (w : Wait) : Handler :=
  { Handler.undeclared with decl := true, off := off, hen := true, st := .active, wait := w }

/-- An image whose step 0 has no word for handler 0, and a waitv for handler 1. -/
def waitvImage : Image :=
  { asid := 5, spanW := 1, spanH := 1, entry := 0, steps := [], code := [BitVec.ofNat 32 ((encodeConduct (.waitv 1 2 3)).getD 0)], handlers := [],
    tmpls := [], pools := [], handles := [], gauges := [], foots := [], cpoolVa := 0, cpoolLen := 0 }

/-- A machine whose handler 0 stands outside its code while handler 1 waits for the answer to its waitv, about to issue. -/
def waitvState : State :=
  { State.reset with
    images := [(1, waitvImage)],
    regions := [(0, { Region.free with
      mode := .running, image := 1, asid := 5, handlers := [(0, activeHandler 0 .none), (1, activeHandler 0 .posted)] })],
    boot := { stage := 7, warm := false, fail := 0, st := 1 }, agenda := [.issue 0] }

/-- Whether handler 1 of region 0 still waits after a step. -/
def stillWaits (o : Host.Outcome State Fault Refusal) : Option Bool :=
  match o with
  | .next t => some (((t.region 0).handler 1).wait == .posted)
  | _ => none

theorem stillWaits_step : stillWaits (step waitvState) = some false := by decide

/-- The state in which handler 0 of that machine is current. -/
def waitvAt : State := { waitvState with agenda := [], cur := (0, 0), stalled := false }

theorem stillWaits_fault : stillWaits (waitvState.walked 2 (.next (waitvAt.takeFault .fetchBound 0 0 0))) = some true := by decide

/-- A command, named by no clause that the refutation uses. -/
def idleCmd : QueuedCmd := { bits := 0, tmpl := 0, step := 1, lclk := 0, ctx := 0, hold := none }

/-- Refutes O1: after the fetch-bound fault of handler 0, `State.issueAt` displaces the waits of the other handlers, so handler 1 of
`waitvState` no longer waits at its waitv, where the bare fault leaves it waiting. -/
theorem not_stepRunsDecoded : ¬ Obligations.StepRunsDecoded := by
  unfold Obligations.StepRunsDecoded
  intro h
  obtain ⟨hissue, -⟩ := h waitvState 0 0 [] [1] 0 .nop waitvState idleCmd .reservedPrimary
  obtain ⟨-, -, -, hpast⟩ := hissue (by rfl) (by decide) (by decide) (by decide) (by decide) (by decide) (by decide) (by decide) (by decide)
  have hstep : step waitvState = waitvState.walked 2 (.next (waitvAt.takeFault .fetchBound 0 0 0)) := hpast (by decide)
  exact absurd (stillWaits_step.symm.trans ((congrArg stillWaits hstep).trans stillWaits_fault)) (by decide)

end Sys2Proof.Machine
end
